-- ==== Sys2Proof/Word.lean ====
section
/-! DEFINITION. The word types of the OBV-720 (spec/00_scope.md R9: little-endian, bit 0 least significant). -/
namespace Sys2Proof

/-- One byte. -/
abbrev Byte := BitVec 8
/-- A 32-bit word: FP32 bit patterns, stored 32-bit fields. -/
abbrev W32 := BitVec 32
/-- A 64-bit word: a register of a page (R41), a general register of a control core (R72). -/
abbrev W64 := BitVec 64

end Sys2Proof
end

