-- ==== Sys2Proof/Syntax.lean ====
section
/-! DEFINITION. The commands and events of the OBV-720, one constructor per row of spec/opcode_table.json, with the
operand types they carry. Operands that stand for data the device reads from outside (host memory, a received frame)
or for a physical outcome (an ECC result, a check failure) are part of the event. -/
namespace Sys2Proof

/-- Integer operations of the control core (R73, Table 3-2). The manual names the operations; their function codes are
not given, so a decoded operation is the operand. -/
inductive IntOp where
  | add | sub | and | or | xor | shl | shr | sar | setEq | setNe | setLt | setLtu | mul | div | divu | rem | remu
deriving DecidableEq, Repr

/-- Immediate-form operations: the same, and load-upper-immediate (R73). -/
inductive IntOpI where
  | op (o : IntOp) | lui
deriving DecidableEq, Repr

/-- Compare-and-branch conditions (R73). -/
inductive Cond where
  | eq | ne | lt | ge | ltu | geu
deriving DecidableEq, Repr

/-- Kind of an atomic minimum or maximum (Table 11-3). -/
inductive MmKind where
  | s32 | s64 | u32 | u64 | f32
deriving DecidableEq, Repr

/-- What an ECC check found at an address that a scrub or read visited (R79, R327, R328, R337). -/
inductive Ecc where
  | clean | corrected | uncorrectable
deriving DecidableEq, Repr

/-- What the check codes of the device's memories show while an engine works (R77, R79, R107, R327, R337): addresses of
words with an error that the code corrects, and of words that no codeword matches any longer. -/
structure Decay where
  soft : List Nat
  lost : List Nat
deriving DecidableEq, Repr

/-- A row check that fails in hardware (R117 to R120): in pass `pass`, at row `row` of that pass, the first `fails`
computations fail (1: R118 recomputes it; 2: R119; 3: R120), with D ÷ bound as MXA_CHECK_LOG shows it. -/
structure CheckFault where
  pass : Nat
  row : Nat
  fails : Nat
  excess : Nat
deriving DecidableEq, Repr

/-- A packet of the gradient exchange (Table 10-3), header fields and payload bytes. -/
structure GxePkt where
  bs1 : Bool
  blocks : Nat
  job : Nat
  bucket : Nat
  src : Nat
  shard : Nat
  stepLo : Nat
  chunk : Nat
  nonfinite : Nat
  check : Nat
  payload : List Byte
deriving DecidableEq, Repr

/-- An 8-byte word of a frame as a physical lane of a receive way delivers it, and how many symbol errors the codeword
that carried it had; the code has corrected them where it can (R356, R357). -/
structure LaneWord where
  lane : Nat
  bytes : List Byte
  errors : Nat
deriving DecidableEq, Repr

/-- What the receiver of a lane sees of it (R373): the symbol errors of the codewords that have just arrived, or the loss of
lock, or of the light of its fibre. -/
inductive LaneReport where
  | codewords (errors : List Nat)
  | noLock
  | noLight
deriving DecidableEq, Repr

/-- The comparer's report for one comparison (R276). -/
inductive DigReport where
  | agreed
  | repaired (fixes : List (Nat × Nat × Nat))
  | split (firstGroup distinct reported groups : Nat)
deriving DecidableEq, Repr

/-- A request from another package to write its data here (R399), with the REQ_EPOCH of its frames (R382). -/
structure PutReq where
  src : Nat
  job : Nat
  dst : Nat
  data : List Byte
  post : Bool
  core : Nat
  ctx : Nat
  ctr : Nat
  reqEpoch : Nat
deriving DecidableEq, Repr

/-- What start-up finds (R331, R344, R455, R486, R524): strap values, failed stack channels, bridge lanes that fail their
test (bundle as DTD_GOOD numbers it, lane 0 to 67), GDDR7 ports that fail training, and the flash image. -/
structure StartUp where
  strapCoord : Nat
  strapLen : Nat
  strapWake : Nat
  badChannels : List Nat
  badLanes : List (Nat × Nat)
  failedPorts : List Nat
  flashAnswers : Bool
  image : List Byte
deriving DecidableEq, Repr, Inhabited

/-- The freed memory whose zeroing ends (R413). -/
inductive Freed where
  | unit (region u : Nat)
  | slow (gib : Nat)
  | coreWin (core : Nat)
  | regionClu (region : Nat)
deriving DecidableEq, Repr

/-- What the background zeroing after thaw finished (R438). -/
inductive ThawPart where
  | unit (region u : Nat)
  | slowTier
deriving DecidableEq, Repr

/-- How a GDDR7 transfer ends after a CRC error (R346). -/
inductive CrcEnd where
  | retryOk (tries : Nat)
  | retrainOk
  | retrainFail
  | eccCorrected (addr : Nat)
  | eccUncorrectable (addr : Nat)
deriving DecidableEq, Repr

/-- Which ring of a host queue could not be reached (R50): the queue, and whether it was the completion ring. -/
structure RingOf where
  queue : Nat
  completion : Bool
deriving DecidableEq, Repr

/-- The engine that takes up a command, and the memory errors its operands meet. -/
structure EngineStart where
  eng : Nat
  met : Decay
deriving DecidableEq, Repr

/-- A write of CXL_MEM_BASE (R325): its value, and whether the host has committed the HDM decoder before it. -/
structure BaseWrite where
  val : W64
  committed : Bool
deriving DecidableEq, Repr

/-- What a lane of a way shows the squall detector (R373). -/
structure LaneSeen where
  lane : Nat
  report : LaneReport
deriving DecidableEq, Repr

/-- The way that a bring-up or RETRAIN trained, and whether it passed (R376). -/
structure WayTrained where
  way : Nat
  ok : Bool
deriving DecidableEq, Repr

/-- A lane of a bundle of a bridge (R463). -/
structure BundleLane where
  bundle : Nat
  lane : Nat
deriving DecidableEq, Repr

/-- The group asked for in a repair and the replica that asks (R277). -/
structure RepairAsk where
  group : Nat
  dst : Nat
deriving DecidableEq, Repr

/-- The commands and events of the block: one constructor per row of the table. -/
inductive Instr where
  | registerWrite (fn bar off len : Nat) (val : W64)
  | errStatusClear (fn page : Nat) (ones : W64)
  | jobQueueRangeWrite (fn f : Nat) (val : W64)
  | jobEvtHeadWrite (fn f : Nat) (val : W64)
  | queueEnable (fn q : Nat)
  | queueDisable (fn q : Nat)
  | qreset (fn q : Nat)
  | queueDrainDone (q : Nat)
  | doorbellSqTail (fn slot : Nat) (val : W64)
  | doorbellCqHead (fn slot : Nat) (val : W64)
  | commandDispatch (q : Nat) (bytes : List Byte)
  | ringAccessFailed (q : RingOf)
  | coalTimeExpiry (q : Nat)
  | engineCommandStart (eng : EngineStart)
  | engineCommandComplete (eng id : Nat)
  | loadImem (core : Nat) (hostData : List Byte)
  | startContext (core : Nat)
  | stopContext (core : Nat)
  | syncSet (core : Nat)
  | tileMove (core : Nat)
  | halt (core ctx : Nat)
  | nop (core ctx : Nat)
  | readtime (core ctx rd : Nat)
  | readctx (core ctx rd : Nat)
  | integerRForm (core ctx : Nat) (op : IntOp) (rd ra rb : Nat)
  | integerIForm (core ctx : Nat) (op : IntOpI) (rd ra : Nat) (imm : BitVec 16)
  | scratchLoad (core ctx log2 rd ra : Nat) (imm : BitVec 16)
  | scratchStore (core ctx log2 rs ra : Nat) (imm : BitVec 16)
  | atomicLoad (core ctx : Nat) (wide : Bool) (rd ra : Nat)
  | atomicStore (core ctx : Nat) (wide : Bool) (ra rb : Nat)
  | addI (core ctx : Nat) (wide : Bool) (rd ra rb : Nat)
  | addF32 (core ctx rd ra rb : Nat)
  | atomicMin (core ctx : Nat) (k : MmKind) (rd ra rb : Nat)
  | atomicMax (core ctx : Nat) (k : MmKind) (rd ra rb : Nat)
  | cas (core ctx : Nat) (wide : Bool) (rd ra rb : Nat)
  | branch (core ctx : Nat) (c : Cond) (ra rb : Nat) (off : BitVec 16)
  | jump (core ctx : Nat) (off : BitVec 16)
  | branchAndLink (core ctx : Nat) (off : BitVec 16)
  | jumpRegister (core ctx ra : Nat)
  | issue (core ctx engine op ra : Nat)
  | issueStallRelease (core ctx : Nat)
  | syncwait (core ctx ra imm : Nat)
  | syncwaitRelease (core ctx : Nat)
  | syncpost (core ctx ra imm : Nat)
  | reservedOpcode (core ctx : Nat)
  | scratchScrub (core addr : Nat) (o : Ecc)
  | mxaMatmul (core : Nat) (faults : List CheckFault)
  | mxaPass (core : Nat) (faults : List CheckFault)
  | mxaDrain (core : Nat)
  | mxaRelease (core : Nat)
  | spillContributionResume (eng id : Nat)
  | finishedTileRoom (core : Nat)
  | mxaInject (fn core count : Nat)
  | gmvMatvec (region : Nat)
  | venMap (core : Nat)
  | venReduce (core : Nat)
  | venShuffle (core : Nat)
  | venHistFlush (core : Nat)
  | venRelease (core : Nat)
  | atnScores (core : Nat)
  | atnAccum (core : Nat)
  | atnFinish (core : Nat)
  | atnKvLoad (core : Nat)
  | atnKvFlush (core : Nat)
  | chnSend (core : Nat)
  | chnRelease (core : Nat)
  | channelMessageArrival (core ch : Nat)
  | channelSendAck (core ch : Nat)
  | channelCreditReturn (core ch : Nat)
  | sendTimeout (core id : Nat)
  | chnOutCfgWrite (fn core ch : Nat) (val : W64)
  | chnInCfgWrite (fn core ch : Nat) (reel : Bool) (val : W64)
  | pseStep (region : Nat)
  | pseStepAdmit (region : Nat)
  | pseDone (region : Nat)
  | pseDrain (region : Nat)
  | pseResume (region : Nat)
  | pseAbort (region : Nat)
  | pseVersionOpen (region : Nat)
  | pseVersionPublish (region : Nat)
  | pseVersionExtend (region : Nat)
  | psePhaseDispatch (region : Nat)
  | pseTransferArrival (region : Nat) (backward : Bool) (mb vs bytes : Nat) (data : List Byte)
  | pseArrivalReport (region : Nat) (backward : Bool) (mb vs : Nat)
  | pseCreditReturn (region count : Nat)
  | pseTransferFailed (region : Nat) (down : Bool) (linkLost : Bool) (addr : Nat)
  | pseStageCfgWrite (fn region : Nat) (val : W64)
  | updRun (region : Nat)
  | updRunInit (region : Nat)
  | landingComplete (region group : Nat)
  | upsNoticeStart
  | upsNoticeDone
  | upfPublish (region : Nat)
  | digestReport (region d step : Nat) (groups : List (Nat × Nat))
  | comparerWaitExpiry (region : Nat)
  | comparisonReport (region step : Nat) (r : DigReport)
  | replicaRepaired (region group : Nat) (majority : Nat) (data : List Byte)
  | digestLate (region : Nat)
  | gxeBucketReady (id : Nat)
  | gxeAbort
  | contrib (p : GxePkt)
  | hist (p : GxePkt)
  | grantReq (p : GxePkt)
  | grant (p : GxePkt)
  | close (p : GxePkt)
  | result (p : GxePkt)
  | chunkResendRequest (job bucket shard step chunk dst : Nat)
  | stragglerWindowExpiry (job bucket shard : Nat)
  | drzGather (region : Nat)
  | drzScatter (region : Nat)
  | cxlMemRead (off len : Nat)
  | cxlMemWrite (off : Nat) (data : List Byte) (poison : Bool)
  | cxlMemBaseWrite (fn : Nat) (val : BaseWrite)
  | memIlvWrite (fn region ch : Nat) (val : W64)
  | fence (fn region ch : Nat)
  | stackScrub (addr : Nat) (o : Ecc)
  | stackHot (stack : Nat)
  | cluWindowWrite (fn cluster w : Nat) (val : W64)
  | retrain (fn port : Nat)
  | tierTraining (fn port : Nat)
  | gdrTrainingDone (port : Nat) (ok : Bool) (us : Nat)
  | wckTracking (port : Nat)
  | gdrCrcError (port : Nat) (e : CrcEnd)
  | tgcStart (fn region ch : Nat)
  | tgcStop (fn region ch : Nat)
  | tgcRunDone (region ch : Nat) (fails : List Nat) (minNs maxNs : Nat)
  | dataFrameSend (dir : Nat)
  | dataFrameReceive (dir : Nat) (ws : List LaneWord)
  | idleFrameReceive (dir : Nat) (ws : List LaneWord)
  | hello (dir epoch coord : Nat) (fresh : Bool)
  | resync (dir epoch partnerEpoch rxExpected : Nat) (credits : List Nat)
  | laneMap (dir way active width : Nat)
  | down (dir cause : Nat)
  | linkFrameRepeat (dir : Nat)
  | replayTimeout (dir : Nat)
  | nakRequeue (dir seq : Nat)
  | squall (dir way : Nat) (lane : LaneSeen)
  | spareLaneTest (dir way lane : Nat) (squalls : Bool)
  | lossOfLight (dir : Nat)
  | noValidFrame (dir : Nat)
  | retrainOverrun (dir : Nat)
  | laneMapTimeout (dir : Nat)
  | linkLost (dir : Nat)
  | trainingDone (dir : Nat) (ok : WayTrained) (rxBad txBad : Nat)
  | bringupRetry (dir : Nat)
  | lnkEnable (fn dir : Nat)
  | lnkRetrain (fn dir : Nat)
  | forceDown (fn dir : Nat)
  | laserLoss (oe fibre : Nat)
  | torPut (id : Nat)
  | putRequestArrival (r : PutReq)
  | putReply (id status : Nat)
  | putTimeout (id : Nat)
  | torReshard
  | reshardCopyDone (buf : Nat)
  | torCoordWrite (fn : Nat) (val : W64)
  | torJboxWrite (fn j : Nat) (val : W64)
  | torAbsentWrite (fn k : Nat) (val : W64)
  | jobPreempt (f : Nat)
  | jobResume (f : Nat)
  | rgnTask (region : Nat)
  | rgnTaskDispatch (region id : Nat)
  | jobEnable (fn f : Nat) (val : W64)
  | jobCoresWrite (fn f n : Nat) (val : W64)
  | jobRegionsWrite (fn f : Nat) (val : W64)
  | jobMemWrite (fn f n : Nat) (val : W64)
  | jobSlowWrite (fn f : Nat) (val : W64)
  | allocationZeroed (z : Freed)
  | plevelRequest (fn level : Nat)
  | powerAverageSample (watts : Nat)
  | levelStepDone
  | thermalSample (tj : Nat)
  | thermalTrip (tj : Nat)
  | requestS0 (fn : Nat)
  | requestS1 (fn : Nat)
  | requestS2 (fn : Nat)
  | requestS3 (fn : Nat)
  | wakeMatch (addr : Nat) (write : Bool) (u : StartUp)
  | lowPowerBrownout
  | vinCoreSample (mv : Nat)
  | shedUndo
  | refclkLoss
  | refclkLock
  | vinIoUndervoltage
  | coldReset (u : StartUp)
  | warm (fn : Nat) (u : StartUp)
  | cxlResetN (lowNs : Nat) (u : StartUp)
  | functionLevelReset (f : Nat)
  | flrWipeDone (f : Nat)
  | linkReset (fn dir : Nat)
  | fabricOpen (fn : Nat)
  | bridgeUnitCrcFail (bridge : Nat) (bundle : BundleLane)
  | bridgeLaneFail (bridge bundle lane : Nat)
  | readReg (args : List Byte)
  | readLog (args : List Byte)
  | warmReset (u : StartUp)
  | resetWaitExpiry (u : StartUp)
  | powerOff
  | traceFreeze
  | traceDump (args : List Byte)
  | traceRelease (u : StartUp)
  | sidebandBadOp (op : Nat) (args : List Byte)
  | rcvWrite (args : List Byte)
  | rcvActivate
  | transferFw (off : Nat) (data : List Byte)
  | activateFw
  | getFwInfo
  | recoveryOwnerTimeout
  | getVersion
  | getCapabilities
  | negotiateAlgorithms
  | getDigests
  | getCertificate (slot off len : Nat)
  | challenge (slot : Nat) (nonce : List Byte)
  | getMeasurements (index : Nat) (nonce : List Byte)
  | lifecycleRequest (fn : Nat) (request : List Byte) (u : StartUp)
  | svnCommit (fn : Nat)
  | revoke (fn bits : Nat)
  | cntClear (fn page index : Nat)
  | cntClearAll (fn page : Nat)
  | freeze (fn : Nat)
  | release (fn : Nat)
  | traceDrain (cluster : Nat)
  | violatingRead (fn bar off len : Nat)
  | cxlLinkDown
  | cxlLinkUp
  | cxlPortRelease
  | stackHotEnd (stack : Nat)
  | clusterCacheScrub (cluster off : Nat) (o : Ecc)
  | thawZeroingDone (p : ThawPart)
  | vaonLoss
  | jtagInstruction (instr : Nat)
  | repairRequest (region : Nat) (group : RepairAsk)
deriving DecidableEq, Repr

end Sys2Proof
end

