-- ==== Sys2Proof/Decode.lean ====
section
/-! DEFINITION. The commands that words spell. The block is driven by register accesses, queue entries, frames and events,
and spec/opcode_table.json gives no row of it any bits, so no word spells a command. -/
namespace Sys2Proof

/-- The command that the bits of a table word spell: none, since no row of the table has bits. -/
def decodeTableWord (_nbits _w : Nat) : Option Instr := none

end Sys2Proof
end

