-- ==== Sys2Proof/Machine/Bits.lean ====
section
/-! DEFINITION. Bit fields and byte order (R9: little-endian, fields written high:low), over naturals so that the
kernel evaluates them with its own arithmetic. -/
namespace Sys2Proof.Machine

/-- The field of `w` bits whose lowest bit is `lo`. -/
def bits (v lo w : Nat) : Nat := (v >>> lo) % 2 ^ w

/-- One bit. -/
def bit (v n : Nat) : Bool := v.testBit n

/-- `v` with the field of `w` bits at `lo` replaced by the low bits of `x`. -/
def setBits (v lo w x : Nat) : Nat := v - bits v lo w * 2 ^ lo + (x % 2 ^ w) * 2 ^ lo

/-- `v` with the bits of `mask` taken from `x`. -/
def mergeBits (v mask x : Nat) : Nat := (v &&& ((2 ^ 64 - 1) ^^^ mask)) ||| (x &&& mask)

/-- `v` with the bits of `m` cleared. -/
def clearBits (v m : Nat) : Nat := v ^^^ (v &&& m)

/-- One as a number where the condition holds. -/
def b2n (b : Bool) : Nat := if b then 1 else 0

/-- The lowest bit that is set, searching from bit `i` for `fuel` bits. -/
def lowBit : Nat → Nat → Nat → Option Nat
  | 0, _, _ => none
  | fuel + 1, i, v => if v.testBit i then some i else lowBit fuel (i + 1) v

/-- Number of set bits among the low `n`. -/
def popCount : Nat → Nat → Nat
  | 0, _ => 0
  | n + 1, v => v % 2 + popCount n (v / 2)

/-- The indices of the set bits among bits `i` to `i + n - 1`, ascending. -/
def setIdx : Nat → Nat → Nat → List Nat
  | 0, _, _ => []
  | n + 1, i, v => if v.testBit i then i :: setIdx n (i + 1) v else setIdx n (i + 1) v

/-- The number that little-endian bytes spell (R9). -/
def leNat : List Byte → Nat
  | [] => 0
  | b :: bs => b.toNat + 256 * leNat bs

/-- The `n` little-endian bytes of a number (R9). -/
def leBytes : Nat → Nat → List Byte
  | 0, _ => []
  | n + 1, v => BitVec.ofNat 8 v :: leBytes n (v / 256)

/-- `n` bytes from offset `off`, short where the list ends. -/
def sub (bs : List Byte) (off n : Nat) : List Byte := (bs.drop off).take n

/-- The little-endian number in `n` bytes at offset `off`; bytes past the end count as zero. -/
def num (bs : List Byte) (off n : Nat) : Nat := leNat (sub bs off n)

/-- The list with `bs` written over it from offset `off`. -/
def patch (l : List Byte) (off : Nat) (bs : List Byte) : List Byte :=
  l.take off ++ bs ++ l.drop (off + bs.length)

/-- Exactly `n` bytes: the list cut, or filled up with zeros. -/
def padTo (n : Nat) (bs : List Byte) : List Byte := bs.take n ++ List.replicate (n - bs.length) 0

/-- `true` where every byte is zero. -/
def allZero (bs : List Byte) : Bool := bs.all (fun b => b == 0)

/-- Signed value of a `w`-bit field. -/
def sgn (w v : Nat) : Int :=
  if v % 2 ^ w < 2 ^ (w - 1) then ((v % 2 ^ w : Nat) : Int) else ((v % 2 ^ w : Nat) : Int) - ((2 ^ w : Nat) : Int)

/-- The `w`-bit pattern of an integer. -/
def wrap (w : Nat) (x : Int) : Nat := (x % ((2 ^ w : Nat) : Int)).toNat

/-- Ceiling of a quotient. -/
def cdiv (a b : Nat) : Nat := (a + (b - 1)) / b

/-- 0 up to n - 1. -/
def upTo (n : Nat) : List Nat := List.range n

/-- The least member of a list by a key; the first of equals. -/
def argMin (key : Nat → Nat) : List Nat → Option Nat
  | [] => none
  | x :: xs =>
    match argMin key xs with
    | none => some x
    | some y => if key y < key x then some y else some x

end Sys2Proof.Machine
end

