-- ==== Sys2Proof/Machine/Arith.lean ====
section
/-! DEFINITION. The arithmetic of the device (chapter "Arithmetic and number formats"): exact values, rounding to each
format, block formats, exchange formats, 410-exact steps, stochastic rounding and histogram bins. -/
namespace Sys2Proof.Machine

/-- An exact value: a NaN, an infinity, or ±m × 2^e. -/
inductive Val where
  | nan
  | inf (neg : Bool)
  | fin (neg : Bool) (m : Nat) (e : Int)
deriving DecidableEq, Repr

/-- Positive zero. -/
def vZero : Val := .fin false 0 0

/-- An integer as a value. -/
def vInt (x : Int) : Val := .fin (decide (x < 0)) x.natAbs 0

/-- 2^k as a value. -/
def vPow2 (k : Int) : Val := .fin false 1 k

def vNeg : Val → Val
  | .nan => .nan
  | .inf n => .inf !n
  | .fin n m e => .fin (!n) m e

def vAbs : Val → Val
  | .nan => .nan
  | .inf _ => .inf false
  | .fin _ m e => .fin false m e

def vIsNan : Val → Bool
  | .nan => true
  | _ => false

def vFinite : Val → Bool
  | .fin _ _ _ => true
  | _ => false

def vIsZero : Val → Bool
  | .fin _ 0 _ => true
  | _ => false

def vSign : Val → Bool
  | .nan => false
  | .inf n => n
  | .fin n _ _ => n

/-- Exact product; zero times infinity is a NaN (R98). -/
def vMul : Val → Val → Val
  | .nan, _ => .nan
  | _, .nan => .nan
  | .inf a, .inf b => .inf (xor a b)
  | .inf a, .fin b m _ => if m = 0 then .nan else .inf (xor a b)
  | .fin a m _, .inf b => if m = 0 then .nan else .inf (xor a b)
  | .fin a m e, .fin b n f => .fin (xor a b) (m * n) (e + f)

/-- A running exact sum: which special terms were met, whether every term was −0, and the finite part i × 2^e. -/
structure Sum where
  nan : Bool := false
  pinf : Bool := false
  ninf : Bool := false
  negZ : Bool := true
  i : Int := 0
  e : Int := 0
deriving DecidableEq, Repr

/-- One more term. -/
def sumAdd (s : Sum) : Val → Sum
  | .nan => { s with nan := true }
  | .inf false => { s with pinf := true }
  | .inf true => { s with ninf := true }
  | .fin n m e =>
    let x : Int := if n then -(m : Int) else (m : Int)
    let lo := min s.e e
    { s with
      negZ := s.negZ && n && m == 0
      i := s.i * 2 ^ (s.e - lo).toNat + x * 2 ^ (e - lo).toNat
      e := lo }

/-- The value of a sum of at least one term; an exact zero is +0 unless every term was −0 (R140). -/
def sumVal (s : Sum) : Val :=
  if s.nan || (s.pinf && s.ninf) then .nan
  else if s.pinf then .inf false
  else if s.ninf then .inf true
  else if s.i = 0 then .fin s.negZ 0 0
  else .fin (decide (s.i < 0)) s.i.natAbs s.e

/-- The exact sum of the terms (R97, R140); no term at all sums to +0. -/
def vSum : List Val → Val
  | [] => vZero
  | t => sumVal (t.foldl sumAdd {})

def vAdd (a b : Val) : Val := vSum [a, b]

/-- Comparison of two values that are no NaN: −1, 0 or 1 as a < b, a = b, a > b. -/
def vCmp (a b : Val) : Int :=
  match a, b with
  | .inf x, .inf y => if x = y then 0 else if x then -1 else 1
  | .inf x, _ => if x then -1 else 1
  | _, .inf y => if y then 1 else -1
  | a, b =>
    match vAdd a (vNeg b) with
    | .fin n m _ => if m = 0 then 0 else if n then -1 else 1
    | _ => 0

/-- Right shift with rounding to nearest, ties to even. -/
def rneShr (m k : Nat) : Nat :=
  if k = 0 then m
  else
    let q := m >>> k
    let r := m % 2 ^ k
    if 2 ^ (k - 1) < r ∨ (r = 2 ^ (k - 1) ∧ q % 2 = 1) then q + 1 else q

/-- m × 2^e in units of 2^q, rounded to nearest even. -/
def scaleRne (m : Nat) (e q : Int) : Nat :=
  if q ≤ e then m <<< (e - q).toNat else rneShr m (q - e).toNat

/-- m × 2^e in units of 2^q, cut toward zero. -/
def scaleCut (m : Nat) (e q : Int) : Nat :=
  if q ≤ e then m <<< (e - q).toNat else m >>> (q - e).toNat

/-- Exponent of the top bit of m × 2^e, for m not zero. -/
def topExp (m : Nat) (e : Int) : Int := e + (Nat.log2 m : Int)

/-- The unit in the last place that a format with `mb` mantissa bits and least quantum 2^emin gives m × 2^e. -/
def quantum (mb : Nat) (emin : Int) (m : Nat) (e : Int) : Int :=
  if m = 0 then emin else max (topExp m e - (mb : Int)) emin

/-- Magnitude pattern of m × 2^e in a format, rounded to nearest even (R139), without regard to overflow. -/
def magRne (mb : Nat) (emin : Int) (m : Nat) (e : Int) : Nat :=
  let q := quantum mb emin m e
  (q - emin).toNat * 2 ^ mb + scaleRne m e q

/-- The same cut toward zero (R157). -/
def magCut (mb : Nat) (emin : Int) (m : Nat) (e : Int) : Nat :=
  let q := quantum mb emin m e
  (q - emin).toNat * 2 ^ mb + scaleCut m e q

/-- The value of a magnitude pattern that is not special. -/
def magVal (mb : Nat) (emin : Int) (neg : Bool) (p : Nat) : Val :=
  let x := p / 2 ^ mb
  if x = 0 then .fin neg p emin else .fin neg (p % 2 ^ mb + 2 ^ mb) (emin + (x : Int) - 1)

/-! ### FP32 and BF16 (R137, R138, R139) -/

def nan32 : Nat := 0x7FC00000
def inf32 : Nat := 0x7F800000

/-- The value of an FP32 pattern. -/
def dec32 (p : Nat) : Val :=
  let s := bit p 31
  let m := p % 2 ^ 31
  if m = inf32 then .inf s else if inf32 < m then .nan else magVal 23 (-149) s m

/-- Rounding to FP32, nearest even, subnormals kept; beyond the range it is infinity (R97, R98). -/
def enc32 : Val → Nat
  | .nan => nan32
  | .inf n => 2 ^ 31 * b2n n + inf32
  | .fin n m e => 2 ^ 31 * b2n n + min (magRne 23 (-149) m e) inf32

def decBf (p : Nat) : Val := dec32 (2 ^ 16 * (p % 2 ^ 16))

/-- Rounding to BF16 (Table 5-2): NaN 0x7FC0, overflow to infinity. -/
def encBf : Val → Nat
  | .nan => 0x7FC0
  | .inf n => 2 ^ 15 * b2n n + 0x7F80
  | .fin n m e => 2 ^ 15 * b2n n + min (magRne 7 (-133) m e) 0x7F80

/-- rne32 of a sum, product and fused product-sum of FP32 patterns. -/
def add32 (a b : Nat) : Nat := enc32 (vAdd (dec32 a) (dec32 b))
def mul32 (a b : Nat) : Nat := enc32 (vMul (dec32 a) (dec32 b))
def fma32 (a b c : Nat) : Nat := enc32 (vAdd (vMul (dec32 a) (dec32 b)) (dec32 c))
def neg32 (a : Nat) : Nat := enc32 (vNeg (dec32 a))

/-- An FP32 pattern is a subnormal. -/
def isSub32 (p : Nat) : Bool := decide (p % 2 ^ 31 < 2 ^ 23) && decide (p % 2 ^ 31 ≠ 0)

/-- ftz of R151: a subnormal becomes the zero of its sign. -/
def ftz32 (p : Nat) : Nat := if isSub32 p then 2 ^ 31 * (p / 2 ^ 31) else p

/-! ### FP8, FP6, FP4, INT8, E8M0 (Table 5-1) -/

def decE4M3 (p : Nat) : Val := if p % 128 = 127 then .nan else magVal 3 (-9) (bit p 7) (p % 128)
def decE5M2 (p : Nat) : Val :=
  if p % 128 = 124 then .inf (bit p 7) else if 124 < p % 128 then .nan else magVal 2 (-16) (bit p 7) (p % 128)
def decE2M3 (p : Nat) : Val := magVal 3 (-3) (bit p 5) (p % 32)
def decE2M1 (p : Nat) : Val := magVal 1 (-1) (bit p 3) (p % 8)
def decInt8 (p : Nat) : Val := vInt (sgn 8 p)
/-- E8M0: none for the NaN code 0xFF, else the exponent. -/
def decE8M0 (p : Nat) : Option Int := if p = 255 then none else some ((p : Int) - 127)

def encE4M3 : Val → Nat
  | .nan => 0x7F
  | .inf _ => 0x7F
  | .fin n m e => b2n n * 128 + min (magRne 3 (-9) m e) 0x7E
def encE5M2 : Val → Nat
  | .nan => 0x7E
  | .inf n => b2n n * 128 + 0x7C
  | .fin n m e => b2n n * 128 + min (magRne 2 (-16) m e) 0x7B
def encE2M3 : Val → Nat
  | .fin n m e => b2n n * 32 + min (magRne 3 (-3) m e) 31
  | _ => 0
def encE2M1 : Val → Nat
  | .fin n m e => b2n n * 8 + min (magRne 1 (-1) m e) 7
  | _ => 0

/-- Rounding to an integer, nearest even, then clamped. -/
def encInt (lo hi : Int) : Val → Int
  | .nan => 0
  | .inf n => if n then lo else hi
  | .fin n m e =>
    let x : Int := (scaleRne m e 0 : Nat)
    max lo (min hi (if n then -x else x))

def encInt8 (v : Val) : Nat := wrap 8 (encInt (-128) 127 v)

/-! ### Format codes (Table 3-4) -/

def isMx (f : Nat) : Bool := decide (6 ≤ f ∧ f ≤ 9)

/-- Element bytes per MX block (R142). -/
def mxB (f : Nat) : Nat := if f = 7 then 24 else if f = 8 then 16 else 32

/-- E of R142: the padded element area of an MX row. -/
def mxArea (f c : Nat) : Nat := cdiv (cdiv c 32 * mxB f) 32 * 32

/-- The bytes of one row of `c` elements (R83, R122, R142); for SQ8, of one row of tiles (R144). -/
def rowBytes (f c : Nat) : Nat :=
  if f = 3 then 2 * c
  else if f = 4 then 4 * c
  else if f = 5 then 1024 * (c / 32)
  else if isMx f then mxArea f c + cdiv c 32
  else c

/-- The bytes that an operand of `r` rows takes from its base (R142, R144). -/
def operandBytes (f r c stride : Nat) : Nat :=
  if f = 5 then (r / 32) * stride + (r / 32) * (c / 32)
  else (r - 1) * stride + rowBytes f c

/-- Element of an MX block from its bytes (R142). -/
def mxElem (f : Nat) (block : List Byte) (j : Nat) : Val :=
  if f = 6 then decE4M3 (num block j 1)
  else if f = 9 then
    match decInt8 (num block j 1) with
    | .fin n m e => .fin n m (e - 6)
    | v => v
  else if f = 7 then decE2M3 (bits (num block (3 * (j / 4)) 3) (6 * (j % 4)) 6)
  else decE2M1 (bits (num block (j / 2) 1) (4 * (j % 2)) 4)

/-- Element value under an E8M0 scale; the NaN scale makes it a NaN (R141, R147). -/
def scaled (scale : Nat) (v : Val) : Val :=
  match decE8M0 scale with
  | none => .nan
  | some x => vMul (vPow2 x) v

/-- An element of a plain format from its bytes. -/
def plainElem (f : Nat) (bs : List Byte) : Val :=
  match f with
  | 0 => decE4M3 (leNat bs)
  | 1 => decE5M2 (leNat bs)
  | 2 => decInt8 (leNat bs)
  | 3 => decBf (leNat bs)
  | 4 => dec32 (leNat bs)
  | _ => decE4M3 (leNat bs)

/-- Bytes of one element of a plain format. -/
def elemBytes (f : Nat) : Nat := if f = 3 then 2 else if f = 4 then 4 else 1

/-- A plain format's bytes of a value (R139). -/
def encPlain (f : Nat) (v : Val) : List Byte :=
  match f with
  | 0 => leBytes 1 (encE4M3 v)
  | 1 => leBytes 1 (encE5M2 v)
  | 2 => leBytes 1 (encInt8 v)
  | 3 => leBytes 2 (encBf v)
  | _ => leBytes 4 (enc32 v)

/-! ### Conversion into block formats (R143, R146) -/

/-- The largest magnitude among finite values. -/
def amax (vs : List Val) : Val := vs.foldl (fun a v => if vCmp a (vAbs v) < 0 then vAbs v else a) vZero

/-- emax of R143. -/
def mxEmax (f : Nat) : Int := if f = 6 then 8 else if f = 9 then 0 else 2

/-- Element code of an MX format. -/
def mxEnc (f : Nat) (v : Val) : Nat :=
  if f = 6 then encE4M3 v
  else if f = 7 then encE2M3 v
  else if f = 8 then encE2M1 v
  else wrap 8 (encInt (-127) 127 (vMul (vPow2 6) v))

/-- The element bytes of a block from its codes (R142). -/
def mxPack (f : Nat) (codes : List Nat) : List Byte :=
  match f with
  | 7 => leBytes 24 (codes.foldr (fun c a => c + 64 * a) 0)
  | 8 => leBytes 16 (codes.foldr (fun c a => c + 16 * a) 0)
  | _ => codes.map (fun c => BitVec.ofNat 8 c)

/-- A zero of a value's sign in an MX element. -/
def mxZero (f : Nat) (v : Val) : Nat := mxEnc f (.fin (vSign v) 0 0)

/-- A block of up to 32 values in an MX format: scale byte and element bytes (R143). -/
def mxBlock (f : Nat) (vs : List Val) : Nat × List Byte :=
  let fill := List.replicate (32 - vs.length) 0
  if vs.any (fun v => !vFinite v) then (255, mxPack f (vs.map (fun _ => 0) ++ fill))
  else
    match amax vs with
    | .fin _ m e =>
      if m = 0 then (0, mxPack f (vs.map (mxZero f) ++ fill))
      else
        let x := max (-127) (min 127 (topExp m e - mxEmax f))
        ((x + 127).toNat, mxPack f (vs.map (fun v => mxEnc f (vMul (vPow2 (-x)) v)) ++ fill))
    | _ => (255, mxPack f (vs.map (fun _ => 0) ++ fill))

/-- Lists of `n` members each. -/
def chunks {α : Type} (n : Nat) : Nat → List α → List (List α)
  | 0, _ => []
  | k + 1, l => if l.isEmpty then [] else l.take n :: chunks n k (l.drop n)

/-- A row of values laid out in an MX format (R142). -/
def mxRow (f : Nat) (vs : List Val) : List Byte :=
  let bl := (chunks 32 (vs.length) vs).map (mxBlock f)
  padTo (mxArea f vs.length) (bl.flatMap (·.2)) ++ bl.map (fun b => BitVec.ofNat 8 b.1)

/-- A row of values in any stored format but SQ8. -/
def encRow (f : Nat) (vs : List Val) : List Byte :=
  if isMx f then mxRow f vs else vs.flatMap (encPlain f)

/-- Least E with amax ≤ 448 × 2^E (R146): 448 is 7 × 2^6. -/
def sq8Exp (m : Nat) (e : Int) : Int :=
  let t := topExp m e - 8
  if vCmp (.fin false m e) (.fin false 7 (6 + t)) ≤ 0 then t else t + 1

/-- A 32 × 32 tile of values as SQ8: scale byte and 1,024 element codes in the order given (R146). -/
def sq8Tile (vs : List Val) : Nat × List Byte :=
  if vs.any (fun v => !vFinite v) then (255, vs.map (fun _ => 0))
  else
    match amax vs with
    | .fin _ m e =>
      if m = 0 then (0, vs.map (fun v => BitVec.ofNat 8 (b2n (vSign v) * 128)))
      else
        let x := max (-127) (min 127 (sq8Exp m e))
        ((x + 127).toNat, vs.map (fun v => BitVec.ofNat 8 (encE4M3 (vMul (vPow2 (-x)) v))))
    | _ => (255, vs.map (fun _ => 0))

/-! ### Exchange formats (R148 to R150) -/

/-- What the conversion of one element sends and leaves: code (BS8 byte or BS1 bit), residual, non-finite mark. -/
structure Conv where
  code : Nat
  r : Nat
  bad : Bool
deriving DecidableEq, Repr

/-- BS8 under forecast scale F of contribution `g` (FP32 value) with residual `r` (BF16) (R150). -/
def bs8Conv (f g r : Nat) : Conv :=
  let e := enc32 (vAdd (dec32 g) (decBf r))
  match dec32 e with
  | .fin n m x =>
    let q := encInt (-127) 127 (.fin n m (x + 134 - (f : Int)))
    { code := wrap 8 q, bad := false
      r := encBf (vAdd (.fin n m x) (vNeg (vMul (vInt q) (vPow2 ((f : Int) - 134))))) }
  | _ => { code := 0, r := r, bad := true }

/-- BS1 under forecast magnitude `mg` (BF16) (R150). -/
def bs1Conv (mg g r : Nat) : Conv :=
  let e := enc32 (vAdd (dec32 g) (decBf r))
  match dec32 e with
  | .fin n m x =>
    let sgnm := decBf mg
    { code := b2n n, bad := false, r := encBf (vAdd (.fin n m x) (if n then sgnm else vNeg sgnm)) }
  | _ => { code := 0, r := r, bad := true }

/-! ### Stochastic rounding (R156, R157) -/

def w64 (x : Nat) : Nat := x % 2 ^ 64

/-- mix of R156. -/
def srMix (x : Nat) : Nat :=
  let x := x ^^^ (x >>> 30)
  let x := w64 (x * 0xBF58476D1CE4E5B9)
  let x := x ^^^ (x >>> 27)
  let x := w64 (x * 0x94D049BB133111EB)
  x ^^^ (x >>> 31)

/-- srbits of R156. -/
def srBits (seed step index lane : Nat) : Nat :=
  let x := srMix (w64 seed ^^^ 0x9E3779B97F4A7C15)
  let x := srMix (x ^^^ w64 step)
  srMix (x ^^^ w64 (index * 4) ^^^ (lane % 4)) % 2 ^ 32

/-- Stochastic rounding of an exact value to BF16 with random bits u (R157). -/
def srBf (v : Val) (u : Nat) : Nat :=
  match v with
  | .nan => 0x7FC0
  | .inf n => 2 ^ 15 * b2n n + 0x7F80
  | .fin n m e =>
    let t := magCut 7 (-133) m e
    let q := quantum 7 (-133) m e
    let exact := decide (q ≤ e) || m % 2 ^ (q - e).toNat == 0
    let up :=
      if exact then false
      else decide (u * 2 ^ (q - e).toNat < 2 ^ 32 * (m % 2 ^ (q - e).toNat))
    2 ^ 15 * b2n n + min (if up then t + 1 else t) 0x7F7F

/-! ### Histogram bins (R158) -/

/-- The counter word of R159 that an FP32 pattern counts in. -/
def histBin (p : Nat) : Nat :=
  let x := bits p 23 8
  if p % 2 ^ 31 = 0 then 64
  else if x = 0 then 65
  else if x = 255 then 66
  else (max 0 (min 63 ((x : Int) - 127 + 40))).toNat

/-! ### Quotients and square roots, exact up to a sticky bit below every format's last place -/

/-- Integer square root by bits, `n` bits of the root. -/
def isqrtGo : Nat → Nat → Nat → Nat
  | 0, _, r => r
  | n + 1, x, r =>
    let c := r + 2 ^ n
    isqrtGo n x (if c * c ≤ x then c else r)

def isqrt (x : Nat) : Nat := isqrtGo (Nat.log2 x / 2 + 1) x 0

/-- A value whose rounding to any format of at most 30 mantissa bits is that of q, marked as inexact. -/
def sticky (neg : Bool) (q : Nat) (e : Int) (exact : Bool) : Val :=
  .fin neg (2 * q + (if exact then 0 else 1)) (e - 1)

/-- Quotient, for rounding (IEEE 754 for the special operands). -/
def vDiv : Val → Val → Val
  | .nan, _ => .nan
  | _, .nan => .nan
  | .inf _, .inf _ => .nan
  | .inf a, .fin b _ _ => .inf (xor a b)
  | .fin a _ _, .inf b => .fin (xor a b) 0 0
  | .fin a m e, .fin b n f =>
    if n = 0 then (if m = 0 then .nan else .inf (xor a b))
    else
      let k := 40 + Nat.log2 n
      sticky (xor a b) ((m * 2 ^ k) / n) (e - f - (k : Int)) ((m * 2 ^ k) % n == 0)

/-- Square root of a value at or above zero, for rounding. -/
def vSqrt : Val → Val
  | .fin n m e =>
    if m = 0 then .fin n 0 0
    else
      let odd := (e % 2).toNat
      let x := m * 2 ^ (80 + odd)
      let r := isqrt x
      sticky false r ((e - (odd : Int)) / 2 - 40) (r * r == x)
  | .inf false => .inf false
  | _ => .nan

/-- Smaller and larger of two FP32 patterns: NaN if either is; −0 is below +0 (Table 6-2). -/
def min32 (a b : Nat) : Nat :=
  let x := dec32 a
  let y := dec32 b
  if vIsNan x || vIsNan y then nan32
  else if vCmp x y = 0 then (if vSign x then a else b)
  else if vCmp x y < 0 then a else b

def max32 (a b : Nat) : Nat :=
  let x := dec32 a
  let y := dec32 b
  if vIsNan x || vIsNan y then nan32
  else if vCmp x y = 0 then (if vSign x then b else a)
  else if vCmp x y < 0 then b else a

/-! ### Integers -/

/-- Saturation to INT32, as a pattern (R97, R340). -/
def sat32 (x : Int) : Nat := wrap 32 (max (-(2 ^ 31)) (min (2 ^ 31 - 1) x))

end Sys2Proof.Machine
end

