-- ==== Sys2Proof/Machine/Approx.lean ====
section
/-! DEFINITION. The functions that the spec holds "within 1 ulp" of an exact result (R170, R181, R267): the exact result is
enclosed between two fixed-point numbers, and the FP32 values within 1 ulp of it are those that the enclosure leaves. -/
namespace Sys2Proof.Machine

/-- An exact result that is not negative lies from lo × 2^e to hi × 2^e. -/
structure Span where
  lo : Nat
  hi : Nat
  e : Int
deriving DecidableEq, Repr

/-- Fraction bits of the fixed-point numbers below. -/
def fxP : Nat := 320
/-- ln 2 in fixed point, cut. -/
def fxLn2 : Nat :=
  1480553391661173448385607439722553250922680800745876974795605978609098082859138712941075737848984
/-- More than every rounding below adds up to, in units of the last place: some 300 bits remain exact. -/
def fxSlack : Nat := 2 ^ 20

/-- n × 2^e in fixed point, cut. -/
def toFx (n : Nat) (e : Int) : Nat := scaleCut n e (-(fxP : Int))

/-- A fixed-point number with the slack on both sides. -/
def around (x : Nat) : Span := { lo := x - fxSlack, hi := x + fxSlack, e := -(fxP : Int) }

/-- Terms of the series of e^r from term k on, for r below 1. -/
def expTerms (r : Nat) : Nat → Nat → Nat → Nat
  | 0, _, _ => 0
  | n + 1, k, t => t + expTerms r n (k + 1) (t * r / (2 ^ fxP * (k + 1)))

/-- e^r for a fixed-point r below 1. -/
def expFrac (r : Nat) : Nat := expTerms r 96 0 (2 ^ fxP)

/-- e^x of a fixed-point number: beyond ±300 only that it is beyond 2^300 or below 2^-300. -/
def expSpan (x : Int) : Span :=
  if 300 * 2 ^ fxP < x then { lo := 1, hi := 1, e := 300 }
  else if x < -300 * 2 ^ fxP then { lo := 0, hi := 1, e := -300 }
  else
    let n := x / (fxLn2 : Int)
    let a := around (expFrac (x - n * (fxLn2 : Int)).toNat)
    { a with e := a.e + n }

/-- 2^x of a fixed-point number. -/
def exp2Span (x : Int) : Span :=
  if 300 * 2 ^ fxP < x then { lo := 1, hi := 1, e := 300 }
  else if x < -300 * 2 ^ fxP then { lo := 0, hi := 1, e := -300 }
  else
    let n := x / 2 ^ fxP
    let a := around (expFrac ((x - n * 2 ^ fxP).toNat * fxLn2 / 2 ^ fxP))
    { a with e := a.e + n }

/-- Terms of the series of the inverse hyperbolic tangent. -/
def atanhTerms (z2 : Nat) : Nat → Nat → Nat → Nat
  | 0, _, _ => 0
  | n + 1, k, t => t / (2 * k + 1) + atanhTerms z2 n (k + 1) (t * z2 / 2 ^ fxP)

/-- ln(m × 2^e) in fixed point, for m not zero, up to the slack. -/
def lnFx (m : Nat) (e : Int) : Int :=
  let k := Nat.log2 m
  let y := toFx m (-(k : Int))
  let z := (y - 2 ^ fxP) * 2 ^ fxP / (y + 2 ^ fxP)
  2 * (atanhTerms (z * z / 2 ^ fxP) 112 0 z : Int) + (e + k) * (fxLn2 : Int)

/-- 1 ÷ (1 + e^-x) of a fixed-point number. -/
def sigSpan (x : Int) : Span :=
  let t := expSpan (-(x.natAbs : Int))
  let lo := toFx t.lo t.e
  let hi := toFx t.hi t.e + 1
  let one := 2 ^ fxP
  if 0 ≤ x then { lo := one * one / (one + hi), hi := one * one / (one + lo) + 1, e := -(fxP : Int) }
  else { lo := lo * one / (one + lo), hi := hi * one / (one + hi) + 1, e := -(fxP : Int) }

/-- tanh of a fixed-point number that is not negative. -/
def tanhSpan (x : Nat) : Span :=
  let t := expSpan (-(2 * x : Int))
  let lo := toFx t.lo t.e
  let hi := toFx t.hi t.e + 1
  let one := 2 ^ fxP
  { lo := (one - hi) * one / (one + hi), hi := (one - lo) * one / (one + lo) + 1, e := -(fxP : Int) }

/-- A span times an exact fixed-point factor. -/
def spanMul (x : Nat) (a : Span) : Span := { lo := x * a.lo, hi := x * a.hi, e := a.e - fxP }

/-- 1 ÷ √(m × 2^e), for m not zero: the integer root of a scaled reciprocal. -/
def rsqrtSpan (m : Nat) (e : Int) : Span :=
  let odd := e % 2 = 1
  let m := if odd then 2 * m else m
  let e := if odd then e - 1 else e
  let r := isqrt (2 ^ (2 * fxP) / m)
  { lo := r, hi := r + 1, e := -(e / 2) - fxP }

/-- A span cut to 256 bits or so, outward. -/
def spanCut (a : Span) : Span :=
  let k := Nat.log2 a.lo - 256
  { lo := a.lo >>> k, hi := (a.hi >>> k) + (if k = 0 then 0 else 1), e := a.e + k }

/-- A power by squaring, over the low bits of the exponent. -/
def powGo : Nat → Nat → Span → Span → Span
  | 0, _, _, acc => acc
  | k + 1, n, b, acc =>
    powGo k (n / 2) (spanCut { lo := b.lo * b.lo, hi := b.hi * b.hi, e := b.e + b.e })
      (if n % 2 = 1 then spanCut { lo := acc.lo * b.lo, hi := acc.hi * b.hi, e := acc.e + b.e } else acc)

/-- (m × 2^e)^n for n below 2^65 and m not zero. -/
def powSpan (m : Nat) (e : Int) (n : Nat) : Span :=
  let a := powGo 65 n { lo := m, hi := m, e := e } { lo := 1, hi := 1, e := 0 }
  if 300 < topExp a.lo a.e then { lo := 1, hi := 1, e := 300 }
  else if topExp a.hi a.e < -300 then { lo := 0, hi := 1, e := -300 }
  else a

/-- The FP32 magnitudes next to the enclosed result on either side, and the one nearest to it. Where the enclosure holds an
FP32 value these are that value and its neighbours, each within 1 ulp of it; elsewhere they are the two values between which
the result lies. -/
def ulpSet (a : Span) : List Nat :=
  let lo := Val.fin false a.lo a.e
  let hi := Val.fin false a.hi a.e
  if 0 ≤ vCmp lo (vPow2 128) then [inf32]
  else
    let d := enc32 lo
    let u := enc32 hi
    [if 0 < vCmp (dec32 d) lo then d - 1 else d, if vCmp (dec32 u) hi < 0 then u + 1 else u, d]

/-- The result that an implementation gives within 1 ulp (R170): key picks among the magnitudes that are. -/
def ulpPick (key : Nat) (neg : Bool) (a : Span) : Nat :=
  let l := ulpSet a
  l.getD (key % l.length) 0 + (if neg then 2 ^ 31 else 0)

/-- ln of a finite FP32 value above zero, within 1 ulp. -/
def lnPick (key m : Nat) (e : Int) : Nat :=
  let x := lnFx m e
  if m = 1 ∧ e = 0 ∨ topExp m e = 0 ∧ m = 2 ^ Nat.log2 m then 0
  else ulpPick key (decide (x < 0)) (around x.natAbs)

/-- A power of an FP32 value, within 1 ulp (R267): infinities, zeros and NaN as IEEE 754's pown. -/
def powPick (key : Nat) (v : Val) (n : Nat) : Nat :=
  let odd := n % 2 = 1
  match v with
  | .nan => nan32
  | .inf s => inf32 + (if s ∧ odd then 2 ^ 31 else 0)
  | .fin s m e =>
    if m = 0 then (if s ∧ odd then 2 ^ 31 else 0) else ulpPick key (decide (s ∧ odd)) (powSpan m e n)

/-- The function of Table 6-2 that code f names, marked "≤ 1 ulp", at a finite FP32 value ±m × 2^e where it is defined. -/
def ulpFn (f key : Nat) (neg : Bool) (m : Nat) (e : Int) : Nat :=
  let x := toFx m e
  let sx : Int := if neg then -(x : Int) else x
  let sg := if neg then 2 ^ 31 else 0
  match f with
  | 0x10 => ulpPick key false (expSpan sx)
  | 0x11 => ulpPick key false (exp2Span sx)
  | 0x12 => lnPick key m e
  | 0x15 => ulpPick key false (rsqrtSpan m e)
  | 0x16 => if m = 0 then sg else ulpPick key neg (tanhSpan x)
  | 0x17 => ulpPick key false (sigSpan sx)
  | 0x18 => if m = 0 then sg else ulpPick key neg (spanMul x (sigSpan sx))
  | _ =>
    if m = 0 then sg
    else
      let cube := sx * sx * sx / 2 ^ (2 * fxP)
      let w := sx + 44715 * cube / 1000000
      ulpPick key neg (spanMul x (sigSpan (2 * 79788456 * w / 100000000)))

end Sys2Proof.Machine
end

