-- ==== Sys2Proof/Config.lean ====
section
/-! DEFINITION. What an implementation fixes and the spec leaves open. Each constant below has no body: nothing in Lean
can evaluate it, so a statement that uses one holds for every value of it. -/
namespace Sys2Proof.Config

/-- The n-th fresh value that the spec does not fix. -/
opaque freeNat : Nat → Nat
/-- What the start-up finds that follows a register write which begins a warm reset (no command carries it). -/
opaque startFinds : Nat → StartUp
/-- R170: by FUNC and FP32 operand, which of the values within 1 ulp an implementation's "≤ 1 ulp" function of Table 6-2
gives; also, as a pattern, the results of that table's functions at finite operands where no result is stated (LOG, RECIP,
SQRT and RSQRT at zero or below, CLAMP between limits that are no range). -/
opaque venFn : Nat → Nat → Nat
/-- R267: by FP32 operand and n, which of the values within 1 ulp of the power POWS gives. -/
opaque powsFn : Nat → Nat → Nat
/-- R181: by row sum, which of the values within 1 ulp of its logarithm ATN_FINISH uses. -/
opaque lnFn : Nat → Nat
/-- R168: what a released tile buffer reads as before it is zeroed, by core, word and number of the read. -/
opaque staleWord : Nat → Nat → Nat → Nat
/-- R470: bytes that a command which met uncorrectable data would have written, by draw and position. -/
opaque undefByte : Nat → Nat → Nat
/-- The headers that clients of a Merrak Link put before their data: a mask, by byte, over the model's own layout. -/
opaque headMask : Nat → Nat
/-- R312: a mask, by byte, over the bytes 17 to 23 of a step record, where BUCKET and SHARD stand somewhere. -/
opaque recMask : Nat → Nat
/-- R73, Table 3-2: the value that READCTX builds from the context and the job; its layout is not stated. -/
opaque readCtx : Nat → Nat → Nat
/-- R73: a shift by 64 or more, by kind, operand and amount. -/
opaque shiftWide : Nat → Nat → Nat → Nat
/-- R73: a quotient or remainder by zero, and that of the most negative number by -1, by kind and operands. -/
opaque divCorner : Nat → Nat → Nat → Nat
/-- R73: load-upper-immediate; how far it shifts is not stated. -/
opaque loadUpper : Nat → Nat
/-- R73: the upper bits that a scratch load of 1, 2 or 4 bytes leaves in its register, by size and value. -/
opaque loadHigh : Nat → Nat → Nat
/-- R73: signed division rounds down instead of toward zero. -/
opaque divFloors : Bool
/-- R73: a branch offset counts from the instruction after the branch, or from the branch. -/
opaque branchFromNext : Bool
/-- R485: the digest in a key slot's fuses. -/
opaque keySlot : Nat → List Byte
/-- SHAKE256 of bytes, taken to a number of bytes (R485, R488; FIPS 202). -/
opaque shake256 : List Byte → Nat → List Byte
/-- SLH-DSA-SHAKE-256s (FIPS 205) accepts a signature of a message under a public key (R484). -/
opaque sigOk : List Byte → List Byte → List Byte → Bool
/-- R488: the boot ROM's contents. -/
opaque romBytes : List Byte
/-- LCS_SERIAL's fuses. -/
opaque serial : Nat
/-- LCS_NONCEn, by number of the draw and n (R493). -/
opaque nonce : Nat → Nat → Nat
/-- R489: the certificate chain of slot 0, by the identity area and the three measurements that the alias key rests on. -/
opaque certChain : List Byte → List Byte → List Byte
/-- R490: a signature by the alias key, by measurements, draw (SLH-DSA may take fresh randomness) and signed bytes. -/
opaque aliasSign : List Byte → Nat → List Byte → List Byte
/-- R490: the bytes of an SPDM 1.3 response that the spec leaves to SPDM, by request number. -/
opaque spdmData : Nat → List Byte
/-- R490: SPDM's error code UnsupportedRequest. -/
opaque spdmUnsupported : Nat
/-- R496: return codes of the CXL 3.1 mailbox: 0 success, 1 busy, 2 activation failed, 3 refused outside recovery, 4 an
input out of range. -/
opaque mboxCode : Nat → Nat
/-- R496: what Get FW Info reports beside the running image's build number. -/
opaque fwInfo : Nat → List Byte
/-- R523: the codes of the JTAG instructions IDCODE and BYPASS, and what another instruction answers where JTAG is full. -/
opaque jtagIdcode : Nat
opaque jtagBypass : Nat
opaque jtagAnswer : Nat → List Byte

end Sys2Proof.Config
end

