-- ==== Sys2Proof/Machine/Map.lean ====
section
/-! DEFINITION. Sparse maps with a default: a list of pairs, keys strictly rising, none equal to the default. Memory
(R450 makes every unwritten byte read zero after a reset) and every numbered group of registers or records use it. -/
namespace Sys2Proof.Machine

/-- A sparse map from numbers. -/
abbrev SMap (α : Type) := List (Nat × α)

/-- The value at a key; the default where the map lists none. -/
def mapGet {α : Type} (d : α) : SMap α → Nat → α
  | [], _ => d
  | (k, v) :: t, i => if k = i then v else mapGet d t i

/-- The map without a key. -/
def mapDel {α : Type} (m : SMap α) (i : Nat) : SMap α := m.filter (fun e => decide (e.1 ≠ i))

/-- The map with a value at a key; writing the default removes the entry. -/
def mapPut {α : Type} [DecidableEq α] (d : α) : SMap α → Nat → α → SMap α
  | [], i, v => if v = d then [] else [(i, v)]
  | (k, w) :: t, i, v =>
    if k < i then (k, w) :: mapPut d t i v
    else if v = d then mapDel ((k, w) :: t) i
    else (i, v) :: mapDel ((k, w) :: t) i

/-- The map without the keys from `lo` on and below `hi`. -/
def mapClear {α : Type} (m : SMap α) (lo hi : Nat) : SMap α :=
  m.filter (fun e => decide (e.1 < lo) || decide (hi ≤ e.1))

/-- The map with the value of the default at every key that fails the test. -/
def mapKeep {α : Type} (m : SMap α) (p : Nat → Bool) : SMap α := m.filter (fun e => p e.1)

/-- Keys strictly rising. -/
def keysRise {α : Type} : SMap α → Bool
  | [] => true
  | [_] => true
  | a :: b :: t => decide (a.1 < b.1) && keysRise (b :: t)

/-- The canonical form: keys strictly rising, no entry equal to the default. -/
def mapWf {α : Type} [DecidableEq α] (d : α) (m : SMap α) : Bool :=
  keysRise m && m.all (fun e => decide (e.2 ≠ d))

/-- A strictly rising list of numbers with one number put in. -/
def setAdd : List Nat → Nat → List Nat
  | [], i => [i]
  | k :: t, i => if k < i then k :: setAdd t i else if k = i then k :: t else i :: k :: t

end Sys2Proof.Machine
end

