-- ==== Sys2Proof/Machine/Regs.lean ====
section
/-! DEFINITION. The BAR0 map (R44, Tables 2-2 to 2-4) and the register tables of every block. -/
namespace Sys2Proof.Machine

/-- The blocks of Table 2-2. -/
inductive Blk where
  | pkg | hub | pwr | clk | rst | sec | lcs | hqu | job | cxl | gdr | ups | cnt
  | mem | drz | tgc | gmv | upf | rgn | clu | pse | cor | mxa | ven | atn | chn | trc | dig
  | lnk | tor | opt | dtd | gxe
deriving DecidableEq, Repr

/-- Block codes (Table 2-2, R38). -/
def blkCode : Blk → Nat
  | .pkg => 0x01 | .hub => 0x02 | .pwr => 0x03 | .clk => 0x04 | .rst => 0x05 | .sec => 0x06 | .lcs => 0x07
  | .hqu => 0x08 | .job => 0x09 | .cxl => 0x0A | .gdr => 0x0B | .ups => 0x0C | .cnt => 0x0D
  | .mem => 0x10 | .drz => 0x11 | .tgc => 0x12 | .gmv => 0x13 | .upf => 0x14 | .rgn => 0x15 | .clu => 0x16
  | .pse => 0x17 | .cor => 0x18 | .mxa => 0x19 | .ven => 0x1A | .atn => 0x1B | .chn => 0x1C | .trc => 0x1D
  | .dig => 0x1E | .lnk => 0x20 | .tor => 0x21 | .opt => 0x22 | .dtd => 0x23 | .gxe => 0x24

def pgPkg : Nat := 0
def pgHub : Nat := 1
def pgPwr : Nat := 2
def pgClk : Nat := 3
def pgRst : Nat := 4
def pgSec : Nat := 5
def pgLcs : Nat := 6
def pgCxl : Nat := 7
def pgCnt : Nat := 8
def pgUps : Nat := 9
def pgGdr (port : Nat) : Nat := 16 + port
def pgJob (f : Nat) : Nat := 32 + f
def pgHqu (q : Nat) : Nat := 256 + q / 16
def pgLnk (dir : Nat) : Nat := 0x1000 + dir
def pgOpt (oe : Nat) : Nat := 0x1008 + oe
def pgTor : Nat := 0x100C
def pgDtd : Nat := 0x100D
def pgGxe : Nat := 0x1010
/-- First page of region index 16 × die + region (R44). -/
def pgRegion (r : Nat) : Nat := 0x2000 + 0x200 * r
def pgRgn (r : Nat) : Nat := pgRegion r
def pgMem (r ch : Nat) : Nat := pgRegion r + 1 + ch
def pgTgc (r ch : Nat) : Nat := pgRegion r + 9 + ch
def pgDrz (r : Nat) : Nat := pgRegion r + 17
def pgGmv (r : Nat) : Nat := pgRegion r + 18
def pgUpf (r : Nat) : Nat := pgRegion r + 19
def pgPse (r : Nat) : Nat := pgRegion r + 20
def pgDig (r : Nat) : Nat := pgRegion r + 21
/-- Page of cluster index 8 × region index + cluster. -/
def pgClu (k : Nat) : Nat := pgRegion (k / 8) + 22 + k % 8
/-- Page `j` (0 COR to 5 TRC) of a core by its flat index (R13, R44). -/
def pgCore (core j : Nat) : Nat := pgRegion (core / 64) + 64 + 6 * (core % 64) + j
def pgCor (core : Nat) : Nat := pgCore core 0
def pgMxa (core : Nat) : Nat := pgCore core 1
def pgVen (core : Nat) : Nat := pgCore core 2
def pgAtn (core : Nat) : Nat := pgCore core 3
def pgChn (core : Nat) : Nat := pgCore core 4
def pgTrc (core : Nat) : Nat := pgCore core 5

/-- Block and instance of a page within its region (Table 2-4). -/
def regionPage (r l : Nat) : Option (Blk × Nat) :=
  if l = 0 then some (.rgn, r)
  else if l ≤ 8 then some (.mem, 8 * r + (l - 1))
  else if l ≤ 16 then some (.tgc, 8 * r + (l - 9))
  else if l = 17 then some (.drz, r)
  else if l = 18 then some (.gmv, r)
  else if l = 19 then some (.upf, r)
  else if l = 20 then some (.pse, r)
  else if l = 21 then some (.dig, r)
  else if l ≤ 29 then some (.clu, 8 * r + (l - 22))
  else if l < 64 then none
  else if l < 448 then
    let core := 64 * r + (l - 64) / 6
    match (l - 64) % 6 with
    | 0 => some (.cor, core)
    | 1 => some (.mxa, core)
    | 2 => some (.ven, core)
    | 3 => some (.atn, core)
    | 4 => some (.chn, core)
    | _ => some (.trc, core)
  else none

/-- Block and instance of a BAR0 page; none for a reserved page (R44). -/
def pageBlk (p : Nat) : Option (Blk × Nat) :=
  if p < 10 then
    match p with
    | 0 => some (.pkg, 0) | 1 => some (.hub, 0) | 2 => some (.pwr, 0) | 3 => some (.clk, 0) | 4 => some (.rst, 0)
    | 5 => some (.sec, 0) | 6 => some (.lcs, 0) | 7 => some (.cxl, 0) | 8 => some (.cnt, 0) | _ => some (.ups, 0)
  else if p < 16 then none
  else if p < 32 then some (.gdr, p - 16)
  else if p < 48 then some (.job, p - 32)
  else if p < 256 then none
  else if p < 512 then some (.hqu, p - 256)
  else if p < 0x1000 then none
  else if p < 0x1008 then some (.lnk, p - 0x1000)
  else if p < 0x100C then some (.opt, p - 0x1008)
  else if p = 0x100C then some (.tor, 0)
  else if p = 0x100D then some (.dtd, 0)
  else if p = 0x1010 then some (.gxe, 0)
  else if p < 0x2000 then none
  else if p < 0x6000 then regionPage ((p - 0x2000) / 0x200) ((p - 0x2000) % 0x200)
  else none

/-- One line of a register table: offset, count and stride of a repeated register, the writable bits, those of them
that a job function which may reach the page may also write, and the reset value. -/
structure RegRow where
  off : Nat
  n : Nat := 1
  step : Nat := 8
  rw : Nat := 0
  job : Nat := 0
  reset : Nat := 0
  kept : Bool := false
deriving DecidableEq, Repr

/-- All bits. -/
def m64 : Nat := 0xFFFFFFFFFFFFFFFF

/-- Register table of the PKG page. -/
def tabPkg : List RegRow :=
  [{ off := 0x100, reset := 0x1B10720 },
   { off := 0x108 }]

/-- Register table of the HUB page. -/
def tabHub : List RegRow :=
  [{ off := 0x100 },
   { off := 0x108, rw := 0x3FF },
   { off := 0x110, n := 4 },
   { off := 0x130 }]

/-- Register table of the PWR page. -/
def tabPwr : List RegRow :=
  [{ off := 0x100, rw := 0x7FF, reset := 0x4B0 },
   { off := 0x108, rw := 0x7, reset := 0x22 },
   { off := 0x110 },
   { off := 0x118, rw := 0x23, reset := 0x20 },
   { off := 0x120, n := 4, rw := 0xFFFFFFFFFFFFFFFF },
   { off := 0x140, rw := 0x7FFF },
   { off := 0x148, kept := true }]

/-- Register table of the CLK page. -/
def tabClk : List RegRow :=
  [{ off := 0x100, rw := 0x3, kept := true },
   { off := 0x108 },
   { off := 0x110 }]

/-- Register table of the RST page. -/
def tabRst : List RegRow :=
  [{ off := 0x100, rw := 0xFF03 },
   { off := 0x108, reset := 0x4 },
   { off := 0x110 }]

/-- Register table of the SEC page. -/
def tabSec : List RegRow :=
  [{ off := 0x100 },
   { off := 0x108 },
   { off := 0x110, rw := 0xF },
   { off := 0x140, n := 8 },
   { off := 0x180, n := 8 },
   { off := 0x1C0, n := 8 }]

/-- Register table of the LCS page. -/
def tabLcs : List RegRow :=
  [{ off := 0x100, kept := true },
   { off := 0x108, n := 4 },
   { off := 0x128, rw := 0xFFFFFFFFFFFFF000 },
   { off := 0x130, rw := 0x1FF07 },
   { off := 0x138 }]

/-- Register table of the HQU page. -/
def tabHqu : List RegRow :=
  [{ off := 0x100, n := 16, step := 0x40, rw := 0xFFFFFFFFFFFFF000, job := 0xFFFFFFFFFFFFF000 },
   { off := 0x108, n := 16, step := 0x40, rw := 0xFFFFFFFFFFFFF000, job := 0xFFFFFFFFFFFFF000 },
   { off := 0x110, n := 16, step := 0x40, rw := 0x1FFFF1F1F, job := 0x1FFFF1F1F, reset := 0x404 },
   { off := 0x118, n := 16, step := 0x40, rw := 0x3, job := 0x3 },
   { off := 0x120, n := 16, step := 0x40 }]

/-- Register table of the JOB page. -/
def tabJob : List RegRow :=
  [{ off := 0x100, rw := 0x1F00FF },
   { off := 0x108, rw := 0xFFFFFFFFFFFFF000, job := 0xFFFFFFFFFFFFF000 },
   { off := 0x110, rw := 0x10F, job := 0x10F, reset := 0x6 },
   { off := 0x118, rw := 0xFFF, job := 0xFFF },
   { off := 0x120, reset := 0x1000 },
   { off := 0x140, rw := 0xF01, reset := 0x400 },
   { off := 0x148, rw := 0xFFFFFFFF },
   { off := 0x150, rw := 0xFFFFFFFFFFE00000 },
   { off := 0x158, rw := 0xFFFF },
   { off := 0x160 },
   { off := 0x200, n := 32, rw := 0xFFFFFFFFFFFFFFFF },
   { off := 0x300, n := 8, rw := 0xFFFFFFFFFFFFFFFF },
   { off := 0x400, n := 32 }]

/-- Register table of the CXL page. -/
def tabCxl : List RegRow :=
  [{ off := 0x100, rw := 0x7C00000000 }]

/-- Register table of the GDR page. -/
def tabGdr : List RegRow :=
  [{ off := 0x100, rw := 0x3F, reset := 0x10, kept := true },
   { off := 0x108 },
   { off := 0x110 }]

/-- Register table of the UPS page. -/
def tabUps : List RegRow :=
  [{ off := 0x100 },
   { off := 0x108 }]

/-- Register table of the CNT page. -/
def tabCnt : List RegRow :=
  [{ off := 0x100 },
   { off := 0x108, rw := 0xE },
   { off := 0x110, rw := 0xFFFFFFFFFFFFF000 },
   { off := 0x118, rw := 0x1F1F, reset := 0xC10 },
   { off := 0x120, n := 8 }]

/-- Register table of the MEM page. -/
def tabMem : List RegRow :=
  [{ off := 0x100, rw := 0x3, reset := 0x1 },
   { off := 0x108, rw := 0x1FFFF, reset := 0x818 },
   { off := 0x110 }]

/-- Register table of the DRZ page. -/
def tabDrz : List RegRow :=
  [{ off := 0x100 }]

/-- Register table of the TGC page. -/
def tabTgc : List RegRow :=
  [{ off := 0x100, rw := 0xFFFFFFFF03FF, reset := 0x10080 },
   { off := 0x108, rw := 0x7FFFFFFF },
   { off := 0x110, rw := 0x7FFFFFFF, reset := 0x7FFFFF80 },
   { off := 0x118, rw := 0xFFFFFFFFFFFFFFFF, reset := 0x1 },
   { off := 0x120 },
   { off := 0x128 }]

/-- Register table of the GMV page. -/
def tabGmv : List RegRow :=
  [{ off := 0x100 }]

/-- Register table of the UPF page. -/
def tabUpf : List RegRow :=
  [{ off := 0x100, n := 64, rw := 0xFFFFFFFF, job := 0xFFFFFFFF },
   { off := 0x300, n := 4, rw := 0xFFFFFFFFFFFFFFFF, job := 0xFFFFFFFFFFFFFFFF },
   { off := 0x320 },
   { off := 0x328 },
   { off := 0x330 },
   { off := 0x800, n := 128, rw := 0xFFFFFFFFFFFFFFFF, job := 0xFFFFFFFFFFFFFFFF }]

/-- Register table of the RGN page. -/
def tabRgn : List RegRow :=
  [{ off := 0x100 }]

/-- Register table of the CLU page. -/
def tabClu : List RegRow :=
  [{ off := 0x100, n := 8, rw := 0xFF7F001F }]

/-- Register table of the PSE page. -/
def tabPse : List RegRow :=
  [{ off := 0x100, rw := 0xFFFFFFFFF, reset := 0x800000000 },
   { off := 0x108, rw := 0xFFFFFFFFFFFFFFFF },
   { off := 0x110, rw := 0x1FFF1FFF, reset := 0x10000 },
   { off := 0x118, rw := 0xFF03, job := 0xFF03, reset := 0x800 },
   { off := 0x120, rw := 0xF7 },
   { off := 0x128, rw := 0xF7 },
   { off := 0x130, n := 4, step := 0x10, rw := 0xFFFFFFFFFFFFFFC0, job := 0xFFFFFFFFFFFFFFC0 },
   { off := 0x138, n := 4, step := 0x10, rw := 0xFFFF0FFF, job := 0xFFFF0FFF },
   { off := 0x180, n := 4, step := 0x20, rw := 0xFFFFFFFFFFFFFFC0, job := 0xFFFFFFFFFFFFFFC0 },
   { off := 0x188, n := 4, step := 0x20 },
   { off := 0x190, n := 4, step := 0x20 },
   { off := 0x198, n := 4, step := 0x20 },
   { off := 0x200 },
   { off := 0x208 },
   { off := 0x210 }]

/-- Register table of the COR page. -/
def tabCor : List RegRow :=
  [{ off := 0x100, n := 4, step := 0x40, rw := 0x7F3F001F },
   { off := 0x108, n := 4, step := 0x40, rw := 0x1FF01FF },
   { off := 0x110, n := 4, step := 0x40 },
   { off := 0x118, n := 4, step := 0x40 },
   { off := 0x120, n := 4, step := 0x40 },
   { off := 0x128, n := 4, step := 0x40 },
   { off := 0x130, n := 4, step := 0x40 },
   { off := 0x200 }]

/-- Register table of the MXA page. -/
def tabMxa : List RegRow :=
  [{ off := 0x100, rw := 0x1, reset := 0x1 },
   { off := 0x108 },
   { off := 0x110 },
   { off := 0x118 }]

/-- Register table of the VEN page. -/
def tabVen : List RegRow :=
  [{ off := 0x100 },
   { off := 0x108 },
   { off := 0x110 },
   { off := 0x118 }]

/-- Register table of the ATN page. -/
def tabAtn : List RegRow :=
  [{ off := 0x100 }]

/-- Register table of the CHN page. -/
def tabChn : List RegRow :=
  [{ off := 0x100, n := 16, step := 0x20, rw := 0xFF7FF003F },
   { off := 0x108, n := 16, step := 0x20 },
   { off := 0x110, n := 16, step := 0x20 },
   { off := 0x300, n := 16, step := 0x20, rw := 0xF3FF },
   { off := 0x308, n := 16, step := 0x20, rw := 0x7FF01FF01FF },
   { off := 0x310, n := 16, step := 0x20 },
   { off := 0x318, n := 16, step := 0x20 },
   { off := 0x500, rw := 0xFFFFFFFF, reset := 0x64 }]

/-- Register table of the TRC page. -/
def tabTrc : List RegRow :=
  [{ off := 0x100, rw := 0x3F, reset := 0x3C },
   { off := 0x108, rw := 0xF03, reset := 0x800 },
   { off := 0x110, rw := 0xFFFFFFFFFFFFF000 },
   { off := 0x118, rw := 0x1F, reset := 0x12 },
   { off := 0x120 },
   { off := 0x128 },
   { off := 0x130, rw := 0x7FFF },
   { off := 0x138 }]

/-- Register table of the DIG page. -/
def tabDig : List RegRow :=
  [{ off := 0x100, rw := 0xFFFF3FFFFF, reset := 0x3E8000032 },
   { off := 0x108, rw := 0xFFFFFFFFFFFFFFC0, job := 0xFFFFFFFFFFFFFFC0 },
   { off := 0x110 },
   { off := 0x118 },
   { off := 0x120 }]

/-- Register table of the LNK page. -/
def tabLnk : List RegRow :=
  [{ off := 0x100, rw := 0x4F, reset := 0xE },
   { off := 0x108, rw := 0xFFFFFF, reset := 0x9C40 },
   { off := 0x110, rw := 0xFFFF, reset := 0x1388 },
   { off := 0x118, rw := 0xFFFFFF00FFFFFF, reset := 0x100000003E804 },
   { off := 0x120, rw := 0xFFFFFFFFFFFFFFFF, reset := 0x2020404010101010 },
   { off := 0x128 },
   { off := 0x130 },
   { off := 0x138 },
   { off := 0x140 },
   { off := 0x148 },
   { off := 0x150 },
   { off := 0x158 }]

/-- Register table of the TOR page. -/
def tabTor : List RegRow :=
  [{ off := 0x100, rw := 0xFFFFFFFFFFFF },
   { off := 0x108 },
   { off := 0x110, n := 16, rw := 0x1FFFFFFFFFFFF },
   { off := 0x190, rw := 0xFFFFFFFF, reset := 0x2710 },
   { off := 0x198, n := 8, rw := 0x1FFFFFF },
   { off := 0x1D8, kept := true },
   { off := 0x1E0 }]

/-- Register table of the OPT page. -/
def tabOpt : List RegRow :=
  [{ off := 0x100, rw := 0x3 },
   { off := 0x108 },
   { off := 0x110 }]

/-- Register table of the DTD page. -/
def tabDtd : List RegRow :=
  [{ off := 0x100, rw := 0x1F, reset := 0x8 },
   { off := 0x108 },
   { off := 0x110 }]

/-- Register table of the GXE page. -/
def tabGxe : List RegRow :=
  [{ off := 0x100, n := 16, step := 0x40, rw := 0xFFFFFFF3F3F01, reset := 0x14000000 },
   { off := 0x108, n := 16, step := 0x40, rw := 0xFFFFFFFFFFFFFFFF, reset := 0xF424000006414 },
   { off := 0x110, n := 16, step := 0x40, rw := 0xFFFFFFFFFFFFFFC0 },
   { off := 0x118, n := 16, step := 0x40, rw := 0xFFFFFFFFFFFFFFC0 },
   { off := 0x120, n := 16, step := 0x40, rw := 0xFFFFFFFFFFFFF000 },
   { off := 0x128, n := 16, step := 0x40, rw := 0xFFFF007F01FF },
   { off := 0x130, n := 16, step := 0x40, rw := 0xFFFFFFFFFFFFF01F, reset := 0x6 },
   { off := 0x138, n := 16, step := 0x40, rw := 0xFFFFFFFFFFFFF01F, reset := 0x6 },
   { off := 0x500, n := 16, step := 0x20 },
   { off := 0x508, n := 16, step := 0x20 },
   { off := 0x510, n := 16, step := 0x20 }]

/-- The register table of a block. -/
def regTable : Blk → List RegRow
  | .pkg => tabPkg
  | .hub => tabHub
  | .pwr => tabPwr
  | .clk => tabClk
  | .rst => tabRst
  | .sec => tabSec
  | .lcs => tabLcs
  | .hqu => tabHqu
  | .job => tabJob
  | .cxl => tabCxl
  | .gdr => tabGdr
  | .ups => tabUps
  | .cnt => tabCnt
  | .mem => tabMem
  | .drz => tabDrz
  | .tgc => tabTgc
  | .gmv => tabGmv
  | .upf => tabUpf
  | .rgn => tabRgn
  | .clu => tabClu
  | .pse => tabPse
  | .cor => tabCor
  | .mxa => tabMxa
  | .ven => tabVen
  | .atn => tabAtn
  | .chn => tabChn
  | .trc => tabTrc
  | .dig => tabDig
  | .lnk => tabLnk
  | .tor => tabTor
  | .opt => tabOpt
  | .dtd => tabDtd
  | .gxe => tabGxe

/-- What PAGE_CAP reads in a block's pages: LAST_OFFSET, CNT_COUNT, ERR_BITS, EVT_BITS (R37). -/
def capOf : Blk → Nat × Nat × Nat × Nat
  | .pkg => (0x108, 0, 2, 0)
  | .hub => (0x130, 2, 8, 0)
  | .pwr => (0x148, 8, 12, 1)
  | .clk => (0x110, 1, 8, 0)
  | .rst => (0x110, 3, 2, 0)
  | .sec => (0x1F8, 2, 9, 0)
  | .lcs => (0x138, 1, 2, 1)
  | .hqu => (0x4E0, 16, 9, 0)
  | .job => (0x4F8, 4, 9, 1)
  | .cxl => (0x100, 2, 8, 0)
  | .gdr => (0x110, 5, 12, 0)
  | .ups => (0x108, 5, 8, 0)
  | .cnt => (0x158, 2, 2, 1)
  | .mem => (0x110, 5, 11, 0)
  | .drz => (0x100, 4, 8, 0)
  | .tgc => (0x128, 4, 8, 0)
  | .gmv => (0x100, 4, 9, 0)
  | .upf => (0xBF8, 8, 8, 1)
  | .rgn => (0x100, 2, 2, 0)
  | .clu => (0x138, 4, 10, 0)
  | .pse => (0x210, 8, 10, 1)
  | .cor => (0x200, 8, 11, 0)
  | .mxa => (0x118, 8, 11, 0)
  | .ven => (0x118, 6, 9, 0)
  | .atn => (0x100, 4, 9, 0)
  | .chn => (0x500, 50, 10, 0)
  | .trc => (0x138, 2, 2, 0)
  | .dig => (0x120, 4, 9, 1)
  | .lnk => (0x158, 14, 9, 3)
  | .tor => (0x1E0, 6, 10, 0)
  | .opt => (0x110, 2, 8, 0)
  | .dtd => (0x110, 2, 9, 0)
  | .gxe => (0x6F0, 13, 10, 1)

/-- The event that an ERR_STATUS bit raises (R60 and each block's error table); bits 0 and 1 are R43's. -/
def errEvent : Blk → Nat → Option Nat
  | .pwr, 10 => some 0x00A2
  | .pwr, 11 => some 0x00A3
  | .pwr, 12 => some 0x00A1
  | .sec, 8 => some 0x00C0
  | .hqu, 9 => some 0x0002
  | .gdr, 8 => some 0x0010
  | .gdr, 9 => some 0x0011
  | .gdr, 10 => some 0x0010
  | .gdr, 11 => some 0x0010
  | .ups, 8 => some 0x0010
  | .mem, 8 => some 0x0010
  | .mem, 9 => some 0x0011
  | .mem, 10 => some 0x0010
  | .drz, 8 => some 0x0010
  | .gmv, 8 => some 0x0010
  | .gmv, 9 => some 0x0011
  | .upf, 8 => some 0x0010
  | .clu, 8 => some 0x0010
  | .clu, 9 => some 0x0011
  | .pse, 10 => some 0x0010
  | .cor, 8 => some 0x0010
  | .cor, 9 => some 0x0010
  | .cor, 10 => some 0x0011
  | .cor, 11 => some 0x0021
  | .mxa, 8 => some 0x0020
  | .mxa, 10 => some 0x0010
  | .mxa, 11 => some 0x0011
  | .ven, 8 => some 0x0010
  | .ven, 9 => some 0x0011
  | .atn, 8 => some 0x0010
  | .chn, 8 => some 0x0030
  | .chn, 10 => some 0x0010
  | .dig, 8 => some 0x0052
  | .lnk, 8 => some 0x0073
  | .tor, 9 => some 0x0080
  | .gxe, 8 => some 0x0061
  | .gxe, 9 => some 0x0010
  | _, 0 => some 0x0001
  | _, 1 => some 0x0001
  | _, _ => none

/-- The event that an EVT_STATUS bit raises (R60 and each block's event table). -/
def evtEvent : Blk → Nat → Option Nat
  | .pwr, 0 => some 0x00A0
  | .lcs, 0 => some 0x00C1
  | .job, 0 => some 0x0090
  | .cnt, 0 => some 0x00B1
  | .upf, 0 => some 0x0050
  | .pse, 0 => some 0x0040
  | .dig, 0 => some 0x0051
  | .lnk, 0 => some 0x0070
  | .lnk, 1 => some 0x0071
  | .lnk, 2 => some 0x0072
  | .gxe, 0 => some 0x0060
  | _, _ => none

/-- The counters of a block that are of the error class (R500). -/
def errCounters : Blk → List Nat
  | .pkg => []
  | .hub => []
  | .pwr => [7]
  | .clk => [0]
  | .rst => [0, 1, 2]
  | .sec => [0]
  | .lcs => [0]
  | .hqu => []
  | .job => [2]
  | .cxl => [1]
  | .gdr => [2, 3, 4]
  | .ups => [3, 4]
  | .cnt => [1]
  | .mem => [2, 3, 4]
  | .drz => [2, 3]
  | .tgc => [3]
  | .gmv => [3]
  | .upf => [4, 5, 6, 7]
  | .rgn => []
  | .clu => [3]
  | .pse => [6, 7]
  | .cor => [7]
  | .mxa => [3, 4, 5, 6, 7]
  | .ven => [3, 4, 5]
  | .atn => [3]
  | .chn => [48, 49]
  | .trc => [1]
  | .dig => [1, 2, 3]
  | .lnk => [5, 6, 8, 9, 10, 11, 12]
  | .tor => [1, 3, 4]
  | .opt => [0, 1]
  | .dtd => [0, 1]
  | .gxe => [6, 7, 8, 9, 10, 11, 12]


/-- The offset lies in the row's registers. -/
def rowHas (r : RegRow) (off : Nat) : Bool :=
  decide (r.off ≤ off) && decide ((off - r.off) % r.step = 0) && decide ((off - r.off) / r.step < r.n)

/-- The row of a block's table that holds an offset. -/
def regRow (b : Blk) (off : Nat) : Option RegRow := (regTable b).find? (fun r => rowHas r off)

/-- The map key of a register (R44). -/
def regKey (page off : Nat) : Nat := page * 512 + off / 8

/-- Reset value of a register by its key. -/
def regReset (key : Nat) : W64 :=
  match pageBlk (key / 512) with
  | none => 0
  | some (b, _) =>
    match regRow b (key % 512 * 8) with
    | none => 0
    | some r => BitVec.ofNat 64 r.reset

/-- What PAGE_CAP reads (R37): LAST_OFFSET, CNT_COUNT, ERR_BITS, EVT_BITS. -/
def capWord (c : Nat × Nat × Nat × Nat) : Nat := c.1 + 2 ^ 16 * c.2.1 + 2 ^ 32 * c.2.2.1 + 2 ^ 40 * c.2.2.2

/-- What PAGE_ID reads (R37). -/
def idWord (b : Blk) (inst : Nat) : Nat := blkCode b + 2 ^ 16 * inst + 2 ^ 32

end Sys2Proof.Machine
end

