-- ==== Sys2Proof/Machine/Flags.lean ====
section
/-! DEFINITION. Event numbers, their class and delivery (Table 2-8), and which register bits reach the always-on log. -/
namespace Sys2Proof.Machine

/-- The events of class Error (Table 2-8). -/
def evIsError (n : Nat) : Bool :=
  [0x0001, 0x0002, 0x0003, 0x0010, 0x0021, 0x0030, 0x0052, 0x0061, 0x0073, 0x0080, 0x00A1, 0x00A2, 0x00A3,
    0x00C0].contains n

/-- Function 0 is among those an event is delivered to (M in Table 2-8). -/
def evToM (n : Nat) : Bool :=
  [0x0001, 0x0002, 0x0010, 0x0011, 0x0020, 0x0021, 0x0051, 0x0052, 0x0061, 0x0070, 0x0071, 0x0072, 0x0080, 0x00A0,
    0x00B0, 0x00B1, 0x00C0, 0x00C1].contains n

/-- The function that owns the source is among those an event is delivered to (O in Table 2-8). -/
def evToO (n : Nat) : Bool :=
  [0x0001, 0x0002, 0x0010, 0x0020, 0x0021, 0x0030, 0x0040, 0x0050, 0x0051, 0x0052, 0x0060, 0x0061, 0x0080, 0x0090,
    0x00B0].contains n

/-- Every enabled function receives the event (A in Table 2-8). -/
def evToAll (n : Nat) : Bool := [0x0073, 0x00A1, 0x00A2, 0x00A3].contains n

/-- A bit with this event gets an always-on log entry (R475). -/
def evLogged (n : Nat) : Bool := evIsError n || [0x0020, 0x0051, 0x0070, 0x0071].contains n

/-- The functions an event is delivered to, given its owners, ascending without repeats (R61). -/
def evTargets (n : Nat) (owners : List Nat) : List Nat :=
  if evToAll n then upTo 16
  else (upTo 16).filter (fun f => (evToM n && f == 0) || (evToO n && owners.contains f))

def stOK : Nat := 0x00
def stAccess : Nat := 0x01
def stUncorr : Nat := 0x02
def stLinkLost : Nat := 0x03
def stChanTimeout : Nat := 0x04
def stCheckFenced : Nat := 0x05
def stNonfinite : Nat := 0x06
def stNormBound : Nat := 0x07
def stStragDeferred : Nat := 0x08
def stStragDropped : Nat := 0x09
def stSplit : Nat := 0x0A
def stReshard : Nat := 0x0B
def stPreempted : Nat := 0x0C
def stBrownout : Nat := 0x0D
def stFormat : Nat := 0x0E
def stBadCommand : Nat := 0x0F

end Sys2Proof.Machine
end

