-- ==== Sys2Proof/Machine/State.lean ====
section
/-! DEFINITION. The state of the OBV-720 as plain data, and State.reset. Every group of like records is a sparse map
whose default is the record after a cold reset; `{}` of each record is that default. -/
namespace Sys2Proof.Machine

/-- Why the machine would stop. The block has no stopping behaviour of its own: no meaning answers with it. -/
inductive Fault where
  /-- Raised by nothing: the spec gives every command of the block an effect. Safe: a stop hides no behaviour. -/
  | stopped
deriving DecidableEq, Repr

/-- Why a command would be refused. -/
inductive Refusal where
  /-- Raised by an arm of exec whose command has no meaning yet. Safe: a refused command proves nothing. -/
  | notModelled (mnemonic : String)
deriving DecidableEq, Repr

/-- Where a command came from (R57, R65): a host queue, or a context's ISSUE. -/
inductive Src where
  | host (q idx tag : Nat) (silent stop : Bool)
  | ctx
deriving DecidableEq, Repr

/-- A command as an engine queue holds it (R56): its number in arrival order, target page, operation, 48-byte body,
source, submitting function, the job it acts for (R34, R537), and the context that its sync word or body names, or that
issued it (core as flat index; `named` false where no context is named). -/
structure QCmd where
  id : Nat := 0
  page : Nat := 0
  op : Nat := 0
  body : List Byte := []
  src : Src := .ctx
  fn : Nat := 0
  job : Nat := 0
  named : Bool := true
  core : Nat := 0
  ctx : Nat := 0
deriving DecidableEq, Repr

/-- One row block of an array command's output that waits to be written (R109, R111): its number within the
contribution, first output row and column, the accumulator buffer it leaves, and its rows of 32-bit patterns. -/
structure OutBlk where
  idx : Nat := 0
  row : Nat := 0
  col : Nat := 0
  buf : Nat := 0
  last : Bool := false
  bufLast : Bool := false
  vals : List (List Nat) := []
deriving DecidableEq, Repr

/-- A started command: `fin` is set when its effect is complete, to the status and the result bytes of its completion
(R58); `outs` are the parts of its output that wait for room or for their turn (R111, R165); `prog` counts the parts
done, `passes` the array passes done, `onSib` that its passes run on the sibling (R119), `began` that it had started,
`sets` that it is a MATMUL that holds the array's sets (R105); `since` is the HUB_TIME at which a timed wait began, or the
time of its start. -/
structure RCmd where
  cmd : QCmd := {}
  fin : Option (Nat × List Byte) := none
  outs : List OutBlk := []
  prog : Nat := 0
  passes : Nat := 0
  blocks : Nat := 0
  onSib : Bool := false
  began : Bool := true
  sets : Bool := false
  since : Nat := 0
deriving DecidableEq, Repr

/-- A command queue and the commands its engine works on (R64, R66, R67, R417, R536). -/
structure Engine where
  queue : List QCmd := []
  running : List RCmd := []
  aside : List RCmd := []
  lastJob : Nat := 0
  streak : Nat := 0
deriving DecidableEq, Repr

/-- A host queue (R46 to R55), Table 2-5: state code, cause code, phase, indices, the last doorbell values, the
unsignalled completions of R54, the hold of a STOP_ON_FAIL command (R52), and a completion ring out of reach (R50). -/
structure HQueue where
  st : Nat := 0
  cause : Nat := 0
  phase : Bool := true
  outstanding : Nat := 0
  sqHead : Nat := 0
  sqTail : Nat := 0
  cqTail : Nat := 0
  cqHead : Nat := 0
  qreset : Bool := false
  unsig : Nat := 0
  coalAt : Nat := 0
  hold : Bool := false
  cqLost : Bool := false
deriving DecidableEq, Repr

/-- A context of a control core (R65, R72, R74): state code of COR_CTX_STATE, halt status, PC as byte offset, g1 to g31,
the 16 sync counters, a stalled ISSUE, a stalled SYNCWAIT (counter and value), the command that started it, the ENGINE
byte of the failing command, and the trace gathering of R507 (branch outcomes, oldest lowest). -/
structure Ctx where
  st : Nat := 0
  haltStatus : Nat := 0
  pc : Nat := 0
  g : SMap W64 := []
  sync : SMap Nat := []
  stall : Option QCmd := none
  wait : Option (Nat × Nat) := none
  starter : Option QCmd := none
  failEngine : Nat := 0
  brN : Nat := 0
  brBits : Nat := 0
deriving DecidableEq, Repr

/-- The trace side of a cluster (R506 to R515): write offset of the buffer, filled once, overwritten, stopped, packets dropped, bytes
drained, undrained bytes, drop count waiting for its DROP packet. -/
structure TraceBuf where
  write : Nat := 0
  filled : Bool := false
  wrapped : Bool := false
  stopped : Bool := false
  dropped : Nat := 0
  drained : Nat := 0
  pend : Nat := 0
  dropPend : Nat := 0
deriving DecidableEq, Repr

/-- What the last read, sideband operation or protocol request answered: a Completer Abort, a status, the data, and
the poison indication of R471. -/
structure Reply where
  abort : Bool := false
  status : Nat := 0
  data : List Byte := []
  poison : Bool := false
deriving DecidableEq, Repr

/-- A stationary set (R99 to R103): state 0 EMPTY, 1 LOADING, 2 FULL (for the active set, 2 holds a loaded block), job,
format, shape, the block's element values with their scales (rows of K), and the check column s[k], a[k] (R101); `drop`
marks a set that R106 empties when the TILE_MOVE that still loads it completes. -/
structure StatSet where
  st : Nat := 0
  job : Nat := 0
  fmt : Nat := 0
  shape : Nat := 0
  vals : List (List Val) := []
  s : List Val := []
  a : List Val := []
  drop : Bool := false
deriving DecidableEq, Repr

/-- An accumulator buffer (R107, R108): state 0 FREE, 1 FILLING, 2 DRAINING; its values lie in the memory spAcc. -/
structure AccBuf where
  st : Nat := 0
  job : Nat := 0
  width : Nat := 0
  int : Bool := false
  m410 : Bool := false
deriving DecidableEq, Repr

/-- The matrix array of a core (R99 to R108, MXA_STATE) the pending perturbations of MXA_INJECT,
and the jobs whose sets R106 releases when their started commands end. -/
structure Mxa where
  shadow : StatSet := {}
  active : StatSet := {}
  held : Bool := false
  buf0 : AccBuf := {}
  buf1 : AccBuf := {}
  inject : Nat := 0
  relPend : List Nat := []
deriving DecidableEq, Repr
/-- An entry of the finished-tile queue (R165): its values lie in slot `slot` of the memory at spFtq. -/
structure FtqEntry where
  slot : Nat := 0
  job : Nat := 0
  rows : Nat := 0
  width : Nat := 0
  int : Bool := false
deriving DecidableEq, Repr

/-- A histogram slot (R175): tag, job, the 67 counters of R159 and its SATURATED bit. -/
structure HSlot where
  tagged : Bool := false
  job : Nat := 0
  ctr : SMap Nat := []
  sat : Bool := false
deriving DecidableEq, Repr

/-- The vector engine of a core (R162 to R176): buffer b's occupying job plus one (0 none), buffers released and not yet
zeroed (R168), the finished-tile queue oldest first, and the histogram slots. -/
structure Ven where
  occ : SMap Nat := []
  stale : SMap Nat := []
  ftq : List FtqEntry := []
  hs : SMap HSlot := []
deriving DecidableEq, Repr
/-- What JOB_PREEMPT took off one core for one job (R422): commands that had not started, started commands and sends that
waited in slots, by engine key; stationary sets, the hold, accumulator buffers with their bytes, tile buffers, finished-tile
entries with their bytes, histogram slots, scratch ranges by offset; the time and the bytes counted. -/
structure Saved where
  queued : List (Nat × QCmd) := []
  started : List (Nat × RCmd) := []
  aside : List (Nat × RCmd) := []
  shadow : Option StatSet := none
  active : Option StatSet := none
  held : Bool := false
  accs : List (Nat × AccBuf × List Byte) := []
  tbufs : List (Nat × List Byte) := []
  ftq : List (FtqEntry × List Byte) := []
  hs : List (Nat × HSlot) := []
  scratch : List (Nat × List Byte) := []
  at_ : Nat := 0
  bytes : Nat := 0
deriving DecidableEq, Repr

/-- A message on its way to an inbound channel (R195, R198): bytes of the pad before its record, offset and length of
the record in the reel, whether the record itself is a pad (R211), payload, flag byte, SEQ, TAG, and its send command. -/
structure Msg where
  pad : Nat := 0
  off : Nat := 0
  len : Nat := 0
  isPad : Bool := false
  flags : Nat := 0
  seq : Nat := 0
  tag : Nat := 0
  payload : List Byte := []
  sender : Nat := 0
  id : Nat := 0
deriving DecidableEq, Repr

/-- An outbound channel (R196, R200, R202): NEXT_SEQ, tail offset, the last head it knows and the bytes it counts as
used, the acknowledgements on their way back (command number, SEQ, offset) and the credit returns on their way. -/
structure OutCh where
  seq : Nat := 0
  tail : Nat := 0
  head : Nat := 0
  used : Nat := 0
  acks : List (Nat × Nat × Nat) := []
  returns : List Nat := []
deriving DecidableEq, Repr

/-- An inbound channel (R196, R203, R205): HEAD, USED, RES (RESERVED or OWED), NEXT_SEQ, the bound outbound channel plus
one (0 none), the records between head and tail (length, is a pad), and the messages on their way. -/
structure InCh where
  head : Nat := 0
  used : Nat := 0
  res : Nat := 0
  seq : Nat := 0
  peer : Nat := 0
  recs : List (Nat × Bool) := []
  flight : List Msg := []
deriving DecidableEq, Repr
/-- A micro-batch record (R225): progress of its F, B and W phases (0 not dispatched, 1 in flight, 2 done), its slot and
tag, its ACT_IN and GRAD_IN buffers plus one, whether the gradient has arrived, and whether it is closed. -/
structure PRec where
  f : Nat := 0
  b : Nat := 0
  w : Nat := 0
  slot : Nat := 0
  tag : Nat := 0
  act : Nat := 0
  grad : Nat := 0
  garr : Bool := false
  closed : Bool := false
deriving DecidableEq, Repr

/-- A phase in flight (R228): WORK_ID, phase, micro-batch, virtual stage, and its send buffer plus one. -/
structure PFlight where
  wid : Nat
  ph : Nat
  mb : Nat
  v : Nat
  buf : Nat
deriving DecidableEq, Repr

/-- A transfer (R222): micro-batch, virtual stage at the sender and at the receiver, bytes, send buffer, and whether it
has arrived without its report having returned. -/
structure Xfer where
  mb : Nat
  v : Nat
  dv : Nat
  bytes : Nat
  buf : Nat
  arrived : Bool := false
deriving DecidableEq, Repr

/-- A weight version slot (R235): 0 FREE, 1 FILLING, 2 PUBLISHED, REFCOUNT, FIRST_TAG and LAST_TAG. -/
structure VSlot where
  st : Nat := 0
  ref : Nat := 0
  first : Nat := 0
  last : Nat := 0
deriving DecidableEq, Repr

/-- A step (R241): number, NMB, LAG, segment table, its PSE_STEP command, admission time, read tag once fixed, and the
numbers of closed records and of F, B and W phases done; `ended` once its PSE_STEP has completed with its records kept;
`first` for the first step after bind or PSE_ABORT. -/
structure PStep where
  num : Nat := 0
  nmb : Nat := 0
  lag : Nat := 0
  seg : Nat := 0
  id : Nat := 0
  t0 : Nat := 0
  r : Option Nat := none
  closed : Nat := 0
  fd : Nat := 0
  bd : Nat := 0
  wd : Nat := 0
  ended : Bool := false
  first : Bool := false
deriving DecidableEq, Repr

/-- The pipeline stage engine of a region (chapter "Pipeline engine"): state code of PSE_STATE, the failure, the step
admitted and the one that waits, its records by 4,096 × virtual stage + micro-batch, phases in flight, buffers held by
4,096 × pool + buffer, arrivals for a step not yet admitted, transfers waiting and under way, credits of R223, version
slots, first tag opened, floor when no step is admitted, and an abort that waits for its slots. -/
structure Pse where
  st : Nat := 0
  failed : Bool := false
  failStatus : Nat := 0
  wid : Nat := 0
  cur : Option PStep := none
  wait : Option PStep := none
  lastNum : Option Nat := none
  recs : SMap PRec := []
  inflight : List PFlight := []
  held : SMap Nat := []
  early : List (Nat × Nat × Nat) := []
  fwdWait : List Xfer := []
  outF : List Xfer := []
  outB : List Xfer := []
  rxTotal : Nat := 0
  taken : Nat := 0
  freed : Nat := 0
  synced : Bool := false
  slots : SMap VSlot := []
  firstTag : Option Nat := none
  floor : Option Nat := none
  aborting : Bool := false
deriving DecidableEq, Repr

/-- The UPD_RUN that a UPF works on (R257 to R263): parameters, the snapshot of R259, descriptors, decisions of the norm
pass with their NORM, pass (0 norm, 1 version, 2 update), slot taken, address of the previous slot, groups treated,
groups torn and waiting for repair, how many were torn, class G groups that the UPS found torn meanwhile, and flags. -/
structure UpfRun where
  id : Nat := 0
  job : Nat := 0
  step : Nat := 0
  seed : Nat := 0
  first : Nat := 0
  scopeRun : Bool := false
  init : Bool := false
  d : Nat := 0
  c0 : Nat := 0
  c1 : Nat := 0
  consts : List Nat := []
  t0s : List Nat := []
  prog : List Nat := []
  descs : List (List Byte) := []
  decs : List (Nat × Nat) := []
  pass : Nat := 0
  slotAddr : Nat := 0
  prevAddr : Option Nat := none
  done : Nat := 0
  torn : List Nat := []
  tornN : Nat := 0
  late : List Nat := []
  wasTorn : Bool := false
  noticed : Bool := false
  noPub : Bool := false
deriving DecidableEq, Repr

/-- A run whose publication is pending (R265): tag, 0 no notice or notice done, 1 notice with the UPS; comparison 0 none
needed, 1 awaited, 2 agreed, repaired or late, 3 SPLIT; groups whose repair is awaited, how many are repaired, the
source of the repair; the run's groups with their descriptors. -/
structure PubRun where
  step : Nat := 0
  notice : Nat := 0
  cmp : Nat := 0
  repairs : List Nat := []
  repaired : Nat := 0
  source : Nat := 0
  descs : List (Nat × List Byte) := []
deriving DecidableEq, Repr

/-- The fast-tier update engine of a region: running command, pending publications oldest first, landing areas reported
complete (group, step), the highest STEP that has passed R260's checks, UPF_RUN_STEP, the groups of the last run
that passed them with their descriptors, and the steps whose version a SPLIT bars (R278). -/
structure Upf where
  run : Option UpfRun := none
  pubs : List PubRun := []
  landed : List (Nat × Nat) := []
  newest : Option Nat := none
  lastStep : Nat := 0
  lastDescs : List (Nat × List Byte) := []
  barred : List Nat := []
deriving DecidableEq, Repr

/-- A class G group of a notice (R271): index, descriptor, decision (0 update, 2 skip, 3 INIT), NORM. -/
structure NGroup where
  idx : Nat
  desc : List Byte
  dec : Nat
  norm : Nat
deriving DecidableEq, Repr

/-- A notice to the slow-tier update engine (R271). -/
structure Notice where
  region : Nat := 0
  job : Nat := 0
  step : Nat := 0
  seed : Nat := 0
  c0 : Nat := 0
  c1 : Nat := 0
  d : Nat := 0
  consts : List Nat := []
  t0s : List Nat := []
  prog : List Nat := []
  groups : List NGroup := []
  slotAddr : Nat := 0
  prevAddr : Option Nat := none
  started : Bool := false
deriving DecidableEq, Repr

/-- A step that a replica's DIG has sent for comparison (R275): STEP, time of sending, groups. -/
structure DigSent where
  step : Nat
  at_ : Nat
  groups : List Nat
deriving DecidableEq, Repr

/-- Who reported the majority value of a group that was repaired, in ascending order of d, with the distinct values and the
replicas that were counted (R276, R469). -/
structure DigMajor where
  step : Nat
  group : Nat
  from_ : List Nat
  distinct : Nat
  count : Nat
deriving DecidableEq, Repr

/-- The digest block of a region: steps sent and not yet answered, the reports that its comparer holds (step, d,
digests) with the time of the first of each step, the decisions it has taken, and the majorities behind its repairs. -/
structure Dig where
  sent : List DigSent := []
  reports : List (Nat × Nat × List (Nat × Nat)) := []
  firstAt : SMap Nat := []
  decided : List (Nat × DigReport) := []
  majors : List DigMajor := []
deriving DecidableEq, Repr
/-- A DATA frame that waits to leave through a direction or for its acknowledgement (R359, R368): fields of Table 12-1,
and for a forwarded frame the direction and pool of its receive buffer (direction plus one; 0 for own frames). -/
structure TxFrame where
  vc : Nat := 0
  dl : Bool := false
  dest : Nat := 0
  src : Nat := 0
  reqEpoch : Nat := 0
  payload : List Byte := []
  inDir : Nat := 0
  inPool : Nat := 0
  seq : Nat := 0
deriving DecidableEq, Repr

/-- A Merrak Link direction (chapter "Merrak Link"): LNK_STATE's fields, lane sets, RETRAIN of each way with its start,
sequence numbers, replay buffer oldest first with the SEQs to resend, held frames, NAK queue with the times of earlier
NAKs, credit counts by pool (taken, freed by the partner, freed here), frames waiting to leave, LINK frames not yet
answered by OP with the time each was last sent, lull start and cause, partner coordinate, failed attempts; of each way the
physical lane of every logical lane and the stream word that comes next modulo the width (R355, R357), and whether a way in
RETRAIN has trained; by receive lane the times of uncorrectable codewords and the corrected symbols with their times (R373);
transmit lanes stopped for want of laser light (R387); the time of the last valid frame; a link reset that no bring-up has
followed yet; the words of the last frame sent, by lane. -/
structure Lnk where
  st : Nat := 0
  epoch : Nat := 0
  pEpoch : Nat := 0
  pFresh : Bool := true
  txWidth : Nat := 0
  rxWidth : Nat := 0
  rxActive : Nat := 0
  rxBad : Nat := 0
  txActive : Nat := 0
  txBad : Nat := 0
  rxRetrain : Bool := false
  txRetrain : Bool := false
  rtAt : Nat := 0
  txNext : Nat := 0
  txAcked : Nat := 0
  replay : List TxFrame := []
  resend : List Nat := []
  ackAt : Nat := 0
  rxNext : Nat := 0
  delivered : Bool := false
  heldF : List (Nat × TxFrame) := []
  naks : List Nat := []
  nakAt : SMap Nat := []
  taken : SMap Nat := []
  pFreed : SMap Nat := []
  freed : SMap Nat := []
  outQ : List TxFrame := []
  linkOut : List Nat := []
  lullAt : Nat := 0
  cause : Nat := 0
  pCoord : Nat := 0
  pValid : Bool := false
  fails : Nat := 0
  failedAt : Nat := 0
  trainReq : Bool := false
  trained : Bool := false
  failed : Bool := false
  rtAtTx : Nat := 0
  lmAt : Nat := 0
  credTurn : Nat := 0
  linkAt : SMap Nat := []
  rxMap : List Nat := []
  txMap : List Nat := []
  rxPos : Nat := 0
  txPos : Nat := 0
  rxTrained : Bool := false
  txTrained : Bool := false
  ucw : SMap (List Nat) := []
  sym : SMap (List (Nat × Nat)) := []
  txStop : Nat := 0
  validAt : Nat := 0
  linkReset : Bool := false
  wire : List (Nat × List Byte) := []
deriving DecidableEq, Repr

/-- A TOR_PUT whose reply is outstanding (R400): command number, job, destination, first direction, frames not yet sent,
time of the last one sent. -/
structure PutOut where
  id : Nat
  job : Nat
  dest : Nat
  dir : Nat
  left : Nat
  sentAt : Nat
deriving DecidableEq, Repr

/-- A re-shard that runs (R405): command number, job, permutation, block addresses, block bytes, staging address, cycles
under way as (start, current index, copies made, buffer), indices moved, cycles done, copies made, start time. -/
structure Reshard where
  id : Nat := 0
  job : Nat := 0
  perm : List Nat := []
  blocks : List Nat := []
  size : Nat := 0
  stage : Nat := 0
  bufs : Nat := 0
  active : List (Nat × Nat × Nat × Nat) := []
  moved : List Nat := []
  cycles : Nat := 0
  copies : Nat := 0
  t0 : Nat := 0
deriving DecidableEq, Repr

/-- A BUCKET_READY that is pending, or whose chunks are not all sent (R296, R308, R317): command number, step, whether it
has been quantised, the CONTRIB packets of each shard not yet sent, shards in which it was late, and its ends. -/
structure BReady where
  id : Nat := 0
  bucket : Nat := 0
  step : Nat := 0
  t0 : Nat := 0
  fc : List Nat := []
  chunksOf : List (Nat × List GxePkt) := []
  uncorr : Bool := false
  lastLand : Nat := 0
  ended : Bool := false
deriving DecidableEq, Repr

/-- A contribution at its owner: replica, whether it is deferred, whether it is granted, its chunks. -/
structure GContrib where
  src : Nat
  deferred : Bool := false
  granted : Bool := false
  chunks : List GxePkt := []
deriving DecidableEq, Repr

/-- A shard that this package owns and has not finished (R300 to R304, R308): store slot plus one, first GRANT_REQ plus
one, window in ns, close time plus one, contributions, histogram packets. -/
structure GShard where
  bucket : Nat := 0
  step : Nat := 0
  slot : Nat := 0
  firstAt : Nat := 0
  w : Nat := 0
  closedAt : Nat := 0
  contribs : List GContrib := []
  hists : List (Nat × List Byte) := []
deriving DecidableEq, Repr

/-- A shard that is landing (R311, R312): its CLOSE body, chunks landed and chunks asked for again; `failed` once a chunk
has failed its second check, so that it never lands (R307). -/
structure GLand where
  bucket : Nat := 0
  shard : Nat := 0
  step : Nat := 0
  close : List Byte := []
  got : List Nat := []
  check : Nat := 0
  asked : List Nat := []
  failed : Bool := false
deriving DecidableEq, Repr

/-- The exchange set of a job (chapter "Gradient exchange"): FAILED, PREV with the step and time it rests on, ring
counters, pending BUCKET_READYs, owned shards, closed steps (bucket, step, time), results kept for resends, landing
shards, shards landed (bucket, shard, step), landed-shard masks of lateness, forecast values held and used (bucket, step,
values), the highest step seen, packets to this engine itself with their TYPE codes. -/
structure Gxe where
  failed : Bool := false
  prevNs : Nat := 0
  prevStep : Nat := 0
  prevAt : Nat := 0
  recNext : Nat := 0
  dlogNext : Nat := 0
  ready : List BReady := []
  shards : List GShard := []
  closed : List (Nat × Nat × Nat) := []
  results : List (Nat × Nat × List GxePkt) := []
  lands : List GLand := []
  landed : List (Nat × Nat × Nat × Bool) := []
  vals : List (Nat × Nat × List Nat) := []
  used : List (Nat × Nat × List Nat) := []
  stepHi : Nat := 0
  self : List (Nat × GxePkt) := []
deriving DecidableEq, Repr
/-- The power manager (chapter "Power, clocks, resets and die joins"): levels that the issue-rate ceiling and the core rail
have reached; times plus one (0 none) of the last step of the power cap, since when the average is below 95 % of the limit,
since when Tj is at or below 90 °C, and by shed row since when VIN_CORE is 30 mV above its threshold; THERMTRIP_N low; of the
last step of the thermal cap; S3 was entered at this very moment (R478, R530). -/
structure Pwr where
  ceil : Nat := 2
  rail : Nat := 2
  capAt : Nat := 0
  lowSince : Nat := 0
  coolSince : Nat := 0
  above : SMap Nat := []
  thermTrip : Bool := false
  hotAt : Nat := 0
  offNow : Bool := false
deriving DecidableEq, Repr

/-- What boot found and the recovery buffer (chapter "Boot, identity and life cycle"): SEC_BOOT's fields, SEC_BUILD, the
three measurements, the start-up that waits in recovery, owner of the buffer (0 none, 1 mailbox, 2 sideband) and the time
of its last write. -/
structure Sec where
  st : Nat := 0
  cause : Nat := 0
  source : Nat := 0
  slot : Nat := 0
  debug : Bool := false
  svn : Nat := 0
  build : Nat := 0
  meas : List (List Byte) := []
  start : Option StartUp := none
  owner : Nat := 0
  ownAt : Nat := 0
deriving DecidableEq, Repr

/-- Lanes of a bridge bundle that the assembly test leaves as spares, unless the fuses say otherwise (R21). -/
def spareLanes : List Nat := [64, 65, 66, 67]

/-- Fuses: life-cycle state code (R491), fused SVN, revoked key slots (R485), by bundle of DTD_GOOD the lanes that the
assembly test left as spares (R21), whether the identity seeds still stand (R491, R493), and the one-time identity area
(R489). What a part's fuses hold at reset is not given: BLANK, 0, no slot revoked, the last four lanes, seeds that stand and
an empty area are a DESIGN CHOICE (log 114). -/
structure Fuses where
  lcs : Nat := 0
  svn : Nat := 0
  revoked : Nat := 0
  spares : SMap (List Nat) := []
  seeds : Bool := true
  identity : List Byte := []
deriving DecidableEq, Repr

/-- A bridge bundle since the last start (R455, R465): good spare lanes left, failed lanes, and by lane the times of units
that failed their CRC. -/
structure Bundle where
  spares : List Nat := spareLanes
  bad : List Nat := []
  crc : SMap (List Nat) := []
deriving DecidableEq, Repr

structure State where
  /-- Commands waiting, first in first out. -/
  pending : List Instr := []
  /-- MODEL'S OWN: how many free values have been drawn. -/
  free : Nat := 0
  /-- HUB_TIME in nanoseconds, and whether the time clock counts (R447, R448). -/
  time : Nat := 0
  timeRuns : Bool := true
  /-- CXL_REF as the last cold or warm reset put it in force (R447). -/
  cxlRef : Nat := 0
  /-- All memories by global address, and the start addresses of granules whose check bytes match no codeword. -/
  mem : List Host.Cell := []
  bad : List Nat := []
  /-- Registers whose whole contents are held as a word, by BAR0 offset divided by 8. -/
  regs : SMap W64 := []
  cntIdx : SMap Nat := []
  ctrs : SMap Nat := []
  /-- MSI-X: table words by 1024 x function + word, pending bits and messages sent by 512 x function + vector. -/
  msixTable : SMap W64 := []
  msixPend : SMap Nat := []
  msixSent : SMap Nat := []
  nextId : Nat := 0
  hqs : SMap HQueue := []
  engs : SMap Engine := []
  ctxs : SMap Ctx := []
  /-- By core, the context that its next issue looks at first (R416). -/
  turn : SMap Nat := []
  traces : SMap TraceBuf := []
  traceFrozen : Bool := false
  tracePkts : SMap Nat := []
  reply : Reply := {}
  saves : SMap Saved := []
  /-- Entries written to the always-on log since VAON was first valid (R475, R483). -/
  aolWritten : Nat := 0
  /-- The CXL link is up (R474, R326), the port is released (R453), the fabric is open (R454). -/
  cxlUp : Bool := false
  portReleased : Bool := false
  fabricOpen : Bool := false
  /-- Power state 0 S0 to 3 S3 (R434), and the halt of R445. -/
  pstate : Nat := 0
  halted : Bool := false
  /-- The slow tier (GDR_TIER, R344, R347): populated ports, capacity in GiB, down, a tier training runs. -/
  tierPorts : Nat := 0
  tierGib : Nat := 0
  tierDown : Bool := false
  tierTraining : Bool := false
  mxas : SMap Mxa := []
  vens : SMap Ven := []
  /-- Channels (chapter "Message channels and reels"), by 16 x core + channel. -/
  outChs : SMap OutCh := []
  inChs : SMap InCh := []
  /-- Pipeline stage engines, update engines, digest blocks by region; the UPS's notices and held mailbox slots. -/
  pses : SMap Pse := []
  upfs : SMap Upf := []
  digs : SMap Dig := []
  notices : List Notice := []
  mboxHeld : List Nat := []
  /-- Landing areas that the exchange has reported complete (region, group, step), and master and moments sent for a
  repair (region, group, bytes). -/
  landReports : List (Nat × Nat × Nat) := []
  repairOut : List (Nat × Nat × List Byte) := []
  /-- Merrak Link directions, bytes delivered to this package by (4 x source coordinate + VC), light per OPT page. -/
  lnks : SMap Lnk := []
  rxStreams : SMap (List Byte) := []
  /-- The torus: puts outstanding, put requests waiting behind a re-shard, the re-shard. -/
  puts : List PutOut := []
  putWait : List PutReq := []
  reshard : Option Reshard := none
  /-- Exchange sets by job. -/
  gxes : SMap Gxe := []
  /-- The HDM decoder of the CXL.mem window is committed (R325), told with a write of the window's base or by an access
  through it. -/
  hdm : Bool := false
  /-- Freed memory that is being zeroed (R413), and what the background zeroing after thaw has not reached (R438). -/
  zeroing : List Freed := []
  thawing : List ThawPart := []
  pwr : Pwr := {}
  sec : Sec := {}
  fuses : Fuses := {}
  /-- Life-cycle nonces drawn so far (R493). -/
  nonceNo : Nat := 0
  /-- VAON is valid; the firmware measurement that the always-on log holds (R439, R486). -/
  vaon : Bool := true
  aolMeas : List Byte := []
  /-- Event records that wait until function 0 first enables its event ring (R407, R493, R495): number, page, DETAIL. -/
  owed : List (Nat × Nat × List Byte) := []
  /-- A warm reset that waits for the end of a trace freeze (R478): its LAST code, time, what start-up will find. -/
  resetWait : Option (Nat × Nat × StartUp) := none
  /-- Bridge bundles as DTD_GOOD numbers them (R465). A role of the CD0-CD1 bridge has lost its last bundle: bit 0 memory,
  bit 1 message. -/
  bundles : SMap Bundle := []
  cutRoles : Nat := 0
  /-- MODEL'S OWN: die of the engine whose effect is being computed, plus one; 0 between commands. -/
  actDie : Nat := 0
deriving DecidableEq, Repr

/-- The machine right after a cold reset. No strap is given: TOR_COORD and PWR_WAKE_ADDR are zero until a reset brings the
levels of the straps (DESIGN CHOICE, log 115). -/
def State.reset : State := {}

end Sys2Proof.Machine
end

