-- ==== Sys2Proof/Machine/Ops.lean ====
section
/-! DEFINITION. The named operations over registers, memory, counters, error and event reporting, completions' host
writes and interrupts. -/
namespace Sys2Proof.Machine

/-! ### Registers -/

/-- A register held as a word. -/
def reg (s : State) (page off : Nat) : Nat :=
  (mapGet (regReset (regKey page off)) s.regs (regKey page off)).toNat

/-- The state with a register set. -/
def setReg (s : State) (page off v : Nat) : State :=
  { s with regs := mapPut (regReset (regKey page off)) s.regs (regKey page off) (BitVec.ofNat 64 v) }

/-- A field of a register. -/
def regF (s : State) (page off lo w : Nat) : Nat := bits (reg s page off) lo w

/-- The state with a field of a register set. -/
def setRegF (s : State) (page off lo w x : Nat) : State := setReg s page off (setBits (reg s page off) lo w x)

/-! ### Records -/

/-- The engine whose effect is being computed stands on die `d - 1`; 0 between commands. -/
def setDie (s : State) (d : Nat) : State := { s with actDie := d }
/-- The queue of waiting commands is `q`. -/
def setPending (s : State) (q : List Instr) : State := { s with pending := q }

def hqOf (s : State) (q : Nat) : HQueue := mapGet {} s.hqs q
def setHq (s : State) (q : Nat) (h : HQueue) : State := { s with hqs := mapPut {} s.hqs q h }
def engOf (s : State) (e : Nat) : Engine := mapGet {} s.engs e
def setEng (s : State) (e : Nat) (x : Engine) : State := { s with engs := mapPut {} s.engs e x }
/-- Context `x` of a core by flat index. -/
def ctxOf (s : State) (core x : Nat) : Ctx := mapGet {} s.ctxs (core * 4 + x)
def setCtx (s : State) (core x : Nat) (c : Ctx) : State := { s with ctxs := mapPut {} s.ctxs (core * 4 + x) c }

/-- Engine key of a page: its command queue, and for COR the tile loader; `+ 1` is the control queue (R64, R66). ATN
commands enter the vector engine's queue. -/
def engKey (page op : Nat) : Nat :=
  match pageBlk page with
  | some (.cor, _) => if op = 4 then page * 2 else page * 2 + 1
  | some (.atn, c) => pgVen c * 2
  | _ => page * 2

/-- A free value is drawn (the n-th one is Config.freeNat n). -/
def draw (s : State) : Nat × State := (Config.freeNat s.free, { s with free := s.free + 1 })

/-! ### Address spaces -/

/-- First global address of offset 0 of a memory that is not in the fabric map. -/
def spaceBase (code unit : Nat) : Nat := 2 ^ 80 * code + 2 ^ 64 * unit
def spScratch (core : Nat) : Nat := spaceBase 1 core
def spClu (k : Nat) : Nat := spaceBase 2 k
def spImem (core : Nat) : Nat := spaceBase 3 core
def spHost : Nat := spaceBase 4 0
def spTbuf (core : Nat) : Nat := spaceBase 5 core
def spTrace (k : Nat) : Nat := spaceBase 6 k
def spAol : Nat := spaceBase 7 0
def spAcc (core : Nat) : Nat := spaceBase 8 core
def spVec (r : Nat) : Nat := spaceBase 9 r
def spRcv : Nat := spaceBase 10 0
/-- The program memory of a region's update engine; its words are the UPF_PROG registers. -/
def spUprog (r : Nat) : Nat := spaceBase 11 r
def slowBase : Nat := 0x10000000000
def stackedEnd : Nat := 0x8000000000
def scratchBytes : Nat := 0x180000
def cluBytes : Nat := 0x800000

/-- Bytes of the unit that one check code covers, by address (R77, R79, R107, R327, R337). -/
def granule (a : Nat) : Nat :=
  if a < 2 ^ 80 then 32
  else if a / 2 ^ 80 = 3 ∨ a / 2 ^ 80 = 8 then 4
  else 8

/-! ### Bytes -/

def rdByte (s : State) (a : Nat) : Byte := mapGet 0 s.mem a

def rdMem (s : State) (a : Nat) : Nat → List Byte
  | 0 => []
  | n + 1 => rdByte s a :: rdMem s (a + 1) n

/-- `n` little-endian bytes as a number. -/
def rdNum (s : State) (a n : Nat) : Nat := leNat (rdMem s a n)

def memWrite (m : List Host.Cell) (a : Nat) : List Byte → List Host.Cell
  | [] => m
  | b :: bs => memWrite (mapPut 0 m a b) (a + 1) bs

/-- Granules that a write of `n` bytes covers whole are readable again (R473). -/
def rewritten (s : State) (a n : Nat) : State :=
  { s with bad := s.bad.filter (fun g => !(decide (a ≤ g) && decide (g + granule g ≤ a + n))) }

/-- Bytes are written; a granule that the write covers whole is readable again (R473). -/
def wrMem (s : State) (a : Nat) (bs : List Byte) : State :=
  { s with
    mem := memWrite s.mem a bs
    bad := s.bad.filter (fun g => !(decide (a ≤ g) && decide (g + granule g ≤ a + bs.length))) }

/-- A range is zeroed by a wipe (R413, R450), which also rewrites its check bytes. -/
def wipe (s : State) (lo n : Nat) : State :=
  { s with
    mem := mapClear s.mem lo (lo + n)
    bad := s.bad.filter (fun g => decide (g < lo) || decide (lo + n ≤ g)) }

/-- Write a number as `n` little-endian bytes. -/
def wrNum (s : State) (a n v : Nat) : State := wrMem s a (leBytes n v)

/-- A time has come. While the time clock has no lock HUB_TIME stands, and an interval that the management controller or a
link measures by its own clock passes all the same (R448, R476, Table 16-3). -/
def passed (s : State) (t : Nat) : Bool := !s.timeRuns || decide (t ≤ s.time)

/-- The first granule that fails its check and meets the range. -/
def badIn (s : State) (a n : Nat) : Option Nat :=
  s.bad.find? (fun g => decide (g < a + n) && decide (a < g + granule g))

/-- The first failing granule that a write would cover only in part (R473). -/
def badPartial (s : State) (a n : Nat) : Option Nat :=
  s.bad.find? (fun g => decide (g < a + n) && decide (a < g + granule g) &&
    !(decide (a ≤ g) && decide (g + granule g ≤ a + n)))

/-- A granule's check bytes stop matching any codeword. -/
def spoil (s : State) (a : Nat) : State := { s with bad := setAdd s.bad (a - a % granule a) }

/-! ### Where a fabric address lies (R321, R322, R343) -/

/-- Region index of a stacked-memory address. -/
def fabRegion (a : Nat) : Nat := bits a 34 5

/-- g of R322 for a region. -/
def ilvG (s : State) (r : Nat) : Nat :=
  match regF s (pgMem r 0) 0x100 0 2 with
  | 0 => 8
  | 1 => 12
  | _ => 16

/-- Region channel of region offset `o` under interleave g (R322). -/
def ilvCh (g o : Nat) : Nat := bits o g 3 ^^^ bits o (g + 3) 3

/-- Channel-local address of region offset `o` (R322). -/
def ilvLocal (g o : Nat) : Nat := bits o (g + 3) (34 - (g + 3)) * 2 ^ g + bits o 0 g

/-- Region offset of a channel-local address: the inverse of R322's map. -/
def ilvInv (g ch l : Nat) : Nat :=
  bits l g (31 - g) * 2 ^ (g + 3) + (ch ^^^ bits l g 3) * 2 ^ g + bits l 0 g

/-- Region channel of a stacked-memory address. -/
def chanOf (s : State) (a : Nat) : Nat := ilvCh (ilvG s (fabRegion a)) (bits a 0 34)

/-- The MEM page that owns a stacked-memory address. -/
def memPageOf (s : State) (a : Nat) : Nat := pgMem (fabRegion a) (chanOf s a)

/-- The port of a slow-tier address (R343); port 0 while none is populated. -/
def portOf (s : State) (a : Nat) : Nat := if s.tierPorts = 0 then 0 else (a / 256) % s.tierPorts

/-- A range lies wholly in stacked memory. -/
def inStacked (a n : Nat) : Bool := decide (a + n ≤ stackedEnd)

/-- A range lies wholly in the populated slow tier (R321, R347). -/
def inSlow (s : State) (a n : Nat) : Bool :=
  decide (slowBase ≤ a) && decide (a + n ≤ slowBase + 2 ^ 30 * s.tierGib)

/-- A channel of a region is fenced (R331). -/
def chFenced (s : State) (r ch : Nat) : Bool := bit (reg s (pgMem r ch) 0x110) 0

/-- Any channel of the region is fenced. -/
def anyFenced (s : State) (r : Nat) : Bool := (upTo 8).any (fun ch => chFenced s r ch)

/-- The first 256-byte block of a stacked-memory range whose channel is fenced, searching `n` blocks. -/
def fencedBlk (s : State) : Nat → Nat → Option Nat
  | 0, _ => none
  | n + 1, b => if chFenced s (fabRegion (b * 256)) (chanOf s (b * 256)) then some (b * 256) else fencedBlk s n (b + 1)

/-- The acting engine reaches a stacked address only across the CD0-CD1 bridge, whose role for it has lost its last good
bundle (R465): the memory role for an engine of a die, and the message role for the exchange (`actDie` 3), a collective that
stands on die 0 (R22). -/
def cutOff (s : State) (a : Nat) : Bool :=
  if s.actDie = 3 then bit s.cutRoles 1 && a / 2 ^ 38 != 0
  else bit s.cutRoles 0 && s.actDie != 0 && a / 2 ^ 38 + 1 != s.actDie

/-- An engine of a die has lost the last good bundle of its die's hub bridge, its only way to the slow tier (R18, R457). -/
def hubCut (s : State) : Bool :=
  s.fabricOpen &&
    ((s.actDie == 1 && regF s pgDtd 0x110 16 4 == 0) || (s.actDie == 2 && regF s pgDtd 0x110 20 4 == 0))

/-- State of a GDDR7 port; a port trains. -/
def gdrState (s : State) (port : Nat) : Nat := regF s (pgGdr port) 0x108 0 2
def anyTraining (s : State) : Bool := (upTo 16).any (fun p => gdrState s p == 1)

/-- Accesses to the slow tier wait: it trains, or one of its ports does (R345, R347). -/
def tierHolds (s : State) : Bool := !s.tierDown && anyTraining s

/-- Where a fabric range cannot be read: a failing sector, a fenced channel (R331), the slow tier down (R344). -/
def fabBad (s : State) (a n : Nat) : Option Nat :=
  if n = 0 then none
  else if inStacked a n then
    if cutOff s a || cutOff s (a + n - 1) then some a
    else match badIn s a n with
    | some g => some g
    | none =>
      if anyFenced s (fabRegion a) || anyFenced s (fabRegion (a + n - 1)) then
        fencedBlk s ((a + n - 1) / 256 - a / 256 + 1) (a / 256)
      else none
  else if s.tierDown || hubCut s then some a
  else badIn s a n

/-- Where a fabric range cannot be written: a fenced channel or the slow tier down, or a part of a failing sector. -/
def fabBadW (s : State) (a n : Nat) : Option Nat :=
  if n = 0 then none
  else if inStacked a n && (cutOff s a || cutOff s (a + n - 1)) then some a
  else if inStacked a n && (anyFenced s (fabRegion a) || anyFenced s (fabRegion (a + n - 1))) then
    match fencedBlk s ((a + n - 1) / 256 - a / 256 + 1) (a / 256) with
    | some g => some g
    | none => badPartial s a n
  else if !(inStacked a n) && (s.tierDown || hubCut s) then some a
  else badPartial s a n

/-! ### Interrupts and host memory -/

/-- MSI-X table word (R36, entries of 16 bytes as PCIe lays them out); PRESUMED (log 8): PCIe's reset masks every vector. -/
def msixWord (s : State) (fn w : Nat) : Nat :=
  (mapGet (if w % 2 = 1 then 0x100000000#64 else 0#64) s.msixTable (fn * 1024 + w)).toNat

/-- A vector is signalled: its message is sent, or its pending bit set while it is masked (R36, R54, R61). -/
def signal (s : State) (fn vec : Nat) : State :=
  let k := fn * 512 + vec
  if bit (msixWord s fn (2 * vec + 1)) 32 then { s with msixPend := mapPut 0 s.msixPend k 1 }
  else { s with msixSent := mapPut 0 s.msixSent k (mapGet 0 s.msixSent k + 1) }

/-! ### Events -/

/-- What an event record tells (R62). -/
structure EvRec where
  num : Nat
  status : Nat := 0
  page : Nat := 0
  detail : List Byte := []
deriving DecidableEq, Repr

/-- The 32 bytes of an event record (R62). -/
def recBytes (e : EvRec) (phase : Bool) (time : Nat) : List Byte :=
  leBytes 2 e.num ++ leBytes 1 (b2n phase + 2 * b2n (evIsError e.num)) ++ leBytes 1 e.status ++ leBytes 4 e.page ++
    leBytes 8 time ++ padTo 16 e.detail

/-- A record is put at the tail of a function's event ring, which has room (R62, R63). -/
def putRecord (s : State) (f : Nat) (e : EvRec) : State :=
  let st := reg s (pgJob f) 0x120
  let tail := bits st 0 12
  let ph := bit st 12
  let n := 2 ^ regF s (pgJob f) 0x110 0 4
  let base := bits (reg s (pgJob f) 0x108) 12 52 * 4096
  let s := wrMem s (spHost + base + 32 * tail) (recBytes e ph s.time)
  let tail' := (tail + 1) % n
  let s := setReg s (pgJob f) 0x120 (setBits (setBits st 0 12 tail') 12 1 (b2n (if tail' = 0 then !ph else ph)))
  signal s f (if evIsError e.num then 1 else 0)

/-- The event ring of a function has room (R63). -/
def ringRoom (s : State) (f : Nat) : Bool :=
  !decide ((regF s (pgJob f) 0x120 0 12 + 1) % 2 ^ regF s (pgJob f) 0x110 0 4 = regF s (pgJob f) 0x118 0 12)

/-- The overflow record of R63 is written when records were dropped and there is room. -/
def overflowRecord (s : State) (f : Nat) : State :=
  let d := regF s (pgJob f) 0x120 32 32
  if d ≠ 0 ∧ ringRoom s f = true ∧ bit (reg s (pgJob f) 0x110) 8 = true ∧ s.cxlUp = true then
    setRegF (putRecord s f { num := 3, page := pgJob f, detail := leBytes 4 d }) (pgJob f) 0x120 32 32 0
  else s

/-- A record is delivered to one function (R61, R63); nothing is written while its ring is disabled or the CXL link is
down (R474). -/
def deliverTo (s : State) (f : Nat) (e : EvRec) : State :=
  if bit (reg s (pgJob f) 0x110) 8 && s.cxlUp then
    let s := overflowRecord s f
    if ringRoom s f then putRecord s f e
    else setRegF s (pgJob f) 0x120 32 32 (regF s (pgJob f) 0x120 32 32 + 1)
  else s

/-- A record is delivered to every function that Table 2-8 names. -/
def deliver (s : State) (owners : List Nat) (e : EvRec) : State :=
  (evTargets e.num owners).foldl (fun s f => deliverTo s f e) s

/-! ### Errors and the always-on log -/

/-- What ERR_ADDR and ERR_INFO record of an error (Table of ERR_INFO). -/
structure ErrLog where
  addr : Nat := 0
  status : Nat := 0
  fn : Nat := 0
  write : Bool := false
  len : Nat := 0
  detail : Nat := 0
deriving DecidableEq, Repr

/-- The ERR_INFO word. -/
def errInfo (l : ErrLog) (b : Nat) : Nat :=
  l.status % 256 + (l.fn % 16) * 2 ^ 8 + 2 ^ 12 * b2n l.write + 2 ^ 16 * (min l.len 255) + 2 ^ 24 * b +
    2 ^ 32 * (l.detail % 2 ^ 32)

/-- An ERR_STATUS bit is set and logged under R39. -/
def setErrBit (s : State) (page b : Nat) (l : ErrLog) : State :=
  let es := reg s page 0x20
  if es = 0 then
    setReg (setReg (setReg s page 0x20 (2 ^ b)) page 0x30 l.addr) page 0x38 (errInfo l b)
  else setReg s page 0x20 (es ||| 2 ^ b ||| 4)

/-- Key of counter `i` of a page. -/
def ctrKey (page i : Nat) : Nat := page * 64 + i

/-- The functions that own a page (R42, R61): the job whose JOB page it is, whose queue range covers it, that was given
the core or the region, or whose stage is bound there. -/
def pageOwners (s : State) (page : Nat) : List Nat :=
  let jobs := (upTo 15).map (· + 1)
  let byRegion (r : Nat) := jobs.filter (fun f => bit (reg s (pgJob f) 0x148) r)
  let byCore (c : Nat) := jobs.filter (fun f =>
    bit (reg s (pgJob f) (0x200 + 8 * (c / 64))) (c % 64) || bit (reg s (pgJob f) 0x148) (c / 64))
  match pageBlk page with
  | some (.job, f) => [f]
  | some (.hqu, g) => (upTo 16).filter (fun f =>
      decide (regF s (pgJob f) 0x100 0 8 ≤ g) && decide (g < regF s (pgJob f) 0x100 0 8 + regF s (pgJob f) 0x100 16 5))
  | some (.cor, c) | some (.mxa, c) | some (.ven, c) | some (.atn, c) | some (.chn, c) | some (.trc, c) => byCore c
  | some (.rgn, r) | some (.drz, r) | some (.gmv, r) => byRegion r
  | some (.pse, r) | some (.upf, r) | some (.dig, r) =>
    let c := reg s (pgPse r) 0x100
    (if bit c 0 then [bits c 1 4] else []) ++ byRegion r
  | some (.clu, k) => byRegion (k / 8)
  | _ => []

/-- A counter advances; an error counter that reaches its largest value stays there and reports (R500, R503). -/
def bump (s : State) (page i n : Nat) : State :=
  let k := ctrKey page i
  let v := mapGet 0 s.ctrs k
  match pageBlk page with
  | some (b, _) =>
    if (errCounters b).contains i then
      let v' := min (v + n) 0xFFFFFFFF
      let s' := { s with ctrs := mapPut 0 s.ctrs k v' }
      if v < 0xFFFFFFFF ∧ v' = 0xFFFFFFFF then
        deliver s' (pageOwners s page) { num := 0xB0, page := page, detail := leBytes 2 i }
      else s'
    else { s with ctrs := mapPut 0 s.ctrs k ((v + n) % 2 ^ 48) }
  | none => s

/-- A utilisation counter advances by nanoseconds (R500, R501). -/
def bumpNs (s : State) (page i n : Nat) : State :=
  { s with ctrs := mapPut 0 s.ctrs (ctrKey page i) ((mapGet 0 s.ctrs (ctrKey page i) + n) % 2 ^ 64) }

/-- An entry is appended to the always-on log (R475). -/
def aolAppend (s : State) (e : EvRec) : State :=
  let n := s.aolWritten
  let s := { s with aolWritten := n + 1 }
  let s := wrMem s (spAol + 32 * (n % 1024)) (recBytes e false s.time)
  let s := bump s pgHub 0 1
  if n = 1024 then setErrBit s pgHub 8 {} else s

/-- Log and deliver the event of a bit that went from 0 to 1 (R474 steps 3 to 5). -/
def report (s : State) (enabled : Bool) (owners : List Nat) (e : EvRec) : State :=
  let s := if evLogged e.num then aolAppend s e else s
  if enabled then deliver s owners e else s

/-- An EVT_STATUS bit is set; going from 0 to 1 it reports its event (R60). -/
def raiseEvt0 (s : State) (page b : Nat) (owners : List Nat) (status : Nat) (detail : List Byte) : State :=
  let es := reg s page 0x48
  let s' := setReg s page 0x48 (es ||| 2 ^ b)
  match pageBlk page with
  | some (k, _) =>
    match evtEvent k b with
    | some n =>
      if bit es b then s'
      else report s' (bit (reg s page 0x40) b) owners { num := n, status := status, page := page, detail := detail }
    | none => s'
  | none => s'

/-- Trace freezes (R512): FROZEN going from 0 to 1 counts and sets TRACE_FROZEN. -/
def freezeTrace (s : State) : State :=
  if s.traceFrozen then s
  else raiseEvt0 (bump { s with traceFrozen := true } pgCnt 1 1) pgCnt 0 [] 0 []

/-- With FREEZE_ON_ERROR set, an event of class Error freezes trace (R512). -/
def freezeOnError (s : State) (n : Nat) : State :=
  if evIsError n && bit (reg s pgCnt 0x108) 3 then freezeTrace s else s

/-- An EVT_STATUS bit is set (R60). -/
def raiseEvt (s : State) (page b : Nat) (owners : List Nat) (status : Nat) (detail : List Byte) : State :=
  match pageBlk page with
  | some (k, _) =>
    match evtEvent k b with
    | some n =>
      let s' := raiseEvt0 s page b owners status detail
      if bit (reg s page 0x48) b then s' else freezeOnError s' n
    | none => raiseEvt0 s page b owners status detail
  | none => s

/-- An ERR_STATUS bit is set and logged (R39); going from 0 to 1 it reports its event unless masked (R60). -/
def raiseErr (s : State) (page b : Nat) (l : ErrLog) (owners : List Nat) (detail : List Byte) : State :=
  let was := bit (reg s page 0x20) b
  let s' := setErrBit s page b l
  match pageBlk page with
  | some (k, _) =>
    match errEvent k b with
    | some n =>
      if was then s'
      else
        freezeOnError
          (report s' (!(bit (reg s page 0x28) b)) owners { num := n, status := l.status, page := page, detail := detail }) n
    | none => s'
  | none => s'

/-- A corrected-error counter advances by one and passes the correctable threshold at each multiple of 1,024 (R330):
then the page's threshold bit is set, with the address of the word in error. -/
def corrected (s : State) (page i b addr : Nat) : State :=
  let s' := bump s page i 1
  let v := mapGet 0 s'.ctrs (ctrKey page i)
  if v % 1024 = 0 ∧ v ≠ 0 then raiseErr s' page b { addr := addr } (pageOwners s page) [] else s'

/-- A word that the device reads shows an error that its code corrects: the page that owns the memory counts it (R95,
R133, R134, R190, R330, R350, R352, R353). -/
def correctedAt (s : State) (a : Nat) : State :=
  let u := a % 2 ^ 80 / 2 ^ 64
  let o := a % 2 ^ 64
  match a / 2 ^ 80 with
  | 0 =>
    if a < stackedEnd then corrected s (memPageOf s a) 2 9 a
    else if inSlow s a 1 then corrected s (pgGdr (portOf s (a - slowBase))) 3 9 (a - slowBase)
    else s
  | 1 | 3 => if u < 2048 then corrected s (pgCor u) 7 10 o else s
  | 2 => if u < 256 then corrected s (pgClu u) 3 9 o else s
  | 5 => if u < 2048 then corrected s (pgVen u) 5 9 o else s
  | 8 => if u < 2048 then corrected s (pgMxa u) 7 11 o else s
  | 9 => if u < 32 then corrected s (pgGmv u) 3 9 o else s
  | _ => s

/-- The memories that carry a check code: the fabric's two tiers, scratch, cluster caches, instruction memory, tile
buffers with finished tiles, accumulators, vector buffers, update programs. -/
def hasCode (a : Nat) : Bool := [0, 1, 2, 3, 5, 8, 9, 11].contains (a / 2 ^ 80)

/-- Words have decayed: those that no codeword matches cannot be read any more, and the others are corrected as an engine
reads them (R327, R330, R470). -/
def decay (s : State) (d : Decay) : State := d.soft.foldl correctedAt ((d.lost.filter hasCode).foldl spoil s)

/-! ### Uncorrectable data (R332, R344, R346, R470) -/

/-- A channel is fenced (R331): cause 1 start-up test, 2 uncorrectable count, 3 FENCE. -/
def fenceChan (s : State) (page cause : Nat) : State :=
  if bit (reg s page 0x110) 0 then s
  else
    raiseErr (setReg s page 0x110 (setBits (reg s page 0x110) 0 3 (1 + 2 * cause))) page 10
      { status := stUncorr } [] []

/-- A read of an uncorrectable sector is counted, and fences its channel when there have been enough (R331). An access that
a fenced channel or a lost bridge refuses reads no sector. -/
def countUe (s : State) (a : Nat) : State :=
  let p := memPageOf s a
  if bit (reg s p 0x110) 0 || (badIn s a 1).isNone then s
  else
    let ue := min (regF s p 0x110 8 8 + 1) 255
    let s := setRegF (bump s p 3 1) p 0x110 8 8 ue
    if regF s p 0x108 8 8 ≤ ue then fenceChan s p 2 else s

/-- The page that owns a fabric address logs an uncorrectable access for a job (R332, R344, R346, R470 step 2). -/
def uncorrFab (s : State) (a job : Nat) (w : Bool) : State :=
  if a < stackedEnd then
    countUe (raiseErr s (memPageOf s a) 8 { addr := a, status := stUncorr, fn := job, write := w, len := 32 } [job] []) a
  else
    let p := pgGdr (portOf s (a - slowBase))
    raiseErr (bump s p 4 1) p 8 { addr := a - slowBase, status := stUncorr, fn := job, write := w, len := 32 } [job] []

/-- An engine of a job writes bytes to the fabric: none where a fenced channel, a tier that is down or a part of an
uncorrectable sector refuses them, which the memory's page logs (R331, R344, R473). -/
def wrFab (s : State) (a : Nat) (bs : List Byte) (job : Nat) : State :=
  match fabBadW s a bs.length with
  | some g => uncorrFab s g job true
  | none => wrMem s a bs

/-- The page that owns a core's scratch, tile buffer or accumulator, or a cluster cache, logs an uncorrectable read. -/
def uncorrLocal (s : State) (page b a job : Nat) : State :=
  raiseErr s page b { addr := a, status := stUncorr, fn := job } [job] []

/-! ### Host queues: what a completion does -/

/-- The function whose queue range holds a queue (R46); function 0 where none does. -/
def fnOfQueue (s : State) (q : Nat) : Nat :=
  ((upTo 16).find? (fun f =>
    decide (regF s (pgJob f) 0x100 0 8 ≤ q / 16) &&
      decide (q / 16 < regF s (pgJob f) 0x100 0 8 + regF s (pgJob f) 0x100 16 5))).getD 0

/-- Offset of a queue's register set in its HQU page (Table 2-5). -/
def hqOff (q : Nat) : Nat := 0x100 + 0x40 * (q % 16)

/-- A queue enters STOPPED (R50, R55). -/
def stopQueue (s : State) (q cause : Nat) : State :=
  let s := setHq s q { hqOf s q with st := 2, cause := cause }
  raiseErr s (pgHqu q) 9 { detail := q % 16 + 16 * cause, fn := fnOfQueue s q } [fnOfQueue s q] []

/-- The queue's vector is signalled by the coalescing rule (R54) after one more completion was written. -/
def coalesce (s : State) (q : Nat) : State :=
  let h := hqOf s q
  let cfg := reg s (pgHqu q) (hqOff q + 0x10)
  let n := h.unsig + 1
  if bit cfg 32 = true ∧ max 1 (bits cfg 16 8) ≤ n then
    let fn := fnOfQueue s q
    signal (setHq s q { h with unsig := 0, coalAt := 0 }) fn (2 + (q - 16 * regF s (pgJob fn) 0x100 0 8))
  else
    setHq s q { h with
      unsig := n
      coalAt := if h.unsig = 0 ∧ bits cfg 24 8 ≠ 0 then s.time + 1000 * bits cfg 24 8 else h.coalAt }

/-- The 32 bytes of a completion (R58). -/
def complBytes (q idx tag : Nat) (h : HQueue) (status : Nat) (result : List Byte) : List Byte :=
  leBytes 8 tag ++ leBytes 2 idx ++ leBytes 2 h.sqHead ++ leBytes 1 status ++ leBytes 1 (b2n h.phase) ++ leBytes 2 q ++
    padTo 16 result

/-- A completion entry is written at CQ_TAIL (R53). -/
def writeCompl (s : State) (q idx tag status : Nat) (result : List Byte) : State :=
  let h := hqOf s q
  let n := 2 ^ regF s (pgHqu q) (hqOff q + 0x10) 8 5
  let base := bits (reg s (pgHqu q) (hqOff q + 8)) 12 52 * 4096
  let s := wrMem s (spHost + base + 32 * h.cqTail) (complBytes q idx tag h status result)
  let t := (h.cqTail + 1) % n
  coalesce (setHq s q { h with cqTail := t, phase := if t = 0 then !h.phase else h.phase }) q

/-- A queue is reset (R48): at once where it is DISABLED, of which the spec says nothing (DESIGN CHOICE, log 116). -/
def queueReset (s : State) (q : Nat) : State :=
  let h := hqOf s q
  if h.qreset then s
  else if h.st = 0 then setReg (setHq s q {}) (pgHqu q) (hqOff q + 0x18) 0
  else setHq s q { h with st := 3, cause := 0, qreset := true }

/-- A host-queue command completes (R48, R50, R52, R53, R55, R57). A STOP_ON_FAIL command that fails while its queue drains
stops nothing: the drain goes on to its end (DESIGN CHOICE, log 117). -/
def hostComplete (s : State) (q idx tag : Nat) (silent stop : Bool) (status : Nat) (result : List Byte) : State :=
  let h := hqOf s q
  let s := setHq s q { h with outstanding := h.outstanding - 1, hold := if stop then false else h.hold }
  let s := bump s (pgHqu q) (q % 16) 1
  let s :=
    if h.qreset || (silent && status == stOK) || h.cqLost then s
    else if s.cxlUp then writeCompl s q idx tag status result
    else
      let s := setHq s q { hqOf s q with cqLost := true }
      if h.st == 1 || h.st == 3 then stopQueue s q 3 else s
  if stop = true ∧ status ≠ stOK ∧ (hqOf s q).st = 1 then stopQueue s q 4 else s

end Sys2Proof.Machine
end

