-- ==== Sys2Proof/Machine/Run.lean ====
section
/-! DEFINITION. Commands in engine queues: the sync word and its counters (R68, R69), started commands, and what a
halting context does to its commands (R74, R75). -/
namespace Sys2Proof.Machine

/-- The field of `n` bytes at command byte `off` (16 to 63) of a body. -/
def bf (c : QCmd) (off n : Nat) : Nat := num c.body (off - 16) n

/-- Body bytes from `off` for `n` bytes are zero. -/
def bz (c : QCmd) (off n : Nat) : Bool := allZero (sub c.body (off - 16) n)

/-- The sync word of a command (Table 3-1). -/
def syncWord (c : QCmd) : Nat := bf c 56 8

/-- Block of a command's target page. -/
def cmdBlk (c : QCmd) : Option Blk := (pageBlk c.page).map (·.1)

/-- Instance of a command's target page. -/
def cmdInst (c : QCmd) : Nat := ((pageBlk c.page).map (·.2)).getD 0

/-- A sync counter of a context (R68). -/
def syncCtr (s : State) (core x n : Nat) : Nat := mapGet 0 (ctxOf s core x).sync n

/-- The rule of R69: (counter − value) mod 2^16 is below 2^15. -/
def syncReached (ctr value : Nat) : Bool := decide ((ctr + 65536 - value % 65536) % 65536 < 32768)

/-- A counter takes a value. -/
def setSync (s : State) (core x n v : Nat) : State :=
  let c := ctxOf s core x
  setCtx s core x { c with sync := mapPut 0 c.sync n (v % 65536) }

/-- The blocks whose command bodies end with a sync word that waits and posts. -/
def hasSync (c : QCmd) : Bool :=
  match cmdBlk c with
  | some .cor => c.op == 4
  | some .job => false
  | _ => true

/-- The wait of a command's sync word is over. -/
def syncOk (s : State) (c : QCmd) : Bool :=
  let w := syncWord c
  !(hasSync c && bit w 4) || syncReached (syncCtr s c.core c.ctx (bits w 0 4)) (bits w 8 16)

/-- A command that completed with OK posts its counter (R69). -/
def syncPost (s : State) (c : QCmd) : State :=
  let w := syncWord c
  if hasSync c && bit w 28 then
    setSync s c.core c.ctx (bits w 24 4) (syncCtr s c.core c.ctx (bits w 24 4) + 1)
  else s

/-- The core is fenced (R92). -/
def fenced (s : State) (core : Nat) : Bool := bit (reg s (pgCor core) 0x200) 0

/-! ### Started commands -/

def engRun (s : State) (e : Nat) (p : RCmd → Bool) : Option RCmd :=
  (engOf s e).running.find? (fun r => r.fin.isNone && p r)

/-- The started command with an operation of a page whose effect is not complete. -/
def runOp (s : State) (page op : Nat) : Option RCmd :=
  engRun s (engKey page op) (fun r => r.cmd.page == page && r.cmd.op == op)

def replRun (r : RCmd) : List RCmd → List RCmd
  | [] => []
  | x :: xs => if x.cmd.id = r.cmd.id then r :: xs else x :: replRun r xs

/-- A started command takes a new record. -/
def setRun (s : State) (e : Nat) (r : RCmd) : State :=
  let g := engOf s e
  setEng s e { g with running := replRun r g.running, aside := replRun r g.aside }

/-- Engine key of a command. -/
def cmdKey (c : QCmd) : Nat := engKey c.page c.op

/-- The effect of a started command is complete with a status and result bytes. -/
def finish (s : State) (r : RCmd) (status : Nat) (result : List Byte) : State :=
  setRun s (cmdKey r.cmd) { r with fin := some (status, result) }

/-- Commands that have not started complete with a status: they leave their queue, or their place aside, for the
commands whose completion is due (R75, R92). -/
def finishQueued (s : State) (e : Nat) (p : QCmd → Bool) (status : Nat) : State :=
  let g := engOf s e
  setEng s e { g with
    queue := g.queue.filter (fun c => !p c)
    aside := g.aside.filter (fun r => !p r.cmd)
    running := g.running ++
      ((g.aside.filter (fun r => p r.cmd)).map (·.cmd) ++ g.queue.filter p).map
        (fun c => { cmd := c, fin := some (status, []), began := false }) }

/-- Commands that match leave the queue without completing (R75: a context's own commands). -/
def dropQueued (s : State) (e : Nat) (p : QCmd → Bool) : State :=
  let g := engOf s e
  setEng s e { g with queue := g.queue.filter (fun c => !p c), aside := g.aside.filter (fun r => !p r.cmd) }

/-- A command enters a queue. -/
def enqueue (s : State) (c : QCmd) : State :=
  let g := engOf s (cmdKey c)
  setEng s (cmdKey c) { g with queue := g.queue ++ [c] }

/-- The engine keys of a core: tile loader, control queue, array, vector engine, channel unit. -/
def coreEngs (core : Nat) : List Nat :=
  [pgCor core * 2, pgCor core * 2 + 1, pgMxa core * 2, pgVen core * 2, pgChn core * 2]

/-- The engine keys of the region and package engines whose commands may name a context of the core. -/
def sharedEngs (r : Nat) : List Nat :=
  [pgGmv r * 2, pgDrz r * 2, pgUpf r * 2, pgPse r * 2, pgRgn r * 2, pgTor * 2, pgGxe * 2]

/-- A job has a bound context on the core that is RUNNING or WAITING. -/
def jobLive (s : State) (core job : Nat) : Bool :=
  (upTo 4).any (fun x =>
    let cfg := reg s (pgCor core) (0x100 + 0x40 * x)
    bit cfg 4 && bits cfg 0 4 == job && ((ctxOf s core x).st == 1 || (ctxOf s core x).st == 2))

/-- A context's job (COR_CTX_CFG) and whether it is bound (VALID). -/
def ctxJob (s : State) (core x : Nat) : Nat := regF s (pgCor core) (0x100 + 0x40 * x) 0 4
def ctxBound (s : State) (core x : Nat) : Bool := bit (reg s (pgCor core) (0x100 + 0x40 * x)) 4

/-- A job is suspended on a core by pre-emption (JOB_SUSP_MAPn). -/
def suspended (s : State) (core job : Nat) : Bool := bit (reg s (pgJob job) (0x400 + 8 * (core / 64))) (core % 64)

/-- Key of a save entry. -/
def saveKey (core job : Nat) : Nat := job * 2048 + core
/-- A scratch range of a core that pre-emption has saved (R424). -/
def scratchSaved (s : State) (core a n : Nat) : Bool :=
  (upTo 16).any (fun j => suspended s core j &&
    (mapGet {} s.saves (saveKey core j)).scratch.any (fun x =>
      decide (x.1 < a + n) && decide (a < x.1 + x.2.length)))

/-! ### The matrix array's and the vector engine's records -/

def mxaOf (s : State) (core : Nat) : Mxa := mapGet {} s.mxas core
def setMxa (s : State) (core : Nat) (m : Mxa) : State := { s with mxas := mapPut {} s.mxas core m }
def venOf (s : State) (core : Nat) : Ven := mapGet {} s.vens core
def setVen (s : State) (core : Nat) (v : Ven) : State := { s with vens := mapPut {} s.vens core v }

/-- An accumulator buffer of a core. -/
def bufOf (m : Mxa) (b : Nat) : AccBuf := if b = 0 then m.buf0 else m.buf1
def withBuf (m : Mxa) (b : Nat) (x : AccBuf) : Mxa := if b = 0 then { m with buf0 := x } else { m with buf1 := x }

/-- A started MXA command of the job exists on the core. -/
def mxaBusy (s : State) (core job : Nat) : Bool :=
  (engOf s (pgMxa core * 2)).running.any (fun r => r.fin.isNone && r.cmd.job == job)

/-- A stationary load of the job has started on the core's tile loader. -/
def loadBusy (s : State) (core job : Nat) : Bool :=
  (engOf s (pgCor core * 2)).running.any (fun r => r.fin.isNone && r.cmd.job == job && bits (bf r.cmd 46 1) 2 2 == 3)

/-- The four things R106 does for a job on a core's array. A set that a started TILE_MOVE still loads is emptied when that
completes. -/
def mxaRelease (s : State) (core job : Nat) : State :=
  let m := mxaOf s core
  let m :=
    if m.shadow.st ≠ 0 ∧ m.shadow.job = job then
      { m with shadow := if loadBusy s core job then { m.shadow with drop := true } else {} }
    else m
  let m := if m.active.st ≠ 0 ∧ m.active.job = job then { m with active := {}, held := false } else m
  let used := mxaBusy s core job
  let fre (b : AccBuf) : AccBuf := if b.st = 1 ∧ b.job = job ∧ used = false then {} else b
  setMxa s core { m with buf0 := fre m.buf0, buf1 := fre m.buf1 }

/-- R106 for a job whose last context halted: at once, or when its started MXA commands have ended. -/
def mxaLastHalt (s : State) (core job : Nat) : State :=
  if mxaBusy s core job then setMxa s core { mxaOf s core with relPend := setAdd (mxaOf s core).relPend job }
  else mxaRelease s core job

/-- A started command of a core ended: R106's pending release of its job is done once no started MXA command of it is left,
unless a context of the job runs again. -/
def mxaAfterEnd (s : State) (core job : Nat) : State :=
  let m := mxaOf s core
  if m.relPend.contains job && !mxaBusy s core job then
    let s := if jobLive s core job then s else mxaRelease s core job
    setMxa s core { mxaOf s core with relPend := (mxaOf s core).relPend.filter (fun j => j != job) }
  else s

/-- A buffer whose waiting contribution was ended becomes FREE (R106, R75). -/
def freeOrphans (s : State) (core : Nat) : State :=
  let g := engOf s (pgMxa core * 2)
  let used (b : Nat) := (g.running ++ g.aside).any (fun r => r.outs.any (fun o => o.buf == b))
  let m := mxaOf s core
  let m := if m.buf0.st = 2 ∧ used 0 = false then { m with buf0 := {} } else m
  let m := if m.buf1.st = 2 ∧ used 1 = false then { m with buf1 := {} } else m
  setMxa s core m

/-- When every context of a job on a core has halted, the vector engine gives up the job's entries, buffers and slots
(R167). -/
def venRelease (s : State) (core job : Nat) : State :=
  let v := venOf s core
  setVen s core { v with
    ftq := v.ftq.filter (fun e => e.job != job)
    stale := v.occ.foldl (fun st e => if e.2 = job + 1 then mapPut 0 st e.1 1 else st) v.stale
    occ := v.occ.filter (fun e => e.2 != job + 1)
    hs := v.hs.filter (fun e => e.2.job != job || !e.2.tagged) }

/-! ### Trace packets (R506 to R508) -/

def trcBase (core : Nat) : Nat := pgTrc (core / 8 * 8)
def traceOf (s : State) (k : Nat) : TraceBuf := mapGet {} s.traces k
def setTrace (s : State) (k : Nat) (t : TraceBuf) : State := { s with traces := mapPut {} s.traces k t }

/-- Bytes of a cluster's trace buffer. -/
def trcBytes : Nat := 0x40000

/-- The context is traced (TRC_CFG) and trace is not frozen. -/
def traced (s : State) (core x : Nat) : Bool :=
  let c := reg s (pgTrc core) 0x100
  bit c 0 && bit c (2 + x)

/-- The common field of a packet (R506). -/
def trcHead (ty core x : Nat) : Nat := ty + (core % 8) * 2 ^ 4 + x * 2 ^ 7

/-- Units are stored in the buffer of a cluster at its write offset (R508). -/
def trcStore (s : State) (k : Nat) (wrapMode : Bool) : List Nat → State
  | [] => s
  | u :: us =>
    let t := traceOf s k
    let s := wrNum s (spTrace k + t.write) 8 u
    let w := t.write + 8
    let s := setTrace s k { t with
      write := if w = trcBytes then 0 else w
      filled := t.filled || decide (w = trcBytes)
      wrapped := t.wrapped || (t.filled && wrapMode)
      pend := t.pend + 8 }
    trcStore s k wrapMode us

/-- Room in the buffer: always in WRAP mode; until it is full in STOP mode; in DRAIN mode undrained packets bound it, and
after a drop nothing is written before the DROP packet. -/
def trcRoom (s : State) (core n : Nat) : Bool :=
  let t := traceOf s (core / 8)
  match regF s (trcBase core) 0x108 0 2 with
  | 1 => !t.stopped && decide (t.write + 8 * n ≤ trcBytes)
  | 2 => t.dropPend == 0 && decide (t.pend + 8 * n ≤ trcBytes)
  | _ => true

/-- One packet of a core is written, or dropped where there is no room (R508, R515). -/
def trcPacket (s : State) (core : Nat) (units : List Nat) : State :=
  if s.traceFrozen then s
  else
    let k := core / 8
    let t := traceOf s k
    if trcRoom s core units.length then
      let s := bump (trcStore s k (regF s (trcBase core) 0x108 0 2 == 0) units) (pgTrc core) 0 1
      let s := { s with tracePkts := mapPut 0 s.tracePkts core (mapGet 0 s.tracePkts core + 1) }
      if regF s (trcBase core) 0x108 0 2 = 1 ∧ (traceOf s k).filled = true then
        setTrace s k { traceOf s k with stopped := true }
      else s
    else if regF s (trcBase core) 0x108 0 2 = 1 then setTrace s k { t with stopped := true }
    else bump (setTrace s k { t with dropped := t.dropped + 1, dropPend := t.dropPend + 1 }) (pgTrc core) 1 1

/-- A SYNC packet of a context (Table 18-2). -/
def trcSync (s : State) (core x : Nat) : State :=
  let c := ctxOf s core x
  trcPacket s core [trcHead 1 core x + 2 ^ 16 * c.pc + 2 ^ 32 * ctxJob s core x, s.time]

/-- The gathered conditional outcomes go out as a BRANCH packet (R507). -/
def trcFlush (s : State) (core x : Nat) : State :=
  let c := ctxOf s core x
  if c.brN = 0 then s
  else
    trcPacket (setCtx s core x { c with brN := 0, brBits := 0 }) core
      [trcHead 2 core x + 2 ^ 16 * c.brN + 2 ^ 22 * (c.brBits % 2 ^ 42)]

/-- The SYNC that is due after every 2^SYNC_LOG2 packets of a core. -/
def trcSyncDue (s : State) (core x : Nat) : State :=
  if 2 ^ regF s (trcBase core) 0x108 8 4 ≤ mapGet 0 s.tracePkts core then
    trcSync { s with tracePkts := mapPut 0 s.tracePkts core 0 } core x
  else s

/-- A packet of a traced context, after its gathered branches. -/
def trcEmit (s : State) (core x : Nat) (units : List Nat) : State :=
  if traced s core x then trcSyncDue (trcPacket (trcFlush s core x) core units) core x else s

/-! ### Context halts -/

/-- A command is one that the context issued. -/
def issuedBy (core x : Nat) (c : QCmd) : Bool := c.src == .ctx && c.core == core && c.ctx == x

/-- A command is from a host queue and its sync word names the context. -/
def namesCtx (core x : Nat) (c : QCmd) : Bool := c.src != .ctx && c.named && hasSync c && c.core == core && c.ctx == x

/-- The result bytes of START_CONTEXT at a halt (Table 3-7): PC, ENGINE byte, g1; for a task also the core (R419). -/
def startResult (c : Ctx) (core : Nat) (task : Bool) : List Byte :=
  leBytes 2 c.pc ++ leBytes 1 c.failEngine ++ leBytes 1 (if task then core % 64 else 0) ++
    leBytes 8 (mapGet 0 c.g 1).toNat

/-- What pre-emption saved of a context that halts with a status other than OK and that had not started: the context's own
commands are discarded, and the host's that name it complete with the status (R75). -/
def haltSaved (s : State) (core x status : Nat) : State :=
  let k := saveKey core (ctxJob s core x)
  let sv := mapGet {} s.saves k
  let mine (c : QCmd) : Bool := issuedBy core x c || namesCtx core x c
  let ends := ((sv.queued.map (fun y => (y.1, y.2))) ++ sv.aside.map (fun y => (y.1, y.2.cmd))).filter
    (fun y => namesCtx core x y.2)
  let sv' := { sv with
    queued := sv.queued.filter (fun y => !mine y.2)
    aside := sv.aside.filter (fun y => !mine y.2.cmd) }
  let s := { s with saves := mapPut {} s.saves k sv' }
  ends.foldl (fun s y =>
    setEng s y.1 { engOf s y.1 with
      running := (engOf s y.1).running ++ [{ cmd := y.2, fin := some (status, []), began := false }] }) s

/-- Once no context of a suspended job is left on a core, its saved resources are given up as R106 and R167 give up live
ones. -/
def giveUpSaved (s : State) (core job : Nat) : State :=
  let k := saveKey core job
  let sv := mapGet {} s.saves k
  let sv' := { sv with shadow := none, active := none, held := false, accs := [], tbufs := [], ftq := [], hs := [] }
  { s with saves := mapPut {} s.saves k sv' }

/-- A context halts (R74, R75): its state and status, its commands that have not started, and the command that started
it, whose completion is then due. -/
def haltCtx (s : State) (core x status engine : Nat) : State :=
  let s := trcEmit s core x
    [trcHead 5 core x + 2 ^ 16 * status + 2 ^ 24 * (ctxOf s core x).pc, s.time]
  let c := { ctxOf s core x with st := 3, haltStatus := status, stall := none, wait := none, failEngine := engine }
  let s := setCtx s core x { c with starter := none }
  let engs := coreEngs core ++ sharedEngs (core / 64)
  let s :=
    if status = stOK then s
    else haltSaved
      (engs.foldl (fun s e => finishQueued (dropQueued s e (issuedBy core x)) e (namesCtx core x) status) s) core x status
  let s :=
    match c.starter with
    | none => s
    | some q =>
      match (engOf s (cmdKey q)).running.find? (fun r => r.cmd.id == q.id) with
      | none => s
      | some r => finish s r status (startResult c core (q.page != pgCor core))
  let s := freeOrphans s core
  let job := ctxJob s core x
  if jobLive s core job then s
  else giveUpSaved (mxaLastHalt (venRelease s core job) core job) core job

end Sys2Proof.Machine
end

