-- ==== Sys2Proof/Machine/Operands.lean ====
section
/-! DEFINITION. Operand forms: address windows (R81, R338, R411, R538), rows and elements of stored operands (R141 to
R144), vector operand descriptors (R162), and what an engine meets when it reads them (R470). -/
namespace Sys2Proof.Machine

/-! ### Windows and allocations -/

/-- A range lies in a context's scratch window (R81). -/
def scratchOk (s : State) (core x a n : Nat) : Bool :=
  let w := reg s (pgCor core) (0x108 + 0x40 * x)
  decide (bits w 0 9 * 4096 ≤ a) && decide (a + n ≤ (bits w 0 9 + bits w 16 9) * 4096)

/-- A range lies in a CLU window that is VALID for the job (R338). -/
def cluOk (s : State) (k job a n : Nat) : Bool :=
  (upTo 8).any (fun w =>
    let v := reg s (pgClu k) (0x100 + 8 * w)
    bit v 0 && bits v 1 4 == job && decide (65536 * bits v 16 7 ≤ a) &&
      decide (a + n ≤ 65536 * (bits v 16 7 + bits v 24 8)))

/-- A 1 GiB unit of stacked memory is allocated to the job (R411). -/
def unitOk (s : State) (job u : Nat) : Bool :=
  let r := u / 16
  bit (reg s (pgJob job) (0x300 + 8 * (r / 4))) (16 * (r % 4) + u % 16)

/-- A range of stacked memory lies in units allocated to the job (R538). -/
def stackedOk (s : State) (job a n : Nat) : Bool :=
  inStacked a n &&
    (n == 0 || (upTo ((a + n - 1) / 2 ^ 30 - a / 2 ^ 30 + 1)).all (fun i => unitOk s job (a / 2 ^ 30 + i)))

/-- A range of the slow tier lies in the job's range (R411, R321). -/
def slowOk (s : State) (job a n : Nat) : Bool :=
  let w := reg s (pgJob job) 0x158
  inSlow s a n && decide (slowBase + 2 ^ 30 * bits w 0 8 ≤ a) &&
    decide (a + n ≤ slowBase + 2 ^ 30 * (bits w 0 8 + bits w 8 8))

/-- A fabric range is memory of the job, in either tier. -/
def fabOk (s : State) (job a n : Nat) : Bool := stackedOk s job a n || slowOk s job a n

/-! ### Checks shared by the command formats -/

/-- The reserved bits of a sync word are zero (Table 3-1); `wide` admits CORE in [39:34] (R127). -/
def syncFmt (c : QCmd) (wide : Bool) : Bool :=
  let w := syncWord c
  bits w 5 3 == 0 && bits w 29 3 == 0 && (if wide then bits w 40 24 == 0 else bits w 34 30 == 0)

/-- FORMAT_ERROR unless the form holds, then ACCESS_VIOLATION unless the addresses are allowed (R57 steps 3 and 4). -/
def formThen (fmt acc : Bool) : Option Nat :=
  if !fmt then some stFormat else if !acc then some stAccess else none

/-- A number lies from `lo` to `hi`. -/
def within (x lo hi : Nat) : Bool := decide (lo ≤ x) && decide (x ≤ hi)

/-! ### Stored operands -/

/-- The exchange reaches a cluster cache or a scratch of die 1 only across the bridge, whose message role has lost its last
good bundle (R22, R465). -/
def farCache (s : State) (a : Nat) : Bool :=
  s.actDie == 3 && bit s.cutRoles 1 &&
    (match a / 2 ^ 80 with
     | 1 => decide (1024 ≤ a % 2 ^ 80 / 2 ^ 64)
     | 2 => decide (128 ≤ a % 2 ^ 80 / 2 ^ 64)
     | _ => false)

/-- Where a range of any memory cannot be read (R331, R344, R470). -/
def readBad (s : State) (a n : Nat) : Option Nat :=
  if a < 2 ^ 80 then fabBad s a n else if farCache s a then some a else badIn s a n

/-- Where a range of any memory cannot be written (R331, R344, R473). -/
def writeBad (s : State) (a n : Nat) : Option Nat := if a < 2 ^ 80 then fabBadW s a n else badPartial s a n

/-- The first failing granule among `n` rows of `rb` bytes. -/
def rowsBad (s : State) : Nat → Nat → Nat → Nat → Option Nat
  | 0, _, _, _ => none
  | n + 1, a, stride, rb =>
    match readBad s a rb with
    | some g => some g
    | none => rowsBad s n (a + stride) stride rb

/-- The first granule that `n` rows of `rb` bytes would write only in part and that fails (R473). -/
def rowsPartial (s : State) : Nat → Nat → Nat → Nat → Option Nat
  | 0, _, _, _ => none
  | n + 1, a, stride, rb =>
    match writeBad s a rb with
    | some g => some g
    | none => rowsPartial s n (a + stride) stride rb

/-- The first granule of an operand that fails its check (R144 for SQ8's scale plane). -/
def operandBad (s : State) (a stride fmt rows cols : Nat) : Option Nat :=
  if fmt = 5 then
    match rowsBad s (rows / 32) a stride (1024 * (cols / 32)) with
    | some g => some g
    | none => readBad s (a + rows / 32 * stride) (rows / 32 * (cols / 32))
  else rowsBad s rows a stride (rowBytes fmt cols)

/-- Element (i, j) of a stored operand of `rows` by `cols` elements, scale included (R137, R141, R142, R144). -/
def elemAt (s : State) (a stride fmt rows cols i j : Nat) : Val :=
  if fmt = 5 then
    let t := a + i / 32 * stride + 1024 * (j / 32)
    scaled (rdNum s (a + rows / 32 * stride + i / 32 * (cols / 32) + j / 32) 1)
      (decE4M3 (rdNum s (t + 32 * (i % 32) + j % 32) 1))
  else if isMx fmt then
    let row := a + i * stride
    scaled (rdNum s (row + mxArea fmt cols + j / 32) 1)
      (mxElem fmt (rdMem s (row + j / 32 * mxB fmt) (mxB fmt)) (j % 32))
  else plainElem fmt (rdMem s (a + i * stride + j * elemBytes fmt) (elemBytes fmt))

/-- Elements j0 up to j0 + n − 1 of row i. -/
def rowAt (s : State) (a stride fmt rows cols i j0 n : Nat) : List Val :=
  (upTo n).map (fun j => elemAt s a stride fmt rows cols i (j0 + j))

/-- A core's scratch read failed: the COR page logs it with the core-local address (R94, R470). -/
def uncorrScratch (s : State) (core job g : Nat) : State := uncorrLocal s (pgCor core) 9 (g - spScratch core) job

/-- A cluster cache read failed (R352). -/
def uncorrClu (s : State) (k job g : Nat) : State := uncorrLocal s (pgClu k) 8 (g - spClu k) job

/-- The page that owns a failing granule logs it, whichever memory it is in. -/
def uncorrAny (s : State) (job g : Nat) : State :=
  let u := g % 2 ^ 80 / 2 ^ 64
  if g < 2 ^ 80 then uncorrFab s g job false
  else if g / 2 ^ 80 = 1 then uncorrScratch s u job g
  else if g / 2 ^ 80 = 2 then uncorrClu s u job g
  else uncorrLocal s (pgVen u) 8 (g - spTbuf u) job

/-- `n` bytes whose value the spec does not define (R470 step 4), as the k-th free draw gives them. -/
def undefBytes (k n : Nat) : List Byte := (upTo n).map (fun i => BitVec.ofNat 8 (Config.undefByte k i))

/-- Bytes a failed command would have written are not defined (R470 step 4). -/
def undefRows (s : State) : Nat → Nat → Nat → Nat → State
  | 0, _, _, _ => s
  | n + 1, a, stride, rb =>
    undefRows { wrMem s a (undefBytes s.free rb) with free := s.free + 1 } n (a + stride) stride rb

/-- A command ends with UNCORRECTABLE_MEMORY at a failing granule (R470). -/
def failUncorr (s : State) (r : RCmd) (g : Nat) (result : List Byte) : State :=
  finish (uncorrAny s r.cmd.job g) { r with outs := [] } stUncorr result

/-! ### The finished-tile queue (R165, R166) -/

/-- The values of finished-tile slot `n` follow the tile buffers of the core. -/
def spFtq (core slot : Nat) : Nat := spTbuf core + 0x20000 + 0x2000 * slot

/-- The first slot that no entry holds. -/
def ftqFree (v : Ven) : Option Nat := (upTo 8).find? (fun i => !(v.ftq.any (fun e => e.slot == i)))

/-- An entry of rows of values is put behind the others. -/
def ftqPush (s : State) (core job width : Nat) (int : Bool) (vals : List (List Nat)) : State :=
  let v := venOf s core
  match ftqFree v with
  | none => s
  | some i =>
    let s := setVen s core { v with
      ftq := v.ftq ++ [{ slot := i, job := job, rows := vals.length, width := width, int := int }] }
    wrMem s (spFtq core i) (vals.flatten.flatMap (leBytes 4))

/-- The oldest entry of a job. -/
def ftqOf (s : State) (core job : Nat) : Option FtqEntry := (venOf s core).ftq.find? (fun e => e.job == job)

/-- An entry is removed. -/
def ftqDrop (s : State) (core slot : Nat) : State :=
  let v := venOf s core
  setVen s core { v with ftq := v.ftq.filter (fun e => e.slot != slot) }

/-- Word (m, n) of an entry as FP32; INT32 converts with rounding to nearest even (R166). -/
def ftqElem (s : State) (core : Nat) (e : FtqEntry) (m n : Nat) : Nat :=
  let p := rdNum s (spFtq core e.slot + 4 * (m * e.width + n)) 4
  if e.int then enc32 (vInt (sgn 32 p)) else p

/-! ### Spill slots (R110, R111, R340) -/

/-- NEXT_SEQ and DONE of a slot at a global address. -/
def slotNext (s : State) (a : Nat) : Nat := rdNum s a 8
def slotDone (s : State) (a : Nat) : Nat := rdNum s (a + 8) 8

/-- One element of accumulate-add (R340). -/
def accAdd (int : Bool) (old v : Nat) : Nat := if int then sat32 (sgn 32 old + sgn 32 v) else add32 old v

/-- A row of values is added into, or stored to, slot words. -/
def slotRow (s : State) (int store : Bool) : Nat → List Nat → State
  | _, [] => s
  | a, v :: vs => slotRow (wrNum s a 4 (if store then v else accAdd int (rdNum s a 4) v)) int store (a + 4) vs

/-- The first failing granule under the slot rows of a block. -/
def slotBad (s : State) (a stride n rb : Nat) : Option Nat := rowsBad s n a stride rb

/-- The rows of a block are applied in ascending order. -/
def slotRows (s : State) (int store : Bool) (stride : Nat) : Nat → List (List Nat) → State
  | _, [] => s
  | a, r :: rs => slotRows (slotRow s int store a r) int store stride (a + stride) rs

/-- The 64-byte lines that rows of `rb` bytes from `a` touch. -/
def slotLines (stride rb : Nat) : Nat → Nat → Nat
  | _, 0 => 0
  | a, n + 1 => ((a + rb - 1) / 64 - a / 64 + 1) + slotLines stride rb (a + stride) n

/-! ### Tile buffers (R162, R168) -/

/-- Occupying job of a tile buffer plus one; zero for none. -/
def tbOcc (v : Ven) (b : Nat) : Nat := mapGet 0 v.occ b

/-- The tile buffers that a byte range touches. -/
def tbRange (off n : Nat) : List Nat :=
  if n = 0 then [] else (upTo ((off + n - 1) / 0x4000 - off / 0x4000 + 1)).map (· + off / 0x4000)

/-- No buffer of the range is occupied by another job. -/
def tbFree (s : State) (core job off n : Nat) : Bool :=
  (tbRange off n).all (fun b => tbOcc (venOf s core) b == 0 || tbOcc (venOf s core) b == job + 1)

/-- A job's first write occupies a buffer, which is zeroed first if it was released (R168). -/
def tbTake (s : State) (core job b : Nat) : State :=
  let v := venOf s core
  let s := if mapGet 0 v.stale b = 1 then wipe s (spTbuf core + 0x4000 * b) 0x4000 else s
  setVen s core { v with occ := mapPut 0 v.occ b (job + 1), stale := mapPut 0 v.stale b 0 }

/-- The buffers of a range are taken for a job. -/
def tbTakeRange (s : State) (core job off n : Nat) : State :=
  (tbRange off n).foldl (fun s b => if tbOcc (venOf s core) b = job + 1 then s else tbTake s core job b) s

/-- A 32-bit word of a tile buffer; of a released buffer, a free value (R168). -/
def tbWord (s : State) (core off : Nat) : Nat :=
  if mapGet 0 (venOf s core).stale (off / 0x4000) = 1 then Config.staleWord core off s.free % 2 ^ 32
  else rdNum s (spTbuf core + off) 4

/-! ### Vector operand descriptors (R162, Table 6-1) -/

structure Desc where
  off : Nat
  fmt : Nat
  space : Nat
  none : Bool
  rsv : Nat
deriving DecidableEq, Repr

def descOf (w : Nat) : Desc :=
  { off := bits w 0 23, fmt := bits w 23 4, space := bits w 27 2, none := bit w 29, rsv := bits w 30 2 }

/-- Format as stored in its space: spaces 1 and 2 hold 32-bit values. -/
def dFmt (d : Desc) : Nat := if d.space = 1 ∨ d.space = 2 then 4 else d.fmt

/-- First global byte of an operand (space 2: of an entry's slot). -/
def dBase (core : Nat) (slot : Nat) (d : Desc) : Nat :=
  match d.space with
  | 0 => spScratch core + d.off
  | 1 => spTbuf core + d.off
  | 2 => spFtq core slot + d.off
  | _ => spClu (core / 8) + d.off

/-- Bytes between rows: the given stride, or packed rows when it is zero. -/
def dStride (d : Desc) (stride cols : Nat) : Nat := if stride = 0 then rowBytes (dFmt d) cols else stride

/-- Bytes an operand spans from its offset. -/
def dSpan (d : Desc) (stride rows cols : Nat) : Nat :=
  if rows = 0 then 0 else (rows - 1) * dStride d stride cols + rowBytes (dFmt d) cols

/-- Bytes of a space. -/
def spaceSize (sp : Nat) : Nat :=
  match sp with
  | 0 => scratchBytes
  | 1 => 0x18000
  | 2 => 0x2000
  | _ => cluBytes

/-- The form of an operand that a command uses (R163, R174): `dst` for a destination. -/
def dForm (d : Desc) (dst : Bool) (stride rows cols : Nat) : Bool :=
  d.rsv == 0 && !d.none && decide (dFmt d ≤ 9) && dFmt d != 5 &&
    (stride == 0 || decide (rowBytes (dFmt d) cols ≤ stride)) &&
    decide (d.off + dSpan d stride rows cols ≤ spaceSize d.space) &&
    (!(d.space == 1 || d.space == 2) || d.off % 4 == 0) &&
    (!dst || (decide (d.space ≤ 1) && !(d.space == 0 && d.fmt == 4)))

/-- The addresses of an operand are the command's to use (R57 step 4). -/
def dAccess (s : State) (c : QCmd) (d : Desc) (stride rows cols : Nat) : Bool :=
  match d.space with
  | 0 => scratchOk s c.core c.ctx d.off (dSpan d stride rows cols)
  | 3 => cluOk s (c.core / 8) c.job d.off (dSpan d stride rows cols)
  | _ => true

/-- An element of an operand, as an exact value. -/
def dElem (s : State) (core : Nat) (e : FtqEntry) (d : Desc) (stride rows cols i j : Nat) : Val :=
  let st := dStride d stride cols
  match d.space with
  | 1 => dec32 (tbWord s core (d.off + i * st + 4 * j))
  | 2 =>
    let p := rdNum s (spFtq core e.slot + d.off + i * st + 4 * j) 4
    if e.int then dec32 (enc32 (vInt (sgn 32 p))) else dec32 p
  | _ => elemAt s (dBase core 0 d) st d.fmt rows cols i j

/-- A granule of an operand that cannot be read. -/
def dBad (s : State) (core slot : Nat) (d : Desc) (stride rows cols : Nat) : Option Nat :=
  rowsBad s rows (dBase core slot d) (dStride d stride cols) (rowBytes (dFmt d) cols)

/-- A granule that writing a destination would cover only in part and that fails. -/
def dPartial (s : State) (core : Nat) (d : Desc) (stride rows cols : Nat) : Option Nat :=
  rowsPartial s rows (dBase core 0 d) (dStride d stride cols) (rowBytes (dFmt d) cols)

/-- Rows of values are written to a destination, narrowed to its format (R139, R143, R169). -/
def dWriteRows (s : State) (core : Nat) (d : Desc) (st : Nat) : Nat → List (List Val) → State
  | _, [] => s
  | i, vs :: rest =>
    dWriteRows (wrMem s (dBase core 0 d + i * st) (encRow (dFmt d) vs)) core d st (i + 1) rest

end Sys2Proof.Machine
end

