-- ==== Sys2Proof/Machine/Ven.lean ====
section
/-! DEFINITION. The vector engine (R161 to R176). -/
namespace Sys2Proof.Machine

/-! ### Functions (Table 6-2) -/

/-- FP32 pattern of a free value: never a NaN other than the canonical one (R169). -/
def freePat (x : Nat) : Nat := enc32 (dec32 (x % 2 ^ 32))

/-- One-operand functions of Table 6-2 at an infinity, as IEEE 754 gives them (R169); SILU and GELU of −∞ multiply an infinity
by zero. -/
def fnInf (f : Nat) (neg : Bool) : Nat :=
  match f with
  | 0x10 | 0x11 => if neg then 0 else inf32
  | 0x13 => if neg then 2 ^ 31 else 0
  | 0x15 => if neg then nan32 else 0
  | 0x16 => if neg then 0xBF800000 else 0x3F800000
  | 0x17 => if neg then 0 else 0x3F800000
  | _ => if neg then nan32 else inf32

/-- One-operand functions of Table 6-2. Infinities follow IEEE 754 (R169); the "≤ 1 ulp" functions give a value within 1 ulp
that depends on the operand alone (R170); a finite operand at which no rule states a result gives a free value. -/
def fn1 (f a : Nat) : Nat :=
  let key := Config.venFn f a
  match dec32 a with
  | .nan => nan32
  | .inf n => fnInf f n
  | .fin n m e =>
    if f = 0x13 then (if m = 0 then freePat key else enc32 (vDiv (vPow2 0) (.fin n m e)))
    else if f = 0x14 then (if n = true ∧ m ≠ 0 then freePat key else enc32 (vSqrt (.fin n m e)))
    else if (f = 0x12 ∨ f = 0x15) ∧ (n = true ∨ m = 0) then freePat key
    else ulpFn f key n m e

/-- e^A of Table 6-2. -/
def expFn (a : Nat) : Nat := fn1 0x10 a

/-- Functions whose operation field is defined (Table 6-2). -/
def mapDefined (f : Nat) : Bool := decide (f ≤ 9) || within f 0x10 0x19 || f == 0x3F

/-- The second source is used. -/
def mapUsesB (f : Nat) : Bool := within f 1 7

/-- Result of VEN_MAP on FP32 patterns (Table 6-2). -/
def mapFn (f a b c imm0 imm1 : Nat) : Nat :=
  match f with
  | 0x00 => enc32 (dec32 a)
  | 0x01 => add32 a b
  | 0x02 => enc32 (vAdd (dec32 a) (vNeg (dec32 b)))
  | 0x03 => mul32 a b
  | 0x04 => fma32 a b c
  | 0x05 => max32 a b
  | 0x06 => min32 a b
  | 0x07 => enc32 (vAdd (vMul (dec32 a) (dec32 imm0)) (vMul (dec32 b) (dec32 imm1)))
  | 0x08 => enc32 (vAbs (dec32 a))
  | 0x09 =>
    if vIsNan (dec32 a) then nan32
    else if vIsNan (dec32 imm0) || vIsNan (dec32 imm1) || decide (0 < vCmp (dec32 imm0) (dec32 imm1)) then
      freePat (Config.venFn 9 a)
    else min32 (max32 a imm0) imm1
  | _ => fn1 f a

/-! ### Histogram slots (R158, R159, R175) -/

/-- One value is counted. -/
def histCount (h : HSlot) (p : Nat) : HSlot :=
  let k := histBin p
  let v := mapGet 0 h.ctr k
  if v = 0xFFFFFFFF then h
  else { h with ctr := mapPut 0 h.ctr k (v + 1), sat := h.sat || decide (v + 1 = 0xFFFFFFFF) }

/-- A command counts values into a slot, which takes the command's job (R175). -/
def histAdd (s : State) (core job slot : Nat) (ps : List Nat) : State :=
  let v := venOf s core
  let h := { mapGet {} v.hs slot with tagged := true, job := job }
  setVen s core { v with hs := mapPut {} v.hs slot (ps.foldl histCount h) }

/-- A slot is free for a job's command (R175). -/
def slotFree (s : State) (core job slot : Nat) : Bool :=
  let h := mapGet {} (venOf s core).hs slot
  !h.tagged || h.job == job

/-! ### VEN_MAP, VEN_REDUCE, VEN_SHUFFLE: form, waits, effect -/

/-- The body of Table 6-3. -/
structure VenCmd where
  a : Desc
  b : Desc
  c : Desc
  d : Desc
  count : Nat
  l : Nat
  sa : Nat
  sb : Nat
  sd : Nat
  func : Nat
  bMode : Nat
  hist : Nat
  hslot : Nat
  pop : Bool
  imm0 : Nat
  imm1 : Nat
deriving DecidableEq, Repr

def venCmdOf (c : QCmd) : VenCmd :=
  let m := bf c 43 1
  { a := descOf (bf c 16 4), b := descOf (bf c 20 4), c := descOf (bf c 24 4), d := descOf (bf c 28 4)
    count := bf c 32 2, l := bf c 34 2, sa := bf c 36 2, sb := bf c 38 2, sd := bf c 40 2, func := bf c 42 1
    bMode := bits m 0 2, hist := bits m 2 2, hslot := bits m 4 2, pop := bit m 6, imm0 := bf c 44 4, imm1 := bf c 48 4 }

/-- Rows of the command. -/
def vRows (x : VenCmd) : Nat := if x.l = 0 then 0 else x.count / x.l

/-- An operand with its row stride, rows and columns. -/
structure Opnd where
  d : Desc
  stride : Nat
  rows : Nat
  cols : Nat
deriving DecidableEq, Repr

/-- The sources a command reads (Table 6-3). -/
def vSources (op : Nat) (x : VenCmd) : List Opnd :=
  let r := vRows x
  let a : Opnd := ⟨x.a, x.sa, r, x.l⟩
  match op with
  | 1 =>
    let b : List Opnd :=
      if mapUsesB x.func && x.bMode != 3 then
        [match x.bMode with
         | 0 => ⟨x.b, x.sb, r, x.l⟩
         | 1 => ⟨x.b, x.sb, 1, x.l⟩
         | _ => ⟨x.b, x.sb, 1, r⟩]
      else []
    [a] ++ b ++ (if x.func = 4 then [⟨x.c, x.sd, r, x.l⟩] else [])
  | 2 => [a]
  | _ =>
    if x.func = 3 then [a, ⟨x.b, x.sb, r, x.l⟩]
    else if x.func = 5 then [a, ⟨{ x.b with fmt := 3, space := 0 }, 0, 1, x.l⟩]
    else [a]

/-- The destinations a command writes: rows and columns by operation (R172, R173). -/
def vDests (op : Nat) (x : VenCmd) : List Opnd :=
  let r := vRows x
  match op with
  | 1 => if x.func = 0x3F then [] else [⟨x.d, x.sd, r, x.l⟩]
  | 2 => [⟨x.d, x.sd, r, 1⟩]
  | _ =>
    if x.func = 0 then [⟨x.d, x.sd, x.l, r⟩]
    else if x.func = 3 then [⟨x.d, x.sd, r, 2 * x.l⟩]
    else if x.func = 4 then
      let d := ⟨x.d, x.sd, r, cdiv x.l 2⟩
      [d, ⟨{ x.d with off := x.d.off + x.count / 2 * elemBytes (dFmt x.d) }, x.sd, r, x.l / 2⟩]
    else [⟨x.d, x.sd, r, x.l⟩]

def oForm (o : Opnd) (dst : Bool) : Bool := dForm o.d dst o.stride o.rows o.cols
def oAccess (s : State) (c : QCmd) (o : Opnd) : Bool := dAccess s c o.d o.stride o.rows o.cols

/-- R57 steps 3 and 4 for MAP, REDUCE and SHUFFLE (R163, R174). -/
def chkVenOp (s : State) (c : QCmd) : Option Nat :=
  let x := venCmdOf c
  let src := vSources c.op x
  let dst := vDests c.op x
  formThen
    (within x.count 1 16384 && within x.l 1 16384 && x.count % x.l == 0 && !(bit (bf c 43 1) 7) && bz c 52 4 &&
      syncFmt c false && x.hist != 3 &&
      (match c.op with
       | 1 => mapDefined x.func && (x.func != 0x3F || x.d.none) &&
           (src ++ dst).all (fun o => !(isMx (dFmt o.d)) || o.cols % 32 == 0)
       | 2 => decide (x.func ≤ 4) && x.hist == 0
       | _ => decide (x.func ≤ 5) && x.hist == 0 && (src ++ dst).all (fun o => !(isMx (dFmt o.d))) &&
           (x.func != 0 || decide (x.l ≤ 64) || decide (vRows x ≤ 64)) && (x.func != 5 || x.b.space == 0)) &&
      src.all (fun o => oForm o false) && dst.all (fun o => oForm o true))
    ((src ++ dst).all (fun o => oAccess s c o))

/-- A space-2 operand needs an entry of the job; tile buffers and the slot must not be another job's (R166, R168, R175). -/
def canStartVenOp (s : State) (c : QCmd) : Bool :=
  let x := venCmdOf c
  let ops := vSources c.op x ++ vDests c.op x
  (!(ops.any (fun o => o.d.space == 2)) || (ftqOf s c.core c.job).isSome) &&
    ops.all (fun o => o.d.space != 1 || tbFree s c.core c.job o.d.off (dSpan o.d o.stride o.rows o.cols)) &&
    (x.hist == 0 || slotFree s c.core c.job x.hslot)

/-- Every element of an operand as FP32 patterns, row by row (R169). -/
def opPats (s : State) (core : Nat) (e : FtqEntry) (o : Opnd) : List (List Nat) :=
  (upTo o.rows).map (fun i => (upTo o.cols).map (fun j => enc32 (dElem s core e o.d o.stride o.rows o.cols i j)))

/-- A tile buffer or entry that fails its check is logged in the VEN page with its buffer offset (R190). -/
def venFail (s : State) (r : RCmd) (g : Nat) : State :=
  finish (uncorrAny s r.cmd.job g) r stUncorr []

/-- The first failing granule among operands. -/
def opsBad (s : State) (core slot : Nat) : List Opnd → Option Nat
  | [] => none
  | o :: os =>
    match dBad s core slot o.d o.stride o.rows o.cols with
    | some g => some g
    | none => opsBad s core slot os

def opsPartial (s : State) (core : Nat) : List Opnd → Option Nat
  | [] => none
  | o :: os =>
    match dPartial s core o.d o.stride o.rows o.cols with
    | some g => some g
    | none => opsPartial s core os

/-- Destination bytes of a failed command are not defined (R470). -/
def opsUndef (s : State) (core : Nat) : List Opnd → State
  | [] => s
  | o :: os =>
    opsUndef (undefRows s o.rows (dBase core 0 o.d) (dStride o.d o.stride o.cols) (rowBytes (dFmt o.d) o.cols)) core os

/-- Tile buffers of a destination are taken, and its rows written. -/
def opWrite (s : State) (core job : Nat) (o : Opnd) (rows : List (List Nat)) : State :=
  let s := if o.d.space = 1 then tbTakeRange s core job o.d.off (dSpan o.d o.stride o.rows o.cols) else s
  dWriteRows s core o.d (dStride o.d o.stride o.cols) 0 (rows.map (fun r => r.map dec32))

/-- NaN results written are counted (Table 6-7). -/
def countNan (s : State) (core : Nat) (rows : List (List Nat)) : State :=
  let n := (rows.flatten.filter (fun p => vIsNan (dec32 p))).length
  if n = 0 then s else bump s (pgVen core) 4 n

/-- Reduction of one row (R172). -/
def reduceRow (f : Nat) (row : List Nat) : Nat :=
  match f with
  | 0 => enc32 (vSum (row.map dec32))
  | 1 => enc32 (vSum (row.map (fun p => vMul (dec32 p) (dec32 p))))
  | 2 => row.tail.foldl max32 (enc32 (dec32 (row.headD 0)))
  | 3 => row.tail.foldl min32 (enc32 (dec32 (row.headD 0)))
  | _ => row.foldl (fun a p => max32 a (enc32 (vAbs (dec32 p)))) 0

/-- Results of VEN_MAP, row by row (Table 6-2, Table 6-3). -/
def mapRows (x : VenCmd) (a b c : List (List Nat)) : List (List Nat) :=
  (upTo (vRows x)).map (fun i => (upTo x.l).map (fun j =>
    let bv :=
      if x.bMode = 3 then x.imm1
      else if x.bMode = 0 then (b.getD i []).getD j 0
      else if x.bMode = 1 then (b.getD 0 []).getD j 0
      else (b.getD 0 []).getD i 0
    mapFn x.func ((a.getD i []).getD j 0) bv ((c.getD i []).getD j 0) x.imm0 x.imm1))

/-- The elements of a source as stored bytes, for moves that keep every bit (R173). -/
def opRaw (s : State) (core slot : Nat) (o : Opnd) : List (List (List Byte)) :=
  let st := dStride o.d o.stride o.cols
  let eb := elemBytes (dFmt o.d)
  (upTo o.rows).map (fun i => (upTo o.cols).map (fun j =>
    if o.d.space = 1 then leBytes 4 (tbWord s core (o.d.off + i * st + 4 * j))
    else rdMem s (dBase core slot o.d + i * st + j * eb) eb))

/-- Rearrangement of rows by a shuffle pattern (R173); `z` is +0, `idx` the GATHER indices. -/
def shuffle {α : Type} (f rows l : Nat) (imm : Int) (idx : List Int) (z : α) (a b : List (List α)) : List (List (List α)) :=
  let at_ (i j : Nat) : α := (a.getD i []).getD j z
  match f with
  | 0 => [(upTo l).map (fun j => (upTo rows).map (fun i => at_ i j))]
  | 1 => [(upTo rows).map (fun i => (upTo l).map (fun j => at_ i (l - 1 - j)))]
  | 2 => [(upTo rows).map (fun i => (upTo l).map (fun (j : Nat) => at_ i (((j : Int) - imm) % (l : Int)).toNat))]
  | 3 => [(upTo rows).map (fun i => (upTo l).flatMap (fun j => [at_ i j, (b.getD i []).getD j z]))]
  | 4 => [(upTo rows).map (fun i => (upTo (cdiv l 2)).map (fun j => at_ i (2 * j))),
          (upTo rows).map (fun i => (upTo (l / 2)).map (fun j => at_ i (2 * j + 1)))]
  | _ => [(upTo rows).map (fun i => (upTo l).map (fun j =>
           let k := idx.getD j 0
           if 0 ≤ k ∧ k < (l : Int) then at_ i k.toNat else z))]

/-- The entry that a command's space-2 operands read. -/
def venEntry (s : State) (c : QCmd) : FtqEntry := (ftqOf s c.core c.job).getD {}

/-- Space-2 operands lie within the entry (R174). -/
def entryOk (e : FtqEntry) (ops : List Opnd) : Bool :=
  ops.all (fun o => o.d.space != 2 || decide (o.d.off + dSpan o.d o.stride o.rows o.cols ≤ 4 * e.rows * e.width))

/-- A command with POP set removes the entry it read (R166). -/
def venPop (s : State) (c : QCmd) (x : VenCmd) : State :=
  if x.pop && (vSources c.op x).any (fun o => o.d.space == 2) then ftqDrop s c.core (venEntry s c).slot else s

/-- The common frame of MAP, REDUCE and SHUFFLE: the entry's check, the check codes, then the effect. -/
def venOp (s : State) (core op : Nat) (eff : State → RCmd → VenCmd → FtqEntry → State) : State :=
  match runOp s (pgVen core) op with
  | none => s
  | some r =>
    let x := venCmdOf r.cmd
    let e := venEntry s r.cmd
    if !(entryOk e (vSources op x)) then finish s r stFormat []
    else
      match opsBad s core e.slot (vSources op x) with
      | some g => venFail (opsUndef s core (vDests op x)) r g
      | none =>
        match opsPartial s core (vDests op x) with
        | some g => venFail (opsUndef s core (vDests op x)) r g
        | none => finish (venPop (eff s r x e) r.cmd x) r stOK []

/-- VEN_MAP's effect. -/
def mapEff (s : State) (r : RCmd) (x : VenCmd) (e : FtqEntry) : State :=
  let core := r.cmd.core
  let src := vSources 1 x
  let pats (i : Nat) : List (List Nat) :=
    match src[i]? with
    | some o => opPats s core e o
    | none => []
  let a := pats 0
  let usesB := mapUsesB x.func && x.bMode != 3
  let b := if usesB then pats 1 else []
  let c := if x.func = 4 then pats (if usesB then 2 else 1) else []
  let res := if x.func = 0x3F then [] else mapRows x a b c
  let s := match x.hist with
    | 1 => histAdd s core r.cmd.job x.hslot a.flatten
    | 2 => histAdd s core r.cmd.job x.hslot res.flatten
    | _ => s
  match vDests 1 x with
  | [] => s
  | d :: _ => countNan (opWrite s core r.cmd.job d res) core res

/-- VEN_REDUCE's effect. -/
def reduceEff (s : State) (r : RCmd) (x : VenCmd) (e : FtqEntry) : State :=
  let core := r.cmd.core
  match vSources 2 x, vDests 2 x with
  | a :: _, d :: _ =>
    let res := (opPats s core e a).map (fun row => [reduceRow x.func row])
    countNan (opWrite s core r.cmd.job d res) core res
  | _, _ => s

/-- Whether a shuffle moves stored bits: source and destination have the same format and no INT32 entry converts. -/
def sameFmt (x : VenCmd) (e : FtqEntry) : Bool :=
  dFmt x.a == dFmt x.d && (x.func != 3 || dFmt x.b == dFmt x.d) &&
    !((x.a.space == 2 || (x.func == 3 && x.b.space == 2)) && e.int)

/-- VEN_SHUFFLE's effect: every source is read before any destination is written (R173). -/
def shuffleEff (s : State) (r : RCmd) (x : VenCmd) (e : FtqEntry) : State :=
  let core := r.cmd.core
  let src := vSources 3 x
  let dst := vDests 3 x
  let idx : List Int :=
    if x.func = 5 then (upTo x.l).map (fun j => sgn 16 (rdNum s (spScratch core + x.b.off + 2 * j) 2)) else []
  let oob := (idx.filter (fun k => decide (k < 0) || decide ((x.l : Int) ≤ k))).length
  let a : Opnd := src.headD ⟨x.a, 0, 0, 0⟩
  let bO : Opnd := (src[1]?).getD a
  let imm := sgn 32 x.imm0
  let s' :=
    if sameFmt x e then
      let raw := opRaw s core e.slot
      let z : List Byte := List.replicate (elemBytes (dFmt x.d)) 0
      let out := shuffle x.func (vRows x) x.l imm idx z (raw a) (if x.func = 3 then raw bO else [])
      (dst.zip out).foldl (fun s p =>
        let o := p.1
        let s := if o.d.space = 1 then tbTakeRange s core r.cmd.job o.d.off (dSpan o.d o.stride o.rows o.cols) else s
        ((p.2.foldl (fun (q : State × Nat) row =>
          (wrMem q.1 q.2 row.flatten, q.2 + dStride o.d o.stride o.cols)) (s, dBase core 0 o.d)).1)) s
    else
      let out := shuffle x.func (vRows x) x.l imm idx 0 (opPats s core e a)
        (if x.func = 3 then opPats s core e bO else [])
      (dst.zip out).foldl (fun s p => countNan (opWrite s core r.cmd.job p.1 p.2) core p.2) s
  if oob = 0 then s' else bump s' (pgVen core) 3 (oob * vRows x)

def opVenMap (s : State) (core : Nat) : State := venOp s core 1 mapEff
def opVenReduce (s : State) (core : Nat) : State := venOp s core 2 reduceEff
def opVenShuffle (s : State) (core : Nat) : State := venOp s core 3 shuffleEff

/-! ### VEN_HIST_FLUSH and VEN_RELEASE -/

/-- R57 steps 3 and 4 for VEN_HIST_FLUSH and VEN_RELEASE. -/
def chkVenMisc (s : State) (c : QCmd) : Option Nat :=
  if c.op = 4 then
    formThen (bits (bf c 16 1) 3 5 == 0 && bz c 17 3 && bz c 24 32 && syncFmt c false && bf c 20 4 % 64 == 0 &&
        decide (bf c 20 4 + 272 ≤ scratchBytes))
      (scratchOk s c.core c.ctx (bf c 20 4) 272)
  else formThen (bits (bf c 16 1) 6 2 == 0 && bz c 17 39 && syncFmt c false) true

/-- R57 steps 3 and 4 for the commands of the VEN page. -/
def chkVen (s : State) (c : QCmd) : Option Nat := if c.op ≤ 3 then chkVenOp s c else chkVenMisc s c

def canStartVen (s : State) (c : QCmd) : Bool :=
  if c.op ≤ 3 then canStartVenOp s c
  else if c.op = 4 then slotFree s c.core c.job (bits (bf c 16 1) 0 2)
  else true

/-- VEN_HIST_FLUSH takes effect (R176). -/
def opHistFlush (s : State) (core : Nat) : State :=
  match runOp s (pgVen core) 4 with
  | none => s
  | some r =>
    let f := bf r.cmd 16 1
    let slot := bits f 0 2
    let ovf := bit f 2
    let a := spScratch core + bf r.cmd 20 4
    match (if ovf then writeBad s a 272 else readBad s a 272) with
    | some g => venFail (undefRows s 1 a 0 272) r g
    | none =>
      let v := venOf s core
      let h := mapGet {} v.hs slot
      let old (k : Nat) : Nat := if ovf then 0 else rdNum s (a + 4 * k) 4
      let sums := (upTo 67).map (fun k => min (old k + mapGet 0 h.ctr k) 0xFFFFFFFF)
      let stuck := (upTo 67).any (fun k => decide (sums.getD k 0 = 0xFFFFFFFF) && decide (old k ≠ 0xFFFFFFFF) && !ovf)
      let sat := (if ovf then 0 else rdNum s (a + 268) 4 % 2)
      let w67 := if h.sat || stuck || sat == 1 then 1 else 0
      let s := wrMem s a (sums.flatMap (leBytes 4) ++ leBytes 4 w67)
      finish (setVen s core { v with hs := mapPut {} v.hs slot {} }) r stOK []

/-- Buffers of a mask that a job occupies are released (R168, VEN_RELEASE). -/
def tbRelease (s : State) (core job mask : Nat) : State :=
  (setIdx 6 0 mask).foldl (fun s b =>
    let v := venOf s core
    if tbOcc v b = job + 1 then setVen s core { v with occ := mapPut 0 v.occ b 0, stale := mapPut 0 v.stale b 1 }
    else s) s

/-- VEN_RELEASE takes effect. -/
def opVenRelease (s : State) (core : Nat) : State :=
  match runOp s (pgVen core) 5 with
  | none => s
  | some r => finish (tbRelease s core r.cmd.job (bits (bf r.cmd 16 1) 0 6)) r stOK []

end Sys2Proof.Machine
end

