-- ==== Sys2Proof/Machine/Atn.lean ====
section
/-! DEFINITION. The attention support (R177 to R188). -/
namespace Sys2Proof.Machine

/-! ### Finished-tile entries consumed in column order (R179, R180) -/

/-- The job's entries from the oldest on until their widths reach `cols`; none while they fall short. -/
def takeEntries : List FtqEntry → Nat → Option (List FtqEntry)
  | _, 0 => some []
  | [], _ + 1 => none
  | e :: es, n + 1 => (takeEntries es (n + 1 - e.width)).map (fun l => e :: l)

def jobEntries (s : State) (core job : Nat) : List FtqEntry := (venOf s core).ftq.filter (fun e => e.job == job)

/-- The entries match a shape of `rows` by `cols`. -/
def entriesFit (es : List FtqEntry) (rows cols : Nat) : Bool :=
  es.all (fun e => e.rows == rows) && (es.map (·.width)).sum == cols

/-- Element (i, j) over entries in column order. -/
def entriesElem (s : State) (core : Nat) : List FtqEntry → Nat → Nat → Nat
  | [], _, _ => 0
  | e :: es, i, j => if j < e.width then ftqElem s core e i j else entriesElem s core es i (j - e.width)

/-- The first failing granule among entries. -/
def entriesBad (s : State) (core : Nat) : List FtqEntry → Option Nat
  | [] => none
  | e :: es =>
    match badIn s (spFtq core e.slot) (4 * e.rows * e.width) with
    | some g => some g
    | none => entriesBad s core es

/-- Consumed entries are removed. -/
def entriesDrop (s : State) (core : Nat) (es : List FtqEntry) : State :=
  es.foldl (fun s e => ftqDrop s core e.slot) s

/-! ### Bodies (Table 6-4, Table 6-5) -/

structure Scores where
  p : Desc
  state : Nat
  segq : Nat
  segk : Nat
  rows : Nat
  kcols : Nat
  qpos : Nat
  kpos : Nat
  ps : Nat
  causal : Bool
  segEn : Bool
  bias : Nat
  first : Bool
  lse : Bool
  hist : Nat
  hslot : Nat
  scale : Nat
  table : Nat
deriving DecidableEq, Repr

def scoresOf (c : QCmd) : Scores :=
  let f := bf c 46 1
  { p := descOf (bf c 16 4), state := bf c 20 4, segq := bf c 24 4, segk := bf c 28 4, rows := bf c 32 2
    kcols := bf c 34 2, qpos := bf c 36 4, kpos := bf c 40 4, ps := bf c 44 2, causal := bit f 0, segEn := bit f 1
    bias := bits f 2 2, first := bit f 4, lse := bit f 5, hist := bits f 6 2, hslot := bits (bf c 47 1) 0 2
    scale := bf c 48 4, table := bf c 52 4 }

/-- The state vectors lie in the tile buffers (R183, R188). -/
def stateForm (a : Nat) : Bool := a % 4 == 0 && decide (a + 768 ≤ 0x18000)

/-- The output rows lie in the tile buffers (R183, R188). -/
def oRowsForm (o rows dv : Nat) : Bool := o % 4 == 0 && decide (o + 4 * rows * dv ≤ 0x18000)

/-- R57 steps 3 and 4 for ATN_SCORES (R183, R188). -/
def chkScores (s : State) (c : QCmd) : Option Nat :=
  let x := scoresOf c
  formThen
    (within x.rows 1 64 && within x.kcols 1 256 && (x.p.fmt == 3 || x.p.fmt == 0 || x.p.fmt == 1) && x.p.space == 0 &&
      dForm x.p true x.ps x.rows x.kcols && stateForm x.state && bits (bf c 47 1) 2 6 == 0 && x.bias != 3 &&
      x.hist != 3 && syncFmt c false && !(x.lse && x.segEn) && !(x.segEn && x.segk == 0xFFFFFFFF))
    (scratchOk s c.core c.ctx x.p.off (dSpan x.p x.ps x.rows x.kcols) &&
      (!(x.segEn || x.lse) || scratchOk s c.core c.ctx x.segq (2 * x.rows)) &&
      (!x.segEn || scratchOk s c.core c.ctx x.segk (2 * x.kcols)) &&
      (x.bias != 1 || scratchOk s c.core c.ctx x.table 512))

/-- Body of ATN_ACCUM: O, STATE, ROWS, DV, FIRST. -/
def chkAccum (c : QCmd) : Option Nat :=
  formThen
    (within (bf c 24 2) 1 64 && within (bf c 26 2) 1 256 && bits (bf c 28 1) 1 7 == 0 && bz c 29 27 &&
      stateForm (bf c 20 4) && oRowsForm (bf c 16 4) (bf c 24 2) (bf c 26 2) && syncFmt c false) true

/-- R57 steps 3 and 4 for ATN_FINISH. -/
def chkFinish (s : State) (c : QCmd) : Option Nat :=
  let d := descOf (bf c 24 4)
  let rows := bf c 32 2
  let dv := bf c 34 2
  formThen
    (within rows 1 64 && within dv 1 256 && d.space == 0 && (d.fmt == 3 || d.fmt == 0 || d.fmt == 1 || d.fmt == 6) &&
      dForm d true (bf c 36 2) rows dv && stateForm (bf c 20 4) && oRowsForm (bf c 16 4) rows dv &&
      bits (bf c 38 1) 1 7 == 0 && bits (bf c 39 1) 1 7 == 0 && bz c 40 16 && syncFmt c false)
    (scratchOk s c.core c.ctx d.off (dSpan d (bf c 36 2) rows dv) &&
      (!(bit (bf c 38 1) 0) || scratchOk s c.core c.ctx (bf c 28 4) (2 * rows)))

structure Kv where
  table : Nat
  st : Desc
  up : Nat
  t0 : Nat
  tokens : Nat
  width : Nat
  pfmt : Nat
  expand : Bool
  rank : Nat
  dout : Nat
  ss : Nat
deriving DecidableEq, Repr

def kvOf (c : QCmd) : Kv :=
  { table := bf c 16 4, st := descOf (bf c 20 4), up := bf c 24 4, t0 := bf c 28 4, tokens := bf c 32 2
    width := bf c 34 2, pfmt := bf c 36 1, expand := bit (bf c 37 1) 0 && c.op == 4, rank := bf c 38 2, dout := bf c 40 2
    ss := bf c 42 2 }

/-- Elements of a staged row. -/
def kvCols (x : Kv) : Nat := if x.expand then x.dout else x.width

/-- Bytes of a token row in its page (R184). -/
def kvRow (x : Kv) : Nat := cdiv (x.width * elemBytes x.pfmt) 32 * 32

/-- First and number of pages that the token range needs. -/
def kvPage0 (x : Kv) : Nat := x.t0 / 64
def kvPages (x : Kv) : Nat := (x.t0 + x.tokens - 1) / 64 - x.t0 / 64 + 1

/-- R57 steps 3 and 4 for ATN_KV_LOAD and ATN_KV_FLUSH (R183, R188). -/
def chkKv (s : State) (c : QCmd) : Option Nat :=
  let x := kvOf c
  formThen
    (within x.tokens 1 4096 && within x.width 1 1024 && (x.pfmt == 0 || x.pfmt == 1 || x.pfmt == 3) &&
      bits (bf c 37 1) 1 7 == 0 && !(bit (bf c 37 1) 0 && c.op == 5) && bz c 44 12 && syncFmt c false &&
      x.table % 8 == 0 && x.st.space == 0 && decide (x.st.fmt ≤ 3) && dForm x.st true x.ss x.tokens (kvCols x) &&
      (!x.expand || (within x.rank 1 64 && x.rank == x.width && x.pfmt == 3 && within x.dout 1 256)))
    (scratchOk s c.core c.ctx (x.table + 8 * kvPage0 x) (8 * kvPages x) &&
      scratchOk s c.core c.ctx x.st.off (dSpan x.st x.ss x.tokens (kvCols x)) &&
      (!x.expand || scratchOk s c.core c.ctx x.up (2 * x.rank * x.dout)))

/-- R57 steps 3 and 4 for the commands of the ATN page. -/
def chkAtn (s : State) (c : QCmd) : Option Nat :=
  match c.op with
  | 1 => chkScores s c
  | 2 => chkAccum c
  | 3 => chkFinish s c
  | _ => chkKv s c

/-- The entries that a command consumes are there, or cannot match (R166, R179, R180). -/
def entriesReady (es : List FtqEntry) (rows cols : Nat) : Bool :=
  match takeEntries es cols with
  | some _ => true
  | none => es.any (fun e => e.rows != rows)

/-- An ATN command's waits for entries, for the tile buffers that it reads or writes (ACCUM with FIRST none of the state,
FINISH not c) and for its slot are over (R166, R168, R175). -/
def canStartAtn (s : State) (c : QCmd) : Bool :=
  let free (off n : Nat) : Bool := tbFree s c.core c.job off n
  match c.op with
  | 1 =>
    let x := scoresOf c
    entriesReady (jobEntries s c.core c.job) x.rows x.kcols && (x.lse || free x.state (512 + 4 * x.rows)) &&
      (x.hist == 0 || slotFree s c.core c.job x.hslot)
  | 2 => entriesReady (jobEntries s c.core c.job) (bf c 24 2) (bf c 26 2) &&
      (bit (bf c 28 1) 0 || free (bf c 20 4 + 512) (4 * bf c 24 2)) && free (bf c 16 4) (4 * bf c 24 2 * bf c 26 2)
  | 3 => free (bf c 20 4 + 256) (4 * bf c 32 2) && (!(bit (bf c 38 1) 0) || free (bf c 20 4) (4 * bf c 32 2)) &&
      free (bf c 16 4) (4 * bf c 32 2 * bf c 34 2)
  | _ => true

/-! ### ATN_SCORES (R177 to R179) -/

/-- The pair (i, j) is allowed (R177). -/
def pairAllowed (s : State) (core : Nat) (x : Scores) (i j : Nat) : Bool :=
  (!x.causal || decide (x.kpos + j ≤ x.qpos + i)) &&
    (!x.segEn ||
      (let q := rdNum s (spScratch core + x.segq + 2 * i) 2
       q == rdNum s (spScratch core + x.segk + 2 * j) 2 && q != 0xFFFF))

/-- The bias of an allowed pair (R178). -/
def pairBias (s : State) (core : Nat) (x : Scores) (i j : Nat) : Val :=
  let d : Int := ((x.qpos + i : Nat) : Int) - ((x.kpos + j : Nat) : Int)
  match x.bias with
  | 1 => decBf (rdNum s (spScratch core + x.table + 2 * (max (-128) (min 127 d) + 128).toNat) 2)
  | 2 => dec32 (enc32 (vMul (dec32 x.table) (vInt (d.natAbs : Int))))
  | _ => vZero

/-- What one row of ATN_SCORES gives: x of the allowed pairs, p, the new m, l, c, and whether its scores make it NaN where
it was not (R181, Table 6-8). -/
structure ScoreRow where
  xs : List Nat
  ps : List Nat
  m : Nat
  l : Nat
  c : Nat
  spoilt : Bool
deriving DecidableEq, Repr

def negInf32 : Nat := 0xFF800000

/-- The row of R179. -/
def scoreRow (s : State) (core : Nat) (x : Scores) (es : List FtqEntry) (i : Nat) : ScoreRow :=
  let pair (j : Nat) : Bool × Nat :=
    if pairAllowed s core x i j then
      (true, enc32 (vAdd (vMul (dec32 (entriesElem s core es i j)) (dec32 x.scale)) (pairBias s core x i j)))
    else (false, negInf32)
  let prs := (upTo x.kcols).map pair
  let bm := prs.foldl (fun a p => max32 a p.2) negInf32
  let m := tbWord s core (x.state + 4 * i)
  let l := tbWord s core (x.state + 256 + 4 * i)
  let mn :=
    if x.lse then enc32 (decBf (rdNum s (spScratch core + x.segq + 2 * i) 2))
    else if x.first then bm
    else max32 m bm
  let one := 0x3F800000
  let allMasked := mn == negInf32
  let ps := prs.map (fun p =>
    if allMasked then 0 else if p.2 = negInf32 then (if vIsNan (dec32 mn) then nan32 else 0)
    else expFn (enc32 (vAdd (dec32 p.2) (vNeg (dec32 mn)))))
  let c :=
    if x.first then 0
    else if allMasked then one
    else if vFinite (dec32 m) && vFinite (dec32 mn) && vCmp (dec32 m) (dec32 mn) == 0 then one
    else expFn (enc32 (vAdd (dec32 m) (vNeg (dec32 mn))))
  let sum := vSum (ps.map dec32)
  let xs := (prs.filter (·.1)).map (·.2)
  { xs := xs, ps := ps, m := mn, c := c
    spoilt := ps.any (fun p => vIsNan (dec32 p)) && xs.any (fun p => !(vFinite (dec32 p))) &&
      (x.lse || x.first || !(vIsNan (dec32 m)))
    l := if x.first then enc32 sum else enc32 (vAdd (vMul (dec32 l) (dec32 c)) sum) }

/-- A column of 32-bit words is written from an offset of the tile buffers. -/
def tbPut (s : State) (core off : Nat) (ws : List Nat) : State := wrMem s (spTbuf core + off) (ws.flatMap (leBytes 4))

/-- ATN_SCORES takes effect. -/
def opScores (s : State) (core : Nat) : State :=
  match runOp s (pgAtn core) 1 with
  | none => s
  | some r =>
    let x := scoresOf r.cmd
    let job := r.cmd.job
    match takeEntries (jobEntries s core job) x.kcols with
    | none => finish s r stFormat []
    | some es =>
      if !(entriesFit es x.rows x.kcols) then finish s r stFormat []
      else
        let sc := spScratch core
        let rd := (if x.segEn || x.lse then readBad s (sc + x.segq) (2 * x.rows) else none) <|>
          (if x.segEn then readBad s (sc + x.segk) (2 * x.kcols) else none) <|>
          (if x.bias = 1 then readBad s (sc + x.table) 512 else none) <|> entriesBad s core es <|>
          (if x.lse || x.first then none
           else badIn s (spTbuf core + x.state) (4 * x.rows) <|> badIn s (spTbuf core + x.state + 256) (4 * x.rows)) <|>
          dPartial s core x.p x.ps x.rows x.kcols
        match rd with
        | some g => venFail (undefRows s x.rows (sc + x.p.off) (dStride x.p x.ps x.kcols) (rowBytes x.p.fmt x.kcols)) r g
        | none =>
          let rows := (upTo x.rows).map (scoreRow s core x es)
          let s := match x.hist with
            | 1 => histAdd s core job x.hslot (rows.flatMap (·.xs))
            | 2 => histAdd s core job x.hslot (rows.flatMap (·.ps))
            | _ => s
          let s := dWriteRows s core x.p (dStride x.p x.ps x.kcols) 0 (rows.map (fun q => q.ps.map dec32))
          let s :=
            if x.lse then s
            else
              let s := tbTakeRange s core job x.state (512 + 4 * x.rows)
              tbPut (tbPut (tbPut s core x.state (rows.map (·.m))) core (x.state + 256) (rows.map (·.l))) core
                (x.state + 512) (rows.map (·.c))
          let bad := (rows.filter (·.spoilt)).length
          let s := if bad = 0 then s else bump s (pgAtn core) 3 bad
          finish (entriesDrop s core es) r stOK []

/-! ### ATN_ACCUM (R180) -/

def opAccum (s : State) (core : Nat) : State :=
  match runOp s (pgAtn core) 2 with
  | none => s
  | some r =>
    let c := r.cmd
    let o := bf c 16 4
    let st := bf c 20 4
    let rows := bf c 24 2
    let dv := bf c 26 2
    let first := bit (bf c 28 1) 0
    match takeEntries (jobEntries s core c.job) dv with
    | none => finish s r stFormat []
    | some es =>
      if !(entriesFit es rows dv) then finish s r stFormat []
      else
        match entriesBad s core es <|> (if first then none else badIn s (spTbuf core + o) (4 * rows * dv)) <|>
            (if first then none else badIn s (spTbuf core + st + 512) (4 * rows)) with
        | some g => venFail s r g
        | none =>
          let vals := (upTo rows).flatMap (fun i => (upTo dv).map (fun n =>
            let pv := entriesElem s core es i n
            if first then enc32 (dec32 pv)
            else fma32 (tbWord s core (o + 4 * (i * dv + n))) (tbWord s core (st + 512 + 4 * i)) pv))
          let s := tbPut (tbTakeRange s core c.job o (4 * rows * dv)) core o vals
          finish (entriesDrop s core es) r stOK []

/-! ### ATN_FINISH (R181) -/

/-- ln of a row sum, for LSE_OUT (R181). -/
def lnVal (l : Nat) : Val :=
  match dec32 l with
  | .nan => .nan
  | .inf n => if n then .nan else .inf false
  | .fin n m e => dec32 (if n then freePat (Config.lnFn l) else lnPick (Config.lnFn l) m e)

def opFinish (s : State) (core : Nat) : State :=
  match runOp s (pgAtn core) 3 with
  | none => s
  | some r =>
    let c := r.cmd
    let o := bf c 16 4
    let st := bf c 20 4
    let d := descOf (bf c 24 4)
    let lse := bf c 28 4
    let rows := bf c 32 2
    let dv := bf c 34 2
    let sd := bf c 36 2
    let lseOut := bit (bf c 38 1) 0
    match badIn s (spTbuf core + o) (4 * rows * dv) <|> badIn s (spTbuf core + st + 256) (4 * rows) <|>
        (if lseOut then badIn s (spTbuf core + st) (4 * rows) else none) <|>
        dPartial s core d sd rows dv <|> (if lseOut then writeBad s (spScratch core + lse) (2 * rows) else none) with
    | some g => venFail (undefRows s rows (spScratch core + d.off) (dStride d sd dv) (rowBytes d.fmt dv)) r g
    | none =>
      let l (i : Nat) : Nat := tbWord s core (st + 256 + 4 * i)
      let out := (upTo rows).map (fun i => (upTo dv).map (fun n =>
        if vIsZero (dec32 (l i)) then vZero
        else dec32 (enc32 (vDiv (dec32 (tbWord s core (o + 4 * (i * dv + n)))) (dec32 (l i))))))
      let lses := (upTo rows).map (fun i =>
        if vIsZero (dec32 (l i)) then 0xFF80
        else encBf (vAdd (dec32 (tbWord s core (st + 4 * i))) (lnVal (l i))))
      let s := dWriteRows s core d (dStride d sd dv) 0 out
      let s := if lseOut then wrMem s (spScratch core + lse) (lses.flatMap (leBytes 2)) else s
      let mask := ((tbRange o (4 * rows * dv)) ++ tbRange st 768).foldl (fun m b => m ||| 2 ^ b) 0
      let s := if bit (bf c 39 1) 0 then tbRelease s core c.job mask else s
      finish s r stOK []

/-! ### ATN_KV_LOAD and ATN_KV_FLUSH (R184 to R186) -/

/-- The page-table entry of a page. -/
def kvEntry (s : State) (core : Nat) (x : Kv) (p : Nat) : Nat := rdNum s (spScratch core + x.table + 8 * p) 8

/-- The checks of R186 before any byte moves: status and page index of the first bad entry. -/
def kvCheck (s : State) (core job : Nat) (x : Kv) : Option (Nat × Nat) :=
  let pages := (upTo (kvPages x)).map (· + kvPage0 x)
  match pages.find? (fun p => kvEntry s core x p == 0 || kvEntry s core x p % 64 != 0) with
  | some p => some (stFormat, p)
  | none => (pages.find? (fun p => !(stackedOk s job (kvEntry s core x p) (64 * kvRow x)))).map (fun p => (stAccess, p))

/-- Fabric address of token t's row (R184). -/
def kvAddr (s : State) (core : Nat) (x : Kv) (t : Nat) : Nat := kvEntry s core x (t / 64) + t % 64 * kvRow x

/-- A staged row from a page row (R185). -/
def kvStaged (s : State) (core : Nat) (x : Kv) (a : Nat) : List Val :=
  let row := (upTo x.width).map (fun j => plainElem x.pfmt (rdMem s (a + j * elemBytes x.pfmt) (elemBytes x.pfmt)))
  if x.expand then
    (upTo x.dout).map (fun n => dec32 (enc32 (vSum ((upTo x.rank).map (fun k =>
      vMul (row.getD k vZero) (decBf (rdNum s (spScratch core + x.up + 2 * (k * x.dout + n)) 2)))))))
  else row

/-- Token rows are loaded one by one; an uncorrectable page row ends the load (R186). -/
def kvLoadGo (s : State) (core : Nat) (r : RCmd) (x : Kv) : Nat → Nat → State
  | 0, _ => finish s r stOK []
  | n + 1, i =>
    let a := kvAddr s core x (x.t0 + i)
    match fabBad s a (kvRow x) with
    | some g =>
      let s := uncorrFab s g r.cmd.job false
      finish (raiseErr s (pgAtn core) 8 { addr := g, status := stUncorr, fn := r.cmd.job } [r.cmd.job] []) r stUncorr []
    | none =>
      let b := spScratch core + x.st.off + i * dStride x.st x.ss (kvCols x)
      match writeBad s b (rowBytes x.st.fmt (kvCols x)) with
      | some g => failUncorr s r g []
      | none => kvLoadGo (wrMem s b (encRow x.st.fmt (kvStaged s core x a))) core r x n (i + 1)

/-- Staged rows are written into their pages one by one. -/
def kvFlushGo (s : State) (core : Nat) (r : RCmd) (x : Kv) : Nat → Nat → State
  | 0, _ => finish s r stOK []
  | n + 1, i =>
    let a := kvAddr s core x (x.t0 + i)
    let b := spScratch core + x.st.off
    let st := dStride x.st x.ss x.width
    match readBad s (b + i * st) (rowBytes x.st.fmt x.width) <|> writeBad s a (x.width * elemBytes x.pfmt) with
    | some g => failUncorr s r g []
    | none =>
      let vals := (upTo x.width).map (fun j => elemAt s b st x.st.fmt x.tokens x.width i j)
      kvFlushGo (wrMem s a (vals.flatMap (encPlain x.pfmt))) core r x n (i + 1)

/-- A KV command takes effect after R186's checks. -/
def opKv (s : State) (core op : Nat) : State :=
  match runOp s (pgAtn core) op with
  | none => s
  | some r =>
    let x := kvOf r.cmd
    match readBad s (spScratch core + x.table + 8 * kvPage0 x) (8 * kvPages x) <|>
        (if x.expand then readBad s (spScratch core + x.up) (2 * x.rank * x.dout) else none) with
    | some g => failUncorr s r g []
    | none =>
      match kvCheck s core r.cmd.job x with
      | some e =>
        finish (raiseErr s (pgAtn core) 9 { status := e.1, fn := r.cmd.job, detail := e.2 } [r.cmd.job] []) r e.1 []
      | none => if op = 4 then kvLoadGo s core r x x.tokens 0 else kvFlushGo s core r x x.tokens 0

end Sys2Proof.Machine
end

