-- ==== Sys2Proof/Machine/Boot.lean ====
section
/-! DEFINITION. Boot, identity and life cycle (chapter "Boot, identity and life cycle"): image checks, measurements, the
recovery buffer, SPDM requests, the security controls, life-cycle requests. -/
namespace Sys2Proof.Machine

/-! ### The firmware image (R484, R485) -/

def sigBytes : Nat := 29792
def imageMax : Nat := 2 ^ 20 * 8
def bodyLen (img : List Byte) : Nat := num img 8 4
/-- The bytes that the signature covers. -/
def signedPart (img : List Byte) : List Byte := img.take (128 + bodyLen img)
def imgDebug (img : List Byte) : Bool := bit (num img 13 1) 0

/-- MAGIC, FORMAT, the zero fields and the limits of Table 17-1 hold. -/
def imgForm (img : List Byte) : Bool :=
  num img 0 4 == 0x4656424F && num img 4 2 == 1 && num img 6 2 == 0 && decide (num img 12 1 < 64) &&
    decide (num img 13 1 < 2) && num img 14 2 == 0 && num img 24 8 == 0 && allZero (sub img 96 32) &&
    decide (128 + bodyLen img + sigBytes ≤ imageMax) && decide (128 + bodyLen img + sigBytes ≤ img.length)

/-- The unrevoked slot that holds the digest of SIGNER_PK and is the debug slot exactly when DEBUG is set. -/
def keyOf (s : State) (img : List Byte) : Option Nat :=
  [0, 1, 2].find? (fun k => !bit s.fuses.revoked k && Config.shake256 (sub img 32 64) 32 == Config.keySlot k &&
    (k == 2) == imgDebug img)

/-- Debug images are accepted in a life-cycle state (Table 17-3). -/
def debugAllowed (lcs : Nat) : Bool := [0, 1, 3].contains lcs

/-- Recovery cause of an image, the first check of R485 that fails, and 0 with the key slot where it is accepted. -/
def checkImage (s : State) (img : List Byte) : Nat × Nat :=
  if imgForm img = false then (2, 0)
  else
    match keyOf s img with
    | none => (3, 0)
    | some k =>
      if imgDebug img = true ∧ debugAllowed s.fuses.lcs = false then (4, k)
      else if num img 12 1 < s.fuses.svn then (5, k)
      else if Config.sigOk (sub img 32 64) (signedPart img) (sub img (128 + bodyLen img) sigBytes) = false then (6, k)
      else (0, k)

/-- The three measurements (R488). -/
def measurements (s : State) (img : List Byte) (slot : Nat) : List (List Byte) :=
  [Config.shake256 Config.romBytes 64, Config.shake256 (signedPart img) 64,
   Config.shake256 (leBytes 1 s.fuses.lcs ++ leBytes 1 s.fuses.svn ++ leBytes 1 slot ++ leBytes 1 (b2n (imgDebug img)) ++
     leBytes 8 Config.serial) 64]

/-- Measurement `k` (0 to 2) as the registers hold it. -/
def measOf (s : State) (k : Nat) : List Byte := padTo 64 (s.sec.meas.getD k [])

/-- SEC_BOOT. -/
def secBoot (s : State) : Nat :=
  let x := s.sec
  x.st + x.cause * 2 ^ 4 + x.source * 2 ^ 8 + x.slot * 2 ^ 10 + 2 ^ 12 * b2n x.debug + 2 ^ 16 * (x.svn % 64) +
    2 ^ 24 * (s.fuses.svn % 64)

/-- An image that R485 accepts runs: SEC_BOOT, SEC_BUILD, the measurements, and its measurement in the always-on log. -/
def runImage (s : State) (img : List Byte) (slot source : Nat) : State :=
  let ms := measurements s img slot
  { s with
    aolMeas := ms.getD 1 []
    sec := { st := 1, source := source, slot := slot, debug := imgDebug img, svn := num img 12 1, build := num img 16 8
             meas := ms } }

/-- An event record waits for function 0's event ring to be first enabled. -/
def owe (s : State) (n page : Nat) (detail : List Byte) : State := { s with owed := s.owed ++ [(n, page, detail)] }

/-- The records owed to function 0 are delivered. -/
def payOwed (s : State) : State :=
  s.owed.foldl (fun s o => deliver s [] { num := o.1, page := o.2.1, detail := o.2.2 }) { s with owed := [] }

/-- Recovery (R495): its cause, the log, and FIRMWARE_RECOVERY once function 0 enables its ring. -/
def enterRecovery (s : State) (cause : Nat) (u : StartUp) : State :=
  let s := { s with sec := { st := 2, cause := cause, start := some u } }
  let s := raiseErr (bump s pgSec 0 1) pgSec 8 {} [] (leBytes 1 cause)
  owe s 0xC0 pgSec (leBytes 1 cause)

/-! ### The recovery buffer (R496) -/

/-- The path (1 mailbox, 2 sideband) may write the buffer: nobody, or the path itself, owns it. -/
def ownerOk (s : State) (path : Nat) : Bool := s.sec.owner == 0 || s.sec.owner == path

/-- Bytes enter the buffer. -/
def rcvStore (s : State) (path off : Nat) (data : List Byte) : State :=
  wrMem { s with sec := { s.sec with owner := path, ownAt := s.time } } (spRcv + off) data

/-- The image in the buffer. -/
def rcvImage (s : State) : List Byte :=
  rdMem s spRcv (min imageMax (128 + rdNum s (spRcv + 8) 4 + sigBytes))

/-- An activation that fails leaves recovery as it is, with its cause, and frees the buffer. -/
def rcvFail (s : State) (cause : Nat) : State := { s with sec := { s.sec with cause := cause, owner := 0 } }

def answer (s : State) (status : Nat) (data : List Byte) : State := { s with reply := { status := status, data := data } }

/-- RCV_WRITE: a 4-byte offset, then 1 to 256 bytes. -/
def opRcvWrite (s : State) (args : List Byte) : State :=
  let off := num args 0 4
  let data := args.drop 4
  if args.length < 5 ∨ 260 < args.length ∨ imageMax < off + data.length then answer s stBadCommand []
  else if s.sec.st ≠ 2 ∨ ownerOk s 2 = false then answer s stAccess []
  else answer (rcvStore s 2 off data) stOK []

/-- Transfer FW of the mailbox; a part of more than the payload size of 64 KiB is out of range. -/
def opTransferFw (s : State) (off : Nat) (data : List Byte) : State :=
  if s.sec.st ≠ 2 then answer s (Config.mboxCode 3) []
  else if 65536 < data.length ∨ imageMax < off + data.length then answer s (Config.mboxCode 4) []
  else if ownerOk s 1 = false then answer s (Config.mboxCode 1) []
  else answer (rcvStore s 1 off data) (Config.mboxCode 0) []

/-- Get FW Info reports the running image. -/
def opGetFwInfo (s : State) : State := answer s (Config.mboxCode 0) (Config.fwInfo s.sec.st ++ leBytes 8 s.sec.build)

/-- RECOVERY_OWNER_TIMEOUT: 60 s without a write. -/
def opOwnerTimeout (s : State) : State :=
  if s.sec.owner ≠ 0 ∧ passed s (s.sec.ownAt + 60000000000) = true then { s with sec := { s.sec with owner := 0 } } else s

/-! ### SPDM (R490) -/

/-- Identity and attestation exist: an image runs, whose start derived the alias key from seeds that still stand, and the
state is neither BLANK nor SCRAPPED (R489, Table 17-3). -/
def attests (s : State) : Bool := s.sec.st == 1 && s.fuses.lcs != 0 && s.fuses.lcs != 4 && s.fuses.seeds

/-- The three measurements joined. -/
def measAll (s : State) : List Byte := measOf s 0 ++ measOf s 1 ++ measOf s 2

/-- A request is answered; GET_DIGESTS and those after it only where there is an identity. -/
def spdm (s : State) (needsId : Bool) (data : List Byte) : State :=
  let s := bump s pgSec 1 1
  if needsId && !attests s then answer s Config.spdmUnsupported [] else answer s 0 data

def opGetVersion (s : State) : State := spdm s false (Config.spdmData 0)
def opGetCapabilities (s : State) : State := spdm s false (Config.spdmData 1)
def opNegotiate (s : State) : State := spdm s false (Config.spdmData 2)
/-- GET_DIGESTS: the SHA3-512 digest of slot 0's chain, in SPDM's form. -/
def opGetDigests (s : State) : State := spdm s true (Config.spdmData 3 ++ Config.spdmData (16 + num (measAll s) 0 192))
/-- GET_CERTIFICATE: a part of the chain of slot 0. -/
def opGetCertificate (s : State) (slot off len : Nat) : State :=
  if slot = 0 then spdm s true (sub (Config.certChain s.fuses.identity (measAll s)) off len)
  else spdm s true (Config.spdmData 4)
/-- CHALLENGE: signed with the alias key. -/
def opChallenge (s : State) (slot : Nat) (nonce : List Byte) : State :=
  let n := s.free
  let s := { s with free := n + 1 }
  spdm s true (Config.spdmData 5 ++ Config.aliasSign (measAll s) n (leBytes 1 slot ++ nonce))
/-- GET_MEASUREMENTS: index 1 to 3 gives one block of 64 bytes, 0xFF all of them, signed with the alias key. -/
def opGetMeasurements (s : State) (index : Nat) (nonce : List Byte) : State :=
  let n := s.free
  let s := { s with free := n + 1 }
  let blocks := if index = 255 then measAll s else if 1 ≤ index ∧ index ≤ 3 then measOf s (index - 1) else []
  spdm s true (blocks ++ Config.aliasSign (measAll s) n (leBytes 1 index ++ blocks ++ nonce))

/-! ### Security controls (SEC_CTRL)

A bit that was accepted stays set until a reset (DESIGN CHOICE, log 113). -/

/-- A refused SVN_COMMIT or REVOKE (R498). -/
def ctrlRejected (s : State) : State := raiseErr s pgSec 9 { write := true, len := 8 } [] []

def opSvnCommit (s : State) : State :=
  if s.sec.st = 1 ∧ (s.fuses.lcs = 1 ∨ s.fuses.lcs = 2) ∧ s.sec.debug = false then
    setRegF { s with fuses := { s.fuses with svn := max s.fuses.svn (s.sec.svn % 64) } } pgSec 0x110 0 1 1
  else ctrlRejected s

/-- A slot cannot be revoked: it is in use, or it is the last unrevoked production slot. -/
def revokeBarred (s : State) (k : Nat) : Bool :=
  (s.sec.st == 1 && s.sec.slot == k) || (decide (k < 2) && bit s.fuses.revoked (1 - k))

/-- REVOKE of one slot. -/
def revokeSlot (s : State) (k : Nat) : State :=
  if revokeBarred s k then ctrlRejected s
  else setRegF { s with fuses := { s.fuses with revoked := s.fuses.revoked ||| 2 ^ k } } pgSec 0x110 (k + 1) 1 1

/-- REVOKE: bit k names slot k; the bits act in ascending order. -/
def opRevoke (s : State) (b : Nat) : State := (setIdx 3 0 (b % 8)).foldl revokeSlot s

/-! ### Life-cycle requests (R492 to R494) -/

/-- Nonce word `n` (LCS_NONCEn). -/
def nonceWord (s : State) (n : Nat) : Nat := Config.nonce s.nonceNo n % 2 ^ 64

/-- A transition of Table 17-4: none where it does not exist, else whether it is signed. -/
def lcsSigned (src dst : Nat) : Option Bool :=
  if dst = 4 then (if src = 4 then none else some false)
  else
    match src, dst with
    | 0, 1 => some true
    | 1, 2 => some false
    | 2, 3 => some true
    | _, _ => none

/-- The request's 64-byte body is well formed for a transition (R492). -/
def lcsBody (src dst : Nat) (b : List Byte) : Bool :=
  num b 0 4 == 0x51434C4F && num b 4 1 == src && num b 5 1 == dst && num b 6 2 == 0 && allZero (sub b 48 16) &&
    decide (64 + sigBytes ≤ b.length)

/-- The serial, the nonce and the signature by an unrevoked production key hold. -/
def lcsProof (s : State) (b : List Byte) : Bool :=
  num b 8 8 == Config.serial % 2 ^ 64 && (upTo 4).all (fun n => num b (16 + 8 * n) 8 == nonceWord s n) &&
    [0, 1].any (fun k => !bit s.fuses.revoked k && Config.sigOk (Config.keySlot k) (b.take 64) (sub b 64 sigBytes))

/-- Status of a request to reach state `dst` with CONFIRM (R493 step 2). -/
def lcsStatus (s : State) (dst confirm : Nat) (b : List Byte) : Nat :=
  let src := s.fuses.lcs
  if (upTo 16).any (fun f => bit (reg s (pgJob f) 0x140) 0) || s.reshard.isSome then stAccess
  else
    match lcsSigned src dst with
    | none => stFormat
    | some signed =>
      if (signed && !lcsBody src dst b) || (dst == 4 && confirm != 0x5C) then stFormat
      else if signed && !lcsProof s b then stAccess
      else stOK

/-- The fuses after a transition (R492, R493): PROVISIONED comes with the identity area, whose place behind the signature of
the request is a DESIGN CHOICE (log 122); SCRAPPED destroys the identity seeds. -/
def programState (f : Fuses) (dst : Nat) (req : List Byte) : Fuses :=
  { f with
    lcs := dst
    identity := if dst = 1 then (req.drop (64 + sigBytes)).take 8192 else f.identity
    seeds := f.seeds && dst != 4 }

/-- LAST_RESULT and LAST_TARGET are recorded and a new nonce is drawn. -/
def lcsEnd (s : State) (status dst : Nat) : State :=
  { setReg s pgLcs 0x100 (status * 2 ^ 8 + 2 ^ 16 * (dst % 8)) with nonceNo := s.nonceNo + 1 }

end Sys2Proof.Machine
end

