-- ==== Sys2Proof/Machine/Mxa.lean ====
section
/-! DEFINITION. The matrix array (chapter "Matrix array", R96 to R123): command formats, passes, the check column, fold
order, drains, and the meanings of the MXA rows of the table. -/
namespace Sys2Proof.Machine

/-! ### Formats and shapes -/

/-- The operand pairs of Table 4-1. -/
def pairOk (bf af : Nat) : Bool :=
  if bf = 0 ∨ bf = 1 ∨ bf = 5 ∨ bf = 6 then af == 0 || af == 1 || af == 6
  else if bf = 2 then af == 2
  else if bf = 9 then af == 9
  else if bf = 7 ∨ bf = 8 then af == 7 || af == 8
  else bf == 3 && af == 3

/-- Depth and width of a shape (Table 4-2); none where the format has no such shape. -/
def shapeDW (fmt shape : Nat) : Option (Nat × Nat) :=
  if 2 < shape ∨ (fmt = 5 ∧ shape ≠ 0) then none
  else
    let k := 2 ^ shape
    if fmt = 3 then some (32 * k, 16 / k)
    else if fmt = 7 ∨ fmt = 8 then some (128 * k, 32 / k)
    else if fmt = 4 ∨ 9 < fmt then none
    else some (64 * k, 32 / k)

/-- Table 4-4; SQ8 always takes shape 0 (R113). -/
def autoShape (fmt n : Nat) : Nat :=
  if fmt = 5 then 0
  else if fmt = 3 then (if 9 ≤ n then 0 else if 5 ≤ n then 1 else 2)
  else if 17 ≤ n then 0 else if 9 ≤ n then 1 else 2

/-- Rows of an accumulator buffer at a set width (R107). -/
def bufRows (w : Nat) : Nat := if w = 0 then 0 else 16384 / w

/-- The body of MXA_MATMUL (Table 4-5). -/
structure Matmul where
  a : Nat
  b : Nat
  out : Nat
  m : Nat
  n : Nat
  k : Nat
  as : Nat
  bs : Nat
  os : Nat
  af : Nat
  bfmt : Nat
  shape : Nat
  dest : Nat
  bt : Bool
  m410 : Bool
  seq : Nat
deriving DecidableEq, Repr

def matmulOf (c : QCmd) : Matmul :=
  let f := bf c 50 1
  { a := bf c 16 4, b := bf c 20 4, out := bf c 24 4, m := bf c 28 2, n := bf c 30 2, k := bf c 32 2
    as := bf c 36 4, bs := bf c 40 4, os := bf c 44 4, af := bf c 48 1, bfmt := bf c 49 1
    shape := bits f 0 2, dest := bits f 2 2, bt := bit f 4, m410 := bit f 5, seq := bf c 52 2 }

/-- The shape a MATMUL uses (R113); 410-exact mode uses shape 0. -/
def mmShape (x : Matmul) : Nat :=
  if x.shape = 3 then (if x.m410 then 0 else autoShape x.bfmt x.n) else x.shape

/-- Where an output goes (Table 4-3), shared by MATMUL and DRAIN. -/
structure OutSpec where
  dest : Nat
  out : Nat
  os : Nat
  seq : Nat
  int : Bool
  m410 : Bool
deriving DecidableEq, Repr

def mmOut (x : Matmul) : OutSpec :=
  { dest := x.dest, out := x.out, os := x.os, seq := x.seq, int := x.bfmt == 2, m410 := x.m410 }

/-- The form of an output of `rows` rows of `cols` columns (R122). -/
def outForm (o : OutSpec) (rows cols : Nat) : Bool :=
  if o.dest = 0 then true
  else
    o.out % 64 == 0 && o.os % 32 == 0 && decide ((if o.dest = 1 then 2 else 4) * cols ≤ o.os) &&
      (if o.dest = 1 then !o.int else decide (o.out + 64 + (rows - 1) * o.os + 4 * cols ≤ cluBytes))

/-- The output lies in the context's window or in the job's cluster-cache windows (R538). -/
def outAccess (s : State) (c : QCmd) (o : OutSpec) (rows cols : Nat) : Bool :=
  if o.dest = 0 then true
  else if o.dest = 1 then scratchOk s c.core c.ctx o.out ((rows - 1) * o.os + 2 * cols)
  else cluOk s (c.core / 8) c.job o.out (64 + (rows - 1) * o.os + 4 * cols)

/-- Rows and columns of B as stored (R84: a transposed B is stored N × K). -/
def bRows (x : Matmul) : Nat := if x.bt then x.n else x.k
def bCols (x : Matmul) : Nat := if x.bt then x.k else x.n

/-- R57 steps 3 and 4 for MXA_MATMUL (R122, R538). -/
def chkMatmul (s : State) (c : QCmd) : Option Nat :=
  let x := matmulOf c
  formThen
    (within x.m 1 4096 && within x.n 1 4096 && within x.k 1 4096 && bz c 34 2 && bits (bf c 50 1) 6 2 == 0 &&
      bz c 51 1 && bz c 54 2 && syncFmt c false && pairOk x.bfmt x.af && (shapeDW x.bfmt (mmShape x)).isSome &&
      decide (rowBytes x.af x.k ≤ x.as) && x.as % 32 == 0 &&
      decide (rowBytes x.bfmt (bCols x) ≤ x.bs) && x.bs % 32 == 0 &&
      outForm (mmOut x) x.m x.n &&
      (x.bfmt != 5 || (x.k % 32 == 0 && x.n % 32 == 0 && x.b % 32 == 0)) &&
      (!x.bt || (!(isMx x.bfmt) && x.bfmt != 3 && x.k % 32 == 0 && x.n % 32 == 0)) &&
      (!x.m410 || (x.bfmt == 3 && x.af == 3 && (x.shape == 0 || x.shape == 3))))
    (scratchOk s c.core c.ctx x.a (operandBytes x.af x.m x.k x.as) &&
      scratchOk s c.core c.ctx x.b (operandBytes x.bfmt (bRows x) (bCols x) x.bs) &&
      outAccess s c (mmOut x) x.m x.n)

/-- R57 step 3 for MXA_PASS, as far as its set does not matter (R122). -/
def chkPass (c : QCmd) : Option Nat :=
  formThen (within (bf c 24 2) 1 4096 && bits (bf c 29 1) 5 3 == 0 && bz c 30 26 && syncFmt c false) true

/-- R57 step 3 for MXA_DRAIN, as far as its buffer does not matter (R122). -/
def chkDrain (c : QCmd) : Option Nat :=
  formThen (within (bf c 18 2) 1 4096 && bits (bf c 16 1) 1 7 == 0 && bits (bf c 17 1) 2 6 == 0 && bz c 30 26 &&
    syncFmt c false && (bits (bf c 17 1) 0 2 == 0 || (bf c 20 4 % 64 == 0 && bf c 24 4 % 32 == 0))) true

/-- R57 steps 3 and 4 for the commands of the MXA page (R121, R122). -/
def chkMxa (s : State) (c : QCmd) : Option Nat :=
  match c.op with
  | 1 => chkMatmul s c
  | 2 => chkPass c
  | 3 => chkDrain c
  | _ => formThen (bz c 16 40 && syncFmt c false) true

/-- A buffer is in use for another job (R108). -/
def bufOther (b : AccBuf) (job : Nat) : Bool := b.st != 0 && b.job != job

/-- An MXA command's waits for the shadow set or for the end of a hold are over (R103 to R105). -/
def setFree (s : State) (c : QCmd) : Bool :=
  let m := mxaOf s c.core
  let heldOther := m.held && m.active.job != c.job
  match c.op with
  | 1 => !heldOther && !(m.shadow.st != 0 && m.shadow.job != c.job)
  | 2 => !(bit (bf c 29 1) 0) || (!heldOther && m.shadow.st == 2 && m.shadow.job == c.job)
  | _ => true

/-- An MXA command's waits of R103 to R106 and R108 are over. -/
def canStartMxa (s : State) (c : QCmd) : Bool :=
  let m := mxaOf s c.core
  setFree s c &&
    match c.op with
    | 1 => true
    | 2 =>
      let b := bufOf m (bits (bf c 29 1) 3 1)
      !(bufOther b c.job) && b.st != 2
    | 3 => !(bufOther (bufOf m (bits (bf c 16 1) 0 1)) c.job)
    | _ =>
      let g := engOf s (pgMxa c.core * 2)
      !((g.running ++ g.aside).any (fun r => r.fin.isNone && r.cmd.job == c.job))

/-! ### Passes -/

/-- s[k] and a[k] of a stationary row (R101). -/
def checkSum (int : Bool) (row : List Val) : Val := if int then vSum row else dec32 (enc32 (vSum row))

/-- A set from its block: job, format, shape, values and check column (R99 to R101). -/
def mkSet (job fmt shape : Nat) (vals : List (List Val)) : StatSet :=
  let int := fmt == 2
  { st := 2, job := job, fmt := fmt, shape := shape, vals := vals
    s := vals.map (checkSum int), a := vals.map (fun r => checkSum int (r.map vAbs)) }

/-- Products of a row of A with column n of the set. -/
def colProducts (set : List (List Val)) (arow : List Val) (n : Nat) : List Val :=
  (arow.zip set).map (fun p => vMul p.1 (p.2.getD n vZero))

/-- An exact integer value. -/
def intOf : Val → Int
  | .fin n m e => (if n then -1 else 1) * ((m : Int) * 2 ^ e.toNat)
  | _ => 0

/-- ftz of a value taken as FP32 (R151). -/
def ftzVal (v : Val) : Val := dec32 (ftz32 (enc32 v))

/-- p[n] of a row (R97): the exact pass sum, rounded once to FP32, or exact in two's complement. -/
def passElem (int : Bool) (set : List (List Val)) (arow : List Val) (n : Nat) : Nat :=
  let sum := vSum (colProducts set arow n)
  if int then wrap 32 (intOf sum) else enc32 sum

/-- One product of 410-exact mode (R151). -/
def prod410 (a b : Val) : Nat := ftz32 (enc32 (vMul (ftzVal a) (ftzVal b)))

/-- A chunk of up to 16 terms in 410-exact order (R151). -/
def chunk410 : List Nat → Nat
  | [] => 0
  | p :: ps => ps.foldl (fun x q => ftz32 (add32 x q)) p

/-- An accumulator element after one pass in 410-exact mode: its chunks of 16, ascending (R151). -/
def acc410 (set : List (List Val)) (arow : List Val) (n acc : Nat) : Nat :=
  let prods := (arow.zip set).map (fun p => prod410 p.1 (p.2.getD n vZero))
  (chunks 16 prods.length prods).foldl (fun x ch => ftz32 (add32 x (chunk410 ch))) acc

/-- An accumulator row after one pass. -/
def passRow (int m410 : Bool) (set : StatSet) (w : Nat) (arow : List Val) (acc : List Nat) : List Nat :=
  (upTo w).map (fun n =>
    let x := acc.getD n 0
    if m410 then acc410 set.vals arow n x
    else if int then sat32 (sgn 32 x + sgn 32 (passElem true set.vals arow n))
    else add32 x (passElem false set.vals arow n))

/-- The row is checked under R117: with FP32 accumulation, p[n], CHK and ABS are all finite. In 410-exact mode all of them
come from the flushed operands of R154. -/
def rowChecked (int m410 : Bool) (set : StatSet) (w : Nat) (arow : List Val) : Bool :=
  if int then true
  else
    let arow := if m410 then arow.map ftzVal else arow
    let vals := if m410 then set.vals.map (fun r => r.map ftzVal) else set.vals
    let sk := if m410 then vals.map (checkSum false) else set.s
    let ak := if m410 then vals.map (fun r => checkSum false (r.map vAbs)) else set.a
    let chk := enc32 (vSum ((arow.zip sk).map (fun p => vMul p.1 p.2)))
    let ab := enc32 (vSum ((arow.zip ak).map (fun p => vMul (vAbs p.1) p.2)))
    vFinite (dec32 chk) && vFinite (dec32 ab) && (upTo w).all (fun n => vFinite (dec32 (passElem false vals arow n)))

/-! ### Check failures (R117 to R120) -/

/-- Every command waiting in an engine queue of a fenced core completes with CHECK_FAIL_FENCED (R92, R119). -/
def endQueue (s : State) (e status : Nat) : State :=
  let g := engOf s e
  setEng s e { g with
    queue := []
    running := g.running ++ g.queue.map (fun c => { cmd := c, fin := some (status, []), began := false }) }

/-- The core is fenced (R119 step 1). -/
def fenceCore (s : State) (core job : Nat) : State :=
  let s := setRegF s (pgCor core) 0x200 0 1 1
  let s := raiseErr s (pgCor core) 11 { status := stCheckFenced, fn := job } [job] []
  (coreEngs core).foldl (fun s e => endQueue s e stCheckFenced) s

/-- The sibling: the lowest-numbered core of the cluster that is not fenced (R119). -/
def sibling (s : State) (core : Nat) : Option Nat :=
  ((upTo 8).map (· + core / 8 * 8)).find? (fun k => k != core && !(fenced s k))

/-- MXA_CHECK_LOG. -/
def checkLog (s : State) (core row job stage sib : Nat) (noSib unapplied : Bool) (excess : Nat) : State :=
  setReg s (pgMxa core) 0x110
    (row % 2 ^ 13 + 2 ^ 16 * (job % 16) + 2 ^ 20 * stage + 2 ^ 22 * (sib % 8) + 2 ^ 25 * b2n noSib + 2 ^ 26 * b2n unapplied +
      2 ^ 32 * min excess 0xFFFFFFFF)

/-- What the failing computations of one pass lead to (R118 to R120): `fails` of its computations fail in turn. The
answer says whether the command ends here. -/
def checkFails (s : State) (core : Nat) (r : RCmd) (row fails excess : Nat) (ordered : Bool) : State × RCmd × Bool :=
  let pg := pgMxa core
  let job := r.cmd.job
  if r.onSib then
    let sib := (sibling s core).getD 0
    let s := bump s pg 5 1
    if fails = 0 then (s, r, false)
    else (raiseErr (checkLog (bump s pg 3 1) core row job 3 sib false ordered excess) pg 9 {} [job] [], r, true)
  else if fails = 0 then (s, r, false)
  else if fails = 1 then
    let s := checkLog (bump (bump s pg 3 1) pg 4 1) core row job 1 0 false false excess
    (raiseErr s pg 8 { fn := job } [job] [], r, false)
  else
    let s := fenceCore (raiseErr (bump s pg 3 2) pg 9 {} [job] []) core job
    match sibling s core with
    | none => (checkLog s core row job 3 0 true ordered excess, r, true)
    | some sib =>
      let s := bump s pg 5 1
      if fails = 2 then (checkLog s core row job 2 sib false false excess, { r with onSib := true }, false)
      else (checkLog (bump s pg 3 1) core row job 3 sib false ordered excess, { r with onSib := true }, true)

/-- The check of one pass: how many of its computations fail, from the event's list or MXA_INJECT (R117, MXA_INJECT).
`checked` tells of each row, in order, whether it is checked; `row0` is the first accumulator row. -/
def passCheck (s : State) (core : Nat) (r : RCmd) (faults : List CheckFault) (checked : List Bool) (row0 : Nat)
    (int ordered : Bool) : State × RCmd × Bool :=
  if !(bit (reg s (pgMxa core) 0x100) 0) then
    (if r.onSib then bump s (pgMxa core) 5 1 else s, { r with passes := r.passes + 1 }, false)
  else
    let un := (checked.filter (fun b => !b)).length
    let s := if un = 0 then s else bump s (pgMxa core) 6 un
    let m := mxaOf s core
    let r' := { r with passes := r.passes + 1 }
    let hasChecked := checked.any id
    let want := if r.onSib then 1 else 3
    let inj := if hasChecked then min m.inject want else 0
    let s := if inj = 0 then s else setMxa s core { m with inject := m.inject - inj }
    let excess := if int then 0xFFFFFFFF else 0x30000 + Config.freeNat s.free % 0x20001
    let s := if inj = 0 then s else { s with free := s.free + 1 }
    let f := faults.find? (fun f => f.pass == r.passes && checked.getD f.row false)
    match f with
    | some f =>
      if inj < f.fails then checkFails s core r' (row0 + f.row) f.fails (if int then 0xFFFFFFFF else f.excess) ordered
      else
        checkFails s core r' (row0 + (checked.findIdx id)) inj excess ordered
    | none => checkFails s core r' (row0 + (checked.findIdx id)) inj excess ordered

/-! ### Accumulators and outputs -/

/-- Address of entry (row, col) of a buffer filled at a width (R107). -/
def accAddr (core buf width row col : Nat) : Nat := spAcc core + 65536 * buf + 4 * (row * width + col)

def accRow (s : State) (core buf width row : Nat) : List Nat :=
  (upTo width).map (fun n => rdNum s (accAddr core buf width row n) 4)

def accPut (s : State) (core buf width : Nat) : Nat → List (List Nat) → State
  | _, [] => s
  | row, v :: vs => accPut (wrMem s (accAddr core buf width row 0) (v.flatMap (leBytes 4))) core buf width (row + 1) vs

/-- Row blocks of up to 64 rows (R111), numbered on from `idx`. -/
def mkBlocks (buf col row idx : Nat) (last : Bool) (vals : List (List Nat)) : List OutBlk :=
  let ch := chunks 64 vals.length vals
  (upTo ch.length).map (fun i =>
    { idx := idx + i, row := row + 64 * i, col := col, buf := buf
      last := last && i + 1 == ch.length, bufLast := i + 1 == ch.length, vals := ch.getD i [] })

/-- How one row block leaves. -/
inductive Push where
  | done (s : State)
  | wait
  | fail (s : State) (status : Nat)

/-- Rows that a failed write leaves undefined (R123, R470 step 4); what cannot be read stays so (R473). -/
def blurRows (s : State) (n a stride rb : Nat) : State := { undefRows s n a stride rb with bad := s.bad }

/-- A drain of a row block meets a slot that cannot be read: the failing 64-byte line is logged (R123). -/
def slotFail (s : State) (r : RCmd) (k g ep eb : Nat) : Push :=
  .fail (raiseErr (uncorrClu s k r.cmd.job g) ep eb
    { addr := (g - spClu k) / 64 * 64 + 2 ^ 63, status := stUncorr, fn := r.cmd.job } [r.cmd.job] []) stUncorr

/-- Accumulate-add of a row block into a slot (R109 to R112, R340). -/
def pushSlot (s : State) (r : RCmd) (k : Nat) (o : OutSpec) (b : OutBlk) (ordered : Bool) (ep eb : Nat) : Push :=
  let slot := spClu k + o.out
  let a := slot + 64 + b.row * o.os + 4 * b.col
  let rb := 4 * (b.vals.headD []).length
  match badIn s slot 16 with
  | some g => slotFail s r k g ep eb
  | none =>
    if ordered = true ∧ slotNext s slot < o.seq then .wait
    else if ordered = true ∧ o.seq < slotNext s slot then .fail s stFormat
    else if ordered = true ∧ b.idx < slotDone s slot then
      .done (if b.last then wrNum (wrNum s slot 8 (o.seq + 1)) (slot + 8) 8 0 else s)
    else
      let store := ordered && o.seq == 0
      match (if store then rowsPartial s b.vals.length a o.os rb else slotBad s a o.os b.vals.length rb) with
      | some g => slotFail (blurRows s b.vals.length a o.os rb) r k g ep eb
      | none =>
        let s := slotRows s o.int store o.os a b.vals
        let s := bump s (pgClu k) 2 (slotLines o.os rb (a % 2 ^ 64) b.vals.length)
        if ordered then
          .done (if b.last then wrNum (wrNum s slot 8 (o.seq + 1)) (slot + 8) 8 0
                 else wrNum s (slot + 8) 8 (slotDone s slot + 1))
        else .done s

/-- One row block is written to its destination (Table 4-3, R153). -/
def pushBlk (s : State) (core : Nat) (r : RCmd) (o : OutSpec) (b : OutBlk) : Push :=
  let vals := if o.m410 then b.vals.map (fun v => v.map ftz32) else b.vals
  let b := { b with vals := vals }
  match o.dest with
  | 0 =>
    match ftqFree (venOf s core) with
    | none => .wait
    | some _ => .done (ftqPush s core r.cmd.job (vals.headD []).length o.int vals)
  | 1 =>
    let a := spScratch core + o.out + b.row * o.os + 2 * b.col
    match rowsPartial s vals.length a o.os (2 * (vals.headD []).length) with
    | some g =>
      .fail (uncorrAny (blurRows s vals.length a o.os (2 * (vals.headD []).length)) r.cmd.job g) stUncorr
    | none =>
      .done ((vals.foldl (fun (p : State × Nat) v =>
        (wrMem p.1 p.2 (v.flatMap (fun x => leBytes 2 (encBf (dec32 x)))), p.2 + o.os)) (s, a)).1)
  | 2 => pushSlot s r (core / 8) o b true (pgMxa core) 10
  | _ => pushSlot s r (core / 8) o b false (pgMxa core) 10

/-- A drained buffer is FREE (R108). -/
def freeBuf (s : State) (core b : Nat) : State := setMxa s core (withBuf (mxaOf s core) b {})

/-- Word of an accumulator entry that a row block reads and that cannot be read (R107, R123). -/
def blkBad (s : State) (core : Nat) (b : OutBlk) : Option Nat :=
  let w := (bufOf (mxaOf s core) b.buf).width
  badIn s (accAddr core b.buf w (b.row % max 1 (bufRows w)) 0) (4 * b.vals.length * w)

/-- A drain meets an accumulator entry that cannot be read: its row and its buffer are logged (R123). -/
def accFail (s : State) (core : Nat) (r : RCmd) (b : OutBlk) (g : Nat) : State :=
  let w := (bufOf (mxaOf s core) b.buf).width
  raiseErr s (pgMxa core) 10
    { addr := (g - accAddr core b.buf w 0 0) / 4 / max 1 w + 2 ^ 16 * b.buf, status := stUncorr, fn := r.cmd.job }
    [r.cmd.job] []

/-- The row blocks of a command that ends early leave the array, and their buffers are FREE. -/
def failOuts (s : State) (core : Nat) (r : RCmd) (st : Nat) (bs : List OutBlk) : State × RCmd :=
  (bs.foldl (fun s x => freeBuf s core x.buf) s, { r with outs := [], fin := some (st, []) })

/-- Row blocks are written in order until one must wait, fails, or holds an entry that cannot be read (R123). -/
def flushOuts (s : State) (core : Nat) (r : RCmd) (o : OutSpec) : List OutBlk → State × RCmd
  | [] => (s, { r with outs := [] })
  | b :: bs =>
    match blkBad s core b with
    | some g => failOuts (accFail s core r b g) core r stUncorr (b :: bs)
    | none =>
      match pushBlk s core r o b with
      | .done s' => flushOuts (if b.bufLast then freeBuf s' core b.buf else s') core r o bs
      | .wait => (s, { r with outs := b :: bs })
      | .fail s' st => failOuts s' core r st (b :: bs)

/-! ### MXA_MATMUL (R105, R114) -/

/-- One pass of a row tile: new accumulator rows, and which rows are checked. -/
def tilePass (s : State) (core : Nat) (x : Matmul) (set : StatSet) (np m0 k0 kn : Nat) (acc : List (List Nat)) :
    List (List Nat) × List Bool :=
  let rows := (upTo acc.length).map (fun i =>
    let arow := rowAt s (spScratch core + x.a) x.as x.af x.m x.k (m0 + i) k0 kn
    (passRow (x.bfmt == 2) x.m410 set np arow (acc.getD i []), rowChecked (x.bfmt == 2) x.m410 set np arow))
  (rows.map (·.1), rows.map (·.2))

/-- The block of B of one pass, zero in the columns beyond N (R114). -/
def tileSet (s : State) (core job : Nat) (x : Matmul) (np n0 k0 kn : Nat) : StatSet :=
  mkSet job x.bfmt (mmShape x) ((upTo kn).map (fun i => (upTo np).map (fun j =>
    if n0 + j < x.n then
      (if x.bt then elemAt s (spScratch core + x.b) x.bs x.bfmt x.n x.k (n0 + j) (k0 + i)
       else elemAt s (spScratch core + x.b) x.bs x.bfmt x.k x.n (k0 + i) (n0 + j))
    else vZero)))

/-- The passes of one row tile, each checked (R114, R118). -/
def tilePasses (s : State) (core : Nat) (r : RCmd) (faults : List CheckFault) (x : Matmul) (kp np n0 m0 : Nat) :
    Nat → Nat → List (List Nat) → State × RCmd × List (List Nat) × Bool
  | 0, _, acc => (s, r, acc, false)
  | fuel + 1, k0, acc =>
    if x.k ≤ k0 then (s, r, acc, false)
    else
      let kn := min kp (x.k - k0)
      let p := tilePass s core x (tileSet s core r.cmd.job x np n0 k0 kn) np m0 k0 kn acc
      let c := passCheck s core r faults p.2 0 (x.bfmt == 2) (x.dest == 2)
      if c.2.2 then (c.1, c.2.1, acc, true)
      else tilePasses c.1 core c.2.1 faults x kp np n0 m0 fuel (k0 + kp) p.1

/-- Both sets are left without valid data when a MATMUL ends (R105). One that is set aside has given them up. -/
def mmClear (s : State) (core : Nat) (r : RCmd) : State :=
  if r.sets then setMxa s core { mxaOf s core with shadow := {}, active := {}, held := false } else s

/-- A command is set aside, so that the array moves on (R111, R536); a MATMUL gives up the sets meanwhile. -/
def setAside (s : State) (core : Nat) (r : RCmd) : State :=
  let s := mmClear s core r
  let g := engOf s (pgMxa core * 2)
  setEng s (pgMxa core * 2) { g with
    running := g.running.filter (fun y => y.cmd.id != r.cmd.id)
    aside := g.aside.filter (fun y => y.cmd.id != r.cmd.id) ++ [{ r with sets := false }] }

/-- A MATMUL that was set aside with row tiles left to compute takes the sets again once they are free for it, and goes on
as the array's started command (R105, R536). -/
def takeUp (s : State) (core : Nat) (r : RCmd) : State :=
  let m := mxaOf s core
  if m.shadow.st = 0 ∧ (m.held && m.active.job != r.cmd.job) = false then
    let g := engOf s (pgMxa core * 2)
    setEng
      (setMxa s core { m with shadow := { st := 1, job := r.cmd.job }, active := {}, held := false })
      (pgMxa core * 2) { g with
        running := g.running.filter (fun y => y.cmd.id != r.cmd.id) ++ [{ r with sets := true }]
        aside := g.aside.filter (fun y => y.cmd.id != r.cmd.id) }
  else setRun s (pgMxa core * 2) r

/-- A MATMUL ends under R120: nothing further is written. -/
def mmAbort (s : State) (core : Nat) (r : RCmd) : State :=
  let s := r.outs.foldl (fun s o => freeBuf s core o.buf) s
  let s := setRun (mmClear s core r) (pgMxa core * 2) { r with outs := [] }
  finish s { r with outs := [] } stCheckFenced []

/-- The MATMUL goes on: it writes the row blocks that can be written, then computes row tiles while their buffers are
FREE (R108, R114); when all is written it ends, and an ordered contribution that waits for its SEQ and can compute nothing
more meanwhile is set aside (R111, R536). -/
def mmGo (faults : List CheckFault) : Nat → State → Nat → RCmd → State
  | 0, s, core, r => setRun s (pgMxa core * 2) r
  | fuel + 1, s, core, r =>
    let x := matmulOf r.cmd
    match shapeDW x.bfmt (mmShape x) with
    | none => finish s r stFormat []
    | some (kp, np) =>
      let f := flushOuts s core r (mmOut x) r.outs
      let s := f.1
      let r := f.2
      if r.fin.isSome then setRun (mmClear s core r) (pgMxa core * 2) r
      else
        let mr := bufRows np
        let mt := cdiv x.m mr
        let tiles := cdiv x.n np * mt
        if tiles ≤ r.prog then
          if r.outs.isEmpty then
            finish (mmClear s core r) r (if r.onSib then stCheckFenced else stOK) []
          else if x.dest = 2 then setAside s core r
          else setRun s (pgMxa core * 2) r
        else if r.sets = false then
          if r.outs.isEmpty then takeUp s core r else setRun s (pgMxa core * 2) r
        else
          let b := r.prog % 2
          if (bufOf (mxaOf s core) b).st ≠ 0 then
            if x.dest = 2 ∧ r.outs.isEmpty = false then setAside s core r else setRun s (pgMxa core * 2) r
          else
            let n0 := r.prog / mt * np
            let m0 := r.prog % mt * mr
            let rows := min mr (x.m - m0)
            let s := setMxa s core (withBuf (mxaOf s core) b
              { st := 1, job := r.cmd.job, width := np, int := x.bfmt == 2, m410 := x.m410 })
            let z := List.replicate rows (List.replicate np 0)
            let t := tilePasses s core r faults x kp np n0 m0 (cdiv x.k kp) 0 z
            if t.2.2.2 then mmAbort (freeBuf t.1 core b) core t.2.1
            else
              let r := t.2.1
              let s := accPut (wipe t.1 (spAcc core + 65536 * b) 65536) core b np 0 t.2.2.1
              let s := setMxa s core (withBuf (mxaOf s core) b { bufOf (mxaOf s core) b with st := 2 })
              let cols := if x.dest = 0 then np else min np (x.n - n0)
              let bl := mkBlocks b n0 m0 r.blocks (r.prog + 1 == tiles) (t.2.2.1.map (fun v => v.take cols))
              mmGo faults fuel s core
                { r with outs := r.outs ++ bl, blocks := r.blocks + bl.length, prog := r.prog + 1 }

/-- A MATMUL whose operands cannot be read leaves its output in scratch undefined (R470 step 4); a slot and the
finished-tile queue get nothing. -/
def mmUndef (s : State) (core : Nat) (x : Matmul) : State :=
  if x.dest = 1 then blurRows s x.m (spScratch core + x.out) x.os (2 * x.n) else s

/-- Fuel enough for every row tile of the largest MATMUL. -/
def mmFuel : Nat := 8192

/-- A MATMUL's effect begins: the checks made when it starts (R105, R111, R122), its operands' check codes, then R114. -/
def mmBegin (s : State) (core : Nat) (r : RCmd) (faults : List CheckFault) : State :=
  let x := matmulOf r.cmd
  let m := mxaOf s core
  let mine (b : AccBuf) : Bool := b.st == 1 && b.job == r.cmd.job
  if mine m.buf0 || mine m.buf1 ||
      (x.dest == 2 && decide (x.seq < slotNext s (spClu (core / 8) + x.out))) then
    finish (setMxa s core { m with shadow := {} }) r stFormat []
  else
    match operandBad s (spScratch core + x.a) x.as x.af x.m x.k with
    | some g => failUncorr (mmClear (mmUndef s core x) core r) r g []
    | none =>
      match operandBad s (spScratch core + x.b) x.bs x.bfmt (bRows x) (bCols x) with
      | some g => failUncorr (mmClear (mmUndef s core x) core r) r g []
      | none =>
        let s := setMxa s core { m with
          shadow := { st := 1, job := r.cmd.job, fmt := x.bfmt, shape := mmShape x }, active := {}, held := false }
        mmGo faults mmFuel s core r

/-- The MATMUL that runs on the core begins, or goes on after a wait; until its first row tile is computed nothing has
happened that its beginning would do again. -/
def opMatmul (s : State) (core : Nat) (faults : List CheckFault) : State :=
  match runOp s (pgMxa core) 1 with
  | none => s
  | some r => if r.prog = 0 then mmBegin s core r faults else mmGo faults mmFuel s core r

/-! ### MXA_PASS (R104, R115) -/

/-- A pass of a running MXA_PASS into its buffer rows. -/
def passGo (s : State) (core : Nat) (r : RCmd) (faults : List CheckFault) (set : StatSet) (dp w : Nat) : State :=
  let c := r.cmd
  let f := bf c 29 1
  let b := bits f 3 1
  let row0 := bf c 26 2
  let n := bf c 24 2
  let int := set.fmt == 2
  let m := mxaOf s core
  let m := if bit f 0 then { m with active := m.shadow, shadow := {} } else m
  let buf := bufOf m b
  let buf := if buf.st = 0 then { st := 1, job := c.job, width := w, int := int, m410 := bit f 4 } else buf
  let s := setMxa s core { withBuf m b buf with held := bit f 1 }
  let rows := (upTo n).map (fun i =>
    let arow := rowAt s (spScratch core + bf c 16 4) (bf c 20 4) (bf c 28 1) n dp i 0 dp
    let old := if bit f 2 then List.replicate w 0 else accRow s core b w (row0 + i)
    (passRow int (bit f 4) set w arow old, rowChecked int (bit f 4) set w arow))
  let k := passCheck s core r faults (rows.map (·.2)) row0 int false
  if k.2.2 then finish k.1 k.2.1 stCheckFenced []
  else finish (accPut k.1 core b w row0 (rows.map (·.1))) k.2.1 (if k.2.1.onSib then stCheckFenced else stOK) []

/-- The MXA_PASS that runs on the core takes effect. -/
def opPass (s : State) (core : Nat) (faults : List CheckFault) : State :=
  match runOp s (pgMxa core) 2 with
  | none => s
  | some r =>
    let c := r.cmd
    let f := bf c 29 1
    let m := mxaOf s core
    let set := if bit f 0 then m.shadow else m.active
    let buf := bufOf m (bits f 3 1)
    match shapeDW set.fmt set.shape with
    | none => finish s r stFormat []
    | some (dp, w) =>
      let int := set.fmt == 2
      let form := set.st == 2 && set.job == c.job && pairOk set.fmt (bf c 28 1) &&
        (!(bit f 4) || (set.fmt == 3 && set.shape == 0)) &&
        decide (bf c 26 2 + bf c 24 2 ≤ bufRows w) && bf c 20 4 % 32 == 0 &&
        decide (rowBytes (bf c 28 1) dp ≤ bf c 20 4) &&
        (buf.st == 0 || (buf.job == c.job && buf.width == w && buf.int == int))
      let n := bf c 24 2
      match formThen form (scratchOk s core c.ctx (bf c 16 4) (operandBytes (bf c 28 1) n dp (bf c 20 4))) with
      | some st => finish s r st []
      | none =>
        match operandBad s (spScratch core + bf c 16 4) (bf c 20 4) (bf c 28 1) n dp with
        | some g =>
          failUncorr (if buf.st = 1 then blurRows s n (accAddr core (bits f 3 1) w (bf c 26 2) 0) (4 * w) (4 * w) else s)
            r g []
        | none => passGo s core r faults set dp w

/-! ### MXA_DRAIN and MXA_RELEASE -/

def drainOut (c : QCmd) (b : AccBuf) : OutSpec :=
  { dest := bits (bf c 17 1) 0 2, out := bf c 20 4, os := bf c 24 4, seq := bf c 28 2, int := b.int, m410 := b.m410 }

/-- The drain goes on: it ends when every row block is written; a waiting ordered contribution is set aside. -/
def drainGo (s : State) (core : Nat) (r : RCmd) : State :=
  let b := bufOf (mxaOf s core) (bits (bf r.cmd 16 1) 0 1)
  let o := drainOut r.cmd b
  let f := flushOuts s core r o r.outs
  let s := f.1
  let r := f.2
  if r.fin.isSome then setRun s (pgMxa core * 2) r
  else if r.outs.isEmpty then finish s r stOK []
  else if o.dest = 2 then setAside s core r
  else setRun s (pgMxa core * 2) r

/-- The MXA_DRAIN that runs on the core takes effect (R108, R109, R122, R123). -/
def opDrain (s : State) (core : Nat) : State :=
  match runOp s (pgMxa core) 3 with
  | none => s
  | some r =>
    let c := r.cmd
    let bi := bits (bf c 16 1) 0 1
    let m := mxaOf s core
    let b := bufOf m bi
    let o := drainOut c b
    let rows := bf c 18 2
    if !r.outs.isEmpty then drainGo s core r
    else
      match formThen
          (b.st == 1 && b.job == c.job && decide (rows ≤ bufRows b.width) && outForm o rows b.width &&
            !(o.dest == 2 && decide (o.seq < slotNext s (spClu (core / 8) + o.out))))
          (outAccess s c o rows b.width) with
      | some st => finish s r st []
      | none =>
        let s := setMxa s core (withBuf m bi { b with st := 2 })
        drainGo s core { r with outs := mkBlocks bi 0 0 0 true ((upTo rows).map (fun i => accRow s core bi b.width i)) }

/-- MXA_RELEASE takes effect (R106). -/
def opMxaRelease (s : State) (core : Nat) : State :=
  match runOp s (pgMxa core) 4 with
  | none => s
  | some r =>
    let s' := setRun s (pgMxa core * 2) { r with fin := some (stOK, []) }
    mxaRelease s' core r.cmd.job

/-- Room in the finished-tile queue: the array command that waits for it goes on (R165). -/
def opTileRoom (s : State) (core : Nat) : State :=
  match engRun s (pgMxa core * 2) (fun r => !r.outs.isEmpty) with
  | none => s
  | some r => if r.cmd.op = 1 then mmGo [] mmFuel s core r else drainGo s core r

/-- A waiting ordered contribution of an array, whose turn has come, is applied (R111). -/
def resumeMxa (s : State) (core : Nat) (r : RCmd) : State :=
  if r.cmd.op = 1 then mmGo [] mmFuel s core r else drainGo s core r

/-! ### MXA_INJECT -/

/-- A write to MXA_INJECT sets the number of passes to perturb (MXA_INJECT). -/
def opInject (s : State) (core count : Nat) : State :=
  setMxa s core { mxaOf s core with inject := count % 4 }

end Sys2Proof.Machine
end

