-- ==== Sys2Proof/Machine/Chn.lean ====
section
/-! DEFINITION. Message channels and reels (R192 to R216): sends, pads and credits, tango pairs, releases, the send
timeout, and the binding of channels. -/
namespace Sys2Proof.Machine

def outOf (s : State) (core o : Nat) : OutCh := mapGet {} s.outChs (core * 16 + o)
def setOut (s : State) (core o : Nat) (x : OutCh) : State := { s with outChs := mapPut {} s.outChs (core * 16 + o) x }
def inOf (s : State) (core i : Nat) : InCh := mapGet {} s.inChs (core * 16 + i)
def setIn (s : State) (core i : Nat) (x : InCh) : State := { s with inChs := mapPut {} s.inChs (core * 16 + i) x }

/-- CHN_OUT_CFG and CHN_IN_CFG. -/
def outCfg (s : State) (core o : Nat) : Nat := reg s (pgChn core) (0x100 + 0x20 * o)
def inCfg (s : State) (core i : Nat) : Nat := reg s (pgChn core) (0x300 + 0x20 * i)
def inReel (s : State) (core i : Nat) : Nat := reg s (pgChn core) (0x308 + 0x20 * i)

/-- Destination core and inbound channel of an outbound channel, and PAIR_IN. -/
def outDst (s : State) (core o : Nat) : Nat := bits (outCfg s core o) 16 11
def outDstIn (s : State) (core o : Nat) : Nat := bits (outCfg s core o) 28 4
def outPair (s : State) (core o : Nat) : Nat := bits (outCfg s core o) 32 4

/-- Reel size in bytes. -/
def reelSize (s : State) (core i : Nat) : Nat := bits (inReel s core i) 16 9 * 4096
/-- Bytes of a reply record (R204). -/
def replyRec (s : State) (core i : Nat) : Nat := bits (inReel s core i) 32 11 * 64

/-- The configuration `v` of an outbound channel names a VALID inbound channel of the same job and class. -/
def targetMatches (s : State) (v : Nat) : Bool :=
  let ic := inCfg s (bits v 16 11) (bits v 28 4)
  bit ic 0 && bits ic 4 4 == bits v 2 4 && bit ic 2 == bit v 1

/-- The outbound channel is bound for a job. -/
def outBound (s : State) (core o job : Nat) : Bool :=
  let v := outCfg s core o
  bit v 0 && bits v 2 4 == job && targetMatches s v

/-- Record length of a payload (R198). -/
def recLen (n : Nat) : Nat := cdiv (16 + n) 64 * 64

/-- PAIR_IN is a bound REPLY-class reel (R213). -/
def pairOkay (s : State) (core o : Nat) : Bool :=
  let ic := inCfg s core (outPair s core o)
  bit ic 0 && bit ic 2 && !(bit ic 1)

/-- The reel that the outbound channel leads to lies in the scratch window of the receiving context (R81, R198); a SYNC
port has none. -/
def reelOk (s : State) (core o : Nat) : Bool :=
  let dc := outDst s core o
  let di := outDstIn s core o
  let ic := inCfg s dc di
  bit ic 1 || scratchOk s dc (bits ic 8 2) (bits (inReel s dc di) 0 9 * 4096) (reelSize s dc di)

/-- Pre-emption has saved the reel that the outbound channel leads to (R424). -/
def reelSaved (s : State) (core o : Nat) : Bool :=
  let dc := outDst s core o
  let di := outDstIn s core o
  scratchSaved s dc (bits (inReel s dc di) 0 9 * 4096) (reelSize s dc di)

/-- The forms of a send that depend on its channel (R194, R201, R204, R213). -/
def sendForm (s : State) (core o len : Nat) (want : Bool) : Bool :=
  let dc := outDst s core o
  let di := outDstIn s core o
  if bit (inCfg s dc di) 1 then len == 0 && !want
  else
    decide (2 * recLen len ≤ reelSize s dc di) &&
      (if bit (outCfg s core o) 1 then !want && decide (recLen len ≤ replyRec s dc di)
       else !want || pairOkay s core o)

/-- R57 steps 3 and 4 for the commands of the CHN page (R212, R213). -/
def chkChn (s : State) (c : QCmd) : Option Nat :=
  match c.op with
  | 1 =>
    let o := bits (bf c 24 1) 0 4
    let b := outBound s c.core o c.job
    formThen
      (decide (bf c 20 4 ≤ 65520) && bf c 16 4 % 64 == 0 && bits (bf c 24 1) 4 4 == 0 && bits (bf c 25 1) 1 7 == 0 &&
        bz c 26 2 && bz c 32 24 && syncFmt c false && (!b || sendForm s c.core o (bf c 20 4) (bit (bf c 25 1) 0)))
      (b && scratchOk s c.core c.ctx (bf c 16 4) (bf c 20 4) && reelOk s c.core o)
  | _ =>
    let v := inCfg s c.core (bits (bf c 16 1) 0 4)
    formThen
      (bits (bf c 16 1) 4 4 == 0 && bz c 17 1 && within (bf c 18 2) 1 4096 && bz c 20 36 && syncFmt c false)
      (bit v 0 && bits v 4 4 == c.job)

/-- A send starts while its context has a free send slot (R207). -/
def canStartChn (s : State) (c : QCmd) : Bool :=
  c.op != 1 || decide (((engOf s (pgChn c.core * 2)).aside.filter (fun r => r.cmd.ctx == c.ctx)).length < 4)

/-! ### Sends -/

/-- What a send needs of its reel (R200, R204, R206): the bytes its record occupies, those of the pad before it, and
whether both fit in the sender's credits. -/
structure SendRoom where
  len : Nat
  pad : Nat
  fits : Bool
deriving DecidableEq, Repr

def sendRoom (s : State) (core o len : Nat) : SendRoom :=
  let dc := outDst s core o
  let di := outDstIn s core o
  let size := reelSize s dc di
  let x := outOf s core o
  if bit (inCfg s dc di) 1 then { len := 0, pad := 0, fits := true }
  else if bit (outCfg s core o) 1 then { len := replyRec s dc di, pad := 0, fits := true }
  else
    let l := recLen len
    let t := size - x.tail
    if l ≤ t then { len := l, pad := 0, fits := decide (l ≤ size - x.used) }
    else { len := l, pad := t, fits := decide (t + l ≤ size - x.used) }

/-- The requester's reply reel has a record neither used nor reserved, where the send wants one (R205). -/
def replyFree (s : State) (core o : Nat) (want : Bool) : Bool :=
  let p := outPair s core o
  !want || decide ((inOf s core p).res * replyRec s core p < reelSize s core p)

/-- A send on the channel waits in a slot before this one (R207). -/
def sendBehind (o : Nat) (before : List RCmd) : Bool :=
  before.any (fun r => r.cmd.op == 1 && bits (bf r.cmd 24 1) 0 4 == o)

/-- Nothing holds the send back. -/
def sendReady (s : State) (core : Nat) (r : RCmd) (before : List RCmd) : Bool :=
  let o := bits (bf r.cmd 24 1) 0 4
  !(sendBehind o before) && (sendRoom s core o (bf r.cmd 20 4)).fits &&
    replyFree s core o (bit (bf r.cmd 25 1) 0)

/-- The payload is read and the message leaves (R195 to R200, R205, R206, R211). -/
def sendNow (s : State) (core : Nat) (r : RCmd) : State :=
  let c := r.cmd
  let o := bits (bf c 24 1) 0 4
  let len := bf c 20 4
  let want := bit (bf c 25 1) 0
  let dc := outDst s core o
  let di := outDstIn s core o
  let size := reelSize s dc di
  let isReply := bit (outCfg s core o) 1
  let room := sendRoom s core o len
  let x := outOf s core o
  let off := if room.pad = 0 then x.tail else 0
  let tail := if off + room.len = size then 0 else off + room.len
  let x := { x with tail := tail, used := x.used + room.pad + room.len }
  let p := outPair s core o
  let s := if isReply then setIn s core p { inOf s core p with res := (inOf s core p).res - 1 } else s
  let m : Msg :=
    { pad := room.pad, off := off, len := room.len, flags := b2n want + 2 * b2n isReply, seq := x.seq
      tag := bf c 28 4, payload := rdMem s (spScratch core + bf c 16 4) len, sender := core * 16 + o, id := c.id }
  let fly (s : State) (m : Msg) : State := setIn s dc di { inOf s dc di with flight := (inOf s dc di).flight ++ [m] }
  match badIn s (spScratch core + bf c 16 4) len with
  | some g =>
    let s := fly (setOut s core o x) { m with isPad := true, payload := [] }
    let s := bump (uncorrScratch s core c.job g) (pgChn core) 49 1
    let s := raiseErr s (pgChn core) 10
      { addr := g - spScratch core, status := stUncorr, fn := c.job } [c.job] []
    finish s r stUncorr []
  | none =>
    let s := fly (setOut s core o { x with seq := (x.seq + 1) % 2 ^ 32 }) m
    let s := if want then setIn s core p { inOf s core p with res := (inOf s core p).res + 1 } else s
    setRun (bump s (pgChn core) o 1) (pgChn core * 2) { r with prog := 1 }

/-- The channel crosses the dies, and the message role of their bridge is lost (R465). -/
def sendCut (s : State) (core o : Nat) : Bool := bit s.cutRoles 1 && outDst s core o / 1024 != core / 1024

/-- A started send takes its effect, or waits in a slot (R207, R210). The reel's place in the receiving window is checked
here; the window that a message in flight finds is not checked again. DESIGN CHOICE (log 107). -/
def sendStart (s : State) (core : Nat) (r : RCmd) : State :=
  let c := r.cmd
  let o := bits (bf c 24 1) 0 4
  let g := engOf s (pgChn core * 2)
  match formThen (!(outBound s core o c.job) || sendForm s core o (bf c 20 4) (bit (bf c 25 1) 0))
      (outBound s core o c.job && reelOk s core o) with
  | some st => finish s r st []
  | none =>
    if bit (outCfg s core o) 1 = true ∧ (inOf s core (outPair s core o)).res = 0 then finish s r stFormat []
    else if fenced s (outDst s core o) then finish s r stCheckFenced []
    else if sendCut s core o then finish s r stUncorr []
    else if sendReady s core r g.aside then sendNow s core r
    else
      setEng s (pgChn core * 2) { g with
        running := g.running.filter (fun y => y.cmd.id != c.id)
        aside := g.aside ++ [{ r with since := s.time }] }

/-- The first waiting send that nothing holds back, or whose destination cannot be reached any more (R210, R465),
searching the slots in order. -/
def sendDue (s : State) (core : Nat) (before : List RCmd) : List RCmd → Option RCmd
  | [] => none
  | r :: rs =>
    let o := bits (bf r.cmd 24 1) 0 4
    if sendReady s core r before || fenced s (outDst s core o) || sendCut s core o then some r
    else sendDue s core (before ++ [r]) rs

/-- The channel unit, working on no command, takes up a waiting send whose wait is over (R536). -/
def sendTakeUp (s : State) (core : Nat) : State :=
  let g := engOf s (pgChn core * 2)
  if g.running.any (fun r => r.fin.isNone) then s
  else
    match sendDue s core [] g.aside with
    | none => s
    | some r =>
      let o := bits (bf r.cmd 24 1) 0 4
      let s := setEng s (pgChn core * 2) { g with
        running := g.running ++ [r], aside := g.aside.filter (fun y => y.cmd.id != r.cmd.id) }
      if fenced s (outDst s core o) then finish s r stCheckFenced []
      else if sendCut s core o then finish s r stUncorr []
      else sendNow s core r

/-- CHN_SEND: the send that runs, else a waiting one that can leave. -/
def opSend (s : State) (core : Nat) : State :=
  match engRun s (pgChn core * 2) (fun r => r.cmd.op == 1 && r.prog == 0) with
  | some r => sendStart s core r
  | none => sendTakeUp s core

/-! ### Arrival, acknowledgement, credit return -/

/-- Header of a record (Table 7-1). -/
def msgHeader (len ty flags seq tag : Nat) : List Byte :=
  leBytes 4 len ++ leBytes 1 ty ++ leBytes 1 flags ++ leBytes 2 0 ++ leBytes 4 seq ++ leBytes 4 tag

/-- A pad record; what it holds behind its header is not defined. -/
def writePad (s : State) (a len tag : Nat) : State :=
  if len = 0 then s
  else
    let s := { wrMem s (a + 16) (undefBytes s.free (len - 16)) with free := s.free + 1 }
    wrMem s a (msgHeader (len - 16) 2 0 0xFFFFFFFF tag)

/-- A message record; bytes between the end of its payload and its own end are not defined (R198). -/
def writeMsg (s : State) (a : Nat) (m : Msg) : State :=
  if m.len = 0 then s
  else
    let n := m.payload.length
    let s := { wrMem s (a + 16) (m.payload ++ undefBytes s.free (m.len - 16 - n)) with free := s.free + 1 }
    wrMem s a (msgHeader n 1 m.flags m.seq m.tag)

/-- A message reaches its inbound channel (R194, R199, R205, R211); it waits while pre-emption has saved
the reel (R424). -/
def opArrival (s : State) (core i : Nat) : State :=
  let ic := inOf s core i
  match if scratchSaved s core (bits (inReel s core i) 0 9 * 4096) (reelSize s core i) then [] else ic.flight with
  | [] => s
  | m :: ms =>
    let base := spScratch core + bits (inReel s core i) 0 9 * 4096
    let size := reelSize s core i
    let s := writePad s (base + (size - m.pad)) m.pad m.tag
    let s := if m.isPad then writePad s (base + m.off) m.len m.tag else writeMsg s (base + m.off) m
    let recs := (if m.pad = 0 then [] else [(m.pad, true)]) ++ (if m.len = 0 then [] else [(m.len, m.isPad)])
    let cfg := inCfg s core i
    let ic := { ic with flight := ms, recs := ic.recs ++ recs, used := ic.used + m.pad + m.len }
    if m.isPad then setIn s core i ic
    else
      let s := setIn s core i { ic with
        seq := (m.seq + 1) % 2 ^ 32
        res := ic.res + b2n (bit m.flags 0 && !(bit cfg 2)) }
      let s := bump s (pgChn core) (32 + i) 1
      let x := bits cfg 8 2
      let n := bits cfg 12 4
      let s := if bit cfg 3 then setSync s core x n (syncCtr s core x n + 1) else s
      let so := m.sender % 16
      let sc := m.sender / 16
      setOut s sc so { outOf s sc so with acks := (outOf s sc so).acks ++ [(m.id, m.seq, m.off)] }

/-- The acknowledgement returns and the send completes (R197). -/
def opAck (s : State) (core o : Nat) : State :=
  let x := outOf s core o
  match x.acks with
  | [] => s
  | (id, seq, off) :: as =>
    let s := setOut s core o { x with acks := as }
    match engRun s (pgChn core * 2) (fun r => r.cmd.id == id && r.prog == 1) with
    | none => s
    | some r => finish s r stOK (leBytes 4 seq ++ leBytes 4 off)

/-- A credit return reaches the sender (R202): the head that it carries is ahead of the last one that the sender knows, by
the whole reel where it is the same offset again, for a release frees at least one record. -/
def opCredit (s : State) (core o : Nat) : State :=
  let x := outOf s core o
  match x.returns with
  | [] => s
  | h :: hs =>
    let size := reelSize s (outDst s core o) (outDstIn s core o)
    let freed := if x.head < h then h - x.head else size - x.head + h
    sendTakeUp (setOut s core o { x with returns := hs, head := h, used := x.used - freed }) core

/-! ### CHN_RELEASE (R203) -/

/-- The bytes that `n` message records and the pads before them take, and the records behind them. -/
def takeRecs : Nat → List (Nat × Bool) → Nat → Option (Nat × List (Nat × Bool))
  | 0, rs, acc => some (acc, rs)
  | _ + 1, [], _ => none
  | n + 1, (len, pad) :: rs, acc => takeRecs (if pad then n + 1 else n) rs (acc + len)

/-- The release that runs takes effect. -/
def opChnRelease (s : State) (core : Nat) : State :=
  match runOp s (pgChn core) 2 with
  | none => s
  | some r =>
    let c := r.cmd
    let i := bits (bf c 16 1) 0 4
    let ic := inOf s core i
    let n := bf c 18 2
    let cfg := inCfg s core i
    if !(bit cfg 0 && bits cfg 4 4 == c.job) then finish s r stAccess []
    else
      match takeRecs n ic.recs 0 with
      | none => finish s r stFormat []
      | some (b, rest) =>
        let size := reelSize s core i
        let head := if ic.head + b < size then ic.head + b else ic.head + b - size
        let s := setIn s core i { ic with
          head := head, used := ic.used - b, recs := rest, res := if bit cfg 2 then ic.res - n else ic.res }
        let s :=
          if ic.peer = 0 then s
          else
            let sc := (ic.peer - 1) / 16
            let so := (ic.peer - 1) % 16
            setOut s sc so { outOf s sc so with returns := (outOf s sc so).returns ++ [head] }
        finish s r stOK (leBytes 4 head ++ leBytes 4 b)

/-! ### The send timeout (R208, R209) -/

/-- What the receiving context waits in: outbound channel, destination core and inbound channel of the send that leads
back to the sending core, else of its first waiting send. -/
def peerWait (s : State) (core o : Nat) : Option (Nat × Nat × Nat) :=
  let dc := outDst s core o
  let x := bits (inCfg s dc (outDstIn s core o)) 8 2
  let ws := ((engOf s (pgChn dc * 2)).aside.filter (fun r => r.cmd.op == 1 && r.cmd.ctx == x)).map
    (fun r => let po := bits (bf r.cmd 24 1) 0 4; (po, outDst s dc po, outDstIn s dc po))
  match ws.find? (fun w => w.2.1 == core) with
  | some w => some w
  | none => ws.head?

/-- Event detail of Table 7-2. -/
def timeoutDetail (s : State) (core o kind : Nat) : List Byte :=
  let p := peerWait s core o
  let w := p.getD (0, 0, 0)
  leBytes 2 core ++ leBytes 1 o ++ leBytes 1 kind ++ leBytes 2 (outDst s core o) ++ leBytes 1 (outDstIn s core o) ++
    leBytes 1 (b2n p.isSome) ++ leBytes 1 w.1 ++ leBytes 1 0 ++ leBytes 2 w.2.1 ++ leBytes 1 w.2.2 ++ leBytes 3 0

/-- The waiting send `id` has waited longer than CHN_SEND_TIMEOUT (R208); one whose destination was fenced ends under
R210. -/
def opSendTimeout (s : State) (core id : Nat) : State :=
  let g := engOf s (pgChn core * 2)
  match g.aside.find? (fun r => r.cmd.id == id) with
  | none => s
  | some r =>
    if fenced s (outDst s core (bits (bf r.cmd 24 1) 0 4)) then sendTakeUp s core
    else if r.since + 1000 * regF s (pgChn core) 0x500 0 32 ≤ s.time then
      let o := bits (bf r.cmd 24 1) 0 4
      let kind := b2n (sendRoom s core o (bf r.cmd 20 4)).fits
      let d := timeoutDetail s core o kind
      let s := setEng s (pgChn core * 2) { g with
        aside := g.aside.filter (fun y => y.cmd.id != id)
        running := g.running ++ [{ r with fin := some (stChanTimeout, []) }] }
      let s := bump s (pgChn core) 48 1
      raiseErr s (pgChn core) 8 { status := stChanTimeout, fn := r.cmd.job, detail := o } [r.cmd.job] d
    else s

/-! ### Binding (R192) -/

/-- A send waits on the outbound channel. -/
def outWaits (s : State) (core o : Nat) : Nat :=
  ((engOf s (pgChn core * 2)).aside.filter (fun r => r.cmd.op == 1 && bits (bf r.cmd 24 1) 0 4 == o)).length

/-- A nanosecond of HUB_TIME passes for the sends that wait in a core's slots (R208, R216, R424): the wait counter of each
outbound channel that has one advances, and the timer of a send whose reel pre-emption has saved does not run. -/
def sendTick (s : State) (core : Nat) : State :=
  let s := ((upTo 16).filter (fun o => outWaits s core o != 0)).foldl (fun s o => bump s (pgChn core) (16 + o) 1) s
  let g := engOf s (pgChn core * 2)
  setEng s (pgChn core * 2) { g with
    aside := g.aside.map (fun r =>
      if reelSaved s core (bits (bf r.cmd 24 1) 0 4) then { r with since := r.since + 1 } else r) }

/-- The channel that arrives at an inbound channel is in use: its reel or its way holds messages, or it holds
reservations, or a send waits on it. A message on its way counts as one in the reel. DESIGN CHOICE (log 107). -/
def inBusy (s : State) (core i : Nat) : Bool :=
  let ic := inOf s core i
  ic.used != 0 || ic.res != 0 || !ic.flight.isEmpty ||
    (ic.peer != 0 && outWaits s ((ic.peer - 1) / 16) ((ic.peer - 1) % 16) != 0)

/-- The bound outbound channel is in use. -/
def outBusy (s : State) (core o : Nat) : Bool :=
  let dc := outDst s core o
  let di := outDstIn s core o
  outWaits s core o != 0 || ((inOf s dc di).peer == core * 16 + o + 1 && inBusy s dc di)

/-- BIND_REJECTED (Table 7-5). -/
def bindRejected (s : State) (core n : Nat) : State := raiseErr s (pgChn core) 9 { detail := n, write := true } [] []

/-- The channel leaves its inbound channel. -/
def unbindOut (s : State) (core o : Nat) : State :=
  let dc := outDst s core o
  let di := outDstIn s core o
  if (inOf s dc di).peer = core * 16 + o + 1 then setIn s dc di { inOf s dc di with peer := 0 } else s

/-- A write to CHN_OUT_CFG that the guard has let through. Acknowledgements on their way still reach their sends. -/
def opOutCfg (s : State) (core o v : Nat) : State :=
  let v := v &&& 0xFF7FF003F
  let dc := bits v 16 11
  let di := bits v 28 4
  let other := (inOf s dc di).peer
  if outBusy s core o then bindRejected s core o
  else if bit v 0 = true ∧ (targetMatches s v = false ∨ (other ≠ 0 ∧ other ≠ core * 16 + o + 1)) then
    bindRejected s core o
  else
    let s := setReg (unbindOut s core o) (pgChn core) (0x100 + 0x20 * o) v
    let s := setOut s core o { acks := (outOf s core o).acks }
    if bit v 0 then setIn s dc di { peer := core * 16 + o + 1 } else s

/-- CHN_IN_REEL names a legal reel: 1 to 256 pages, and a REPLY_REC of up to 1,024 units that divides it. -/
def reelLegal (v : Nat) : Bool :=
  let n := bits v 16 9
  let r := bits v 32 11
  within n 1 256 && (r == 0 || (decide (r ≤ 1024) && n * 64 % r == 0))

/-- A write to CHN_IN_CFG or CHN_IN_REEL that the guard has let through; one that names an illegal reel is ignored.
DESIGN CHOICE (log 107). -/
def opInCfg (s : State) (core i : Nat) (reel : Bool) (v : Nat) : State :=
  if inBusy s core i then bindRejected s core (16 + i)
  else if reel && !(reelLegal v) then s
  else if reel then setReg s (pgChn core) (0x308 + 0x20 * i) (v &&& 0x7FF01FF01FF)
  else setReg s (pgChn core) (0x300 + 0x20 * i) (v &&& 0xF3FF)

/-- A function-level reset unbinds an outbound channel of its job; messages on their way are acknowledged. -/
def unbindJobOut (s : State) (core o job : Nat) : State :=
  if bit (outCfg s core o) 0 && bits (outCfg s core o) 2 4 == job then
    let dc := outDst s core o
    let di := outDstIn s core o
    let ic := inOf s dc di
    let s :=
      if ic.peer = core * 16 + o + 1 then
        let x := outOf s core o
        let s := setIn s dc di {}
        setOut s core o { acks := x.acks ++ (ic.flight.filter (fun m => !m.isPad)).map (fun m => (m.id, m.seq, m.off)) }
      else s
    setReg s (pgChn core) (0x100 + 0x20 * o) 0
  else s

/-- A function-level reset unbinds an inbound channel of its job. -/
def unbindJobIn (s : State) (core i job : Nat) : State :=
  if bit (inCfg s core i) 0 && bits (inCfg s core i) 4 4 == job then
    setReg (setReg (setIn s core i {}) (pgChn core) (0x300 + 0x20 * i) 0) (pgChn core) (0x308 + 0x20 * i) 0
  else s

/-- Every channel of a job on a core is unbound. -/
def unbindJob (s : State) (core job : Nat) : State :=
  (upTo 16).foldl (fun s i => unbindJobIn s core i job) ((upTo 16).foldl (fun s o => unbindJobOut s core o job) s)

end Sys2Proof.Machine
end

