-- ==== Sys2Proof/Machine/Ctl.lean ====
section
/-! DEFINITION. The control core (R65, R66, R72 to R78, R90, R91): instructions of a context, atomics, and the commands of
the control queue. -/
namespace Sys2Proof.Machine

/-! ### Contexts and registers -/

def getReg (c : Ctx) (r : Nat) : Nat := if r % 32 = 0 then 0 else (mapGet 0 c.g (r % 32)).toNat

/-- g0 discards writes (R72). -/
def putReg (c : Ctx) (r v : Nat) : Ctx :=
  if r % 32 = 0 then c else { c with g := mapPut 0 c.g (r % 32) (BitVec.ofNat 64 v) }

/-- Instruction window of a context: first byte and bytes (COR_CTX_CFG). -/
def winBase (s : State) (core x : Nat) : Nat := regF s (pgCor core) (0x100 + 0x40 * x) 16 6 * 1024
def winSize (s : State) (core x : Nat) : Nat := regF s (pgCor core) (0x100 + 0x40 * x) 24 7 * 1024

/-- A context executes: it is RUNNING, its job is not suspended on the core, and nothing has stopped the package. -/
def ctxRuns (s : State) (core x : Nat) : Bool :=
  decide (core < 2048) && decide (x < 4) && (ctxOf s core x).st == 1 && !suspended s core (ctxJob s core x) &&
    !s.halted && s.pstate == 0

/-- The context that takes the core's next issue: contexts that execute take turns by ascending number, after the one served
last (R416). -/
def nextCtx (s : State) (core : Nat) : Option Nat :=
  ((upTo 4).map (fun i => (mapGet 0 s.turn core + i) % 4)).find? (ctxRuns s core)

/-- Context `x` has had its issue. -/
def tookTurn (s : State) (core x : Nat) : State := { s with turn := mapPut 0 s.turn core ((x + 1) % 4) }

/-! ### Instruction words (R73, Table 3-2, Table 11-3) -/

def opcode (w : Nat) : Nat := bits w 26 6
/-- Bits [25:21]: rd of the R and I forms, ra of the B form. -/
def fieldA (w : Nat) : Nat := bits w 21 5
/-- Bits [20:16]: ra of the R and I forms, rb of the B form. -/
def fieldB (w : Nat) : Nat := bits w 16 5
/-- Bits [15:11]: rb of the R form. -/
def fieldC (w : Nat) : Nat := bits w 11 5

/-- The word a context fetches at its PC. -/
def fetched (s : State) (core x : Nat) : Nat := rdNum s (spImem core + winBase s core x + (ctxOf s core x).pc) 4

/-- An R-form word with an opcode of a class. -/
def rWord (lo hi rd ra rb w : Nat) : Bool :=
  within (opcode w) lo hi && fieldA w == rd % 32 && fieldB w == ra % 32 && fieldC w == rb % 32

/-- An I-form or B-form word with an opcode of a class: two registers and the low 16 bits. -/
def iWord (lo hi a b imm w : Nat) : Bool :=
  within (opcode w) lo hi && fieldA w == a % 32 && fieldB w == b % 32 && bits w 0 16 == imm % 65536

/-- A system word (opcode 0x00). -/
def sysWord (w : Nat) : Bool := opcode w == 0

/-- A word of the atomic class with a function of Table 11-3, an address register and, where they are used, rd and rb. -/
def atomWord (code ra : Nat) (rd rb : Option Nat) (w : Nat) : Bool :=
  opcode w == 0x18 && bits w 0 11 == code && fieldB w == ra % 32 &&
    fieldA w == (rd.map (· % 32)).getD (fieldA w) && fieldC w == (rb.map (· % 32)).getD (fieldC w)

/-- The functions of Table 11-3. -/
def atomCodes : List Nat :=
  [0x001, 0x002, 0x003, 0x004, 0x010, 0x011, 0x012, 0x020, 0x021, 0x022, 0x023, 0x024, 0x028, 0x029, 0x02A, 0x02B, 0x02C,
    0x030, 0x031]

/-- Function of a minimum, less 0x20, or of a maximum, less 0x28. -/
def mmCode : MmKind → Nat
  | .s32 => 0
  | .s64 => 1
  | .u32 => 2
  | .u64 => 3
  | .f32 => 4

/-- An ISSUE word: ENGINE and OP are the two bytes of the immediate, in an order that the spec does not state. -/
def issueWord (engine op ra w : Nat) : Bool :=
  opcode w == 0x28 && fieldB w == ra % 32 &&
    (bits w 0 16 == engine % 256 + 256 * (op % 256) || bits w 0 16 == op % 256 + 256 * (engine % 256))

/-- A jump or a branch-and-link. -/
def jWord (off w : Nat) : Bool := within (opcode w) 0x20 0x27 && bits w 0 16 == off % 65536

/-- A SYNCWAIT or SYNCPOST word. -/
def syncInstr (oc ra imm w : Nat) : Bool := opcode w == oc && fieldB w == ra % 32 && bits w 0 16 == imm % 65536

/-- A word with a reserved opcode, or with a reserved function of the atomic class. -/
def reservedWord (w : Nat) : Bool :=
  within (opcode w) 0x19 0x1F || decide (0x2B ≤ opcode w) || (opcode w == 0x18 && !atomCodes.contains (bits w 0 11))

/-- An instruction of the context whose turn it is: its fetch must lie in the window (R77) and be readable (Table 3-3), and
the word fetched
must spell it, as far as R73 gives its bits: the function codes of the system and integer classes, the opcodes within the
integer, load and store and branch classes, and the order of ISSUE's bytes are not given, so a word of a class can be any
instruction of the class with its operands. Falling off the end of the window halts as a branch out of it does. DEDUCED
(log 22). -/
def instr (s : State) (core x : Nat) (p : Nat → Bool) (f : Ctx → State) : State :=
  if nextCtx s core = some x then
    let c := ctxOf s core x
    if winSize s core x ≤ c.pc then tookTurn (haltCtx s core x stBadCommand 0) core x
    else
      match badIn s (spImem core + winBase s core x + c.pc) 4 with
      | some g =>
        tookTurn (haltCtx (uncorrLocal s (pgCor core) 8 (g - spImem core) (ctxJob s core x)) core x stUncorr 0) core x
      | none => if p (fetched s core x) then tookTurn (f c) core x else s
  else s

/-- The next instruction follows. -/
def nextPc (c : Ctx) : Ctx := { c with pc := (c.pc + 4) % 65536 }

/-- An instruction writes rd and goes on. -/
def retire (s : State) (core x : Nat) (c : Ctx) (rd v : Nat) : State := setCtx s core x (nextPc (putReg c rd v))

def mod64 (n : Nat) : Nat := n % 2 ^ 64
/-- A signed immediate as a 64-bit pattern. -/
def imm64 (i : BitVec 16) : Nat := wrap 64 (sgn 16 i.toNat)

/-! ### Integer instructions (Table 3-2) -/

/-- Signed quotient: toward zero, or down where Config says so. -/
def sdiv (a b : Int) : Int := if Config.divFloors then a.fdiv b else a.tdiv b

/-- A division corner: a zero divisor, or the most negative number by -1. -/
def divEdge (sg : Bool) (a b : Nat) : Bool := b == 0 || (sg && a == 2 ^ 63 && b == 2 ^ 64 - 1)

def intOp (o : IntOp) (a b : Nat) : Nat :=
  match o with
  | .add => mod64 (a + b)
  | .sub => mod64 (a + 2 ^ 64 - b)
  | .and => a &&& b
  | .or => a ||| b
  | .xor => a ^^^ b
  | .shl => if b < 64 then mod64 (a <<< b) else mod64 (Config.shiftWide 0 a b)
  | .shr => if b < 64 then a >>> b else mod64 (Config.shiftWide 1 a b)
  | .sar => if b < 64 then wrap 64 (sgn 64 a >>> b) else mod64 (Config.shiftWide 2 a b)
  | .setEq => b2n (a == b)
  | .setNe => b2n (a != b)
  | .setLt => b2n (decide (sgn 64 a < sgn 64 b))
  | .setLtu => b2n (decide (a < b))
  | .mul => mod64 (a * b)
  | .div => if divEdge true a b then mod64 (Config.divCorner 0 a b) else wrap 64 (sdiv (sgn 64 a) (sgn 64 b))
  | .divu => if divEdge false a b then mod64 (Config.divCorner 1 a b) else a / b
  | .rem =>
    if divEdge true a b then mod64 (Config.divCorner 2 a b)
    else wrap 64 (sgn 64 a - sdiv (sgn 64 a) (sgn 64 b) * sgn 64 b)
  | .remu => if divEdge false a b then mod64 (Config.divCorner 3 a b) else a % b

def opIntR (s : State) (core x : Nat) (o : IntOp) (rd ra rb : Nat) : State :=
  instr s core x (rWord 1 7 rd ra rb) (fun c => retire s core x c rd (intOp o (getReg c ra) (getReg c rb)))

def opIntI (s : State) (core x : Nat) (o : IntOpI) (rd ra : Nat) (imm : BitVec 16) : State :=
  instr s core x (iWord 8 15 rd ra imm.toNat) (fun c =>
    match o with
    | .op k => retire s core x c rd (intOp k (getReg c ra) (imm64 imm))
    | .lui => retire s core x c rd (mod64 (Config.loadUpper imm.toNat)))

/-! ### System instructions -/

def opHalt (s : State) (core x : Nat) : State := instr s core x sysWord (fun _ => haltCtx s core x stOK 0)
def opNop (s : State) (core x : Nat) : State := instr s core x sysWord (fun c => setCtx s core x (nextPc c))
def opReadTime (s : State) (core x rd : Nat) : State :=
  instr s core x (fun w => sysWord w && fieldA w == rd % 32) (fun c => retire s core x c rd (mod64 s.time))
def opReadCtx (s : State) (core x rd : Nat) : State :=
  instr s core x (fun w => sysWord w && fieldA w == rd % 32) (fun c => retire s core x c rd (mod64 (Config.readCtx x (ctxJob s core x))))
def opReserved (s : State) (core x : Nat) : State := instr s core x reservedWord (fun _ => haltCtx s core x stBadCommand 0)

/-! ### Scratch loads and stores (R74, R81) -/

/-- A scratch access of `n` bytes: BAD_COMMAND where it is misaligned, ACCESS_VIOLATION outside the window; where both hold,
BAD_COMMAND, an order that Table 3-3 does not state. DESIGN CHOICE (log 102). -/
def scratchAcc (s : State) (core x a n : Nat) (f : State) : State :=
  if a % n ≠ 0 then haltCtx s core x stBadCommand 0
  else if scratchOk s core x a n = false then haltCtx s core x stAccess 0
  else f

def opLoad (s : State) (core x log2 rd ra : Nat) (imm : BitVec 16) : State :=
  instr s core x (iWord 0x10 0x17 rd ra imm.toNat) (fun c =>
    let n := 2 ^ (log2 % 4)
    let a := mod64 (getReg c ra + imm64 imm)
    scratchAcc s core x a n
      (match badIn s (spScratch core + a) n with
      | some g => haltCtx (uncorrScratch s core (ctxJob s core x) g) core x stUncorr 0
      | none =>
        let v := rdNum s (spScratch core + a) n
        retire s core x c rd (if n = 8 then v else v + mod64 (Config.loadHigh n v * 2 ^ (8 * n)))))

def opStore (s : State) (core x log2 rs ra : Nat) (imm : BitVec 16) : State :=
  instr s core x (iWord 0x10 0x17 rs ra imm.toNat) (fun c =>
    let n := 2 ^ (log2 % 4)
    let a := mod64 (getReg c ra + imm64 imm)
    scratchAcc s core x a n
      (match badPartial s (spScratch core + a) n with
      | some g => haltCtx (uncorrScratch s core (ctxJob s core x) g) core x stUncorr 0
      | none => setCtx (wrNum s (spScratch core + a) n (getReg c rs)) core x (nextPc c)))

/-! ### Cluster-cache atomics (R339) -/

/-- An atomic on the word at ra: `f` gives what memory becomes, `back` says that rd takes the old value, `whole` that the
word is written without being read. -/
def atomic (s : State) (core x : Nat) (p : Nat → Bool) (wide : Bool) (rd ra : Nat) (back whole : Bool)
    (f : Ctx → Nat → Nat) : State :=
  instr s core x p (fun c =>
    let n := if wide then 8 else 4
    let a := getReg c ra
    let job := ctxJob s core x
    if a % n ≠ 0 then haltCtx s core x stBadCommand 0
    else if a < 0x1000000 ∨ 0x1800000 ≤ a ∨ cluOk s (core / 8) job (a - 0x1000000) n = false then
      haltCtx s core x stAccess 0
    else
      let g := spClu (core / 8) + (a - 0x1000000)
      match if whole then badPartial s g n else badIn s g n with
      | some b => haltCtx (uncorrClu s (core / 8) job b) core x stUncorr 0
      | none =>
        let old := rdNum s g n
        setCtx (wrNum s g n (f c old)) core x (nextPc (if back then putReg c rd old else c)))

def opAtomicLoad (s : State) (core x : Nat) (wide : Bool) (rd ra : Nat) : State :=
  atomic s core x (atomWord (if wide then 2 else 1) ra (some rd) none) wide rd ra true false (fun _ old => old)
def opAtomicStore (s : State) (core x : Nat) (wide : Bool) (ra rb : Nat) : State :=
  atomic s core x (atomWord (if wide then 4 else 3) ra none (some rb)) wide 0 ra false true (fun c _ => getReg c rb)
def opAtomicAdd (s : State) (core x : Nat) (wide : Bool) (rd ra rb : Nat) : State :=
  atomic s core x (atomWord (if wide then 0x11 else 0x10) ra (some rd) (some rb)) wide rd ra true false
    (fun c old => old + getReg c rb)
def opAtomicAddF (s : State) (core x rd ra rb : Nat) : State :=
  atomic s core x (atomWord 0x12 ra (some rd) (some rb)) false rd ra true false (fun c old => add32 old (getReg c rb % 2 ^ 32))

/-- Width of a minimum or maximum. -/
def mmWide : MmKind → Bool
  | .s64 | .u64 => true
  | _ => false

/-- The smaller of two words of a kind, as MIN of Table 6-2 for FP32; `greater` gives the larger. -/
def minMax (k : MmKind) (greater : Bool) (a b : Nat) : Nat :=
  let pick (lt : Bool) : Nat := if lt = !greater then a else b
  match k with
  | .s32 => pick (decide (sgn 32 a < sgn 32 b))
  | .s64 => pick (decide (sgn 64 a < sgn 64 b))
  | .u32 => pick (decide (a % 2 ^ 32 < b % 2 ^ 32))
  | .u64 => pick (decide (a < b))
  | .f32 => if greater then max32 a (b % 2 ^ 32) else min32 a (b % 2 ^ 32)

def opAtomicMin (s : State) (core x : Nat) (k : MmKind) (rd ra rb : Nat) : State :=
  atomic s core x (atomWord (0x20 + mmCode k) ra (some rd) (some rb)) (mmWide k) rd ra true false
    (fun c old => minMax k false old (getReg c rb))
def opAtomicMax (s : State) (core x : Nat) (k : MmKind) (rd ra rb : Nat) : State :=
  atomic s core x (atomWord (0x28 + mmCode k) ra (some rd) (some rb)) (mmWide k) rd ra true false
    (fun c old => minMax k true old (getReg c rb))
def opCas (s : State) (core x : Nat) (wide : Bool) (rd ra rb : Nat) : State :=
  atomic s core x (atomWord (if wide then 0x31 else 0x30) ra (some rd) (some rb)) wide rd ra true false (fun c old =>
    if old = getReg c rd % 2 ^ (if wide then 64 else 32) then getReg c rb else old)

/-! ### Branches -/

/-- Target of a relative branch: a signed offset in words. -/
def target (c : Ctx) (off : BitVec 16) : Nat :=
  wrap 64 ((c.pc : Int) + (if Config.branchFromNext then 4 else 0) + 4 * sgn 16 off.toNat)

/-- Control goes to a byte offset of the window; outside it the context halts with BAD_COMMAND (Table 3-3), and so it does
at an offset that is not 4-byte aligned, of which the spec says nothing. DESIGN CHOICE (log 102). -/
def goto (s : State) (core x : Nat) (c : Ctx) (t : Nat) (f : State → State) : State :=
  if t < winSize s core x ∧ t % 4 = 0 then f (setCtx s core x { c with pc := t })
  else haltCtx s core x stBadCommand 0

def condHolds (k : Cond) (a b : Nat) : Bool :=
  match k with
  | .eq => a == b
  | .ne => a != b
  | .lt => decide (sgn 64 a < sgn 64 b)
  | .ge => decide (sgn 64 b ≤ sgn 64 a)
  | .ltu => decide (a < b)
  | .geu => decide (b ≤ a)

/-- A conditional outcome of a traced context is gathered; 42 make a packet (R507). -/
def traceBranch (s : State) (core x : Nat) (taken : Bool) : State :=
  if traced s core x then
    let c := ctxOf s core x
    let s := setCtx s core x { c with brN := c.brN + 1, brBits := c.brBits + b2n taken * 2 ^ c.brN }
    if c.brN + 1 = 42 then trcSyncDue (trcFlush s core x) core x else s
  else s

def opBranch (s : State) (core x : Nat) (k : Cond) (ra rb : Nat) (off : BitVec 16) : State :=
  instr s core x (iWord 0x20 0x27 ra rb off.toNat) (fun c =>
    if condHolds k (getReg c ra) (getReg c rb) then goto s core x c (target c off) (fun s => traceBranch s core x true)
    else traceBranch (setCtx s core x (nextPc c)) core x false)

def opJump (s : State) (core x : Nat) (off : BitVec 16) : State :=
  instr s core x (jWord off.toNat) (fun c => goto s core x c (target c off) id)

def opBranchLink (s : State) (core x : Nat) (off : BitVec 16) : State :=
  instr s core x (jWord off.toNat) (fun c => goto s core x (putReg c 31 (c.pc + 4)) (target c off) id)

def opJumpReg (s : State) (core x ra : Nat) : State :=
  instr s core x (fun w => within (opcode w) 0x20 0x27 && fieldA w == ra % 32) (fun c =>
    goto s core x c (getReg c ra)
      (fun s => trcEmit s core x [trcHead 3 core x + 2 ^ 16 * (getReg c ra % 65536)]))

/-! ### Counters -/

def opSyncwait (s : State) (core x ra imm : Nat) : State :=
  instr s core x (syncInstr 0x29 ra imm) (fun c =>
    let n := imm % 32
    let v := getReg c ra % 65536
    if 16 ≤ n then haltCtx s core x stBadCommand 0
    else if syncReached (syncCtr s core x n) v then setCtx s core x (nextPc c)
    else setCtx s core x { c with st := 2, wait := some (n, v) })

/-- SYNCWAIT_RELEASE: the counter has reached the value. -/
def opSyncRelease (s : State) (core x : Nat) : State :=
  let c := ctxOf s core x
  match c.wait with
  | none => s
  | some w =>
    if c.st = 2 ∧ syncReached (syncCtr s core x w.1) w.2 = true ∧ suspended s core (ctxJob s core x) = false ∧
        s.halted = false ∧ s.pstate = 0 then
      setCtx s core x (nextPc { c with st := 1, wait := none })
    else s

def opSyncpost (s : State) (core x ra imm : Nat) : State :=
  instr s core x (syncInstr 0x2A ra imm) (fun c =>
    let n := imm % 32
    if 16 ≤ n then haltCtx s core x stBadCommand 0
    else
      setCtx s core x (nextPc { c with
        sync := mapPut 0 c.sync n ((mapGet 0 c.sync n + getReg c ra) % 65536) }))

/-- SCRATCH_SCRUB of a 64-bit word. -/
def opScratchScrub (s : State) (core addr : Nat) (o : Ecc) : State :=
  let a := spScratch core + (addr - addr % 8)
  if scratchBytes ≤ addr ∨ 2048 ≤ core then s
  else if s.bad.contains a = true ∨ o = .uncorrectable then
    raiseErr (spoil s a) (pgCor core) 9 { addr := addr - addr % 8, status := stUncorr } (pageOwners s (pgCor core)) []
  else if o = .corrected then corrected s (pgCor core) 7 10 (addr - addr % 8)
  else s

/-! ### Commands of the control queue (R78, R90, R91) -/

/-- Body CTX of a control-queue command. -/
def corCtx (c : QCmd) : Nat := if c.op = 1 then bf c 29 1 else bf c 16 1

/-- R57 step 3 for the COR commands other than TILE_MOVE (Table 3-7, R70). -/
def corForm (c : QCmd) : Bool :=
  match c.op with
  | 1 => bf c 24 2 % 4 == 0 && within (bf c 26 2) 1 16384 && bits (bf c 28 1) 1 7 == 0 && decide (bf c 29 1 < 4) && bz c 30 34
  | 2 => decide (bf c 16 1 < 4) && bz c 17 1 && bz c 20 4 && bz c 56 8
  | 3 => decide (bf c 16 1 < 4) && bz c 17 47
  | _ => decide (bf c 16 1 < 4) && bits (bf c 17 1) 4 4 == 0 && bz c 20 44

/-- R57 step 4 for LOAD_IMEM from stacked memory. -/
def corAcc (s : State) (c : QCmd) : Bool :=
  !(c.op == 1 && bit (bf c 28 1) 0) || stackedOk s c.job (bf c 16 8) (4 * bf c 26 2)

/-- The windows of RUNNING or WAITING contexts do not overlap a range of instruction memory. -/
def imemIdle (s : State) (core lo n : Nat) : Bool :=
  (upTo 4).all (fun x =>
    !((ctxOf s core x).st == 1 || (ctxOf s core x).st == 2) ||
      !(decide (lo < winBase s core x + winSize s core x) && decide (winBase s core x < lo + n)))

/-- The LOAD_IMEM that runs on a core; `host` is what SRC_SPACE 0 read. -/
def opLoadImem (s : State) (core : Nat) (host : List Byte) : State :=
  match runOp s (pgCor core) 1 with
  | none => s
  | some r =>
    let c := r.cmd
    let n := 4 * bf c 26 2
    let lo := winBase s core (corCtx c) + bf c 24 2
    if winSize s core (corCtx c) < bf c 24 2 + n ∨ imemIdle s core lo n = false then finish s r stFormat []
    else if bit (bf c 28 1) 0 then
      match fabBad s (bf c 16 8) n with
      | some g => failUncorr { wrMem s (spImem core + lo) (undefBytes s.free n) with free := s.free + 1 } r g []
      | none => finish (wrMem s (spImem core + lo) (rdMem s (bf c 16 8) n)) r stOK []
    else if host.length = n then finish (wrMem s (spImem core + lo) host) r stOK []
    else s

/-- A context starts at ENTRY with g1 to g4 (R72, R91); the command that started it completes at the halt. -/
def startCtx (s : State) (core x entry : Nat) (gs : List Nat) (q : QCmd) : State :=
  let c := ctxOf s core x
  let g := (upTo 4).foldl (fun (m : SMap W64) i => mapPut 0 m (i + 1) (BitVec.ofNat 64 (gs.getD i 0))) []
  let s := setCtx s core x
    { c with st := 1, pc := entry, g := g, stall := none, wait := none, starter := some q, failEngine := 0, brN := 0, brBits := 0 }
  if traced s core x then trcSync s core x else s

/-- The START_CONTEXT that runs on a core. An ENTRY inside the window that is not 4-byte aligned is taken as FORMAT_ERROR;
R91 names only one outside it. DESIGN CHOICE (log 102). -/
def opStartContext (s : State) (core : Nat) : State :=
  match engRun s (pgCor core * 2 + 1) (fun r => r.cmd.op == 2 && r.prog == 0) with
  | none => s
  | some r =>
    let c := r.cmd
    let x := corCtx c
    let st := (ctxOf s core x).st
    let job := ctxJob s core x
    if ctxBound s core x = false ∨ regF s (pgJob job) 0x140 0 1 = 0 then finish s r stAccess []
    else if (st ≠ 0 ∧ st ≠ 3) ∨ winSize s core x ≤ bf c 18 2 ∨ bf c 18 2 % 4 ≠ 0 then finish s r stFormat []
    else
      startCtx (setRun s (cmdKey c) { r with prog := 1 }) core x (bf c 18 2)
        [bf c 24 8, bf c 32 8, bf c 40 8, bf c 48 8] c

/-- The SYNC_SET that runs on a core. -/
def opSyncSet (s : State) (core : Nat) : State :=
  match runOp s (pgCor core) 5 with
  | none => s
  | some r =>
    let c := r.cmd
    let x := corCtx c
    if (ctxOf s core x).st = 1 ∨ (ctxOf s core x).st = 2 then finish s r stFormat []
    else finish (setSync s core x (bits (bf c 17 1) 0 4) (bf c 18 2)) r stOK []

end Sys2Proof.Machine
end

