-- ==== Sys2Proof/Machine/Gmv.lean ====
section
/-! DEFINITION. The matrix-vector engine of a region (R125 to R128). -/
namespace Sys2Proof.Machine

/-- The body of GMV_MATVEC (Table 4-9). -/
structure Matvec where
  w : Nat
  x : Nat
  y : Nat
  k : Nat
  n : Nat
  ws : Nat
  v : Nat
  wf : Nat
  xf : Nat
  xc : Nat
  yc : Nat
  dest : Nat
  tr : Bool
  seq : Nat
deriving DecidableEq, Repr

def matvecOf (c : QCmd) : Matvec :=
  { w := bf c 16 8, x := bf c 24 4, y := bf c 28 4, k := bf c 32 2, n := bf c 34 2, ws := bf c 36 4, v := bf c 40 1
    wf := bf c 41 1, xf := bf c 42 1, xc := bits (bf c 43 1) 0 3, yc := bits (bf c 43 1) 3 3
    dest := bits (bf c 44 1) 0 2, tr := bit (bf c 44 1) 2, seq := bf c 46 2 }

/-- A multiple of 64 at or above. -/
def up64 (n : Nat) : Nat := cdiv n 64 * 64

/-- Bytes between vectors of X: packed rows (DEDUCED from R128's size rule, log 35). -/
def mvXs (x : Matvec) : Nat := rowBytes x.xf x.k

def mvRows (x : Matvec) : Nat := if x.tr then x.n else x.k
def mvCols (x : Matvec) : Nat := if x.tr then x.k else x.n

/-- R57 steps 3 and 4 for GMV_MATVEC in region `r` (R126, R128, R338, R538). -/
def chkGmv (s : State) (r : Nat) (c : QCmd) : Option Nat :=
  let x := matvecOf c
  let wb := operandBytes x.wf (mvRows x) (mvCols x) x.ws
  let yo := if x.dest = 0 then (x.v - 1) * up64 (2 * x.n) + 2 * x.n else 64 + (x.v - 1) * up64 (4 * x.n) + 4 * x.n
  formThen
    (within x.k 1 16384 && within x.n 1 32768 && within x.v 1 8 && (x.wf == 0 || x.wf == 1 || x.wf == 5) &&
      (x.xf == 0 || x.xf == 1 || x.xf == 6) && x.dest != 3 && bits (bf c 43 1) 6 2 == 0 && bits (bf c 44 1) 3 5 == 0 &&
      bz c 45 1 && bz c 48 8 && syncFmt c true && x.w % 64 == 0 && x.x % 64 == 0 && x.y % 64 == 0 &&
      x.ws % 32 == 0 && decide (rowBytes x.wf (mvCols x) ≤ x.ws) &&
      (x.wf != 5 || (x.k % 32 == 0 && x.n % 32 == 0)) &&
      (!x.tr || (x.wf == 5 && x.k % 32 == 0 && x.n % 32 == 0)) &&
      decide (x.v * x.k + (if x.xf = 6 then x.v * (x.k / 32) else 0) ≤ 65536) &&
      inStacked x.w wb && fabRegion x.w == r && fabRegion (x.w + wb - 1) == r &&
      decide (x.y + yo ≤ cluBytes))
    (stackedOk s c.job x.w wb && cluOk s (8 * r + x.xc) c.job x.x (operandBytes x.xf x.v x.k (mvXs x)) &&
      cluOk s (8 * r + x.yc) c.job x.y yo)

/-- Depth and width of the shape that R113 chooses for W (R125). -/
def mvShape (x : Matvec) : Nat × Nat := (shapeDW x.wf (autoShape x.wf x.n)).getD (64, 32)

/-- Element (v, n) of Y: one rounding per K-chunk and one per accumulate, ascending K (R125). -/
def mvElem (s : State) (r : Nat) (x : Matvec) (depth v n : Nat) : Nat :=
  let prods := (upTo x.k).map (fun k =>
    vMul (elemAt s (spClu (8 * r + x.xc) + x.x) (mvXs x) x.xf x.v x.k v k)
      (if x.tr then elemAt s x.w x.ws x.wf x.n x.k n k else elemAt s x.w x.ws x.wf x.k x.n k n))
  (chunks depth prods.length prods).foldl (fun acc ch => add32 acc (enc32 (vSum ch))) 0

/-- Row blocks of the output by column tile, as a MATMUL with the same operands drains them (R111, R125). -/
def mvBlocks (s : State) (r : Nat) (x : Matvec) : List OutBlk :=
  let d := mvShape x
  let tiles := cdiv x.n d.2
  (upTo tiles).map (fun t =>
    { idx := t, col := t * d.2, last := t + 1 == tiles
      vals := (upTo x.v).map (fun v => (upTo (min d.2 (x.n - t * d.2))).map (fun j => mvElem s r x d.1 v (t * d.2 + j))) })

/-- A slot output goes on block by block (R111). -/
def mvFlush (s : State) (r : Nat) (rc : RCmd) (x : Matvec) : List OutBlk → State
  | [] => finish s { rc with outs := [] } stOK []
  | b :: bs =>
    match pushSlot s rc (8 * r + x.yc)
        { dest := x.dest + 1, out := x.y, os := up64 (4 * x.n), seq := x.seq, int := false, m410 := false } b
        (x.dest == 1) (pgGmv r) 8 with
    | .done s' => mvFlush s' r rc x bs
    | .wait =>
      let g := engOf s (pgGmv r * 2)
      setEng s (pgGmv r * 2) { g with
        running := g.running.filter (fun y => y.cmd.id != rc.cmd.id)
        aside := g.aside.filter (fun y => y.cmd.id != rc.cmd.id) ++ [{ rc with outs := b :: bs }] }
    | .fail s' st => finish s' { rc with outs := [] } st []

/-- Rows of X as the vector buffer holds them, packed one behind the other (R126, R128). -/
def mvVec (s : State) (r : Nat) (x : Matvec) : List Byte :=
  (upTo x.v).flatMap (fun v => rdMem s (spClu (8 * r + x.xc) + x.x + v * mvXs x) (rowBytes x.xf x.k))

/-- An uncorrectable error in W, X or the vector buffer ends the command, and no part of Y is written (R128, R134). -/
def mvFail (s : State) (r : Nat) (rc : RCmd) (g : Nat) : State :=
  let a := if g < 2 ^ 80 then g else g % 2 ^ 64
  let s := if g / 2 ^ 80 = 9 then s else uncorrAny s rc.cmd.job g
  finish (raiseErr s (pgGmv r) 8 { addr := a, status := stUncorr, fn := rc.cmd.job } [rc.cmd.job] []) rc stUncorr []

/-- The GMV_MATVEC that runs in the region takes effect (R125 to R128). -/
def opMatvec (s : State) (r : Nat) : State :=
  match runOp s (pgGmv r) 1 with
  | none => s
  | some rc =>
    let x := matvecOf rc.cmd
    let xa := spClu (8 * r + x.xc) + x.x
    let ya := spClu (8 * r + x.yc) + x.y
    if x.dest = 1 ∧ x.seq < slotNext s ya then finish s rc stFormat []
    else
      match operandBad s x.w x.ws x.wf (mvRows x) (mvCols x) with
      | some g => mvFail s r rc g
      | none =>
        match operandBad s xa (mvXs x) x.xf x.v x.k with
        | some g => mvFail s r rc g
        | none =>
        let vec := padTo (up64 (x.v * mvXs x)) (mvVec s r x)
        match badIn s (spVec r) vec.length with
        | some g => mvFail (wrMem s (spVec r) vec) r rc g
        | none =>
          let s := wrMem s (spVec r) vec
          if x.dest = 0 then
            match rowsPartial s x.v ya (up64 (2 * x.n)) (2 * x.n) with
            | some g => mvFail s r rc g
            | none =>
              let d := mvShape x
              let rows := (upTo x.v).map (fun v => (upTo x.n).map (fun n => mvElem s r x d.1 v n))
              let s' := (rows.foldl (fun (p : State × Nat) v =>
                (wrMem p.1 p.2 (v.flatMap (fun y => leBytes 2 (encBf (dec32 y)))), p.2 + up64 (2 * x.n))) (s, ya)).1
              finish s' rc stOK []
          else mvFlush s r rc x (mvBlocks s r x)

/-- A waiting ordered contribution of the engine, whose turn has come, is applied (R111). -/
def resumeGmv (s : State) (r : Nat) (rc : RCmd) : State := mvFlush s r rc (matvecOf rc.cmd) rc.outs

end Sys2Proof.Machine
end

