-- ==== Sys2Proof/Machine/Route.lean ====
section
/-! DEFINITION. Coordinates, dimension-order routing and the dateline (R388, R394, R395), and the frames that a client
puts into a direction (R362). -/
namespace Sys2Proof.Machine

/-- Component of a coordinate: axis 0 d, 1 p, 2 t, 3 s (Table 12-1). -/
def coordC (c ax : Nat) : Nat := bits c (6 * ax) 6
/-- A coordinate from its components. -/
def coordOf (d p t s : Nat) : Nat := d + p * 2 ^ 6 + 2 ^ 12 * t + 2 ^ 18 * s
/-- A coordinate with one component replaced. -/
def withC (c ax x : Nat) : Nat := setBits c (6 * ax) 6 x
/-- Own coordinate and axis lengths (TOR_COORD). -/
def ownCoord (s : State) : Nat := regF s pgTor 0x100 0 24
def axisLen (s : State) (ax : Nat) : Nat := regF s pgTor 0x100 (24 + 6 * ax) 6 + 1

/-- The neighbour of a coordinate in direction `dir` (R388): direction 2·ax is X+, 2·ax + 1 is X−. -/
def neighbour (s : State) (c dir : Nat) : Nat :=
  let ax := dir / 2
  let l := axisLen s ax
  let x := coordC c ax
  withC c ax (if dir % 2 = 0 then (x + 1) % l else (x + l - 1) % l)

/-- The direction of the first axis in the order T, S, D, P on which two coordinates differ (R394). -/
def routeDir (s : State) (from_ dest : Nat) : Option Nat :=
  ([2, 3, 0, 1].find? (fun ax => coordC from_ ax != coordC dest ax)).map (fun ax =>
    let l := axisLen s ax
    let up := (coordC dest ax + l - coordC from_ ax) % l
    if 2 * up ≤ l then 2 * ax else 2 * ax + 1)

/-- The hop out of a coordinate in a direction is the wrap hop of its axis (R395). -/
def wrapHop (s : State) (c dir : Nat) : Bool :=
  let x := coordC c (dir / 2)
  if dir % 2 = 0 then x + 1 == axisLen s (dir / 2) else x == 0

/-- Coordinates on the route from one to another, the end included. -/
def routeOf (s : State) (dest : Nat) : Nat → Nat → List Nat
  | 0, _ => []
  | n + 1, c =>
    match routeDir s c dest with
    | none => []
    | some d => neighbour s c d :: routeOf s dest n (neighbour s c d)

def lnkOf (s : State) (dir : Nat) : Lnk := mapGet {} s.lnks dir
def setLnk (s : State) (dir : Nat) (l : Lnk) : State := { s with lnks := mapPut {} s.lnks dir l }

/-- Payloads of at most 224 bytes (R359). -/
def cutFrames (bs : List Byte) : List (List Byte) := chunks 224 bs.length bs

/-- Frames of a client's bytes are queued to leave in a direction; an ABSENT direction takes none (R396). -/
def sendEpoch (s : State) (dir vc dest epoch : Nat) (bs : List Byte) : State :=
  let l := lnkOf s dir
  if l.st = 5 then s
  else
    let me := ownCoord s
    let f (p : List Byte) : TxFrame :=
      { vc := vc, dl := wrapHop s me dir, dest := dest, src := me, payload := p, reqEpoch := epoch }
    setLnk s dir { l with outQ := l.outQ ++ (cutFrames bs).map f }

/-- The same with the REQ_EPOCH that R382 gives the originating package's frames. -/
def sendVia (s : State) (dir vc dest : Nat) (bs : List Byte) : State :=
  sendEpoch s dir vc dest (if vc = 0 then (lnkOf s dir).epoch else 0) bs

/-- Bytes go to another package on the route of R394. -/
def sendTo (s : State) (vc dest : Nat) (bs : List Byte) : State :=
  match routeDir s (ownCoord s) dest with
  | none => s
  | some d => sendVia s d vc dest bs

/-- A client's header as its 16 bytes: the spec says what it carries and not where, so each byte is what the model's layout
puts there, masked by a constant that nothing is known of. The layout is a DESIGN CHOICE (log 108). -/
def headBytes (bs : List Byte) : List Byte :=
  (padTo 16 bs).mapIdx (fun i b => b ^^^ BitVec.ofNat 8 (Config.headMask i))

/-- A client message leaves in a direction: its header, then its data. -/
def sendMsgVia (s : State) (dir vc dest : Nat) (head bs : List Byte) : State :=
  sendVia s dir vc dest (headBytes head ++ bs)

/-- The same on the route of R394. -/
def sendMsgTo (s : State) (vc dest : Nat) (head bs : List Byte) : State :=
  match routeDir s (ownCoord s) dest with
  | none => s
  | some d => sendMsgVia s d vc dest head bs

end Sys2Proof.Machine
end

