-- ==== Sys2Proof/Machine/Pse.lean ====
section
/-! DEFINITION. The pipeline stage engine (R217 to R252): binding, schedules, readiness, work entries, transfers and
credits, weight versions, steps, drain, resume, abort, and its failure paths. -/
namespace Sys2Proof.Machine

def pseOf (s : State) (r : Nat) : Pse := mapGet {} s.pses r
def setPse (s : State) (r : Nat) (p : Pse) : State := { s with pses := mapPut {} s.pses r p }
def upfOf (s : State) (r : Nat) : Upf := mapGet {} s.upfs r
def setUpf (s : State) (r : Nat) (u : Upf) : State := { s with upfs := mapPut {} s.upfs r u }

/-! ### Configuration -/

def pseCfg (s : State) (r : Nat) : Nat := reg s (pgPse r) 0x100
def pseJob (s : State) (r : Nat) : Nat := bits (pseCfg s r) 1 4
def pseValid (s : State) (r : Nat) : Bool := bit (pseCfg s r) 0
def pseV (s : State) (r : Nat) : Nat := bits (pseCfg s r) 5 3 + 1
def pseN (s : State) (r : Nat) : Nat := regF s (pgPse r) 0x110 16 13
def psePhys (s : State) (r : Nat) : Nat := regF s (pgPse r) 0x110 0 13
def pseSched (s : State) (r : Nat) : Nat := regF s (pgPse r) 0x118 0 2
/-- PSE_LINK_DOWN or PSE_LINK_UP. -/
def pseLink (s : State) (r : Nat) (down : Bool) : Nat := reg s (pgPse r) (if down then 0x128 else 0x120)
def linkKind (l : Nat) : Nat := bits l 0 2
/-- Region index of a link's peer. -/
def linkPeer (l : Nat) : Nat := 16 * bits l 2 1 + bits l 4 4
/-- Logical stage of virtual stage v (R218), and their number. -/
def pseL (s : State) (r v : Nat) : Nat := v * pseN s r + psePhys s r
def pseNL (s : State) (r : Nat) : Nat := pseN s r * pseV s r

/-- Pools (R220): 0 ACT_IN, 1 GRAD_IN, 2 FWD_SEND, 3 BWD_SEND. -/
def poolBase (s : State) (r q : Nat) : Nat := reg s (pgPse r) (0x130 + 0x10 * q)
def poolCount (s : State) (r q : Nat) : Nat := regF s (pgPse r) (0x138 + 0x10 * q) 0 12
def poolSize (s : State) (r q : Nat) : Nat := 65536 * regF s (pgPse r) (0x138 + 0x10 * q) 16 16
def bufAddr (s : State) (r q b : Nat) : Nat := poolBase s r q + b * poolSize s r q

def isHeld (p : Pse) (q b : Nat) : Bool := mapGet 0 p.held (q * 4096 + b) == 1
def hold (p : Pse) (q b : Nat) : Pse := { p with held := mapPut 0 p.held (q * 4096 + b) 1 }
def unhold (p : Pse) (q b : Nat) : Pse := { p with held := mapPut 0 p.held (q * 4096 + b) 0 }
/-- The lowest-numbered free buffer of a pool (R222). -/
def freeBufOf (s : State) (r : Nat) (p : Pse) (q : Nat) : Option Nat :=
  (upTo (poolCount s r q)).find? (fun b => !(isHeld p q b))

def recOf (p : Pse) (mb v : Nat) : PRec := mapGet {} p.recs (v * 4096 + mb)
def setRec (p : Pse) (mb v : Nat) (x : PRec) : Pse := { p with recs := mapPut {} p.recs (v * 4096 + mb) x }
/-- Open records (R225). -/
def openRecs (p : Pse) : Nat := (p.recs.filter (fun e => e.2.f != 0 && !e.2.closed)).length

/-! ### Schedules (R231, R233) -/

/-- Unit u of the forward or backward sequence under LOOPED. -/
def loopUnit (n v u : Nat) (back : Bool) : Nat × Nat :=
  let g := u / (n * v)
  let r := u % (n * v)
  (g * n + r % n, if back then v - 1 - r / n else r / n)

/-- The order of F (0) and B (1) phases as (phase, micro-batch, virtual stage). -/
def pseOrder (s : State) (r m : Nat) : List (Nat × Nat × Nat) :=
  let n := pseN s r
  let v := pseV s r
  let i := psePhys s r
  if pseSched s r = 1 then
    let t := v * m
    let w := min (2 * (n - 1 - i) + (v - 1) * n) t
    (upTo w).map (fun u => (0, loopUnit n v u false)) ++
      (upTo t).flatMap (fun j =>
        (if w + j < t then [(0, loopUnit n v (w + j) false)] else []) ++ [(1, loopUnit n v j true)])
  else
    let w := min (n - 1 - i) m
    (upTo w).map (fun j => (0, j, 0)) ++
      (upTo m).flatMap (fun j => (if w + j < m then [(0, w + j, 0)] else []) ++ [(1, j, 0)])

/-! ### Version slots (R235 to R238) -/

def slotAt (p : Pse) (n : Nat) : VSlot := mapGet {} p.slots n
def setSlot (p : Pse) (n : Nat) (x : VSlot) : Pse := { p with slots := mapPut {} p.slots n x }
def slotsUsed (p : Pse) : List Nat := (upTo 4).filter (fun n => (slotAt p n).st != 0)
def vslotFree (p : Pse) : Option Nat := (upTo 4).find? (fun n => (slotAt p n).st == 0)
/-- The newest slot in use. -/
def newestSlot (p : Pse) : Option Nat := argMin (fun n => 2 ^ 64 - (slotAt p n).last) (slotsUsed p)
/-- The slot whose tag range holds a tag. -/
def slotOfTag (p : Pse) (t : Nat) : Option Nat :=
  (slotsUsed p).find? (fun n => decide ((slotAt p n).first ≤ t) && decide (t ≤ (slotAt p n).last))
def vslotAddr (s : State) (r n : Nat) : Nat := reg s (pgPse r) (0x180 + 0x20 * n)

/-- The floor of R237. -/
def pseFloor (p : Pse) : Option Nat :=
  match p.cur with
  | some c => c.r
  | none => p.floor

/-- Slots below the floor that nothing reads become FREE (R237). -/
def sweepSlots (p : Pse) : Pse :=
  match pseFloor p with
  | none => p
  | some fl =>
    let newest := newestSlot p
    (upTo 4).foldl (fun p n =>
      let x := slotAt p n
      if x.st = 2 ∧ x.ref = 0 ∧ x.last < fl ∧ newest ≠ some n then setSlot p n {} else p) p

/-- R of R236, once a first tag is known (R239). -/
def fixR (p : Pse) : Pse :=
  match p.cur, p.firstTag with
  | some c, some f =>
    if c.r.isSome then p
    else { p with cur := some { c with r := some (max f (c.num - 1 - c.lag)) } }
  | _, _ => p

/-- TAG is one above the newest tag in use, or nothing has been opened since bind or PSE_ABORT (R235). -/
def openJudge (p : Pse) (tag : Nat) : Bool :=
  p.firstTag.isNone ||
    (match newestSlot p with
     | none => false
     | some n => tag == (slotAt p n).last + 1)

/-- An OPEN takes a FREE slot (R235, R239). -/
def openTake (p : Pse) (n tag : Nat) : Pse :=
  sweepSlots (fixR { setSlot p n { st := 1, first := tag, last := tag } with
    firstTag := some (p.firstTag.getD tag) })

/-- The FILLING slot of a tag. -/
def fillingOf (p : Pse) (tag : Nat) : Option Nat :=
  (upTo 4).find? (fun n => (slotAt p n).st == 1 && (slotAt p n).first == tag)

/-- The slot of a tag becomes PUBLISHED. -/
def publishTake (p : Pse) (n : Nat) : Pse := sweepSlots (setSlot p n { slotAt p n with st := 2 })

/-- EXTEND raises LAST_TAG of the newest slot. -/
def extendTake (p : Pse) (n tag : Nat) : Pse := sweepSlots (setSlot p n { slotAt p n with last := tag })

/-! ### Ends of steps and drains (R237, R241, R242) -/

/-- The running commands of the engine with an operation. -/
def pseCmds (s : State) (r op : Nat) : List RCmd :=
  (engOf s (pgPse r * 2)).running.filter (fun x => x.fin.isNone && x.cmd.op == op)

/-- Every unfinished command with an operation ends. -/
def endCmds (s : State) (r op status : Nat) : State := (pseCmds s r op).foldl (fun s x => finish s x status []) s

/-- The PSE_STEP of a step ends (Table 8-6). -/
def endStep (s : State) (r : Nat) (c : PStep) (status : Nat) : State :=
  match (pseCmds s r 1).find? (fun x => x.cmd.id == c.id) with
  | none => s
  | some x => finish s x status (leBytes 8 (s.time - c.t0) ++ leBytes 2 c.closed)

/-- A draining stage is DRAINED: its PSE_DRAIN commands end, with the event of R242. -/
def becomeDrained (s : State) (r : Nat) : State :=
  let s := setPse s r { pseOf s r with st := 3 }
  raiseEvt (endCmds s r 3 stOK) (pgPse r) 0 [pseJob s r] 0 []

/-- An arrived input waits for its phase. -/
def inputWaits (p : Pse) : Bool :=
  !p.early.isEmpty || p.recs.any (fun e => (e.2.act != 0 && e.2.f == 0) || (e.2.garr && e.2.b == 0))

/-- A failed step ends when no phase is in flight; its records are kept (R241). -/
def settleFail (s : State) (r : Nat) : State :=
  let p := pseOf s r
  match p.cur with
  | none => s
  | some c =>
    if p.failed = true ∧ p.inflight = [] ∧ c.ended = false then
      let s := endStep s r c p.failStatus
      let s := setPse s r { pseOf s r with st := 3, cur := some { c with ended := true } }
      if p.st = 2 then becomeDrained s r else s
    else s

/-- A step whose records are all closed ends with OK (R241, R242). -/
def settleStep (s : State) (r : Nat) : State :=
  let p := pseOf s r
  match p.cur with
  | none => s
  | some c =>
    if c.ended = false ∧ p.failed = false ∧ c.closed = c.nmb * pseV s r then
      let s := endStep s r c stOK
      let p := { pseOf s r with cur := none, recs := [], floor := c.r.map (· + 1) }
      let s := setPse s r (sweepSlots p)
      if p.st = 2 then becomeDrained s r
      else if p.wait.isSome then s
      else setPse s r { pseOf s r with st := 0 }
    else s

/-- A draining stage with nothing open, in flight or arrived is DRAINED (R242). -/
def settleDrain (s : State) (r : Nat) : State :=
  let p := pseOf s r
  if p.st = 2 ∧ p.failed = false ∧ p.inflight = [] ∧ openRecs p = 0 ∧ inputWaits p = false then becomeDrained s r
  else s

/-- No run of the stage remains in the UPF, and the UPS holds no notice of it (R244). -/
def upfQuiet (s : State) (r : Nat) : Bool :=
  (upfOf s r).run.isNone && !((engOf s (pgUpf r * 2)).running.any (fun x => x.fin.isNone)) &&
    !(s.notices.any (fun n => n.region == r))

/-- An abort frees the slots and ends once the UPF and the UPS are done with the stage (R243, R244). -/
def settleAbort (s : State) (r : Nat) : State :=
  let p := pseOf s r
  if p.aborting && upfQuiet s r then
    endCmds (setPse s r { p with aborting := false, slots := [], firstTag := none, floor := none }) r 5 stOK
  else s

/-- What follows from a change of the engine's state. -/
def pseSettle (s : State) (r : Nat) : State := settleAbort (settleDrain (settleStep (settleFail s r) r) r) r

/-- FAILED is set with a status, and nothing further is dispatched (R224, R229, R249); an engine that has no step admitted
keeps it for the next one. -/
def pseFail (s : State) (r status : Nat) : State :=
  let p := pseOf s r
  pseSettle (setPse s r { p with failed := true, failStatus := if p.failed then p.failStatus else status }) r

/-! ### Transfers (R219 to R224) -/

/-- What a stage message carries (R220, R222 to R224): its kind (0 transfer, 1 credit return, 2 report of an arrival, 3 a
transfer has failed), whether it goes down the pipeline, the peer region, the micro-batch, the virtual stage at the receiver,
the byte count, and the running count of a credit return. -/
structure StageMsg where
  kind : Nat
  mb : Nat := 0
  v : Nat := 0
  bytes : Nat := 0
  count : Nat := 0
deriving DecidableEq, Repr

/-- The header of a stage message in a P link's direction. -/
def stageHead (down : Bool) (peer : Nat) (m : StageMsg) : List Byte :=
  leBytes 1 (m.kind + 16 * b2n down) ++ leBytes 1 m.v ++ leBytes 2 m.mb ++ leBytes 4 m.bytes ++ leBytes 4 m.count ++
    leBytes 1 peer

/-- A stage message toward a P link's partner (R219); a LOCAL link takes none. -/
def stageSend (s : State) (r : Nat) (down : Bool) (m : StageMsg) (bs : List Byte) : State :=
  let l := pseLink s r down
  let k := linkKind l
  if k = 2 ∨ k = 3 then sendMsgVia s k 2 (neighbour s (ownCoord s) k) (stageHead down (linkPeer l) m) bs else s

/-- A credit return leaves if the count has changed (R223). -/
def creditSend (s : State) (r old : Nat) : State :=
  let n := (pseOf s r).freed
  if n = old then s else stageSend s r false { kind := 1, count := n } []

/-- Both ends of a link fail because a transfer's data cannot be had (R224): the sender with the failing address, the
receiver, which is told, alone. -/
def xferFail (s : State) (r : Nat) (down : Bool) (addr : Nat) : State :=
  let job := pseJob s r
  let s := raiseErr (bump s (pgPse r) 7 1) (pgPse r) 10 { addr := addr, status := stUncorr, fn := job } [job] []
  let s := stageSend (pseFail s r stUncorr) r down { kind := 3 } []
  let l := pseLink s r down
  if linkKind l = 1 ∧ linkPeer l ≠ r then pseFail s (linkPeer l) stUncorr else s

/-- A transfer whose source meets an uncorrectable error (R224). -/
def xferUncorr (s : State) (r : Nat) (down : Bool) (addr : Nat) : State :=
  xferFail (uncorrFab s addr (pseJob s r) false) r down addr

/-- A LOCAL link crosses the CD0-CD1 bridge, whose message role has lost its last good bundle (R22, R465). -/
def linkCut (s : State) (r : Nat) (down : Bool) : Bool :=
  let l := pseLink s r down
  bit s.cutRoles 1 && linkKind l == 1 && linkPeer l / 16 != r / 16

/-- A transfer starts: its source is read (R224). -/
def startXfer (s : State) (r : Nat) (down : Bool) (x : Xfer) : State :=
  let a := bufAddr s r (if down then 2 else 3) x.buf
  if linkCut s r down then xferFail s r down a
  else match fabBad s a x.bytes with
  | some g => xferUncorr s r down g
  | none =>
    let p := pseOf s r
    let s := setPse s r (if down then { p with outF := p.outF ++ [x] } else { p with outB := p.outB ++ [x] })
    stageSend s r down { kind := 0, mb := x.mb, v := x.dv, bytes := x.bytes } (rdMem s a x.bytes)

/-- Forward transfers start in order while a credit and a GRAD_IN buffer are both there (R221). -/
def startFwd : Nat → State → Nat → State
  | 0, s, _ => s
  | fuel + 1, s, r =>
    let p := pseOf s r
    match p.fwdWait with
    | [] => s
    | x :: xs =>
      match freeBufOf s r p 1 with
      | none => s
      | some g =>
        if p.rxTotal ≤ p.taken then s
        else
          let rec' := { recOf p x.mb x.v with grad := g + 1 }
          let s := setPse s r { hold (setRec p x.mb x.v rec') 1 g with fwdWait := xs, taken := p.taken + 1 }
          startFwd fuel (startXfer s r true x) r

/-- Virtual stage of the receiver of a transfer (R218). -/
def nextV (s : State) (r v : Nat) (down : Bool) : Nat :=
  if down then (if psePhys s r + 1 = pseN s r then v + 1 else v)
  else (if psePhys s r = 0 then v - 1 else v)

/-- A record closes (Table 8-3). -/
def closeRec (p : Pse) (mb v : Nat) : Pse :=
  let x := recOf p mb v
  let p := if x.act = 0 then p else { unhold p 0 (x.act - 1) with freed := p.freed + 1 }
  let p := if x.grad = 0 then p else unhold p 1 (x.grad - 1)
  let sl := slotAt p x.slot
  let p := setSlot p x.slot { sl with ref := sl.ref - 1 }
  let p := setRec p mb v { x with closed := true, act := 0, grad := 0, garr := false }
  sweepSlots { p with cur := p.cur.map (fun c => { c with closed := c.closed + 1 }) }

/-! ### Dispatch (R228, R230 to R232, R242) -/

/-- Table 8-4 without the version rule. -/
def phaseReady (s : State) (r : Nat) (p : Pse) (x : Nat × Nat × Nat) : Bool :=
  let rc := recOf p x.2.1 x.2.2
  let l := pseL s r x.2.2
  let last := l + 1 == pseNL s r
  if x.1 = 0 then (l == 0 || rc.act != 0) && (last || (freeBufOf s r p 2).isSome)
  else (if last then rc.f == 2 else rc.garr) && (l == 0 || (freeBufOf s r p 3).isSome)

/-- The slot of the step's read tag is PUBLISHED (R238). -/
def versionReady (p : Pse) : Bool :=
  match p.cur with
  | none => false
  | some c =>
    match c.r with
    | none => false
    | some t =>
      match slotOfTag p t with
      | none => false
      | some n => (slotAt p n).st == 2

def undispatched (p : Pse) (x : Nat × Nat × Nat) : Bool :=
  let rc := recOf p x.2.1 x.2.2
  if x.1 = 0 then rc.f == 0 else rc.b == 0

/-- A draining stage passes the phase over (R242). -/
def passedOver (s : State) (r : Nat) (p : Pse) (x : Nat × Nat × Nat) : Bool :=
  let rc := recOf p x.2.1 x.2.2
  rc.f == 0 && (x.1 != 0 || pseL s r x.2.2 == 0 || rc.act == 0)

/-- The most records of the stage that are open at once (R231 to R233). -/
def openMax (s : State) (r m : Nat) : Nat :=
  let n := pseN s r
  let v := pseV s r
  let i := psePhys s r
  match pseSched s r with
  | 1 => min (2 * (n - 1 - i) + (v - 1) * n) (v * m) + 1
  | 2 => n - i + regF s (pgPse r) 0x118 8 8
  | _ => n - i

/-- The phase opens no record beyond the schedule's limit; the limit holds while a stage drains, too. -/
def openRoom (s : State) (r : Nat) (p : Pse) (m : Nat) (x : Nat × Nat × Nat) : Bool :=
  x.1 != 0 || decide (openRecs p < openMax s r m)

/-- Records whose W is pending, lowest micro-batch first (R232). -/
def wPending (s : State) (r : Nat) (p : Pse) : List Nat :=
  if pseSched s r = 2 then (p.recs.filter (fun e => e.2.b == 2 && e.2.w == 0 && !e.2.closed)).map (fun e => e.1 % 4096)
  else []

/-- The W that may be dispatched next: W phases go in ascending micro-batch order, so the lowest one pending waits for a
lower record that is open and whose B is not done (R232). -/
def wNext (p : Pse) (pending : List Nat) : Option (Nat × Nat × Nat) :=
  match pending.head? with
  | none => none
  | some m =>
    if p.recs.any (fun e => decide (e.1 % 4096 < m) && e.2.f != 0 && !e.2.closed && e.2.w == 0) then none
    else some (2, m, 0)

/-- The work ring's next entry belongs to a phase in flight (R228). -/
def ringHeld (p : Pse) : Bool := p.inflight.any (fun f => f.wid % 64 == p.wid % 64)

/-- The phase that the engine dispatches next, if any is ready. -/
def nextPhase (s : State) (r : Nat) : Option (Nat × Nat × Nat) :=
  let p := pseOf s r
  match p.cur with
  | none => none
  | some c =>
    if p.failed = true ∨ c.ended = true ∨ bits (pseCfg s r) 29 7 ≤ p.inflight.length ∨ ringHeld p = true ∨
        (p.st ≠ 1 ∧ p.st ≠ 2) then none
    else
      let todo := (pseOrder s r c.nmb).filter (undispatched p)
      let ok (x : Nat × Nat × Nat) : Bool :=
        phaseReady s r p x && openRoom s r p c.nmb x && (x.1 != 0 || versionReady p)
      let w := wPending s r p
      let wPhase := wNext p w
      if p.st = 2 then
        if regF s (pgPse r) 0x118 8 8 ≤ w.length ∧ w ≠ [] then wPhase
        else
          match todo.find? (fun x => !(passedOver s r p x) && ok x) with
          | some x => some x
          | none => wPhase
      else if regF s (pgPse r) 0x118 8 8 ≤ w.length ∧ w ≠ [] then wPhase
      else
        match todo with
        | x :: _ => if ok x then some x else wPhase
        | [] => if c.bd = c.nmb then wPhase else none

/-- The 64 bytes of a work entry (Table 8-2). -/
def workEntry (mb ph v slot wid step tag weights inA saved out seg : Nat) : List Byte :=
  leBytes 2 mb ++ leBytes 1 (ph + 4 * v) ++ leBytes 1 slot ++ leBytes 4 wid ++ leBytes 8 step ++ leBytes 8 tag ++
    leBytes 8 weights ++ leBytes 8 inA ++ leBytes 8 saved ++ leBytes 8 out ++ leBytes 8 seg

/-- Address of a record's buffer, given plus one; 0 where there is none. -/
def bufOr0 (s : State) (r q b1 : Nat) : Nat := if b1 = 0 then 0 else bufAddr s r q (b1 - 1)

/-- A phase is dispatched: buffers, slot, work entry, counter (R226, R227, R236). -/
def dispatchPhase (s : State) (r : Nat) (c : PStep) (x : Nat × Nat × Nat) (seg : Nat) : State :=
  let p := pseOf s r
  let ph := x.1
  let mb := x.2.1
  let v := x.2.2
  let rc := recOf p mb v
  let l := pseL s r v
  let q := if ph = 0 then 2 else 3
  let wantBuf := (ph == 0 && l + 1 != pseNL s r) || (ph == 1 && l != 0)
  let ob := if wantBuf then (freeBufOf s r p q).map (· + 1) else none
  let b1 := ob.getD 0
  let t := c.r.getD 0
  let sl := if ph = 0 then (slotOfTag p t).getD 0 else rc.slot
  let rc := match ph with
    | 0 => { rc with f := 1, slot := sl, tag := t }
    | 1 => { rc with b := 1 }
    | _ => { rc with w := 1 }
  let p := if b1 = 0 then p else hold p q (b1 - 1)
  let p := if ph = 0 then setSlot p sl { slotAt p sl with ref := (slotAt p sl).ref + 1 } else p
  let p := { setRec p mb v rc with
    wid := (p.wid + 1) % 2 ^ 32
    inflight := p.inflight ++ [{ wid := p.wid, ph := ph, mb := mb, v := v, buf := b1 }] }
  let wid := (pseOf s r).wid
  let cfg := pseCfg s r
  let leader := 64 * r + bits cfg 8 6
  let act := bufOr0 s r 0 rc.act
  let grad := bufOr0 s r 1 rc.grad
  let e := workEntry mb ph v sl wid c.num rc.tag (vslotAddr s r sl) (if ph = 0 then act else grad)
    (if ph = 0 then 0 else act) (bufOr0 s r q b1) seg
  let s := wrMem (setPse s r p) (spScratch leader + bits cfg 20 9 * 4096 + 64 * (wid % 64)) e
  let ctx := bits cfg 14 2
  let ctr := bits cfg 16 4
  setSync s leader ctx ctr (syncCtr s leader ctx ctr + 1)

/-- PSE_PHASE_DISPATCH: the next ready phase is dispatched, or its segment-table entry fails (R230, R249);
nothing while pre-emption has saved the work ring (R424). -/
def opPhaseDispatch (s : State) (r : Nat) : State :=
  if scratchSaved s (64 * r + bits (pseCfg s r) 8 6) (bits (pseCfg s r) 20 9 * 4096) 4096 then s
  else
  match nextPhase s r, (pseOf s r).cur with
  | some x, some c =>
    if c.seg = 0 then dispatchPhase s r c x 0
    else
      match fabBad s (c.seg + 8 * x.2.1) 8 with
      | none => dispatchPhase s r c x (rdNum s (c.seg + 8 * x.2.1) 8)
      | some g =>
        let job := pseJob s r
        let s := raiseErr (uncorrFab s g job false) (pgPse r) 10 { addr := g, status := stUncorr, fn := job } [job] []
        pseFail s r stUncorr
  | _, _ => s

/-! ### PSE_STEP (R217, R241, R248) -/

/-- The job has the core's pages (R42, R217). -/
def jobHasCore (s : State) (job core : Nat) : Bool :=
  bit (reg s (pgJob job) (0x200 + 8 * (core / 64))) (core % 64) || bit (reg s (pgJob job) 0x148) (core / 64)

/-- R57 steps 3 and 4 for the PSE page, as far as they do not depend on the engine's state (R247, R248). -/
def chkPse (s : State) (c : QCmd) : Option Nat :=
  let r := cmdInst c
  let form := match c.op with
    | 1 => bits (bf c 26 1) 2 6 == 0 && bz c 27 5 && bz c 40 16
    | 2 => bz c 25 31
    | 6 => bz c 24 32
    | 7 => bits (bf c 24 1) 1 7 == 0 && bz c 25 31
    | _ => bz c 16 40
  formThen (form && syncFmt c true)
    (pseValid s r && (if c.fn = 0 then c.op == 3 || c.op == 4 || c.op == 5 else c.job == pseJob s r))

/-- The read tag of a step lies below the tags of every slot in use (R236, R238). -/
def readsBelow (p : Pse) (num lag : Nat) : Bool :=
  match p.firstTag with
  | none => false
  | some f =>
    !(slotsUsed p).isEmpty && (slotsUsed p).all (fun k => decide (max f (num - 1 - lag) < (slotAt p k).first))

/-- The FORMAT_ERROR cases of PSE_STEP (R248). -/
def stepForm (s : State) (r : Nat) (c : QCmd) : Bool :=
  let p := pseOf s r
  let num := bf c 16 8
  let nmb := bf c 24 2
  let lag := bf c 26 1
  let n := pseN s r
  let v := pseV s r
  let i := psePhys s r
  let sch := pseSched s r
  let up := i != 0 || v != 1
  let down := decide (i + 1 < n) || v != 1
  within nmb 1 4096 && decide (nmb * v ≤ 4096) && bf c 32 8 % 8 == 0 &&
    within n 1 4096 && decide (i < n) && decide (n * v ≤ 4096) &&
    (if sch = 1 then decide (2 ≤ v) && nmb % n == 0 else sch != 3 && v == 1) &&
    (!up || (linkKind (pseLink s r false) != 0 && poolCount s r 0 != 0)) &&
    (!down || (linkKind (pseLink s r true) != 0 && poolCount s r 1 != 0)) &&
    p.wait.isNone &&
    (match p.lastNum with
     | none => true
     | some l => num == (l + 1) % 2 ^ 64) &&
    !(readsBelow p num lag)

/-- The ACCESS_VIOLATION cases of PSE_STEP (R217, R248). -/
def stepAccess (s : State) (r : Nat) (c : QCmd) : Bool :=
  let job := pseJob s r
  let cfg := pseCfg s r
  let leader := 64 * r + bits cfg 8 6
  let ctx := bits cfg 14 2
  (upTo 4).all (fun q => poolCount s r q == 0 || stackedOk s job (poolBase s r q) (poolCount s r q * poolSize s r q)) &&
    (bf c 32 8 == 0 || stackedOk s job (bf c 32 8) (8 * bf c 24 2)) &&
    ctxBound s leader ctx && ctxJob s leader ctx == job && scratchOk s leader ctx (bits cfg 20 9 * 4096) 4096 &&
    (setIdx 64 0 (reg s (pgPse r) 0x108)).all (fun k => jobHasCore s job (64 * r + k))

/-- A step is admitted: its records are fresh, early arrivals join them, and the link is synchronised (R223, R241). -/
def admitStep (s : State) (r : Nat) (c : PStep) : State :=
  let p := pseOf s r
  let fits (e : Nat × Nat × Nat) : Bool := decide (e.1 < c.nmb) && decide (e.2.1 < pseV s r)
  let p := { p with st := 1, cur := some { c with t0 := s.time, r := none }, wait := none, recs := [] }
  let p := (p.early.filter fits).foldl (fun p e => setRec p e.1 e.2.1 { recOf p e.1 e.2.1 with act := e.2.2 + 1 }) p
  let p := { p with early := p.early.filter (fun e => !(fits e)) }
  let p := if p.synced then p else { p with synced := true, freed := poolCount s r 0 }
  let old := (pseOf s r).freed
  let first := !(pseOf s r).synced
  let s := setPse s r (sweepSlots (fixR p))
  let s :=
    if first && (psePhys s r != 0 || pseV s r != 1) then
      stageSend s r false { kind := 1, count := (pseOf s r).freed } []
    else creditSend s r old
  settleFail s r

/-- A step that waited is admitted; where the slots that it would read are gone by then, its PSE_STEP completes with
FORMAT_ERROR instead and its number stays free (R238). -/
def admitWaiting (s : State) (r : Nat) (c : PStep) : State :=
  let p := pseOf s r
  if readsBelow p c.num c.lag then
    let s := setPse s r { p with
      wait := none, st := 0, lastNum := if c.first then none else some ((c.num + 2 ^ 64 - 1) % 2 ^ 64) }
    match (pseCmds s r 1).find? (fun x => x.cmd.id == c.id) with
    | none => s
    | some x => finish s x stFormat []
  else admitStep s r c

/-- The PSE_STEP that has been started and is not yet judged. -/
def opStep (s : State) (r : Nat) : State :=
  match engRun s (pgPse r * 2) (fun x => x.cmd.op == 1 && x.prog == 0) with
  | none => s
  | some x =>
    let c := x.cmd
    match formThen (stepForm s r c) (stepAccess s r c) with
    | some st => finish s x st []
    | none =>
      let p := pseOf s r
      let ent : PStep :=
        { num := bf c 16 8, nmb := bf c 24 2, lag := bf c 26 1, seg := bf c 32 8, id := c.id, first := p.lastNum.isNone }
      let s := setRun s (pgPse r * 2) { x with prog := 1 }
      let s := setPse s r { p with lastNum := some ent.num }
      if p.st = 0 ∧ p.cur = none then admitStep s r ent
      else setPse s r { pseOf s r with wait := some ent }

/-- PSE_STEP_ADMIT: the step that waits is admitted once the engine runs none (R241). -/
def opStepAdmit (s : State) (r : Nat) : State :=
  let p := pseOf s r
  match p.wait with
  | some c => if p.cur = none ∧ p.st ≤ 1 then admitWaiting s r c else s
  | none => s

/-! ### PSE_DONE (R229) -/

/-- Effect of PSE_DONE with OK (Table 8-3). -/
def phaseDone (s : State) (r : Nat) (f : PFlight) (bytes : Nat) : State :=
  let p := pseOf s r
  let l := pseL s r f.v
  let rc := recOf p f.mb f.v
  let cnt (g : PStep → PStep) (p : Pse) : Pse := { p with cur := p.cur.map g }
  let x : Xfer := { mb := f.mb, v := f.v, dv := 0, bytes := bytes, buf := f.buf - 1 }
  match f.ph with
  | 0 =>
    let p := cnt (fun c => { c with fd := c.fd + 1 }) (setRec p f.mb f.v { rc with f := 2 })
    if l + 1 = pseNL s r then setPse s r p
    else
      let s := setPse s r { p with fwdWait := p.fwdWait ++ [{ x with dv := nextV s r f.v true }] }
      startFwd (p.fwdWait.length + 1) s r
  | 1 =>
    let p := cnt (fun c => { c with bd := c.bd + 1 }) (setRec p f.mb f.v { rc with b := 2 })
    let p := if pseSched s r = 2 then p else closeRec p f.mb f.v
    let s := setPse s r p
    let s := if l = 0 then s else startXfer s r false { x with dv := nextV s r f.v false }
    startFwd (pseOf s r).fwdWait.length s r
  | _ =>
    let p := cnt (fun c => { c with wd := c.wd + 1 }) (setRec p f.mb f.v { rc with w := 2 })
    let s := setPse s r (closeRec p f.mb f.v)
    startFwd (pseOf s r).fwdWait.length s r

/-- The PSE_DONE that runs takes effect. -/
def opDone (s : State) (r : Nat) : State :=
  match runOp s (pgPse r) 2 with
  | none => s
  | some x =>
    let c := x.cmd
    let wid := bf c 16 4
    let p := pseOf s r
    match p.inflight.find? (fun f => f.wid == wid) with
    | none => finish s x stFormat []
    | some f =>
      if f.buf ≠ 0 ∧ poolSize s r (if f.ph = 0 then 2 else 3) < bf c 20 4 then finish s x stFormat []
      else
        let s := setPse s r { p with inflight := p.inflight.filter (fun g => g.wid != wid) }
        let s := finish s x stOK []
        if bf c 24 1 = stOK then pseSettle (creditSend (phaseDone s r f (bf c 20 4)) r p.freed) r
        else
          let s := raiseErr (bump s (pgPse r) 6 1) (pgPse r) 9
            { status := bf c 24 1, fn := c.fn, detail := wid } [] []
          pseFail s r (bf c 24 1)

/-! ### PSE_DRAIN, PSE_RESUME, PSE_ABORT (R242 to R245) -/

/-- A RUNNING stage starts to drain. -/
def drainStage (s : State) (r : Nat) : State :=
  let p := pseOf s r
  if p.st = 1 then pseSettle (setPse s r { p with st := 2 }) r else s

/-- The PSE_DRAIN that has been started takes effect. -/
def opDrainPse (s : State) (r : Nat) : State :=
  match engRun s (pgPse r * 2) (fun x => x.cmd.op == 3 && x.prog == 0) with
  | none => s
  | some x =>
    let p := pseOf s r
    if p.st = 0 ∨ p.st = 3 then finish s x stOK []
    else drainStage (setRun s (pgPse r * 2) { x with prog := 1 }) r

/-- The PSE_RESUME that runs takes effect. -/
def opResume (s : State) (r : Nat) : State :=
  match runOp s (pgPse r) 4 with
  | none => s
  | some x =>
    let p := pseOf s r
    if p.st ≠ 3 ∨ p.failed = true then finish s x stFormat []
    else
      let s := finish s x stOK []
      match p.cur, p.wait with
      | some _, _ => setPse s r { p with st := 1 }
      | none, some c => admitWaiting s r c
      | none, none => setPse s r { p with st := 0 }

/-- An abort deals with the update runs (R244): those that have not reached their update pass end, and no comparison is
waited for. -/
def abortRuns (s : State) (r : Nat) : State :=
  let u := upfOf s r
  let busy := match u.run with
    | some x => if x.pass = 2 then some x.id else none
    | none => none
  let e := pgUpf r * 2
  let s := finishQueued s e (fun _ => true) stPreempted
  let s := ((engOf s e).running.filter (fun x => x.fin.isNone && some x.cmd.id != busy)).foldl
    (fun s x => finish s x stPreempted []) s
  let g : Dig := mapGet {} s.digs r
  setUpf { s with digs := mapPut {} s.digs r { g with sent := [] } } r { u with
    pubs := [], newest := none, barred := []
    run := match u.run with
      | some x => if x.pass = 2 then some { x with noPub := true } else none
      | none => none }

/-- PSE_ABORT's effect (R243). -/
def abortStage (s : State) (r : Nat) : State :=
  let s := endCmds (endCmds s r 1 stPreempted) r 3 stPreempted
  let p := pseOf s r
  let s := setPse s r
    { wid := p.wid, aborting := true, firstTag := p.firstTag, floor := none
      slots := p.slots.map (fun e => (e.1, { e.2 with ref := 0 })) }
  settleAbort (abortRuns s r) r

/-- The PSE_ABORT that runs takes effect. -/
def opAbort (s : State) (r : Nat) : State :=
  match engRun s (pgPse r * 2) (fun x => x.cmd.op == 5 && x.prog == 0) with
  | none => s
  | some x => abortStage (setRun s (pgPse r * 2) { x with prog := 1 }) r

/-! ### Version commands (R235, R248) -/

/-- PSE_VERSION_OPEN: the oldest OPEN that waits takes the lowest-numbered FREE slot. -/
def opVersionOpen (s : State) (r : Nat) : State :=
  match (pseCmds s r 6).head? with
  | none => s
  | some x =>
    let p := pseOf s r
    let tag := bf x.cmd 16 8
    match vslotFree p with
    | none => setRun s (pgPse r * 2) { x with prog := 1 }
    | some n =>
      if openJudge p tag = false then finish s x stFormat []
      else if stackedOk s (pseJob s r) (vslotAddr s r n) 64 = false then finish s x stAccess []
      else finish (setPse s r (openTake p n tag)) x stOK (leBytes 8 n ++ leBytes 8 (vslotAddr s r n))

/-- An OPEN of the tag waits for a slot. -/
def openWaits (s : State) (r tag : Nat) : Bool :=
  (pseCmds s r 6).any (fun x => bf x.cmd 16 8 == tag) ||
    (match (upfOf s r).run with
     | some u => u.pass == 1 && u.step == tag
     | none => false)

/-- PSE_VERSION_PUBLISH: the oldest PUBLISH that need not wait takes effect. -/
def opVersionPublish (s : State) (r : Nat) : State :=
  let p := pseOf s r
  let cs := (pseCmds s r 7).filter (fun x => !(bit (bf x.cmd 24 1) 0))
  match cs.find? (fun x => (fillingOf p (bf x.cmd 16 8)).isSome || !(openWaits s r (bf x.cmd 16 8))) with
  | none => cs.foldl (fun s x => setRun s (pgPse r * 2) { x with prog := 1 }) s
  | some x =>
    match fillingOf p (bf x.cmd 16 8) with
    | none => finish s x stFormat []
    | some n => finish (setPse s r (publishTake p n)) x stOK []

/-- PSE_VERSION_EXTEND: the oldest PUBLISH with EXTEND, once the newest slot is PUBLISHED. -/
def opVersionExtend (s : State) (r : Nat) : State :=
  let p := pseOf s r
  match (pseCmds s r 7).find? (fun x => bit (bf x.cmd 24 1) 0) with
  | none => s
  | some x =>
    match newestSlot p with
    | none => finish s x stFormat []
    | some n =>
      if (slotAt p n).st ≠ 2 then setRun s (pgPse r * 2) { x with prog := 1 }
      else if bf x.cmd 16 8 ≠ (slotAt p n).last + 1 then finish s x stFormat []
      else finish (setPse s r (extendTake p n (bf x.cmd 16 8))) x stOK []

/-! ### Arrivals, reports and credits -/

/-- The transfer of an arrival over a LOCAL link: the first of its direction that has not arrived (R222). -/
def localXfer (s : State) (peer : Nat) (backward : Bool) : Option Xfer :=
  (if backward then (pseOf s peer).outB else (pseOf s peer).outF).find? (fun x => !x.arrived)

/-- Transfers of a list whose micro-batch and receiving virtual stage match are marked arrived. -/
def markArrived (mb dv : Nat) (l : List Xfer) : List Xfer :=
  l.map (fun x => if x.mb = mb ∧ x.dv = dv then { x with arrived := true } else x)

/-- Bytes land in a buffer, if their stage has one for them (R221, R222). -/
def landXfer (s : State) (r : Nat) (backward : Bool) (mb v : Nat) (data : List Byte) : Option State :=
  let p := pseOf s r
  let rc := recOf p mb v
  if backward then
    if rc.grad = 0 ∨ rc.garr = true ∨ rc.closed = true then none
    else
      let a := bufAddr s r 1 (rc.grad - 1)
      match fabBadW s a data.length with
      | some g => some (pseFail (uncorrFab s g (pseJob s r) true) r stUncorr)
      | none => some (wrMem (setPse s r (setRec p mb v { rc with garr := true })) a data)
  else
    match freeBufOf s r p 0 with
    | none => none
    | some b =>
      let a := bufAddr s r 0 b
      match fabBadW s a data.length with
      | some g => some (pseFail (uncorrFab s g (pseJob s r) true) r stUncorr)
      | none =>
        let cur := match p.cur with
          | some c => decide (mb < c.nmb) && decide (v < pseV s r) && rc.f == 0 && rc.act == 0 && !c.ended
          | none => false
        let p := hold p 0 b
        let p := if cur then setRec p mb v { rc with act := b + 1 } else { p with early := p.early ++ [(mb, v, b)] }
        some (wrMem (setPse s r p) a data)

/-- PSE_TRANSFER_ARRIVAL: over a LOCAL link the bytes are those of the peer's send buffer; over a P link they come with
the event. -/
def opArrivalPse (s : State) (r : Nat) (backward : Bool) (mb v : Nat) (data : List Byte) : State :=
  let l := pseLink s r backward
  if pseValid s r = false then s
  else if linkKind l = 1 then
    let peer := linkPeer l
    match localXfer s peer backward with
    | none => s
    | some x =>
      if x.mb ≠ mb ∨ x.dv ≠ v then s
      else if linkCut s r backward then
        let p := pseOf s peer
        let s := setPse s peer
          (if backward then { p with outB := p.outB.filter (· != x) } else { p with outF := p.outF.filter (· != x) })
        xferFail s peer (!backward) (bufAddr s peer (if backward then 3 else 2) x.buf)
      else
        match landXfer s r backward mb v (rdMem s (bufAddr s peer (if backward then 3 else 2) x.buf) x.bytes) with
        | none => s
        | some s =>
          let p := pseOf s peer
          let s := setPse s peer
            (if backward then { p with outB := markArrived mb v p.outB } else { p with outF := markArrived mb v p.outF })
          pseSettle s r
  else if linkKind l = 0 then s
  else
    match landXfer s r backward mb v data with
    | none => s
    | some s => pseSettle (stageSend s r backward { kind := 2, mb := mb, v := v, bytes := data.length } []) r

/-- PSE_ARRIVAL_REPORT: the transfer completes and its send buffer frees (R220). -/
def opReport (s : State) (r : Nat) (backward : Bool) (mb v : Nat) : State :=
  let p := pseOf s r
  let isLocal := linkKind (pseLink s r (!backward)) == 1
  let l := if backward then p.outB else p.outF
  match l.find? (fun x => x.mb == mb && x.dv == v && (x.arrived || !isLocal)) with
  | none => s
  | some x =>
    if linkCut s r (!backward) then s
    else
    let rest := l.filter (fun y => !(y.mb == mb && y.dv == v))
    let p := unhold (if backward then { p with outB := rest } else { p with outF := rest }) (if backward then 3 else 2) x.buf
    bump (setPse s r p) (pgPse r) (if backward then 5 else 4) 1

/-- PSE_CREDIT_RETURN: the sender's last count, over a LOCAL link one that the peer has sent (R223). -/
def opCreditPse (s : State) (r count : Nat) : State :=
  let l := pseLink s r true
  let p := pseOf s r
  let peer := pseOf s (linkPeer l)
  let sent := linkKind l != 1 ||
    (peer.synced && decide (count ≤ peer.freed) && decide (poolCount s (linkPeer l) 0 ≤ count))
  if pseValid s r && linkKind l != 0 && sent && !(linkCut s r true) then
    startFwd p.fwdWait.length (setPse s r { p with rxTotal := count }) r
  else s

/-! ### Failures (R224) -/

/-- The stage fails because a link's direction is lost. -/
def linkLostStage (s : State) (r : Nat) (down : Bool) : State :=
  let p := pseOf s r
  let n := if down then p.outF.length else p.outB.length
  let s := if n = 0 then s else bump s (pgPse r) 7 n
  let s := raiseErr s (pgPse r) 8 { status := stLinkLost, fn := pseJob s r, detail := b2n down } [] []
  let p := pseOf s r
  pseFail (setPse s r (if down then { p with outF := [] } else { p with outB := [] })) r stLinkLost

/-- Every stage with a step admitted whose link goes through a lost direction fails; directions 2 and 3 are P+ and P−. -/
def dirLostStages (s : State) (dir : Nat) : State :=
  if dir = 2 ∨ dir = 3 then
    (upTo 32).foldl (fun s r =>
      [false, true].foldl (fun s down =>
        let p := pseOf s r
        if linkKind (pseLink s r down) = dir ∧ p.cur.isSome = true ∧ p.cur.any (fun c => c.ended) = false then
          linkLostStage s r down
        else s) s) s
  else s

/-- PSE_TRANSFER_FAILED. -/
def opXferFailed (s : State) (r : Nat) (down linkLost : Bool) (addr : Nat) : State :=
  let p := pseOf s r
  let l := linkKind (pseLink s r down)
  let outs := if down then p.outF else p.outB
  if linkLost then (if (l = 2 ∨ l = 3) ∧ outs ≠ [] then linkLostStage s r down else s)
  else
    let q := if down then 2 else 3
    match outs.find? (fun x => decide (bufAddr s r q x.buf ≤ addr) && decide (addr < bufAddr s r q x.buf + x.bytes)) with
    | some x =>
      let rest := outs.filter (fun y => y != x)
      xferUncorr (setPse s r (if down then { p with outF := rest } else { p with outB := rest })) r down addr
    | none => if l = 2 ∨ l = 3 then pseFail s r stUncorr else s

/-! ### PSE_STAGE_CFG -/

/-- A write to PSE_STAGE_CFG that the guard has let through. -/
def opStageCfg (s : State) (r v : Nat) : State :=
  if (pseOf s r).st ≠ 0 then s
  else
    let old := pseCfg s r
    let v := v &&& 0xFFFFFFFFF
    let v := if within (bits v 29 7) 1 64 then v else setBits v 29 7 (bits old 29 7)
    let s := setReg s (pgPse r) 0x100 v
    if bit v 0 = bit old 0 then s
    else
      settleAbort
        (setUpf (setPse s r { aborting := (pseOf s r).aborting }) r { upfOf s r with newest := none, barred := [] }) r

/-- A function-level reset of the stage's job (R245, R282): as PSE_ABORT, with its runs ended and its notices discarded,
and VALID cleared. -/
def flrStage (s : State) (r : Nat) : State :=
  let s := { s with notices := s.notices.filter (fun n => n.region != r) }
  let e := pgUpf r * 2
  let s := ((engOf s e).running.filter (fun x => x.fin.isNone)).foldl (fun s x => finish s x stPreempted []) s
  let s := finishQueued s e (fun _ => true) stPreempted
  let s := abortStage (setUpf s r {}) r
  setRegF s (pgPse r) 0x100 0 1 0

end Sys2Proof.Machine
end

