-- ==== Sys2Proof/Machine/Upd.lean ====
section
/-! DEFINITION. Update groups, update programs, the fast-tier and slow-tier update engines (R253 to R273, R281, R282). -/
namespace Sys2Proof.Machine

/-! ### Group descriptors (Table 9-2) -/

structure GDesc where
  base : Nat
  entry : Nat
  isG : Bool
  bank : Nat
  rows : Nat
  cols : Nat
  bound : Nat
  w : Nat
  m1 : Nat
  m2 : Nat
  grad : Nat
  sq8 : Nat
  mbox : Nat
deriving DecidableEq, Repr

/-- A descriptor's fields; the slow-tier addresses of class G (R256) become fabric addresses. -/
def gdescOf (b : List Byte) : GDesc :=
  let tier := if bit (num b 7 1) 0 then slowBase else 0
  { base := num b 0 6, entry := num b 6 1, isG := bit (num b 7 1) 0, bank := bits (num b 7 1) 1 2
    rows := num b 8 2, cols := num b 10 2, bound := num b 12 2
    w := tier + num b 16 8, m1 := tier + num b 24 8, m2 := tier + num b 32 8
    grad := num b 40 8, sq8 := num b 48 4, mbox := tier + num b 56 8 }

/-- Elements of a group. -/
def gdElems (d : GDesc) : Nat := d.rows * d.cols

/-- Bytes of a landing area (R311), and of a mailbox slot (R270). -/
def landBytes (d : GDesc) : Nat := 33 * (gdElems d / 32)
def mboxBytes (d : GDesc) : Nat := cdiv (landBytes d) 4096 * 4096

/-- Bytes of the group's SQ8 operand. -/
def sq8Bytes (d : GDesc) : Nat := operandBytes 5 d.rows d.cols (1024 * (d.cols / 32))

/-- The form of a descriptor (R260). -/
def gdescForm (b : List Byte) (runD : Nat) : Bool :=
  let d := gdescOf b
  bits (num b 7 1) 3 5 == 0 && within d.rows 32 65504 && within d.cols 32 65504 && d.rows % 32 == 0 &&
    d.cols % 32 == 0 && decide (d.bound ≤ 0x7F80) && num b 14 2 == 0 && num b 52 4 == 0 && d.w % 64 == 0 &&
    d.m1 % 64 == 0 && d.m2 % 64 == 0 && d.grad % 64 == 0 && d.sq8 % 64 == 0 &&
    (if d.isG then num b 56 8 != 0 && d.mbox % 4096 == 0 && runD != 0 else d.mbox == 0)

/-- The addresses of a descriptor lie in the job's memory (R256, R260). -/
def gdescAccess (s : State) (job : Nat) (d : GDesc) (runD : Nat) : Bool :=
  let n := 2 * gdElems d
  stackedOk s job d.grad (landBytes d) &&
    (if d.isG then
      slowOk s job d.w n && slowOk s job d.m1 n && slowOk s job d.m2 n &&
        slowOk s job d.mbox ((runD + 1) * mboxBytes d)
     else stackedOk s job d.w n && stackedOk s job d.m1 n && stackedOk s job d.m2 n)

/-! ### Update programs (R267 to R269) -/

structure UInstr where
  op : Nat
  d : Nat
  a : Nat
  b : Nat
  c : Nat
  lane : Nat
  sr : Bool
  rsv : Nat
deriving DecidableEq, Repr

def uinstrOf (w : Nat) : UInstr :=
  { op := bits w 26 6, d := bits w 22 4, a := bits w 16 6, b := bits w 10 6, c := bits w 4 6, lane := bits w 2 2
    sr := bit w 1, rsv := bits w 0 1 }

/-- Number of source operands of an opcode (Table 9-6); none for a reserved one. -/
def uOps (op : Nat) : Option Nat :=
  if op = 0 ∨ op = 0x3F then some 0
  else if op = 4 then some 3
  else if op = 1 ∨ op = 2 ∨ op = 3 ∨ op = 5 ∨ op = 8 ∨ op = 9 then some 2
  else if op = 6 ∨ op = 7 ∨ op = 0xA ∨ op = 0xB ∨ op = 0xC ∨ op = 0x10 then some 1
  else none

/-- An operand code is defined, and a v register has been written. -/
def uOperandOk (written : List Nat) (code : Nat) : Bool :=
  if code < 0x10 then written.contains code else decide (code ≤ 0x28)

/-- The opcode writes a v register. -/
def uWrites (op : Nat) : Bool := within op 1 0xC

/-- The rules of R269 for the instruction at `pc`, and on to END. -/
def progOk (prog : List Nat) : Nat → Nat → List Nat → List Nat → List Nat → Bool
  | 0, _, _, _, _ => false
  | fuel + 1, pc, written, lanes, targets =>
    if 255 < pc then false
    else
      let i := uinstrOf (prog.getD pc 0)
      match uOps i.op with
      | none => false
      | some n =>
        let fields := i.rsv == 0 && (i.sr || i.lane == 0) && (!i.sr || within i.op 1 4) &&
          (if n = 0 then i.a == 0 else uOperandOk written i.a) &&
          (if n < 2 then i.b == 0 else uOperandOk written i.b) &&
          (if n < 3 then i.c == 0 else uOperandOk written i.c) &&
          (uWrites i.op || (if i.op = 0x10 then decide (i.d ≤ 2) else i.d == 0)) &&
          !(i.sr && lanes.contains i.lane) && !(i.op == 0x10 && targets.contains i.d)
        if !fields then false
        else if i.op = 0x3F then true
        else
          progOk prog fuel (pc + 1) (if uWrites i.op then i.d :: written else written)
            (if i.sr then i.lane :: lanes else lanes) (if i.op = 0x10 then i.d :: targets else targets)

/-- The inputs of a program for one element (Table 9-5), as FP32 patterns, and what R268 and POWS use. -/
structure UEnv where
  k : List Nat
  c0 : Nat
  c1 : Nat
  g : Nat
  w : Nat
  m1 : Nat
  m2 : Nat
  norm : Nat
  seed : Nat
  step : Nat
  index : Nat
  t0 : Nat
deriving DecidableEq, Repr

def uVal (e : UEnv) (v : List Nat) (code : Nat) : Nat :=
  if code < 0x10 then v.getD code 0
  else if code < 0x20 then e.k.getD (code - 0x10) 0
  else
    match code with
    | 0x20 => e.c0
    | 0x21 => e.c1
    | 0x22 => e.g
    | 0x23 => e.w
    | 0x24 => e.m1
    | 0x25 => e.m2
    | 0x26 => e.norm
    | 0x27 => 0x3F800000
    | _ => 0

/-- Aⁿ with n = STEP − T0 + 1 (Table 9-6). -/
def powsFn (e : UEnv) (a : Nat) : Nat :=
  if e.step + 1 ≤ e.t0 then 0x3F800000
  else if vIsNan (dec32 a) then nan32
  else powPick (Config.powsFn a (e.step + 1 - e.t0)) (dec32 a) (e.step + 1 - e.t0)

/-- The result of an instruction as an FP32 pattern (Table 9-6, R268). -/
def uResult (e : UEnv) (i : UInstr) (a b c : Nat) : Nat :=
  let exact : Val → Nat := fun x =>
    if i.sr then 2 ^ 16 * srBf x (srBits e.seed e.step e.index i.lane) else enc32 x
  match i.op with
  | 0x01 => exact (vAdd (dec32 a) (dec32 b))
  | 0x02 => exact (vAdd (dec32 a) (vNeg (dec32 b)))
  | 0x03 => exact (vMul (dec32 a) (dec32 b))
  | 0x04 => exact (vAdd (vMul (dec32 a) (dec32 b)) (dec32 c))
  | 0x05 => enc32 (vDiv (dec32 a) (dec32 b))
  | 0x06 => fn1 0x14 a
  | 0x07 => fn1 0x15 a
  | 0x08 => max32 a b
  | 0x09 => min32 a b
  | 0x0A => enc32 (vAbs (dec32 a))
  | 0x0B =>
    let v := dec32 a
    if vIsNan v then nan32
    else if vIsZero v then a
    else if vSign v then 0xBF800000 else 0x3F800000
  | _ => powsFn e a

/-- What a program leaves: the stored targets W, M1, M2 as BF16 patterns. -/
structure UOut where
  w : Option Nat := none
  m1 : Option Nat := none
  m2 : Option Nat := none
deriving DecidableEq, Repr

/-- A program runs for one element. -/
def runProg (prog : List Nat) (e : UEnv) : Nat → Nat → List Nat → UOut → UOut
  | 0, _, _, o => o
  | fuel + 1, pc, v, o =>
    let i := uinstrOf (prog.getD pc 0)
    if i.op = 0x3F then o
    else if i.op = 0 then runProg prog e fuel (pc + 1) v o
    else
      let a := uVal e v i.a
      if i.op = 0x10 then
        let x := encBf (dec32 a)
        runProg prog e fuel (pc + 1) v
          (match i.d with
           | 0 => { o with w := some x }
           | 1 => { o with m1 := some x }
           | _ => { o with m2 := some x })
      else runProg prog e fuel (pc + 1) (setIdxL v i.d (uResult e i a (uVal e v i.b) (uVal e v i.c))) o
where
  /-- A list with one member replaced. -/
  setIdxL : List Nat → Nat → Nat → List Nat
  | [], _, _ => []
  | _ :: t, 0, x => x :: t
  | h :: t, n + 1, x => h :: setIdxL t n x

/-- A BF16 pattern that is a NaN or infinite. -/
def bfBad (p : Nat) : Bool := bits p 7 8 == 255

/-! ### Elements, tiles, digests -/

/-- What the passes of a run need besides the memory (R259, R271). -/
structure UCtx where
  seed : Nat
  step : Nat
  c0 : Nat
  c1 : Nat
  consts : List Nat
  t0s : List Nat
  prog : List Nat
deriving DecidableEq, Repr

/-- The reduced gradient of element e in a landing area at `a` (R311). -/
def gradAt (s : State) (a : Nat) (d : GDesc) (e : Nat) : Val :=
  vMul (vInt (sgn 8 (rdNum s (a + e) 1))) (vPow2 ((rdNum s (a + gdElems d + e / 32) 1 : Nat) - 134))

/-- One element of an updated group: state after its stores, with the number of non-finite values stored. -/
def updElem (u : UCtx) (d : GDesc) (norm ga : Nat) (s : State) (e : Nat) : State × Nat :=
  let bf (a : Nat) : Nat := 2 ^ 16 * rdNum s (a + 2 * e) 2
  let env : UEnv :=
    { k := (u.consts.drop (16 * d.bank)).take 16, c0 := u.c0, c1 := u.c1, g := enc32 (gradAt s ga d e), w := bf d.w
      m1 := bf d.m1, m2 := bf d.m2, norm := norm, seed := u.seed, step := u.step, index := d.base + e
      t0 := u.t0s.getD d.bank 0 }
  let o := runProg u.prog env 64 d.entry (List.replicate 16 0) {}
  let put (s : State) (a : Nat) : Option Nat → State
    | none => s
    | some x => wrNum s (a + 2 * e) 2 x
  let cnt : Option Nat → Nat
    | none => 0
    | some x => b2n (bfBad x)
  (put (put (put s d.w o.w) d.m1 o.m1) d.m2 o.m2, cnt o.w + cnt o.m1 + cnt o.m2)

/-- Every element of a group that passes the test is updated. -/
def updElems (u : UCtx) (d : GDesc) (norm ga : Nat) (p : Nat → Bool) (s : State) : State × Nat :=
  (upTo (gdElems d)).foldl (fun a e =>
    if p e then
      let r := updElem u d norm ga a.1 e
      (r.1, a.2 + r.2)
    else a) (s, 0)

/-- The masters of a group are quantised into a slot (R146, R255). -/
def quantise (s : State) (d : GDesc) (slot : Nat) : State :=
  let tr := d.rows / 32
  let tc := d.cols / 32
  let base := slot + d.sq8
  (upTo (tr * tc)).foldl (fun s t =>
    let i := t / tc
    let j := t % tc
    let vals := (upTo 1024).map (fun k =>
      decBf (rdNum s (d.w + 2 * ((32 * i + k / 32) * d.cols + 32 * j + k % 32)) 2))
    let q := sq8Tile vals
    wrNum (wrMem s (base + i * (1024 * tc) + 1024 * j) q.2) (base + tr * (1024 * tc) + t) 1 q.1) s

/-- 2^61 − 1 (R274, R306). -/
def p61 : Nat := 2305843009213693951

/-- The digest of a group (R274). -/
def digestOf (s : State) (d : GDesc) : Nat :=
  ((upTo (gdElems d)).foldl (fun (a : Nat × Nat) e =>
    let x := 2 ^ 32 * rdNum s (d.w + 2 * e) 2 + 2 ^ 16 * rdNum s (d.m1 + 2 * e) 2 + rdNum s (d.m2 + 2 * e) 2
    ((a.1 + x * a.2) % p61, a.2 * 0x0B7E151628AED2A6 % p61)) (0, 0x0B7E151628AED2A6 % p61)).1

/-- Entry j of the digest table (R274). -/
def digEntry (s : State) (r j : Nat) : Nat := reg s (pgDig r) 0x108 + 16 * j

def writeDigest (s : State) (r j d step : Nat) : State := wrMem s (digEntry s r j) (leBytes 8 d ++ leBytes 8 step)

/-- The digest entry is written anew with the digest unchanged. -/
def keepDigest (s : State) (r j step : Nat) : State := wrNum s (digEntry s r j + 8) 8 step

/-- The group's tiles are copied from the previous slot. -/
def copyTiles (s : State) (d : GDesc) (old new : Nat) : State :=
  wrMem s (new + d.sq8) (rdMem s (old + d.sq8) (sq8Bytes d))

/-- Where the master or the moments cannot be read: a failing granule, or a fenced channel (R331). -/
def stateBad (s : State) (d : GDesc) : Option Nat :=
  match fabBad s d.w (2 * gdElems d), fabBad s d.m1 (2 * gdElems d), fabBad s d.m2 (2 * gdElems d) with
  | some g, _, _ => some g
  | _, some g, _ => some g
  | _, _, g => g

/-- A group's masters are quantised into a slot, or nothing of it is written where the slot cannot be written, which the
memory's page logs; the answer says whether it was written. -/
def quantiseTo (s : State) (d : GDesc) (slot job : Nat) : State × Bool :=
  match fabBadW s (slot + d.sq8) (sq8Bytes d) with
  | some g => (uncorrFab s g job true, false)
  | none => (quantise s d slot, true)

/-- A torn group (R281): no element of a failing granule is updated, and which of the others are is not defined, nor are
the tiles of its slot. -/
def tornUpdate (u : UCtx) (d : GDesc) (norm ga slot : Nat) (s : State) : State × Nat :=
  let bad (e : Nat) : Bool :=
    (fabBad s (d.w + 2 * e) 2).isSome || (fabBad s (d.m1 + 2 * e) 2).isSome || (fabBad s (d.m2 + 2 * e) 2).isSome
  let k := s.free
  let r := updElems u d norm ga (fun e => !(bad e) && Config.undefByte k e % 2 == 1) { s with free := k + 1 }
  (undefRows r.1 1 (slot + d.sq8) 0 (sq8Bytes d), r.2)

/-- What became of a group: all of it was written; it is torn by an unreadable word of its state (R281); its working copy
cannot be had or written. -/
inductive Treated where
  | whole
  | torn (g : Nat)
  | lost
deriving DecidableEq, Repr

/-- A group is skipped, or only quantised: its tiles come from the previous slot where there is one (Table 9-5a, R266). -/
def skipGroup (s : State) (r j step slot job : Nat) (prev : Option Nat) (d : GDesc) : State × Treated :=
  match prev with
  | some p =>
    match fabBad s (p + d.sq8) (sq8Bytes d), fabBadW s (slot + d.sq8) (sq8Bytes d) with
    | none, none => (keepDigest (copyTiles s d p slot) r j step, .whole)
    | some g, _ => (undefRows (keepDigest (uncorrFab s g job false) r j step) 1 (slot + d.sq8) 0 (sq8Bytes d), .lost)
    | none, some g => (keepDigest (uncorrFab s g job true) r j step, .lost)
  | none =>
    match stateBad s d with
    | some g => (undefRows s 1 (slot + d.sq8) 0 (sq8Bytes d), .torn g)
    | none =>
      let t := quantiseTo s d slot job
      (writeDigest t.1 r j (digestOf t.1 d) step, if t.2 then .whole else .lost)

/-- A group is updated by its program, quantised, and its digest written (R263, R272); the answer counts the non-finite
values stored. -/
def updGroup (u : UCtx) (r j slot job norm ga : Nat) (d : GDesc) (s : State) : State × Treated × Nat :=
  match stateBad s d with
  | some g => let t := tornUpdate u d norm ga slot s; (t.1, .torn g, t.2)
  | none =>
    let t := updElems u d norm ga (fun _ => true) s
    let q := quantiseTo t.1 d slot job
    (writeDigest q.1 r j (digestOf q.1 d) u.step, if q.2 then .whole else .lost, t.2)

/-! ### R57 steps 3 and 4, and the checks of R260 -/

def chkUpf (s : State) (c : QCmd) : Option Nat :=
  let r := cmdInst c
  formThen
    (bits (bf c 44 1) 2 6 == 0 && bits (bf c 45 1) 2 6 == 0 && bz c 46 2 && syncFmt c true && bf c 32 8 % 64 == 0 &&
      within (bf c 42 2) 1 4096 && decide (bf c 40 2 + bf c 42 2 ≤ 65536))
    (pseValid s r && c.fn != 0 && c.job == pseJob s r)

def ucRun (x : UpfRun) : UCtx :=
  { seed := x.seed, step := x.step, c0 := x.c0, c1 := x.c1, consts := x.consts, t0s := x.t0s, prog := x.prog }
def ucNotice (n : Notice) : UCtx :=
  { seed := n.seed, step := n.step, c0 := n.c0, c1 := n.c1, consts := n.consts, t0s := n.t0s, prog := n.prog }

/-- The run of a UPD_RUN body with its snapshot (R259) and descriptors. -/
def runOf (s : State) (r : Nat) (c : QCmd) : UpfRun :=
  let pg := pgUpf r
  { id := c.id, job := c.job, step := bf c 16 8, seed := bf c 24 8, first := bf c 40 2
    scopeRun := bit (bf c 44 1) 0, init := bit (bf c 44 1) 1, d := bf c 45 1, c0 := bf c 48 4, c1 := bf c 52 4
    consts := (upTo 64).map (fun i => regF s pg (0x100 + 8 * i) 0 32)
    t0s := (upTo 4).map (fun i => reg s pg (0x300 + 8 * i))
    prog := (upTo 256).map (fun i => regF s pg (0x800 + 8 * (i / 2)) (32 * (i % 2)) 32)
    descs := (upTo (bf c 42 2)).map (fun i => rdMem s (bf c 32 8 + 64 * (bf c 40 2 + i)) 64) }

/-- Instructions of a program from `pc` up to its END, at most `fuel` of them. -/
def progLen (prog : List Nat) : Nat → Nat → Nat
  | 0, _ => 0
  | fuel + 1, pc => if (uinstrOf (prog.getD pc 0)).op = 0x3F then 1 else 1 + progLen prog fuel (pc + 1)

/-- A program word that the groups name cannot be read (R260). -/
def progBad (s : State) (r : Nat) (prog : List Nat) (ds : List GDesc) : Bool :=
  ds.any (fun d => (badIn s (spUprog r + 4 * d.entry) (4 * progLen prog 64 d.entry)).isSome)

/-- What R260 finds before a run writes anything; none where the run may go on. -/
def runCheck (s : State) (r : Nat) (c : QCmd) (x : UpfRun) : Option (Nat × Option Nat) :=
  let u := upfOf s r
  let n := x.descs.length
  let tab := bf c 32 8 + 64 * x.first
  let tagOk := x.init ||
    (match u.newest with
     | none => true
     | some k =>
       match newestSlot (pseOf s r) with
       | none => x.step == k + 1
       | some i => x.step == max k (slotAt (pseOf s r) i).last + 1)
  if tagOk = false then some (stFormat, none)
  else if (pseValid s r && stackedOk s x.job tab (64 * n)) = false then some (stAccess, none)
  else
    match fabBad s tab (64 * n) with
    | some g => some (stUncorr, some g)
    | none =>
      let ds := x.descs.map gdescOf
      if progBad s r x.prog ds then some (stUncorr, none)
      else if (x.descs.all (fun b => gdescForm b x.d) && ds.all (fun d => progOk x.prog 64 d.entry [] [] [])) = false then
        some (stFormat, none)
      else if (ds.all (fun d => gdescAccess s x.job d x.d) &&
          stackedOk s x.job (digEntry s r x.first) (16 * n)) = false then some (stAccess, none)
      else none

/-! ### The norm pass (R261, R264) -/

/-- NORM of a group and its decision: 0 update, 1 NONFINITE_SKIPPED, 2 NORM_BOUND_SKIPPED (Table 9-4). -/
def judgeGroup (s : State) (d : GDesc) : Nat × Nat :=
  let gs := (upTo (gdElems d)).map (gradAt s d.grad d)
  let norm := enc32 (vSqrt (vSum (gs.map (fun g => vMul g g))))
  let mark := (upTo (gdElems d / 32)).any (fun b => rdNum s (d.grad + gdElems d + b) 1 == 255)
  if mark || gs.any (fun g => !vFinite g) || norm == inf32 then (1, norm)
  else if 0 < vCmp (dec32 norm) (decBf d.bound) then (2, norm)
  else (0, norm)

/-- The running command of a UPF. -/
def upfCmd (s : State) (r : Nat) : Option RCmd :=
  match (upfOf s r).run with
  | none => none
  | some x => engRun s (pgUpf r * 2) (fun y => y.cmd.id == x.id)

def setUpfRun (s : State) (r : Nat) (x : UpfRun) : State := setUpf s r { upfOf s r with run := some x }

/-- The run ends with a status and leaves the engine. -/
def upfEnd (s : State) (r status : Nat) (result : List Byte) : State :=
  let s := match upfCmd s r with
    | none => s
    | some y => finish s y status result
  pseSettle (setUpf s r { upfOf s r with run := none }) r

/-- The groups of a run that its norm pass skipped: index, decision, NORM. -/
def skips (x : UpfRun) : List (Nat × Nat × Nat) :=
  ((upTo x.decs.length).map (fun i => (x.first + i, (x.decs.getD i (0, 0)).1, (x.decs.getD i (0, 0)).2))).filter
    (fun t => t.2.1 != 0)

/-- UPD_RUN's result (Table 9-3b). -/
def updResult (x : UpfRun) (extended : Bool) : List Byte :=
  let k := skips x
  leBytes 4 (x.descs.length - k.length) ++ leBytes 4 k.length ++
    leBytes 2 (match k with | [] => 0xFFFF | t :: _ => t.1) ++ leBytes 1 (b2n extended) ++ leBytes 5 0

/-- The norm pass is over: SCOPE RUN, the skip log, counters and event (R261, R264). -/
def normEnd (s : State) (r : Nat) (x : UpfRun) : State :=
  let all := if x.decs.any (fun t => t.1 == 1) then 1 else 2
  let x := if x.scopeRun && x.decs.any (fun t => t.1 != 0) then { x with decs := x.decs.map (fun t => (all, t.2)) } else x
  let s := setUpfRun s r { x with pass := 1 }
  match skips x with
  | [] => s
  | t :: ts =>
    let k := t :: ts
    let nf := (k.filter (fun y => y.2.1 == 1)).length
    let nb := (k.filter (fun y => y.2.1 == 2)).length
    let s := setReg s (pgUpf r) 0x328 (t.1 + 2 ^ 16 * (5 + t.2.1) + 2 ^ 32 * t.2.2)
    let s := if nf = 0 then s else bump s (pgUpf r) 4 nf
    let s := if nb = 0 then s else bump s (pgUpf r) 5 nb
    raiseEvt s (pgUpf r) 0 [x.job] (if nf = 0 then stNormBound else stNonfinite)
      (leBytes 8 x.step ++ leBytes 2 t.1 ++ leBytes 2 nf ++ leBytes 2 nb)

/-- The norm pass goes on while the landing areas of its next groups are complete. -/
def normGo : Nat → State → Nat → UpfRun → State
  | 0, s, _, _ => s
  | fuel + 1, s, r, x =>
    let i := x.decs.length
    if x.descs.length ≤ i then normEnd s r x
    else
      let u := upfOf s r
      if u.landed.contains (x.first + i, x.step) then
        let d := gdescOf (x.descs.getD i [])
        match fabBad s d.grad (landBytes d) with
        | some g => upfEnd (uncorrFab s g x.job false) r stUncorr []
        | none =>
          let x := { x with decs := x.decs ++ [judgeGroup s d] }
          let s := setUpf s r { u with
            run := some x, landed := u.landed.filter (fun t => !(t.1 == x.first + i && decide (t.2 ≤ x.step))) }
          normGo fuel s r x
      else s

/-! ### Versions (R262, R266) -/

/-- EXTEND where every group is skipped and the newest slot is PUBLISHED; else OPEN, which may wait for a slot. -/
def versionGo (s : State) (r : Nat) (x : UpfRun) : State :=
  let p := pseOf s r
  let allSkip := !x.init && x.decs.all (fun t => t.1 != 0)
  match (if allSkip then newestSlot p else none) with
  | some n =>
    if (slotAt p n).st = 2 then
      if x.step = (slotAt p n).last + 1 then upfEnd (setPse s r (extendTake p n x.step)) r stOK (updResult x true)
      else upfEnd s r stFormat []
    else openGo s p
  | none => openGo s p
where
  /-- The OPEN of a run. -/
  openGo (s : State) (p : Pse) : State :=
    match vslotFree p with
    | none => s
    | some n =>
      let a := vslotAddr s r n
      let inside := stackedOk s x.job a 64 &&
        (x.descs.map gdescOf).all (fun d => stackedOk s x.job (a + d.sq8) (sq8Bytes d))
      if openJudge p x.step = false then upfEnd s r stFormat []
      else if inside = false then upfEnd s r stAccess []
      else
        let prev := (if x.step = 0 then none else slotOfTag p (x.step - 1)).map (fun k => vslotAddr s r k)
        setUpfRun (setPse s r (openTake p n x.step)) r
          { x with pass := 2, slotAddr := vslotAddr s r n, prevAddr := prev }

/-! ### The update pass (R263, R281) -/

/-- STATE_UNCORRECTABLE (R281). -/
def stateUncorr (s : State) (page g job : Nat) : State :=
  raiseErr (uncorrFab s g job false) page 8 { addr := g, status := stUncorr, fn := job } [job] []

/-- The mailbox slots that hold groups of a notice or a run are free again. -/
def freeBoxes (s : State) (boxes : List Nat) : State :=
  { s with mboxHeld := s.mboxHeld.filter (fun a => !(boxes.contains a)) }

/-- The mailbox slot of a group at a step (R270). -/
def mboxAt (d : GDesc) (step delay : Nat) : Nat := d.mbox + step % (delay + 1) * mboxBytes d

/-- The mailbox slots that the update pass of a run has filled so far. -/
def runBoxes (x : UpfRun) : List Nat :=
  (upTo x.done).filterMap (fun i =>
    let d := gdescOf (x.descs.getD i [])
    if d.isG && !x.init && (x.decs.getD i (0, 0)).1 == 0 then some (mboxAt d x.step x.d) else none)

/-- A comparison of an earlier step is open, or a repair of it: until the repair reads are done no replica may start the
group's next update, and a replica learns only from the comparer's report whether it is a source (R277). DEDUCED
(log 109). -/
def repairOpen (s : State) (r step : Nat) : Bool :=
  (upfOf s r).pubs.any (fun p => decide (p.step < step) && (p.cmp == 1 || !p.repairs.isEmpty))

/-- The run after its group `i` was treated. -/
def treated (x : UpfRun) (i : Nat) : Treated → UpfRun
  | .whole => { x with done := i + 1 }
  | .torn _ => { x with done := i + 1, torn := x.torn ++ [x.first + i], tornN := x.tornN + 1, wasTorn := true }
  | .lost => { x with done := i + 1, wasTorn := true }

/-- The group with index `i` of the run is treated; none while it must wait. -/
def treatGroup (s : State) (r : Nat) (x : UpfRun) (i : Nat) : Option State :=
  let d := gdescOf (x.descs.getD i [])
  let j := x.first + i
  let dec := x.decs.getD i (0, 0)
  let next (s : State) (o : Treated) : State :=
    let s := match o with
      | .torn g => bump (stateUncorr s (pgUpf r) g x.job) (pgUpf r) 7 1
      | _ => s
    setUpfRun s r (treated x i o)
  if d.isG then
    if x.init || dec.1 != 0 then some (next s .whole)
    else
      let a := mboxAt d x.step x.d
      if s.mboxHeld.contains a || tierHolds s then none
      else
        match fabBad s d.grad (landBytes d), fabBadW s a (landBytes d) with
        | some g, _ => some (upfEnd (freeBoxes (uncorrFab s g x.job false) (runBoxes x)) r stUncorr [])
        | none, some g => some (upfEnd (freeBoxes (uncorrFab s g x.job true) (runBoxes x)) r stUncorr [])
        | none, none =>
          some (next (wrMem { s with mboxHeld := setAdd s.mboxHeld a } a (rdMem s d.grad (landBytes d))) .whole)
  else if repairOpen s r x.step then none
  else if x.init || dec.1 != 0 then
    let t := skipGroup s r j x.step x.slotAddr x.job (if x.init then none else x.prevAddr) d
    some (next t.1 t.2)
  else
    let t := updGroup (ucRun x) r j x.slotAddr x.job dec.2 d.grad d s
    some (next (if t.2.2 = 0 then t.1 else bump t.1 (pgUpf r) 6 t.2.2) t.2.1)

/-- The class G groups of a run as its notice carries them (R271). -/
def noticeGroups (x : UpfRun) : List NGroup :=
  ((upTo x.descs.length).map (fun i =>
    ({ idx := x.first + i, desc := x.descs.getD i []
       dec := if x.init then 3 else if (x.decs.getD i (0, 0)).1 = 0 then 0 else 2
       norm := (x.decs.getD i (0, 0)).2 } : NGroup))).filter (fun g => (gdescOf g.desc).isG)

/-- Own d coordinate, and the D length of a job (R275, R391). -/
def ownD (s : State) : Nat := regF s pgTor 0x100 0 6
def jobDLen (s : State) (job : Nat) : Nat :=
  let b := reg s pgTor (0x110 + 8 * job)
  if bit b 48 then bits b 6 6 + 1 else 1

/-- A comparison step of the region's job (R275). -/
def comparisonStep (s : State) (r job step : Nat) : Bool :=
  let i := regF s (pgDig r) 0x100 0 16
  i != 0 && step % i == 0 && decide (2 ≤ jobDLen s job)

/-- This package's DIG is the comparer of its region's job (R275). -/
def isComparer (s : State) (r : Nat) : Bool := regF s (pgDig r) 0x100 16 6 == ownD s

/-- The digests of a step's groups at this replica. -/
def ownDigests (s : State) (r : Nat) (groups : List Nat) : List (Nat × Nat) :=
  groups.map (fun j => (j, rdNum s (digEntry s r j) 8))

/-- What a message of the digest block carries first: its kind (0 digests, 1 agreed, 2 repaired, 3 split, 4 repair request,
5 repair data, 6 a source that cannot read), the region, the job, the sender's d coordinate, a group or a count, and the step. -/
def digHead (s : State) (r kind n step : Nat) : List Byte :=
  leBytes 1 kind ++ leBytes 1 r ++ leBytes 1 (pseJob s r) ++ leBytes 1 (ownD s) ++ leBytes 4 n ++ leBytes 8 step

/-- A message of the digest block goes along the D axis, on the collective virtual channel (R275 to R277). -/
def digSend (s : State) (r dest kind n step : Nat) (bs : List Byte) : State :=
  if dest = ownD s then s else sendMsgTo s 3 (withC (ownCoord s) 0 dest) (digHead s r kind n step) bs

/-- Every digest of the stage for a step is written: they are sent to the comparer (R275). -/
def sendDigests (s : State) (r step : Nat) (groups : List Nat) : State :=
  let g := mapGet {} s.digs r
  let s := digSend s r (regF s (pgDig r) 0x100 16 6) 0 groups.length step
    ((ownDigests s r groups).flatMap (fun e => leBytes 4 e.1 ++ leBytes 8 e.2))
  { s with digs := mapPut {} s.digs r { g with sent := g.sent ++ [{ step := step, at_ := s.time, groups := groups }] } }

/-- The digests of a run leave once its comparison is due and every one of them is written: the UPS is done with the run's
notice, and no torn group waits for its repair (R275, R281). -/
def digestsGo (s : State) (r step : Nat) : State :=
  match (upfOf s r).pubs.find? (fun p => p.step == step && p.cmp == 1 && p.notice == 0 && p.repairs.isEmpty) with
  | none => s
  | some p =>
    if (mapGet {} s.digs r : Dig).sent.any (fun t => t.step == step) then s
    else sendDigests s r step (p.descs.map (·.1))

/-- No update engine of the job publishes the version of a step that ended in SPLIT (R278). -/
def barVersion (s : State) (job step : Nat) : State :=
  ((upTo 32).filter (fun r => pseValid s r && pseJob s r == job)).foldl (fun s r =>
    let u := upfOf s r
    setUpf s r { u with
      barred := setAdd u.barred step
      pubs := u.pubs.map (fun p => if p.step = step then { p with cmp := 3 } else p) }) s

/-- REPLICA_SPLIT with its report fields (R278). -/
def digSplit (s : State) (r step first distinct reported groups : Nat) : State :=
  let job := pseJob s r
  let s := barVersion s job step
  let s := setReg (setReg s (pgDig r) 0x118 (3 + 2 ^ 16 * (groups % 2 ^ 16))) (pgDig r) 0x120 step
  raiseErr (bump s (pgDig r) 2 1) (pgDig r) 8 { status := stSplit, fn := job } [job]
    (leBytes 8 step ++ leBytes 2 first ++ leBytes 1 distinct ++ leBytes 1 reported)

/-- The source of a torn group's repair (R277, R281): the other replicas hold the majority, and the lowest of them is the
source. DEDUCED (log 109). -/
def tornSource (s : State) (job : Nat) : Nat :=
  let lo := bits (reg s pgTor (0x110 + 8 * job)) 0 6
  if lo = ownD s then lo + 1 else lo

/-- Torn groups: their repair is requested at once, or the step is SPLIT where no majority can exist (R281). No digest of a
torn group was reported, and none of the groups has a majority. -/
def tornGroups (s : State) (r job step : Nat) (groups : List Nat) : State :=
  if groups = [] then s
  else if jobDLen s job < 3 then digSplit s r step (groups.headD 0) 0 0 groups.length
  else groups.foldl (fun s j => digSend s r (tornSource s job) 4 j step []) s

/-- The groups of a run with their descriptors. -/
def runDescs (x : UpfRun) : List (Nat × List Byte) :=
  (upTo x.descs.length).map (fun i => (x.first + i, x.descs.getD i []))

/-- The notice of a run (R271). -/
def noticeOf (r : Nat) (x : UpfRun) : Notice :=
  { region := r, job := x.job, step := x.step, seed := x.seed, c0 := x.c0, c1 := x.c1, d := x.d, consts := x.consts
    t0s := x.t0s, prog := x.prog, groups := noticeGroups x, slotAddr := x.slotAddr, prevAddr := x.prevAddr }

/-- The publication that a run leaves pending (R265). -/
def pubOf (s : State) (r : Nat) (x : UpfRun) : PubRun :=
  { step := x.step, notice := b2n (s.notices.any (fun n => n.region == r && n.step == x.step))
    cmp := if (upfOf s r).barred.contains x.step then 3 else b2n (comparisonStep s r x.job x.step)
    repairs := x.late, source := tornSource s x.job, descs := runDescs x }

/-- The run has treated every group: its notice is queued and the repair of its torn groups asked for, it waits for them,
then it completes (R263, R265, R281). -/
def runEnd (s : State) (r : Nat) (x : UpfRun) : State :=
  let ng := noticeGroups x
  if ng ≠ [] ∧ x.noticed = false ∧ 64 ≤ s.notices.length then s
  else
    let s := if x.noticed then s
      else tornGroups (if ng = [] then s else { s with notices := s.notices ++ [noticeOf r x] }) r x.job x.step x.torn
    let x := { x with noticed := true }
    if x.torn ≠ [] ∧ 3 ≤ jobDLen s x.job then setUpfRun s r x
    else
      let u := upfOf s r
      let s := if x.noPub then s else setUpf s r { u with pubs := u.pubs ++ [pubOf s r x] }
      upfEnd (digestsGo s r x.step) r (if x.wasTorn then stUncorr else stOK) (updResult x false)

/-- The update pass goes on. -/
def updatePass : Nat → State → Nat → State
  | 0, s, _ => s
  | fuel + 1, s, r =>
    match (upfOf s r).run with
    | none => s
    | some x =>
      if x.pass ≠ 2 then s
      else if x.descs.length ≤ x.done then runEnd s r x
      else
        match treatGroup s r x x.done with
        | none => s
        | some s => updatePass fuel s r

/-- The run goes on as far as it can. -/
def upfGo (s : State) (r : Nat) : State :=
  match (upfOf s r).run with
  | none => s
  | some x =>
    let s := if x.pass = 0 then normGo (x.descs.length + 1) s r x else s
    match (upfOf s r).run with
    | none => s
    | some x =>
      let s := if x.pass = 1 then versionGo s r x else s
      updatePass 4098 s r

/-- A UPD_RUN that has been started is checked (R260), unless three publications are pending (R265). -/
def updBegin (s : State) (r : Nat) (y : RCmd) : State :=
  let u := upfOf s r
  if 3 ≤ u.pubs.length then s
  else
    let x := runOf s r y.cmd
    match runCheck s r y.cmd x with
    | some (st, none) => finish s y st []
    | some (st, some g) => finish (uncorrFab s g x.job false) y st []
    | none =>
      let s := setRun s (pgUpf r * 2) { y with prog := 1 }
      upfGo (setUpf s r { u with
        run := some { x with pass := b2n x.init }, lastStep := x.step, lastDescs := runDescs x,
        newest := some (match u.newest with | none => x.step | some k => max k x.step) }) r

/-- UPD_RUN and UPD_RUN_INIT: the started command begins, or the run goes on after a wait. -/
def opUpdRun (s : State) (r : Nat) (init : Bool) : State :=
  match engRun s (pgUpf r * 2) (fun y => bit (bf y.cmd 44 1) 1 == init) with
  | none => s
  | some y => if y.prog = 0 then updBegin s r y else upfGo s r

/-- LANDING_COMPLETE: the exchange's report reaches the UPF. -/
def opLanding (s : State) (r group : Nat) : State :=
  match s.landReports.find? (fun t => t.1 == r && t.2.1 == group) with
  | none => s
  | some t =>
    let s := { s with landReports := s.landReports.filter (fun y => y != t) }
    let u := upfOf s r
    upfGo (setUpf s r { u with landed := u.landed ++ [(group, t.2.2)] }) r

/-- UPF_PUBLISH: the oldest pending publication, once R265 allows it. -/
def opUpfPublish (s : State) (r : Nat) : State :=
  let u := upfOf s r
  match u.pubs with
  | [] => s
  | p :: ps =>
    if p.notice = 0 ∧ (p.cmp = 0 ∨ p.cmp = 2) ∧ p.repairs = [] then
      let s := setUpf s r { u with pubs := ps }
      match fillingOf (pseOf s r) p.step with
      | none => s
      | some n => pseSettle (setPse s r (publishTake (pseOf s r) n)) r
    else s

/-! ### The slow-tier update engine (R271, R272) -/

/-- One group of a notice is applied (R272). -/
def applyNGroup (s : State) (n : Notice) (g : NGroup) : State × Treated :=
  let d := gdescOf g.desc
  let r := n.region
  let t : State × Treated :=
    if g.dec = 0 then
      let ga := mboxAt d n.step n.d
      let t := match fabBad s ga (landBytes d) with
        | some b => let t := tornUpdate (ucNotice n) d g.norm ga n.slotAddr s; (t.1, Treated.torn b, t.2)
        | none => updGroup (ucNotice n) r g.idx n.slotAddr n.job g.norm ga d s
      (if t.2.2 = 0 then t.1 else bump t.1 pgUps 3 t.2.2, t.2.1)
    else skipGroup s r g.idx n.step n.slotAddr n.job (if g.dec = 3 then none else n.prevAddr) d
  match t.2 with
  | .torn b => (bump (stateUncorr t.1 pgUps b n.job) pgUps 4 1, t.2)
  | _ => t

/-- Groups of a notice that the UPS found torn: their publication, or the run that has still to leave it pending, waits for
their repair. -/
def noteTorn (s : State) (n : Notice) (torn : List Nat) : State :=
  let u := upfOf s n.region
  if torn = [] then s
  else
    tornGroups (setUpf s n.region { u with
      pubs := u.pubs.map (fun p =>
        if p.step = n.step then { p with repairs := p.repairs ++ torn, source := tornSource s n.job } else p)
      run := u.run.map (fun x => if x.step = n.step then { x with late := x.late ++ torn } else x) })
      n.region n.job n.step torn

/-- UPS_NOTICE_START: the notice at the head of the queue is applied while the slow tier is up, and no repair of one of its
groups is open. -/
def opNoticeStart (s : State) : State :=
  match s.notices with
  | [] => s
  | n :: ns =>
    if n.started = true ∨ s.tierDown = true ∨ s.tierTraining = true ∨ tierHolds s = true ∨ repairOpen s n.region n.step = true
    then s
    else
      let t := n.groups.foldl (fun (a : State × List Nat) g =>
        let x := applyNGroup a.1 n g
        (x.1, match x.2 with | .torn _ => a.2 ++ [g.idx] | _ => a.2)) ({ s with notices := { n with started := true } :: ns }, [])
      noteTorn t.1 n t.2

/-- The mailbox slots that a notice's updated groups fill. -/
def noticeBoxes (n : Notice) : List Nat :=
  (n.groups.filter (fun g => g.dec == 0)).map (fun g => mboxAt (gdescOf g.desc) n.step n.d)

/-- UPS_NOTICE_DONE: the applied notice leaves the queue, its mailbox slots are freed, and the UPF learns of it. -/
def opNoticeDone (s : State) : State :=
  match s.notices with
  | [] => s
  | n :: ns =>
    if n.started = false then s
    else
      let s := freeBoxes { s with notices := ns } (noticeBoxes n)
      let r := n.region
      let u := upfOf s r
      let s := setUpf s r { u with pubs := u.pubs.map (fun p => if p.step = n.step then { p with notice := 0 } else p) }
      pseSettle (digestsGo s r n.step) r

/-- Notices that match are discarded, with the mailbox slots that their groups hold (R282). -/
def dropNotices (s : State) (p : Notice → Bool) : State :=
  freeBoxes { s with notices := s.notices.filter (fun n => !(p n)) } ((s.notices.filter p).flatMap noticeBoxes)

/-- A job's runs end with its function-level reset, with the mailbox slots that a run in its update pass has filled, and
its notices are discarded (R282). -/
def flrUpdates (s : State) (job : Nat) : State :=
  let mine (r : Nat) : Bool := (upfOf s r).run.any (fun x => x.job == job)
  ((upTo 32).filter mine).foldl (fun s r => freeBoxes s (((upfOf s r).run.map runBoxes).getD []))
    (dropNotices s (fun n => n.job == job))

end Sys2Proof.Machine
end

