-- ==== Sys2Proof/Machine/Mem.lean ====
section
/-! DEFINITION. Memory outside the cores (chapter "Stacked memory, slow tier and cluster caches"): interleave, fences and
scrubbing, the CXL.mem window, the drizzle path, cluster-cache windows, GDDR7 ports, traffic generators. -/
namespace Sys2Proof.Machine

/-! ### Regions in use -/

/-- Any job has stacked memory allocated in the region. -/
def regionHasMem (s : State) (r : Nat) : Bool :=
  (upTo 16).any (fun f => bits (reg s (pgJob f) (0x300 + 8 * (r / 4))) (16 * (r % 4)) 16 != 0)

/-- The CXL.mem window covers the region (R325). -/
def windowCovers (s : State) (r : Nat) : Bool :=
  let b := regF s pgCxl 0x100 34 5
  decide (b ≤ r) && decide (r < b + 4)

/-- A traffic generator of the region runs. -/
def tgcRuns (s : State) (r : Nat) : Bool := (upTo 8).any (fun ch => regF s (pgTgc r ch) 0x120 0 2 == 1)

/-! ### MEM registers (R323, R331) -/

/-- Cells and failing sectors of a region move as the interleave changes: each keeps its channel-local address (R322). -/
def rekeyAddr (r g g' a : Nat) : Nat :=
  if fabRegion a = r ∧ a < stackedEnd then
    a - bits a 0 34 + ilvInv g' (ilvCh g (bits a 0 34)) (ilvLocal g (bits a 0 34))
  else a

/-- A write of MEM_ILV. -/
def opMemIlv (s : State) (r ch v : Nat) : State :=
  let gran := bits v 0 2
  if gran = 3 ∨ regionHasMem s r = true ∨ windowCovers s r = true then raiseErr s (pgMem r ch) 11 { write := true, len := 8 } [] []
  else
    let g := ilvG s r
    let s := setReg s (pgMem r 0) 0x100 gran
    let f := rekeyAddr r g (ilvG s r)
    { s with
      mem := s.mem.foldl (fun m c => mapPut 0 m (f c.1) c.2) []
      bad := s.bad.foldl (fun l b => setAdd l (f b)) [] }

/-- A write of MEM_ECC_CFG: a UE_FENCE_COUNT of 0 is ignored; FENCE fences the channel and stays set (R10, R331). -/
def opMemEcc (s : State) (r ch v : Nat) : State :=
  let p := pgMem r ch
  let ue := bits v 8 8
  let old := reg s p 0x108
  let s := setReg s p 0x108
    (bits v 0 8 + 2 ^ 8 * (if ue = 0 then bits old 8 8 else ue) + 2 ^ 16 * b2n (bit v 16 || bit old 16))
  if bit v 16 then fenceChan s p 3 else s

/-! ### Scrubbing and temperature (R328, R329, R337) -/

/-- STACK_SCRUB of a sector. -/
def opStackScrub (s : State) (addr : Nat) (o : Ecc) : State :=
  let a := addr - addr % 32
  let p := memPageOf s a
  if stackedEnd ≤ a ∨ regF s p 0x108 0 8 = 0 ∨ chFenced s (fabRegion a) (chanOf s a) = true then s
  else if s.bad.contains a = true ∨ o = .uncorrectable then uncorrFab (spoil s a) a 0 false
  else if o = .corrected then corrected (bump s p 4 1) p 2 9 a
  else s

/-- HOT of the 32 channels of a stack (R16, R329). -/
def setHot (s : State) (stack v : Nat) : State :=
  if stack < 8 then
    (upTo 32).foldl (fun s i => setRegF s (pgMem (16 * (stack / 4) + 4 * (stack % 4) + i / 8) (i % 8)) 0x110 3 1 v) s
  else s

/-- CLUSTER_CACHE_SCRUB of a 64-bit word. -/
def opCluScrub (s : State) (k off : Nat) (o : Ecc) : State :=
  let a := spClu k + (off - off % 8)
  let p := pgClu k
  if cluBytes ≤ off ∨ 256 ≤ k then s
  else if s.bad.contains a = true ∨ o = .uncorrectable then
    raiseErr (spoil s a) p 8 { addr := off - off % 8, status := stUncorr } (pageOwners s p) []
  else if o = .corrected then corrected s p 3 9 (off - off % 8)
  else s

/-! ### Cluster-cache windows (R338) -/

/-- A write of CLU_WINDOWw. -/
def opCluWindow (s : State) (k w v : Nat) : State :=
  let v := v &&& 0xFF7F001F
  let base := bits v 16 7
  let size := bits v 24 8
  let clash := (upTo 8).any (fun i =>
    let x := reg s (pgClu k) (0x100 + 8 * i)
    i != w && bit x 0 && bits x 1 4 != bits v 1 4 && decide (base < bits x 16 7 + bits x 24 8) &&
      decide (bits x 16 7 < base + size))
  if bit v 0 = true ∧ (clash = true ∨ size = 0 ∨ 128 < base + size) then raiseErr s (pgClu k) 10 { write := true, len := 8 } [] []
  else setReg s (pgClu k) (0x100 + 8 * w) v

/-! ### The CXL.mem window (R325, R471 to R473) -/

/-- Bytes of the window. -/
def windowBytes : Nat := 2 ^ 30 * 64

/-- Fabric address of an offset of the window. -/
def windowAddr (s : State) (off : Nat) : Nat := 2 ^ 34 * regF s pgCxl 0x100 34 5 + off

/-- The HDM decoder lies in the CXL configuration of function 0, which the spec does not lay out and no command writes: a
write of CXL_MEM_BASE tells whether the host has committed it before (DESIGN CHOICE, log 111). -/
def commitHdm (s : State) (committed : Bool) : State := { s with hdm := s.hdm || committed }

/-- CXL_MEM_BASE: values outside the two ranges, and writes while the decoder is committed, are ignored. -/
def opCxlBase (s : State) (v : Nat) : State :=
  let b := bits v 34 5
  if s.hdm = false ∧ (b ≤ 12 ∨ (16 ≤ b ∧ b ≤ 28)) then setReg s pgCxl 0x100 (2 ^ 34 * b) else s

/-- A read of the window: an uncorrectable sector is answered with zeros and the poison indication. S1 serves it as S0 does,
since its CXL link is up; Table 1-8 names CXL.mem for S0 only (DESIGN CHOICE, log 112). -/
def opCxlRead (s : State) (off len : Nat) : State :=
  if s.cxlUp = true ∧ off + len ≤ windowBytes then
    let s := { s with hdm := true }
    let a := windowAddr s off
    match fabBad s a len with
    | some g =>
      let s := uncorrFab s g 0 false
      let s := raiseErr (bump s pgCxl 1 1) pgCxl 8 { addr := off, status := stUncorr } [] []
      { s with reply := { data := List.replicate len 0, poison := true } }
    | none => { s with reply := { data := rdMem s a len } }
  else s

/-- The sectors of 32 bytes that a range touches lose every codeword. -/
def spoilRange : State → Nat → Nat → State
  | s, _, 0 => s
  | s, a, n + 1 => spoilRange (spoil s a) (a + 32) n

/-- A write of the window. Poisoned data is stored as sectors whose check bytes match no codeword; a write of part of an
uncorrectable sector is discarded and logged, as is one to a fenced channel. -/
def opCxlWrite (s : State) (off : Nat) (data : List Byte) (poison : Bool) : State :=
  let n := data.length
  if s.cxlUp = true ∧ off + n ≤ windowBytes ∧ n ≠ 0 then
    let s := { s with hdm := true }
    let a := windowAddr s off
    match fabBadW s a n with
    | some g => uncorrFab s g 0 true
    | none =>
      let s := wrMem s a data
      if poison then spoilRange s (a - a % 32) ((a + n - 1) / 32 - a / 32 + 1) else s
  else s

/-! ### The drizzle path (R333 to R336) -/

structure Drz where
  table : Nat
  idx : Nat
  data : Nat
  count : Nat
  rb : Nat
  stride : Nat
  rows : Nat
deriving DecidableEq, Repr

def drzOf (c : QCmd) : Drz :=
  { table := bf c 16 8, idx := bf c 24 4, data := bf c 28 4, count := bf c 32 2, rb := bf c 34 2, stride := bf c 36 4
    rows := bf c 40 4 }

/-- R57 steps 3 and 4 for the DRZ page of region `r`. -/
def chkDrz (s : State) (r : Nat) (c : QCmd) : Option Nat :=
  let x := drzOf c
  let span := (x.rows - 1) * x.stride + x.rb
  formThen
    (x.table % 32 == 0 && x.idx % 4 == 0 && x.data % 32 == 0 && within x.count 1 16384 && within x.rb 32 2048 &&
      x.rb % 32 == 0 && x.stride % 32 == 0 && decide (x.rb ≤ x.stride) && decide (1 ≤ x.rows) && bz c 44 12 &&
      syncFmt c true)
    (inStacked x.table span && fabRegion x.table == r && fabRegion (x.table + span - 1) == r &&
      stackedOk s c.job x.table span && scratchOk s c.core c.ctx x.idx (4 * x.count) &&
      scratchOk s c.core c.ctx x.data (x.rb * x.count))

/-- Progress of a DRZ command: indices out of range, rows failed, list position of the first failed row. -/
structure DrzRes where
  out : Nat := 0
  failed : Nat := 0
  first : Option Nat := none
deriving DecidableEq, Repr

/-- A row fails: the page that owns the memory logs it, and the DRZ page with the failing address (R335). -/
def drzFail (s : State) (r : Nat) (c : QCmd) (res : DrzRes) (i g : Nat) : State × DrzRes :=
  let s := if g < 2 ^ 80 then uncorrFab s g c.job false else uncorrScratch s c.core c.job g
  let s := raiseErr (bump s (pgDrz r) 3 1) (pgDrz r) 8
    { addr := if g < 2 ^ 80 then g else g % 2 ^ 64, status := stUncorr, fn := c.job } [c.job] []
  (s, { res with failed := res.failed + 1, first := some (res.first.getD i) })

/-- Entry i of the list. -/
def drzRow (s : State) (r : Nat) (c : QCmd) (x : Drz) (res : DrzRes) (i : Nat) : State × DrzRes :=
  let ia := spScratch c.core + x.idx + 4 * i
  let da := spScratch c.core + x.data + i * x.rb
  match badIn s ia 4 with
  | some g => drzFail s r c res i g
  | none =>
    let k := rdNum s ia 4
    let ta := x.table + k * x.stride
    if x.rows ≤ k then
      (bump (if c.op = 1 then wrMem s da (List.replicate x.rb 0) else s) (pgDrz r) 2 1, { res with out := res.out + 1 })
    else if c.op = 1 then
      match fabBad s ta x.rb with
      | some g => drzFail s r c res i g
      | none => (wrMem s da (rdMem s ta x.rb), res)
    else
      match badIn s da x.rb with
      | some g => drzFail s r c res i g
      | none =>
        match fabBadW s ta x.rb with
        | some g => drzFail s r c res i g
        | none => (wrMem s ta (rdMem s da x.rb), res)

/-- The DRZ command with an operation that runs in the region. -/
def opDrz (s : State) (r op : Nat) : State :=
  match runOp s (pgDrz r) op with
  | none => s
  | some rc =>
    let x := drzOf rc.cmd
    let p := (upTo x.count).foldl (fun (p : State × DrzRes) i => drzRow p.1 r rc.cmd x p.2 i) (s, {})
    finish p.1 rc (if p.2.failed = 0 then stOK else stUncorr)
      (leBytes 4 p.2.out ++ leBytes 4 p.2.failed ++ leBytes 4 (p.2.first.getD 0xFFFFFFFF))

/-! ### GDDR7 ports (R342 to R347) -/

def gdrEnabled (s : State) (port : Nat) : Bool := bit (reg s (pgGdr port) 0x100) 0
/-- Number of enabled ports. -/
def gdrCount (s : State) : Nat := ((upTo 16).filter (gdrEnabled s)).length

/-- The enabled ports keep R342. -/
def gdrLegal (s : State) : Bool :=
  let n := gdrCount s
  let c0 := bits (reg s (pgGdr 0) 0x100) 1 4
  (n == 4 || n == 8 || n == 16) &&
    (upTo n).all (fun p => gdrEnabled s p && bits (reg s (pgGdr p) 0x100) 1 4 == c0) && bits c0 2 2 != 3

/-- Slow-tier size in GiB of the enabled ports. -/
def gdrSize (s : State) : Nat :=
  let c := reg s (pgGdr 0) 0x100
  gdrCount s * (if bit c 2 then 4 else 2) * (if bit c 1 then 2 else 1)

/-- A port starts training. -/
def portTrain (s : State) (p : Nat) : State := setRegF s (pgGdr p) 0x108 0 3 5

/-- Every enabled port starts training, with the tier's configuration taken. A tier that is down stays down meanwhile, and
accesses to one that is not wait (R344, R347). -/
def tierTrain (s : State) : State :=
  let s := (upTo 16).foldl (fun s p =>
    if gdrEnabled s p then portTrain s p else setRegF s (pgGdr p) 0x108 0 3 0) s
  { s with tierPorts := gdrCount s, tierGib := gdrSize s, tierTraining := true }

/-- The enabled ports break R342: CONFIG_MISMATCH, no port counts, and the tier is down (R353). -/
def tierMismatch (s : State) (ports : List Nat) : State :=
  ports.foldl (fun s p => raiseErr s (pgGdr p) 12 {} [] []) { s with tierPorts := 0, tierDown := true }

/-- The start of the slow tier at a reset or thaw (R344, R347): it is left alone where no port is enabled. -/
def tierStart (s : State) : State :=
  let s := { s with tierPorts := 0, tierGib := 0, tierDown := false, tierTraining := false }
  if gdrCount s = 0 then s
  else if gdrLegal s then tierTrain s
  else tierMismatch s ((upTo 16).filter (gdrEnabled s))

/-- Every enabled port has reached TRAINED. -/
def allTrained (s : State) : Bool := (upTo 16).all (fun p => !gdrEnabled s p || gdrState s p == 2)

/-- RETRAIN reads 1 until training ends (GDR_CFG). -/
def retrainEnds (s : State) (port : Nat) : State := setRegF s (pgGdr port) 0x100 5 1 0

/-- A tier training ends once no port trains: the tier comes up and is wiped, or stays down (R347). -/
def tierSettle (s : State) : State :=
  if s.tierTraining = true ∧ anyTraining s = false then
    let s := (upTo 16).foldl retrainEnds s
    if allTrained s then
      wipe { s with tierTraining := false, tierDown := false } slowBase (2 ^ 30 * s.tierGib)
    else { s with tierTraining := false }
  else s

/-- GDR_TRAINING_DONE of a port. A training under R345 has held the port's traffic meanwhile (counter 1); a tier training has
held accesses to no trained port. -/
def opGdrDone (s : State) (port : Nat) (ok : Bool) (us : Nat) : State :=
  if port < 16 ∧ gdrState s port = 1 then
    let p := pgGdr port
    let s := setRegF (setRegF s p 0x108 0 2 (if ok then 2 else 3)) p 0x108 8 16 (min us 65535)
    let s := if s.tierTraining then s else bumpNs (retrainEnds s port) p 1 (1000 * us)
    let s := if ok then s else raiseErr { s with tierDown := true } p 11 { status := stUncorr } [] []
    tierSettle s
  else s

/-- A job holds a slow-tier range. -/
def slowHeld (s : State) : Bool := (upTo 16).any (fun f => regF s (pgJob f) 0x158 8 8 != 0)

/-- A write of GDR_CFG: ignored while any port trains; RETRAIN trains a TRAINED port (R345) or the tier (R347). -/
def opGdrCfg (s : State) (port v : Nat) : State :=
  if anyTraining s then s
  else
    let s := setReg s (pgGdr port) 0x100 (v &&& 0x1F)
    if bit v 5 = false then s
    else if gdrState s port = 2 then setRegF (portTrain s port) (pgGdr port) 0x100 5 1 1
    else if slowHeld s then s
    else if gdrLegal s then setRegF (tierTrain s) (pgGdr port) 0x100 5 1 1
    else tierMismatch s [port]

/-- WCK_TRACKING holds a TRAINED port's traffic for at most 200 ns. -/
def opWck (s : State) (port : Nat) : State :=
  if port < 16 ∧ gdrState s port = 2 then
    let (n, s) := draw s
    bumpNs s (pgGdr port) 1 (n % 201)
  else s

/-- A port goes DOWN, and the tier with it. -/
def portDown (s : State) (port : Nat) : State := { setRegF s (pgGdr port) 0x108 0 2 3 with tierDown := true }

/-- The retraining of R346 holds the port's traffic for at most 16.1 ms, and is then its last training (TRAIN_US). -/
def retrainHold (s : State) (port : Nat) : State :=
  let (n, s) := draw s
  let ns := n % 16100001
  setRegF (bumpNs (bump s (pgGdr port) 2 3) (pgGdr port) 1 ns) (pgGdr port) 0x108 8 16 (ns / 1000)

/-- A group of a notice keeps slow-tier state or its mailbox slot at a slow-tier byte `a`. -/
def groupHas (n : Notice) (a : Nat) (g : NGroup) : Bool :=
  let d := gdescOf g.desc
  let len := 2 * gdElems d
  let has (lo k : Nat) : Bool := decide (lo ≤ a) && decide (a < lo + k)
  has d.w len || has d.m1 len || has d.m2 len || has (mboxAt d n.step n.d) (landBytes d)

/-- An uncorrectable read of the slow tier ends the access that met it: of the notice being applied, the group that it reads
is torn (R281, R346). The sector stays unreadable. -/
def gdrUncorr (s : State) (a : Nat) : State :=
  let g := a - a % 32
  let s := spoil s g
  match s.notices.find? (·.started) with
  | none => uncorrFab s g 0 false
  | some n =>
    match n.groups.find? (groupHas n a) with
    | none => uncorrFab s g 0 false
    | some x => noteTorn (bump (stateUncorr s pgUps g n.job) pgUps 4 1) n [x.idx]

/-- GDR_CRC_ERROR and how it ends (R346). -/
def opGdrCrc (s : State) (port : Nat) (e : CrcEnd) : State :=
  let p := pgGdr port
  if port < 16 ∧ gdrState s port = 2 then
    match e with
    | .retryOk n => bump s p 2 (max 1 (min n 3))
    | .retrainOk => retrainHold s port
    | .retrainFail => raiseErr (portDown (retrainHold s port) port) p 10 { status := stUncorr } [] []
    | .eccCorrected a => corrected s p 3 9 a
    | .eccUncorrectable a => if a < 2 ^ 30 * s.tierGib then gdrUncorr s (slowBase + a) else s
  else s

/-! ### Traffic generators and checkers (R348) -/

/-- Fabric address of a channel-local address. -/
def chanAddr (s : State) (r ch l : Nat) : Nat := 2 ^ 34 * r + ilvInv (ilvG s r) ch l

/-- A run destroys the data of its range: its generator's sequence is not stated, so the bytes are not defined. -/
def tgcDestroy (s : State) (r ch lo n : Nat) : State :=
  (upTo n).foldl (fun s i =>
    let s' := wrMem s (chanAddr s r ch (lo + 128 * i)) (undefBytes s.free 128)
    { s' with free := s.free + 1 }) s

/-- The 128-byte units of a run's range. -/
def tgcUnits (s : State) (r ch : Nat) : Nat :=
  let p := pgTgc r ch
  regF s p 0x110 0 31 / 128 + 1 - regF s p 0x108 0 31 / 128

/-- The run ends: its range is destroyed. -/
def tgcEnd (s : State) (r ch : Nat) : State :=
  tgcDestroy s r ch (regF s (pgTgc r ch) 0x108 0 31 / 128 * 128) (tgcUnits s r ch)

/-- STOP ends the run after the accesses in flight. -/
def tgcStopped (s : State) (r ch : Nat) : Bool := bit (reg s (pgTgc r ch) 0x100) 9
/-- PASSES. -/
def tgcPasses (s : State) (r ch : Nat) : Nat := regF s (pgTgc r ch) 0x100 16 32

/-- Reads and writes of a whole run; none where STOP ends it sooner. -/
def tgcCounts (s : State) (r ch : Nat) : Option (Nat × Nat) :=
  let c := reg s (pgTgc r ch) 0x100
  let n := tgcPasses s r ch
  let units := tgcUnits s r ch * (if bits c 0 2 = 2 then 4 else 1)
  if n = 0 ∨ tgcStopped s r ch = true then none
  else if bits c 2 2 = 1 then some (1000000 * n / 16 * bits c 4 4, 1000000 * n / 16 * (16 - bits c 4 4))
  else some (n * units, n * units)

/-- A write of TGC_CFG: while a run goes on only STOP counts. START reads 1 while the run it started goes on, and STOP from
its write to the run's end (DESIGN CHOICE, log 113). -/
def opTgcCfg (s : State) (r ch v : Nat) : State :=
  let p := pgTgc r ch
  if regF s p 0x120 0 2 = 1 then (if bit v 9 then setRegF s p 0x100 9 1 1 else s)
  else
    let s := setReg s p 0x100 (v &&& 0xFFFFFFFF00FF)
    if bit v 8 = false then s
    else if regionHasMem s r || windowCovers s r || chFenced s r ch then setRegF s p 0x120 0 2 3
    else setReg (setRegF s p 0x100 8 1 1) p 0x120 1

/-- The base, limit and seed of a channel's generator; ignored while it runs. -/
def opTgcReg (s : State) (r ch off v : Nat) : State :=
  let p := pgTgc r ch
  if regF s p 0x120 0 2 = 1 then s
  else if off = 0x108 then setReg s p off (bits v 0 31)
  else if off = 0x110 then setReg s p off (bits v 0 31)
  else setReg s p off (bits v 0 64)

/-- TGC_RUN_DONE, with the channel-local addresses of the sectors that failed and the latencies seen: a run ends with its
passes or accesses, or after STOP. -/
def opTgcDone (s : State) (r ch : Nat) (fails : List Nat) (minNs maxNs : Nat) : State :=
  let p := pgTgc r ch
  if regF s p 0x120 0 2 = 1 ∧ (tgcPasses s r ch ≠ 0 ∨ tgcStopped s r ch = true) then
    let (a, s) := draw s
    let (b, s) := draw s
    let n := (tgcCounts s r ch).getD (a, b)
    let s := bump (bump (tgcEnd s r ch) p 1 n.1) p 2 n.2
    let s := setRegF s p 0x100 8 2 0
    let s := setReg s p 0x128 (minNs % 2 ^ 32 + 2 ^ 32 * (maxNs % 2 ^ 32))
    match fails with
    | [] => setReg s p 0x120 2
    | f :: _ =>
      raiseErr (bump (setReg s p 0x120 (2 + 4 + (f % 2 ^ 31) * 2 ^ 8)) p 3 fails.length) p 8 { addr := f } [] []
  else s

end Sys2Proof.Machine
end

