-- ==== Sys2Proof/Machine/Job.lean ====
section
/-! DEFINITION. Job sharing (chapter "Job sharing and pre-emption"): allocations, ENABLE, pre-emption and resume, the task
dispatcher of a region; STOP_CONTEXT, which also reaches suspended contexts. -/
namespace Sys2Proof.Machine

/-! ### Allocations (R411 to R413) -/

def jobs15 : List Nat := (upTo 15).map (· + 1)

/-- A core page is allocated to a job by itself or with its region. -/
def coreTo (s : State) (f core : Nat) : Bool :=
  bit (reg s (pgJob f) (0x200 + 8 * (core / 64))) (core % 64) || bit (reg s (pgJob f) 0x148) (core / 64)

/-- Rows of Table 15-4 in force. -/
def shedRows (s : State) : Nat := regF s pgPwr 0x110 44 3

/-- An allocating write is ignored and ALLOC_REJECTED set, with the register's offset in DETAIL (R428). -/
def rejectAlloc (s : State) (f off : Nat) : State := raiseErr s (pgJob f) 9 { detail := off / 8, write := true, len := 8 } [] []

def jobEnabled (s : State) (f : Nat) : Bool := bit (reg s (pgJob f) 0x140) 0

/-- The scratch windows of a job's contexts on a core are zeroed. -/
def wipeCoreWins (s : State) (f core : Nat) : State :=
  (upTo 4).foldl (fun s x =>
    if ctxBound s core x && ctxJob s core x == f then
      let w := reg s (pgCor core) (0x108 + 0x40 * x)
      wipe s (spScratch core + bits w 0 9 * 4096) (bits w 16 9 * 4096)
    else s) s

/-- A job's windows of a cluster cache are zeroed. -/
def wipeCluWins (s : State) (f k : Nat) : State :=
  (upTo 8).foldl (fun s w =>
    let v := reg s (pgClu k) (0x100 + 8 * w)
    if bit v 0 && bits v 1 4 == f then wipe s (spClu k + 65536 * bits v 16 7) (65536 * bits v 24 8) else s) s

def addZeroing (s : State) (z : Freed) : State :=
  if s.zeroing.contains z then s else { s with zeroing := s.zeroing ++ [z] }

/-- A write of JOB_CORESn. -/
def opJobCores (s : State) (f n v : Nat) : State :=
  let off := 0x200 + 8 * n
  let old := reg s (pgJob f) off
  let new := clearBits v old
  let gone := clearBits old v
  let taken := (setIdx 64 0 new).any (fun b =>
    jobs15.any (fun j => j != f && coreTo s j (64 * n + b)) || s.zeroing.contains (.coreWin (64 * n + b)) ||
      s.zeroing.contains (.regionClu n))
  if taken || (gone != 0 && jobEnabled s f) then rejectAlloc s f off
  else
    (setIdx 64 0 gone).foldl (fun s b => addZeroing (wipeCoreWins s f (64 * n + b)) (.coreWin (64 * n + b)))
      (setReg s (pgJob f) off v)

/-- Another job stands in the way of giving a whole region to a job (R412). -/
def regionTaken (s : State) (f r : Nat) : Bool :=
  jobs15.any (fun j => j != f && (bit (reg s (pgJob j) 0x148) r || reg s (pgJob j) (0x200 + 8 * r) != 0)) ||
    (upTo 256).any (fun i => ctxBound s (64 * r + i / 4) (i % 4) && ctxJob s (64 * r + i / 4) (i % 4) != f) ||
    (upTo 64).any (fun i =>
      let v := reg s (pgClu (8 * r + i / 8)) (0x100 + 8 * (i % 8))
      bit v 0 && bits v 1 4 != f) ||
    s.zeroing.contains (.regionClu r) || (upTo 64).any (fun i => s.zeroing.contains (.coreWin (64 * r + i)))

/-- A write of JOB_REGIONS. -/
def opJobRegions (s : State) (f v : Nat) : State :=
  let v := bits v 0 32
  let old := reg s (pgJob f) 0x148
  let gone := clearBits old v
  if (setIdx 32 0 (clearBits v old)).any (regionTaken s f) || (gone != 0 && jobEnabled s f) then rejectAlloc s f 0x148
  else
    (setIdx 32 0 gone).foldl (fun s r =>
      let s := (upTo 64).foldl (fun s c => wipeCoreWins s f (64 * r + c)) s
      addZeroing ((upTo 8).foldl (fun s k => wipeCluWins s f (8 * r + k)) s) (.regionClu r))
      (setReg s (pgJob f) 0x148 v)

/-- A 1 GiB unit cannot be given to a job (R412). -/
def unitTaken (s : State) (f r u : Nat) : Bool :=
  jobs15.any (fun j => j != f && unitOk s j (16 * r + u)) || anyFenced s r || tgcRuns s r || windowCovers s r ||
    s.zeroing.contains (.unit r u) || s.thawing.contains (.unit r u)

/-- A write of JOB_MEMn. -/
def opJobMem (s : State) (f n v : Nat) : State :=
  let off := 0x300 + 8 * n
  let old := reg s (pgJob f) off
  let gone := clearBits old v
  if (setIdx 64 0 (clearBits v old)).any (fun b => unitTaken s f (4 * n + b / 16) (b % 16)) ||
      (gone != 0 && jobEnabled s f) then rejectAlloc s f off
  else
    (setIdx 64 0 gone).foldl (fun s b =>
      let r := 4 * n + b / 16
      addZeroing (wipe s (2 ^ 34 * r + 2 ^ 30 * (b % 16)) (2 ^ 30)) (.unit r (b % 16)))
      (setReg s (pgJob f) off v)

/-- Slow-tier GiB that may be allocated: none while the tier is down or trains (R347). -/
def slowAvail (s : State) : Nat := if s.tierDown || s.tierTraining then 0 else s.tierGib

/-- A write of JOB_SLOW. -/
def opJobSlow (s : State) (f v : Nat) : State :=
  let v := bits v 0 16
  let lo := bits v 0 8
  let n := bits v 8 8
  let old := reg s (pgJob f) 0x158
  let inOld (g : Nat) : Bool := decide (bits old 0 8 ≤ g) && decide (g < bits old 0 8 + bits old 8 8)
  let inNew (g : Nat) : Bool := decide (lo ≤ g) && decide (g < lo + n)
  let gone := ((upTo (bits old 8 8)).map (· + bits old 0 8)).filter (fun g => !inNew g)
  let fresh := ((upTo n).map (· + lo)).filter (fun g => !inOld g)
  let held (g : Nat) : Bool := jobs15.any (fun j => j != f &&
    decide (regF s (pgJob j) 0x158 0 8 ≤ g) && decide (g < regF s (pgJob j) 0x158 0 8 + regF s (pgJob j) 0x158 8 8))
  if fresh.any (fun g => held g || decide (slowAvail s ≤ g) || s.zeroing.contains (.slow g)) ||
      (!gone.isEmpty && jobEnabled s f) then rejectAlloc s f 0x158
  else
    gone.foldl (fun s g => addZeroing (wipe s (slowBase + 2 ^ 30 * g) (2 ^ 30)) (.slow g)) (setReg s (pgJob f) 0x158 v)

/-- ALLOCATION_ZEROED: what was freed may be granted again. -/
def opZeroed (s : State) (z : Freed) : State := { s with zeroing := s.zeroing.filter (fun y => y != z) }

/-- A write of JOB_CTRL: one that sets ENABLE is ignored, and REFUSED reads 1, while the shed refuses new jobs (R415, Table
15-4) or the function's wipe runs (R452); a WEIGHT of 0 is ignored. -/
def opJobCtrl (s : State) (f v : Nat) : State :=
  let p := pgJob f
  let w := if bits v 8 4 = 0 then regF s p 0x140 8 4 else bits v 8 4
  if bit v 0 = true ∧ jobEnabled s f = false then
    if 3 ≤ shedRows s ∨ bit (reg s pgRst 0x110) f = true then setRegF s p 0x140 1 1 1
    else setReg s p 0x140 (1 + 2 ^ 8 * w)
  else setRegF (setRegF s p 0x140 8 4 w) p 0x140 0 1 (bits v 0 1)

/-! ### Pre-emption (R421 to R426) -/

/-- The four engines of a core that R422 stops. -/
def coreFour (core : Nat) : List Nat := [pgMxa core * 2, pgVen core * 2, pgCor core * 2, pgChn core * 2]

/-- A job has a bound context on a core. -/
def boundOn (s : State) (f core : Nat) : Bool := (upTo 4).any (fun x => ctxBound s core x && ctxJob s core x == f)

/-- Scratch pages that lie in a window of the job and in one of another job. -/
def sharedPages (s : State) (f core : Nat) : List Nat :=
  let inWin (own : Bool) (pg : Nat) : Bool := (upTo 4).any (fun x =>
    let w := reg s (pgCor core) (0x108 + 0x40 * x)
    ctxBound s core x && (ctxJob s core x == f) == own && decide (bits w 0 9 ≤ pg) && decide (pg < bits w 0 9 + bits w 16 9))
  (upTo 384).filter (fun pg => inWin true pg && inWin false pg)

/-- A started command that pre-emption takes: its effect is not complete, and it is not a message already on its way. -/
def takenAway (f e core : Nat) (r : RCmd) : Bool :=
  r.fin.isNone && r.cmd.job == f && !(e == pgChn core * 2 && r.prog == 1)

/-- What is saved of a core (R422 step 3). The dirty part of the shared scratch is not told apart further: its size is a
free value of at most the whole. -/
def savedOf (s : State) (f core : Nat) : Saved × State :=
  let m := mxaOf s core
  let v := venOf s core
  let es := coreFour core
  let acc (b : Nat) (x : AccBuf) : List (Nat × AccBuf × List Byte) :=
    if x.st ≠ 0 ∧ x.job = f then [(b, x, rdMem s (spAcc core + 65536 * b) 65536)] else []
  let pages := sharedPages s f core
  let (d, s') := draw s
  let x : Saved :=
    { queued := es.flatMap (fun e => ((engOf s e).queue.filter (fun c => c.job == f)).map (fun c => (e, c)))
      started := es.flatMap (fun e => ((engOf s e).running.filter (takenAway f e core)).map (fun r => (e, r)))
      aside := es.flatMap (fun e => ((engOf s e).aside.filter (fun r => r.cmd.job == f)).map (fun r => (e, r)))
      shadow := if m.shadow.st ≠ 0 ∧ m.shadow.job = f then some m.shadow else none
      active := if m.active.st ≠ 0 ∧ m.active.job = f then some m.active else none
      held := m.held && m.active.job == f
      accs := acc 0 m.buf0 ++ acc 1 m.buf1
      tbufs := (v.occ.filter (fun e => e.2 == f + 1)).map (fun e => (e.1, rdMem s (spTbuf core + 0x4000 * e.1) 0x4000))
      ftq := (v.ftq.filter (fun e => e.job == f)).map (fun e => (e, rdMem s (spFtq core e.slot) (4 * e.rows * e.width)))
      hs := v.hs.filter (fun e => e.2.tagged && e.2.job == f)
      scratch := pages.map (fun pg => (pg * 4096, rdMem s (spScratch core + pg * 4096) 4096))
      at_ := s.time }
  ({ x with bytes :=
      65536 * x.accs.length + 8192 * (b2n x.shadow.isSome + b2n x.active.isSome) + 16384 * x.tbufs.length +
        8192 * x.ftq.length + 272 * x.hs.length + d % (4096 * pages.length + 1) }, s')

/-- The core's resources of the job are released (R422 step 4). -/
def releaseOf (s : State) (f core : Nat) : State :=
  let m := mxaOf s core
  let fre (x : AccBuf) : AccBuf := if x.st ≠ 0 ∧ x.job = f then {} else x
  let s := setMxa s core { m with
    shadow := if m.shadow.st ≠ 0 ∧ m.shadow.job = f then {} else m.shadow
    active := if m.active.st ≠ 0 ∧ m.active.job = f then {} else m.active
    held := m.held && m.active.job != f
    buf0 := fre m.buf0
    buf1 := fre m.buf1 }
  let s := venRelease s core f
  (coreFour core).foldl (fun s e =>
    let g := engOf s e
    setEng s e { g with
      queue := g.queue.filter (fun c => c.job != f)
      running := g.running.filter (fun r => !takenAway f e core r)
      aside := g.aside.filter (fun r => r.cmd.job != f) }) s

/-- Save entry of a core (R422, R423). -/
def saveAddr (s : State) (f core : Nat) : Nat := 2 ^ 21 * bits (reg s (pgJob f) 0x150) 21 43 + 2 ^ 21 * core

def suspBit (s : State) (f core v : Nat) : State := setRegF s (pgJob f) (0x400 + 8 * (core / 64)) (core % 64) 1 v

/-- Least and largest factor of a handshake phase at a level and a junction temperature, in 1/350,000,000 (Table 3-6, R88,
R89, R432); none below 10 °C, where no timing is stated. -/
def handshake (g tj : Nat) : Option (Nat × Nat) :=
  let (a, b, c) : Nat × Nat × Nat := match g with
    | 0 => (778, 828, 894)
    | 1 => (855, 909, 982)
    | 2 => (940, 1000, 1080)
    | 3 => (1187, 1263, 1364)
    | _ => (1819, 1935, 2090)
  let same (n : Nat) : Option (Nat × Nat) := some (n, n)
  if tj < 10 then none
  else if tj < 25 then some (a * 329000, a * 350000)
  else if tj ≤ 60 then same ((a * 35 + (b - a) * (tj - 25)) * 10000)
  else if tj ≤ 95 then same ((b * 35 + (c - b) * (tj - 60)) * 10000)
  else same (c * 35 * (10000 + 23 * (tj - 95)))

/-- T_switch of a core in ns (R423); which way its fraction is rounded is free. -/
def switchNs (s : State) (x : Saved) : Nat × State :=
  let w := 1500 * 128 + x.bytes + 40 * 128 * min 4 x.started.length
  let (d, s) := draw s
  match handshake (regF s pgPwr 0x108 4 3) (regF s pgPwr 0x110 16 8) with
  | none => (d, s)
  | some (lo, hi) =>
    let a := w * lo / (128 * 350000000)
    (a + d % (w * hi / (128 * 350000000) + 2 - a), s)

/-- Of several switches: the bytes together and the longest. -/
def tally (t x : Nat × Nat) : Nat × Nat := (t.1 + x.1, max t.2 x.2)

/-- One core is switched away from the job; the entry's layout is not stated, so its bytes are not defined. The answer's
numbers are its bytes and its time. -/
def switchOut (s : State) (f core : Nat) : State × Nat × Nat :=
  let (x, s) := savedOf s f core
  let (ns, s) := switchNs s x
  let s := releaseOf s f core
  let s := wrFab s (saveAddr s f core) (undefBytes s.free x.bytes) f
  (suspBit { s with free := s.free + 1, saves := mapPut {} s.saves (saveKey core f) x } f core 1, x.bytes, ns)

/-- Cores that a pre-emption or resume command names. -/
def preCores (c : QCmd) : List Nat :=
  let r := 16 * bits (bf c 16 1) 0 1 + bits (bf c 17 1) 0 4
  (setIdx 64 0 (bf c 24 8)).map (· + 64 * r)

/-- R57 step 3 for the JOB page. -/
def chkJob (_ : State) (c : QCmd) : Option Nat :=
  formThen (bits (bf c 16 1) 1 7 == 0 && bits (bf c 17 1) 4 4 == 0 && bz c 18 6 && bz c 32 32) (c.fn == 0)

/-- The result of a switch: cores, the longest switch in ns, and bytes. -/
def switchResult (cores ns bytes : Nat) : List Byte := leBytes 4 cores ++ leBytes 4 ns ++ leBytes 8 bytes

/-- The JOB_PREEMPT that runs for a job. -/
def opPreempt (s : State) (f : Nat) : State :=
  match runOp s (pgJob f) 1 with
  | none => s
  | some r =>
    let cores := (preCores r.cmd).filter (fun c => boundOn s f c && !suspended s c f)
    if cores.all (fun c => stackedOk s f (saveAddr s f c) (2 ^ 21)) then
      let p := cores.foldl (fun (p : State × Nat × Nat) c => let q := switchOut p.1 f c; (q.1, tally p.2 q.2)) (s, 0, 0)
      let s := p.1
      let s :=
        if cores = [] then s
        else raiseEvt s (pgJob f) 0 [f] 0
          (padTo 8 (leBytes 1 (bits (bf r.cmd 16 1) 0 1) ++ leBytes 1 (bits (bf r.cmd 17 1) 0 4)) ++ leBytes 8 (bf r.cmd 24 8))
      finish s r stOK (switchResult cores.length p.2.2 p.2.1)
    else finish s r stAccess []

/-- What a core must have free before a job's state returns to it (R103, R108, R168, R425). -/
def canRestore (s : State) (core : Nat) (x : Saved) : Bool :=
  let m := mxaOf s core
  let v := venOf s core
  (x.shadow.isNone || m.shadow.st == 0) &&
    (x.active.isNone || (!m.held && (engOf s (pgMxa core * 2)).running.all (fun r => r.fin.isSome))) &&
    x.accs.all (fun a => (bufOf m a.1).st == 0) &&
    x.tbufs.all (fun t => mapGet 0 v.occ t.1 == 0) &&
    decide (v.ftq.length + x.ftq.length ≤ 8) &&
    x.hs.all (fun h => !(mapGet {} v.hs h.1).tagged)

/-- Saved commands return to their queues ahead of the job's later ones; on a fenced core they complete with
CHECK_FAIL_FENCED (R92, R425). Send timers go on where they stood. -/
def restoreCmds (s : State) (core : Nat) (x : Saved) : State :=
  (coreFour core).foldl (fun s e =>
    let g := engOf s e
    let own (l : List (Nat × RCmd)) : List RCmd := (l.filter (fun y => y.1 == e)).map (·.2)
    let q := (x.queued.filter (fun y => y.1 == e)).map (·.2)
    let st := own x.started
    let slots := (own x.aside).map (fun r => { r with since := r.since + (s.time - x.at_) })
    if fenced s core then
      let ends := (st ++ slots).map (fun r => { r with fin := some (stCheckFenced, []), outs := [] })
      let ends' := q.map (fun c => ({ cmd := c, fin := some (stCheckFenced, []), began := false } : RCmd))
      setEng s e { g with running := g.running ++ ends ++ ends' }
    else setEng s e { queue := q ++ g.queue, running := g.running ++ st, aside := slots ++ g.aside
                      lastJob := g.lastJob, streak := g.streak }) s

/-- One core is switched back to the job (R425). -/
def switchIn (s : State) (f core : Nat) : State × Nat × Nat :=
  let x := mapGet {} s.saves (saveKey core f)
  let (ns, s) := switchNs s x
  let m := mxaOf s core
  let m := { m with
    shadow := x.shadow.getD m.shadow
    active := x.active.getD m.active
    held := if x.active.isSome then x.held else m.held }
  let m := x.accs.foldl (fun m a => withBuf m a.1 a.2.1) m
  let s := setMxa s core m
  let s := x.accs.foldl (fun s a => wrMem s (spAcc core + 65536 * a.1) a.2.2) s
  let s := x.tbufs.foldl (fun s t =>
    let v := venOf s core
    wrMem (setVen s core { v with occ := mapPut 0 v.occ t.1 (f + 1), stale := mapPut 0 v.stale t.1 0 })
      (spTbuf core + 0x4000 * t.1) t.2) s
  let s := x.ftq.foldl (fun s e =>
    let v := venOf s core
    match ftqFree v with
    | none => s
    | some i => wrMem (setVen s core { v with ftq := v.ftq ++ [{ e.1 with slot := i }] }) (spFtq core i) e.2) s
  let s := x.hs.foldl (fun s h => setVen s core { venOf s core with hs := mapPut {} (venOf s core).hs h.1 h.2 }) s
  let s := x.scratch.foldl (fun s p => wrMem s (spScratch core + p.1) p.2) s
  let s := restoreCmds s core x
  (suspBit { s with saves := mapDel s.saves (saveKey core f) } f core 0, x.bytes, ns)

/-- The JOB_RESUME that runs for a job; it waits while a resource is held by another job. -/
def opResumeJob (s : State) (f : Nat) : State :=
  match runOp s (pgJob f) 2 with
  | none => s
  | some r =>
    let cores := (preCores r.cmd).filter (fun c => suspended s c f)
    if cores.all (fun c => canRestore s c (mapGet {} s.saves (saveKey c f))) then
      let p := cores.foldl (fun (p : State × Nat × Nat) c => let q := switchIn p.1 f c; (q.1, tally p.2 q.2)) (s, 0, 0)
      finish p.1 r stOK (switchResult cores.length p.2.2 p.2.1)
    else s

/-! ### STOP_CONTEXT (R91, R424) -/

/-- Saved commands of a suspended context complete with PREEMPTED (R424). -/
def dropSaved (s : State) (core x : Nat) : State :=
  let f := ctxJob s core x
  if suspended s core f then
    let k := saveKey core f
    let sv := mapGet {} s.saves k
    let mine (c : QCmd) : Bool := issuedBy core x c || namesCtx core x c
    let done : List (Nat × RCmd) :=
      (sv.queued.filter (fun y => mine y.2)).map (fun y => (y.1, { cmd := y.2, began := false })) ++
        (sv.started ++ sv.aside).filter (fun y => mine y.2.cmd)
    let sv := { sv with
      queued := sv.queued.filter (fun y => !mine y.2)
      started := sv.started.filter (fun y => !mine y.2.cmd)
      aside := sv.aside.filter (fun y => !mine y.2.cmd) }
    let s := { s with saves := mapPut {} s.saves k sv }
    done.foldl (fun s y =>
      setEng s y.1 { engOf s y.1 with
        running := (engOf s y.1).running ++ [{ y.2 with fin := some (stPreempted, []), outs := [] }] }) s
  else s

/-- The STOP_CONTEXT that runs on a core. -/
def opStopContext (s : State) (core : Nat) : State :=
  match runOp s (pgCor core) 3 with
  | none => s
  | some r =>
    let x := corCtx r.cmd
    let st := (ctxOf s core x).st
    if st = 1 ∨ st = 2 then finish (haltCtx (dropSaved s core x) core x stPreempted 0) r stOK []
    else finish s r stOK []

/-! ### The task dispatcher (R418 to R420) -/

/-- Hint i of a task: kind, place, KiB. -/
def hintOf (c : QCmd) (i : Nat) : Nat × Nat × Nat :=
  let w := bf c (48 + 4 * i) 4
  (bits w 0 2, bits w 2 6, bits w 8 24)

/-- R57 steps 3 and 4 for the RGN page. -/
def chkRgn (c : QCmd) : Option Nat :=
  formThen
    (bits (bf c 26 1) 2 6 == 0 && bz c 27 5 && (hintOf c 0).1 != 3 && (hintOf c 1).1 != 3 && syncFmt c true) true

/-- A core of the region is a candidate for a task (R419). -/
def candidate (s : State) (r : Nat) (c : QCmd) (i : Nat) : Bool :=
  let core := 64 * r + i
  let x := bits (bf c 26 1) 0 2
  bit (bf c 16 8) i && ctxBound s core x && ctxJob s core x == c.job &&
    ((ctxOf s core x).st == 0 || (ctxOf s core x).st == 3) && !fenced s core && !suspended s core c.job

/-- The sum of a candidate's hints. -/
def taskScore (c : QCmd) (i : Nat) : Nat :=
  ((upTo 2).map (fun h =>
    let t := hintOf c h
    if t.1 = 1 ∧ t.2.1 = i then 4 * t.2.2 else if t.1 = 2 ∧ t.2.1 = i / 8 then t.2.2 else 0)).foldl (· + ·) 0

/-- Commands in the four engine queues of a core. -/
def coreLoad (s : State) (core : Nat) : Nat := ((coreFour core).map (fun e => (engOf s e).queue.length)).foldl (· + ·) 0

/-- The candidate that R419 chooses: the largest sum, then the fewest commands, then the lowest number. -/
def chooseCore (s : State) (r : Nat) (c : QCmd) : Option Nat :=
  ((upTo 64).filter (candidate s r c)).foldl (fun best i =>
    match best with
    | none => some i
    | some b =>
      if taskScore c b < taskScore c i ∨
          (taskScore c b = taskScore c i ∧ coreLoad s (64 * r + i) < coreLoad s (64 * r + b)) then some i
      else best) none

/-- A task is started on its candidate; it then acts as START_CONTEXT. -/
def startTask (s : State) (r : Nat) (t : RCmd) : State :=
  let c := t.cmd
  match chooseCore s r c with
  | none => setRun s (cmdKey c) { t with prog := 1, since := s.time }
  | some i =>
    let core := 64 * r + i
    let x := bits (bf c 26 1) 0 2
    let s := setRegF (bump s (pgRgn r) 0 1) (pgRgn r) 0x100 8 6 i
    if jobEnabled s c.job = false then finish s t stAccess []
    else if winSize s core x ≤ bf c 24 2 ∨ bf c 24 2 % 4 ≠ 0 then finish s t stFormat []
    else startCtx (setRun s (cmdKey c) { t with prog := 2 }) core x (bf c 24 2) [bf c 32 8, bf c 40 8, 0, 0] c

/-- A task of the job waits in the dispatcher. -/
def taskWaits (s : State) (r job : Nat) : Bool :=
  (engOf s (pgRgn r * 2)).running.any (fun t => t.fin.isNone && t.prog == 1 && t.cmd.job == job)

/-- RGN_TASK: the task starts, or waits behind an earlier task of its job or for a candidate. -/
def opRgnTask (s : State) (r : Nat) : State :=
  match engRun s (pgRgn r * 2) (fun t => t.prog == 0) with
  | none => s
  | some t =>
    if taskWaits s r t.cmd.job then setRun s (cmdKey t.cmd) { t with prog := 1, since := s.time } else startTask s r t

/-- RGN_TASK_DISPATCH: the first waiting task of its job starts once a candidate exists. -/
def opRgnDispatch (s : State) (r id : Nat) : State :=
  match engRun s (pgRgn r * 2) (fun t => t.prog == 1 && t.cmd.id == id) with
  | none => s
  | some t =>
    match engRun s (pgRgn r * 2) (fun y => y.prog == 1 && y.cmd.job == t.cmd.job) with
    | none => s
    | some y => if y.cmd.id = id ∧ (chooseCore s r t.cmd).isSome = true then startTask s r t else s

end Sys2Proof.Machine
end

