-- ==== Sys2Proof/Machine/Frames.lean ====
section
/-! DEFINITION. Merrak Link frames as bytes (Tables 12-1 and 12-2), the check of R360, and the words of a frame on the
lanes of a way (R355 to R357). -/
namespace Sys2Proof.Machine

/-- The fields of a frame. -/
structure Frame where
  ty : Nat
  vc : Nat
  dateline : Bool
  resend : Bool
  seq : Nat
  len : Nat
  reqEpoch : Nat
  linkEpoch : Nat
  dest : Nat
  src : Nat
  payload : List Byte
  ackSeq : Nat
  ackValid : Bool
  nakSeq : Nat
  nakValid : Bool
  credCount : Nat
  credPool : Nat
  credValid : Bool
deriving DecidableEq, Repr

/-! ### The CRC of Table 12-2 -/

/-- One bit of the reflected CRC-32. -/
def crcBit (c : Nat) : Nat := if c % 2 = 1 then (c / 2) ^^^ 0xEDB88320 else c / 2
/-- One byte. -/
def crcByte (c : Nat) (b : Byte) : Nat :=
  crcBit (crcBit (crcBit (crcBit (crcBit (crcBit (crcBit (crcBit (c ^^^ b.toNat))))))))
/-- IEEE 802.3 CRC-32: initial value all ones, result complemented. -/
def crc32 (bs : List Byte) : Nat := bs.foldl crcByte 0xFFFFFFFF ^^^ 0xFFFFFFFF

/-! ### Bytes and fields -/

/-- Bytes 0 to 251 of a frame. -/
def frameBody (f : Frame) : List Byte :=
  leBytes 1 (f.ty % 16) ++ leBytes 1 (f.vc % 4 + 4 * b2n f.dateline + 8 * b2n f.resend) ++ leBytes 3 (f.seq % 2 ^ 20) ++
    leBytes 1 f.len ++ leBytes 1 f.reqEpoch ++ leBytes 1 f.linkEpoch ++ leBytes 3 f.dest ++ [0] ++ leBytes 3 f.src ++ [0] ++
    padTo 224 f.payload ++
    leBytes 4 (f.ackSeq % 2 ^ 20 + 2 ^ 20 * b2n f.ackValid) ++ leBytes 4 (f.nakSeq % 2 ^ 20 + 2 ^ 20 * b2n f.nakValid) ++
    leBytes 3 (f.credCount % 2 ^ 16 + 2 ^ 16 * (f.credPool % 8) + 2 ^ 19 * b2n f.credValid) ++ [0]

/-- The 256 bytes of a frame. -/
def frameBytes (f : Frame) : List Byte := frameBody f ++ leBytes 4 (crc32 (frameBody f))

/-- The fields of 256 bytes. -/
def frameOf (bs : List Byte) : Frame :=
  let b1 := num bs 1 1
  let ack := num bs 240 4
  let nak := num bs 244 4
  let cred := num bs 248 3
  { ty := bits (num bs 0 1) 0 4, vc := bits b1 0 2, dateline := bit b1 2, resend := bit b1 3, seq := bits (num bs 2 3) 0 20
    len := num bs 5 1, reqEpoch := num bs 6 1, linkEpoch := num bs 7 1, dest := num bs 8 3, src := num bs 12 3
    payload := sub bs 16 224, ackSeq := bits ack 0 20, ackValid := bit ack 20, nakSeq := bits nak 0 20
    nakValid := bit nak 20, credCount := bits cred 0 16, credPool := bits cred 16 3, credValid := bit cred 19 }

/-- Every zero field of Tables 12-1 and 12-2 is zero; SEQ, LEN and REQ_EPOCH are zero fields where the tables say so. -/
def zerosOk (bs : List Byte) : Bool :=
  let f := frameOf bs
  bits (num bs 0 1) 4 4 == 0 && bits (num bs 1 1) 4 4 == 0 && bits (num bs 2 3) 20 4 == 0 && num bs 11 1 == 0 &&
    num bs 15 1 == 0 && bits (num bs 240 4) 21 11 == 0 && bits (num bs 244 4) 21 11 == 0 && bits (num bs 248 3) 20 4 == 0 &&
    num bs 251 1 == 0 && (f.ty == 1 || (f.seq == 0 && f.len == 0)) && ((f.ty == 1 && decide (f.vc < 2)) || f.reqEpoch == 0)

/-- R360 keeps the frame: its CRC holds, its TYPE is one of the three, and its zero fields are zero. -/
def frameOk (bs : List Byte) : Bool :=
  bs.length == 256 && crc32 (bs.take 252) == num bs 252 4 && decide (1 ≤ (frameOf bs).ty) && decide ((frameOf bs).ty ≤ 3) &&
    zerosOk bs

/-! ### Lanes (R355 to R357) -/

/-- Physical lane of word `k` of a way's stream: logical lane k mod W (R357); 36, which no lane is, where the way has none. -/
def wordLane (map : List Nat) (k : Nat) : Nat := map.getD (k % map.length) 36

/-- The words of a frame from stream word `pos` on, each with its lane; stopped lanes carry none (R387). -/
def dealWords (map : List Nat) (pos stopped : Nat) (bs : List Byte) : List (Nat × List Byte) :=
  ((chunks 8 bs.length bs).mapIdx (fun j w => (wordLane map (pos + j), w))).filter (fun x => !bit stopped x.1)

/-- A codeword with more symbol errors is uncorrectable, and every byte it carries is marked bad (R356). -/
def symLimit : Nat := 15

/-- Word `j` of a frame as its lane delivered it: none where it is marked bad or did not arrive. -/
def wordAt (map : List Nat) (pos : Nat) (ws : List LaneWord) (j : Nat) : Option (List Byte) :=
  let l := wordLane map (pos + j)
  match (ws.filter (fun w => w.lane == l))[j / map.length]? with
  | some w => if w.errors ≤ symLimit then some w.bytes else none
  | none => none

/-- The 256 bytes that the lanes deliver; none where one of them is marked bad. -/
def gatherWords (map : List Nat) (pos : Nat) (ws : List LaneWord) : Nat → Option (List Byte)
  | 0 => some []
  | n + 1 =>
    match gatherWords map pos ws n, wordAt map pos ws n with
    | some bs, some w => some (bs ++ w)
    | _, _ => none

/-- A received frame that R360 keeps. -/
def rxFrame (map : List Nat) (pos : Nat) (ws : List LaneWord) : Option Frame :=
  match gatherWords map pos ws 32 with
  | some bs => if frameOk bs then some (frameOf bs) else none
  | none => none

end Sys2Proof.Machine
end

