-- ==== Sys2Proof/Machine/Dig.lean ====
section
/-! DEFINITION. Digests and replica comparison (R274 to R281, R286, R287). -/
namespace Sys2Proof.Machine

def digOf (s : State) (r : Nat) : Dig := mapGet {} s.digs r
def setDig (s : State) (r : Nat) (g : Dig) : State := { s with digs := mapPut {} s.digs r g }

/-- The digests of one group that were reported. -/
def reported (reps : List (Nat × Nat × List (Nat × Nat))) (j : Nat) : List (Nat × Nat) :=
  reps.filterMap (fun t => (t.2.2.find? (fun x => x.1 == j)).map (fun x => (t.2.1, x.2)))

/-- The majority value of a group: held by more than half of the D length of replicas (R276). -/
def majority (dlen : Nat) (vals : List (Nat × Nat)) : Option Nat :=
  (vals.map (·.2)).find? (fun v => decide (dlen < 2 * (vals.filter (fun x => x.2 == v)).length))

/-- Groups that any report names. -/
def namedGroups (reps : List (Nat × Nat × List (Nat × Nat))) : List Nat :=
  reps.foldl (fun a t => t.2.2.foldl (fun a x => setAdd a x.1) a) []

/-- The replicas that reported a group's majority value, and those that reported another. -/
def majorOf (dlen : Nat) (reps : List (Nat × Nat × List (Nat × Nat))) (j : Nat) : List Nat :=
  ((reported reps j).filter (fun x => some x.2 == majority dlen (reported reps j))).map (·.1)
def minorOf (dlen : Nat) (reps : List (Nat × Nat × List (Nat × Nat))) (j : Nat) : List Nat :=
  ((reported reps j).filter (fun x => some x.2 != majority dlen (reported reps j))).map (·.1)

/-- The replicas that may be a group's source, in ascending order of d. -/
def sourcesOf (dlen : Nat) (reps : List (Nat × Nat × List (Nat × Nat))) (j : Nat) : List Nat :=
  (majorOf dlen reps j).foldl (fun a x => setAdd a x) []

/-- The distinct values that were reported of a group. -/
def distinctOf (reps : List (Nat × Nat × List (Nat × Nat))) (j : Nat) : Nat :=
  (((reported reps j).map (·.2)).foldl (fun a v => setAdd a v) []).length

/-- What the comparer decides and reports to every replica (R276, R277): a repair names its group, the replica repaired and
its source, the majority replica with the lowest d. -/
def decide276 (dlen : Nat) (reps : List (Nat × Nat × List (Nat × Nat))) : DigReport :=
  let js := namedGroups reps
  let none? (j : Nat) : Bool := (majority dlen (reported reps j)).isNone
  match js.find? none? with
  | some j => .split j (distinctOf reps j) reps.length (js.filter none?).length
  | none =>
    if reps.length == dlen && js.all (fun j => (majorOf dlen reps j).length == dlen) then .agreed
    else
      .repaired (js.flatMap (fun j =>
        (minorOf dlen reps j).map (fun d => (j, d, (sourcesOf dlen reps j).headD 0))))

/-- The bytes of a comparer's report. -/
def reportBytes : DigReport → List Byte
  | .agreed => []
  | .repaired fixes => fixes.flatMap (fun f => leBytes 4 f.1 ++ leBytes 1 f.2.1 ++ leBytes 1 f.2.2)
  | .split first distinct n groups => leBytes 4 first ++ leBytes 1 distinct ++ leBytes 1 n ++ leBytes 4 groups
def reportKind : DigReport → Nat
  | .agreed => 1
  | .repaired _ => 2
  | .split _ _ _ _ => 3

/-- The comparer's report goes to every other replica of the job's box (R276). -/
def sendReports (s : State) (r step : Nat) (rep : DigReport) : State :=
  let b := reg s pgTor (0x110 + 8 * pseJob s r)
  (upTo (jobDLen s (pseJob s r))).foldl (fun s k =>
    digSend s r (bits b 0 6 + k) (reportKind rep) (reportBytes rep).length step (reportBytes rep)) s

/-- The comparer decides a step with the reports it holds (R275). -/
def digDecide (s : State) (r step : Nat) : State :=
  let g := digOf s r
  let dlen := jobDLen s (pseJob s r)
  let reps := g.reports.filter (fun t => t.1 == step)
  let rep := decide276 dlen reps
  let s := if dlen ≤ reps.length then s else bump s (pgDig r) 3 (dlen - reps.length)
  let fixed : List Nat := match rep with
    | .repaired fixes => (fixes.map (·.1)).foldl (fun a j => setAdd a j) []
    | _ => []
  sendReports (setDig s r { g with
    reports := g.reports.filter (fun t => t.1 != step), firstAt := mapPut 0 g.firstAt step 0
    majors := g.majors.filter (fun m => !fixed.contains m.group) ++ fixed.map (fun j =>
      { step := step, group := j, from_ := sourcesOf dlen reps j, distinct := distinctOf reps j, count := reps.length })
    decided := g.decided ++ [(step, rep)] }) r step rep

/-- DIGEST_REPORT: a replica's digests reach the comparer; the package's own are those of its table. -/
def opDigestReport (s : State) (r d step : Nat) (groups : List (Nat × Nat)) : State :=
  let g := digOf s r
  let own := g.sent.find? (fun t => t.step == step)
  let ok := isComparer s r &&
    (d != ownD s || (match own with
      | some t => groups == ownDigests s r t.groups
      | none => false))
  if !ok || g.reports.any (fun t => t.1 == step && t.2.1 == d) || g.decided.any (fun t => t.1 == step) then s
  else
    let s := setDig s r { g with
      reports := g.reports ++ [(step, d, groups)]
      firstAt := if g.reports.any (fun t => t.1 == step) then g.firstAt else mapPut 0 g.firstAt step (s.time + 1) }
    if jobDLen s (pseJob s r) ≤ ((digOf s r).reports.filter (fun t => t.1 == step)).length then digDecide s r step else s

/-- COMPARER_WAIT_EXPIRY: WAIT_US has passed since a step's first report. -/
def opComparerWait (s : State) (r : Nat) : State :=
  let g := digOf s r
  let w := 1000 * regF s (pgDig r) 0x100 24 16
  match g.firstAt.find? (fun e => decide (e.2 - 1 + w ≤ s.time)) with
  | none => s
  | some e => digDecide s r e.1

/-- The step's comparison is settled: its publication no longer waits for it. -/
def pubFine (s : State) (r step : Nat) (repairs : List Nat) (source : Nat) : State :=
  let u := upfOf s r
  setUpf s r { u with pubs := u.pubs.map (fun p =>
    if p.step = step then { p with cmp := 2, repairs := p.repairs ++ repairs, source := source } else p) }

/-- The comparer takes the majority replica with the next higher d as the source of a repair, or finds the outcome SPLIT
(R469). -/
def nextSource (s : State) (r step group dst failed : Nat) : State :=
  let g := digOf s r
  match g.majors.find? (fun m => m.step == step && m.group == group) with
  | none => s
  | some m =>
    let rep : DigReport := match m.from_.find? (fun d => decide (failed < d)) with
      | some d => .repaired [(group, dst, d)]
      | none => .split group m.distinct m.count 1
    sendReports (setDig s r { g with decided := g.decided ++ [(step, rep)] }) r step rep

/-- A source cannot read what it should send: where a comparison asked for it, the comparer is told (R469). -/
def sourceFailed (s : State) (r group dst : Nat) (step : Option Nat) : State :=
  match step with
  | none => s
  | some n =>
    if isComparer s r then nextSource s r n group dst (ownD s)
    else digSend s r (regF s (pgDig r) 0x100 16 6) 6 group n (leBytes 1 dst)

/-- Master and moments of a group are read and sent over the D axis to the replica that is repaired (R277). -/
def repairSend (s : State) (r group dst : Nat) (step : Option Nat) : State :=
  match (upfOf s r).lastDescs.find? (fun e => e.1 == group) with
  | none => s
  | some e =>
    let d := gdescOf e.2
    let n := 2 * gdElems d
    match stateBad s d with
    | some g => sourceFailed (stateUncorr s (if d.isG then pgUps else pgUpf r) g (pseJob s r)) r group dst step
    | none =>
      let bs := rdMem s d.w n ++ rdMem s d.m1 n ++ rdMem s d.m2 n
      digSend { s with repairOut := s.repairOut ++ [(r, group, bs)] } r dst 5 group (upfOf s r).lastStep bs

/-- The step awaits its comparison, or its publication does: a SPLIT still bears on it. -/
def stepOpen (s : State) (r step : Nat) : Bool :=
  (digOf s r).sent.any (fun t => t.step == step) || (upfOf s r).pubs.any (fun p => p.step == step && p.cmp != 3)

/-- The step's repairs get a new source (R469). -/
def pubSource (s : State) (r step : Nat) (fixes : List (Nat × Nat × Nat)) : State :=
  let u := upfOf s r
  setUpf s r { u with pubs := u.pubs.map (fun p =>
    if p.step = step then { p with source := ((fixes.find? (fun f => f.2.1 == ownD s)).map (·.2.2)).getD p.source } else p) }

/-- COMPARISON_REPORT: the comparer's report reaches this replica (R276). A source of repairs reads and sends at once
(R277); a SPLIT may still follow a repair whose digest did not match, and a repair with the next source one that its source
could not make (R469). -/
def opComparison (s : State) (r step : Nat) (rep : DigReport) : State :=
  let g := digOf s r
  let mine := !(isComparer s r) || g.decided.contains (step, rep)
  let sent := g.sent.any (fun t => t.step == step)
  let s' := setDig s r { g with
    sent := g.sent.filter (fun t => t.step != step), decided := g.decided.filter (fun t => t.1 != step) }
  if !mine then s
  else
    match rep with
    | .split first distinct n groups =>
      if stepOpen s r step then digSplit s' r step first distinct n groups else s
    | .agreed =>
      if sent then
        pubFine (setReg (setReg (setReg s' (pgDig r) 0x110 step) (pgDig r) 0x118 1) (pgDig r) 0x120 step) r step [] 0
      else s
    | .repaired fixes =>
      if sent then
        let own := fixes.filter (fun f => f.2.1 == ownD s)
        let groups := (fixes.map (·.1)).foldl (fun a j => setAdd a j) []
        let s := setReg (setReg s' (pgDig r) 0x118 (2 + 2 ^ 16 * (groups.length % 2 ^ 16))) (pgDig r) 0x120 step
        let s := (fixes.filter (fun f => f.2.2 == ownD s)).foldl (fun s f => repairSend s r f.1 f.2.1 (some step)) s
        pubFine s r step (own.map (·.1)) ((own.map (·.2.2)).headD 0)
      else
        pubSource ((fixes.filter (fun f => f.2.2 == ownD s)).foldl (fun s f => repairSend s r f.1 f.2.1 (some step)) s')
          r step fixes

/-- REPLICA_REPAIRED's event (R277, R287). -/
def repairedEvent (s : State) (r step n src : Nat) : State :=
  let clean := reg s (pgDig r) 0x110
  raiseEvt s (pgDig r) 0 [pseJob s r] 0
    (leBytes 8 step ++ leBytes 2 n ++ leBytes 1 src ++ leBytes 1 0 ++ leBytes 4 (min (step - clean) 0xFFFFFFFF))

/-- The repair data of a group is written, its slot re-quantised and its digest recomputed (R277). -/
def writeRepair (s : State) (r j step slot job : Nat) (d : GDesc) (data : List Byte) : State :=
  let n := 2 * gdElems d
  let s := wrMem (wrMem (wrMem s d.w (padTo n data)) d.m1 (padTo n (data.drop n))) d.m2 (padTo n (data.drop (2 * n)))
  let s := (quantiseTo s d slot job).1
  writeDigest s r j (digestOf s d) step

/-- The descriptor of a group in a list of groups. -/
def descOfGroup (l : List (Nat × List Byte)) (group : Nat) : List Byte := ((l.find? (fun e => e.1 == group)).map (·.2)).getD []

/-- A repaired group whose digest is not the majority's makes the outcome SPLIT (R277); how many distinct values and
replicas the comparer counted is not known at the repaired replica. -/
def repairSplit (s : State) (r step group : Nat) : State :=
  digSplit { s with free := s.free + 2 } r step group (Config.freeNat s.free) (Config.freeNat (s.free + 1)) 1

/-- The repair data of a torn group of the running command. -/
def repairTorn (s : State) (r group maj : Nat) (data : List Byte) (x : UpfRun) : State :=
  let s := writeRepair s r group x.step x.slotAddr x.job (gdescOf (descOfGroup (runDescs x) group)) data
  let s := bump s (pgDig r) 1 1
  let left := x.torn.filter (fun j => j != group)
  let s := setUpfRun s r { x with torn := left }
  if rdNum s (digEntry s r group) 8 ≠ maj then upfGo (repairSplit s r x.step group) r
  else if left ≠ [] then s
  else upfGo (repairedEvent s r x.step x.tornN (tornSource s x.job)) r

/-- The repair data of a group that a pending publication waits for. -/
def repairPub (s : State) (r group maj : Nat) (data : List Byte) (p : PubRun) : State :=
  let slot := match fillingOf (pseOf s r) p.step with
    | some n => vslotAddr s r n
    | none => 0
  let s := writeRepair s r group p.step slot (pseJob s r) (gdescOf (descOfGroup p.descs group)) data
  let s := bump s (pgDig r) 1 1
  let left := p.repairs.filter (fun j => j != group)
  let n := p.repaired + 1
  let u := upfOf s r
  let s := setUpf s r { u with pubs := u.pubs.map (fun q =>
    if q.step = p.step then { q with repairs := left, repaired := if left = [] then 0 else n } else q) }
  if rdNum s (digEntry s r group) 8 ≠ maj then repairSplit s r p.step group
  else if left ≠ [] then s
  else upfGo (digestsGo (repairedEvent s r p.step n p.source) r p.step) r

/-- REPLICA_REPAIRED for a torn group of the running command, or for a group whose repair a publication awaits. -/
def opRepaired (s : State) (r group maj : Nat) (data : List Byte) : State :=
  let u := upfOf s r
  match u.run.filter (fun x => x.torn.contains group), u.pubs.find? (fun p => p.repairs.contains group) with
  | some x, _ => repairTorn s r group maj data x
  | none, some p => repairPub s r group maj data p
  | none, none => s

/-- DIGEST_LATE (R279). -/
def opDigestLate (s : State) (r : Nat) : State :=
  let g := digOf s r
  match g.sent.find? (fun t => decide (t.at_ + 2000 * regF s (pgDig r) 0x100 24 16 ≤ s.time)) with
  | none => s
  | some t =>
    let s := setDig s r { g with sent := g.sent.filter (fun y => y.step != t.step) }
    let s := setReg (setReg s (pgDig r) 0x118 4) (pgDig r) 0x120 t.step
    pubFine (raiseErr s (pgDig r) 9 {} [] []) r t.step [] 0

/-- REPAIR_REQUEST at a source: a replica's DIG asks for a torn group (R281). -/
def opRepairRequest (s : State) (r group dst : Nat) : State := repairSend s r group dst none

end Sys2Proof.Machine
end

