-- ==== Sys2Proof/Machine/Gxe.lean ====
section
/-! DEFINITION. The gradient exchange engine (R288 to R320). -/
namespace Sys2Proof.Machine

def gxeOf (s : State) (j : Nat) : Gxe := mapGet {} s.gxes j
def setGxe (s : State) (j : Nat) (g : Gxe) : State := { s with gxes := mapPut {} s.gxes j g }

/-! ### Configuration set of a job -/

def jcfg (s : State) (j : Nat) : Nat := reg s pgGxe (0x100 + 0x40 * j)
def jEnable (s : State) (j : Nat) : Bool := bit (jcfg s j) 0
def jLen (s : State) (j : Nat) : Nat := bits (jcfg s j) 8 6 + 1
def jBase (s : State) (j : Nat) : Nat := bits (jcfg s j) 16 6
/-- Own replica index (R288). -/
def jOwn (s : State) (j : Nat) : Nat := ownD s - jBase s j
def jTable (s : State) (j : Nat) : Nat := reg s pgGxe (0x110 + 0x40 * j)
def jFcst (s : State) (j : Nat) : Nat := reg s pgGxe (0x118 + 0x40 * j)
def jStore (s : State) (j : Nat) : Nat := reg s pgGxe (0x120 + 0x40 * j)
def jSizes (s : State) (j : Nat) : Nat := reg s pgGxe (0x128 + 0x40 * j)
def jBuckets (s : State) (j : Nat) : Nat := bits (jSizes s j) 0 9
def jSlots (s : State) (j : Nat) : Nat := bits (jSizes s j) 16 7
def jSlotBytes (s : State) (j : Nat) : Nat := 2 ^ 20 * bits (jSizes s j) 32 16
/-- A ring register: base and number of entries. -/
def ringBase (v : Nat) : Nat := v / 4096 * 4096
def ringLen (v : Nat) : Nat := 2 ^ bits v 0 5
def jRec (s : State) (j : Nat) : Nat := reg s pgGxe (0x130 + 0x40 * j)
def jDlog (s : State) (j : Nat) : Nat := reg s pgGxe (0x138 + 0x40 * j)

/-! ### Buckets and extents (Tables 10-1, 10-2) -/

structure BDesc where
  extents : Nat
  bs1 : Bool
  drop : Bool
  region : Nat
  extAddr : Nat
  gtab : Nat
deriving DecidableEq, Repr

def bdescOf (b : List Byte) : BDesc :=
  { extents := bits (num b 0 1) 0 5, bs1 := bit (num b 1 1) 0, drop := bit (num b 1 1) 1
    region := 16 * bits (num b 2 1) 4 1 + bits (num b 2 1) 0 4, extAddr := num b 8 8, gtab := num b 16 8 }

structure Ext where
  group : Nat
  clu : Bool
  cluster : Nat
  nrec : Nat
  e0 : Nat
  len : Nat
  fcst : Nat
  src : Nat
  err : Nat
  recs : Nat
deriving DecidableEq, Repr

def extOf (b : List Byte) : Ext :=
  { group := num b 0 2, clu := bit (num b 2 1) 0, cluster := bits (num b 2 1) 1 3, nrec := bits (num b 3 1) 0 5
    e0 := num b 4 4, len := num b 8 4, fcst := num b 12 2, src := num b 16 8, err := num b 24 8, recs := num b 32 8 }

def bucketBytes (s : State) (j b : Nat) : List Byte := rdMem s (jTable s j + 64 * b) 64
def bucketOf (s : State) (j b : Nat) : BDesc := bdescOf (bucketBytes s j b)
def extBytes (s : State) (d : BDesc) (x : Nat) : List Byte := rdMem s (d.extAddr + 64 * x) 64
def extsOf (s : State) (d : BDesc) : List Ext := (upTo d.extents).map (fun x => extOf (extBytes s d x))
/-- Elements and blocks of a bucket. -/
def bucketN (xs : List Ext) : Nat := xs.foldl (fun a x => a + x.len) 0
/-- The update group of an extent. -/
def extGroup (s : State) (d : BDesc) (x : Ext) : GDesc := gdescOf (rdMem s (d.gtab + 64 * x.group) 64)

/-- The forms of a bucket descriptor (R291). -/
def bucketForm (b : List Byte) : Bool :=
  let d := bdescOf b
  within d.extents 1 16 && bits (num b 0 1) 5 3 == 0 && bits (num b 1 1) 2 6 == 0 && bits (num b 2 1) 5 3 == 0 &&
    num b 3 5 == 0 && allZero (sub b 24 40) && d.extAddr % 64 == 0 && d.gtab % 64 == 0 && (!d.bs1 || d.drop)

/-- The forms of an extent descriptor (R292). -/
def extForm (s : State) (d : BDesc) (b : List Byte) : Bool :=
  let x := extOf b
  let g := extGroup s d x
  bits (num b 2 1) 4 4 == 0 && bits (num b 3 1) 5 3 == 0 && decide (x.nrec ≤ 16) && x.e0 % 32 == 0 && x.len % 32 == 0 &&
    decide (x.e0 + x.len ≤ gdElems g) && num b 14 2 == 0 && allZero (sub b 40 24) &&
    (if d.bs1 then decide (0 < x.fcst) && decide (x.fcst < 0x7F80) else within x.fcst 1 0xFE) &&
    (upTo x.nrec).all (fun i =>
      let e := rdNum s (x.recs + 8 * i) 8
      bits e 11 21 == 0 && bits e 53 11 == 0 && bits e 32 21 % 64 == 0) &&
    (!x.clu || x.src % 64 == 0)

/-- First and past-last block of a shard (R289). -/
def shardLo (d nb k : Nat) : Nat := k * nb / d
def shardBlocks (d nb k : Nat) : Nat := shardLo d nb (k + 1) - shardLo d nb k
def shardChunks (d nb k : Nat) : Nat := cdiv (shardBlocks d nb k) 64

/-- The extent that holds a block, its number, and the block's number within it. -/
def blockExt : List Ext → Nat → Nat → Option (Nat × Ext × Nat)
  | [], _, _ => none
  | x :: xs, i, b => if b < x.len / 32 then some (i, x, b) else blockExt xs (i + 1) (b - x.len / 32)

/-! ### Packets (R298, R306) -/

/-- The bytes of a packet (Table 10-3). -/
def pktBytes (ty : Nat) (p : GxePkt) : List Byte :=
  leBytes 1 ty ++ leBytes 1 (b2n p.bs1) ++ leBytes 1 p.blocks ++ leBytes 1 p.job ++ leBytes 2 p.bucket ++
    leBytes 1 p.src ++ leBytes 1 p.shard ++ leBytes 4 p.stepLo ++ leBytes 2 p.chunk ++ leBytes 2 0 ++
    leBytes 8 p.nonfinite ++ leBytes 8 p.check ++ p.payload

/-- a^n mod p61 for n below 2^fuel. -/
def powMod (a n : Nat) : Nat → Nat
  | 0 => 1
  | fuel + 1 =>
    let h := powMod (a * a % p61) (n / 2) fuel
    if n % 2 = 1 then a * h % p61 else h

/-- w(j) of R306. -/
def gxeW (j : Nat) : Nat := powMod (0x0F2C9A61D4B37E15 % p61) (j + 1) 40

/-- An integer as a value modulo p61. -/
def intMod (x : Int) : Nat := (x % (p61 : Int)).toNat

/-- Σ q_j × w(j) of values from bucket element `j0` on. -/
def checkOf (j0 : Nat) (qs : List Int) : Nat :=
  (qs.foldl (fun (a : Nat × Nat) q => ((a.1 + intMod q * gxeW a.2) % p61, a.2 + 1)) (0, j0)).1

/-- The integers of a chunk's payload (R148, R149, R300). -/
def chunkInts (bs1 : Bool) (blocks : Nat) (payload : List Byte) : List Int :=
  if bs1 then (upTo (32 * blocks)).map (fun i => if bit (num payload (i / 8) 1) (i % 8) then -1 else 1)
  else (upTo (32 * blocks)).map (fun i => sgn 8 (num payload i 1))

/-- Coordinate of a replica (R288). -/
def replicaCoord (s : State) (j k : Nat) : Nat := withC (ownCoord s) 0 (jBase s j + k)

/-- A packet goes to a replica: to this engine itself, or onto the D axis (R290, R297). -/
def sendPkt (s : State) (j dst ty : Nat) (p : GxePkt) : State :=
  if dst = jOwn s j then setGxe s j { gxeOf s j with self := (gxeOf s j).self ++ [(ty, p)] }
  else sendTo s 3 (replicaCoord s j dst) (pktBytes ty p)

/-- An entry of the digest log ring (R310). -/
def dlog (s : State) (j step bucket shard peer kind check : Nat) : State :=
  let g := gxeOf s j
  let a := ringBase (jDlog s j) + 32 * (g.dlogNext % ringLen (jDlog s j))
  let e := leBytes 8 step ++ leBytes 2 bucket ++ leBytes 1 shard ++ leBytes 1 peer ++ leBytes 1 kind ++ leBytes 3 0 ++
    leBytes 8 check ++ leBytes 8 s.time
  wrFab (setGxe s j { g with dlogNext := (g.dlogNext + 1) % 2 ^ 32 }) a e j

/-! ### The forecast table (R293, R295) -/

def fcstAddr (s : State) (j b : Nat) : Nat := jFcst s j + 64 * b
def fcstStep (s : State) (j b : Nat) : Nat := rdNum s (fcstAddr s j b) 8
def fcstVals (s : State) (j b : Nat) : List Nat := (upTo 16).map (fun x => rdNum s (fcstAddr s j b + 8 + 2 * x) 2)
def fcstInit (s : State) (j b : Nat) : List Nat := (extsOf s (bucketOf s j b)).map (·.fcst)

/-- The values that the table gives (R293). -/
def fcstTable (s : State) (j b : Nat) : List Nat := if fcstStep s j b = 2 ^ 64 - 1 then fcstInit s j b else fcstVals s j b

/-- The values of a step of a bucket that this package has used or holds beside the table. -/
def fcstHeld (s : State) (j b step : Nat) : Option (List Nat) :=
  (((gxeOf s j).used ++ (gxeOf s j).vals).find? (fun v => v.1 == b && v.2.1 == step)).map (·.2.2)

/-- The values of a step of a bucket, for its owner: those it used or holds, else the table's. -/
def fcstOf (s : State) (j b step : Nat) : List Nat := (fcstHeld s j b step).getD (fcstTable s j b)

/-- The values of a step have reached this package. -/
def fcstKnown (s : State) (j b step : Nat) : Bool :=
  (fcstHeld s j b step).isSome || fcstStep s j b == step || fcstStep s j b == 2 ^ 64 - 1

/-- Held values are written to the table. -/
def writeFcst (s : State) (j b step : Nat) (vals : List Nat) : State :=
  let g := gxeOf s j
  let s := setGxe s j { g with vals := g.vals.filter (fun v => !(v.1 == b && v.2.1 == step)) }
  wrFab s (fcstAddr s j b) (leBytes 8 step ++ padTo 32 (vals.flatMap (leBytes 2)) ++ List.replicate 24 0) j

/-- One extent's value for the next step (R295), from its merged record of 68 words. -/
def nextFcst (bs1 : Bool) (clip headroom slew f : Nat) (words : List Nat) : Nat :=
  let n (b : Nat) : Nat := words.getD b 0
  let t := ((upTo 64).map n).foldl (· + ·) 0
  if t = 0 then f
  else if bs1 then
    let b := ((upTo 64).find? (fun b => decide (t ≤ 2 * ((upTo (b + 1)).map n).foldl (· + ·) 0))).getD 63
    encBf (.fin false 3 ((b : Int) - 41))
  else
    let c := t * clip / 1000000
    let tail (b : Nat) : Nat := ((upTo (64 - b)).map (fun i => n (b + i))).foldl (· + ·) 0
    let b := ((upTo 64).reverse.find? (fun b => decide (c < tail b))).getD 0
    let x : Int := (b : Int) - 40 + 128 + headroom
    (max 1 (min 0xFE (max ((f : Int) - slew) (min ((f : Int) + slew) x)))).toNat

/-- Corresponding words add, each stopping at 0xFFFF_FFFF (R294). -/
def mergeWords (a b : List Nat) : List Nat := (upTo 68).map (fun i => min (a.getD i 0 + b.getD i 0) 0xFFFFFFFF)

def recWords (b : List Byte) : List Nat := (upTo 68).map (fun i => num b (4 * i) 4)

/-! ### GXE_BUCKET_READY (R294, R296, R297, R317) -/

/-- R57 steps 3 and 4 for the GXE page. -/
def chkGxe (s : State) (c : QCmd) : Option Nat :=
  formThen ((if c.op = 1 then bz c 26 30 else bz c 16 40) && syncFmt c true) (c.op != 1 || jEnable s c.job)

/-- Bytes that a shard's contribution needs in a store slot. -/
def contribBytes (bs1 : Bool) (blocks : Nat) : Nat := blocks * (if bs1 then 4 else 32)

/-- BUCKET_READY commands of a job that have started and wait for their forecast entry (R294). -/
def fcstWait (s : State) (j : Nat) : List RCmd :=
  (engOf s (pgGxe * 2)).running.filter (fun y => y.fin.isNone && y.cmd.op == 1 && y.cmd.job == j && y.prog == 1)

/-- A BUCKET_READY of the bucket is pending (R317). -/
def readyPending (s : State) (j b : Nat) : Bool :=
  (gxeOf s j).ready.any (fun r => r.bucket == b && !r.ended) || (fcstWait s j).any (fun y => bf y.cmd 24 2 == b)

/-- The number of pending BUCKET_READY commands of a job (Table 10-8). -/
def readyOpen (s : State) (j : Nat) : Nat :=
  ((gxeOf s j).ready.filter (fun y => !y.ended)).length + (fcstWait s j).length

/-- The number of shards of a job that are open and have a contribution (Table 10-8). -/
def gxeOwned (g : Gxe) : Nat := (g.shards.filter (fun x => x.closedAt == 0 && !x.contribs.isEmpty)).length

/-- The FORMAT_ERROR cases of R317 and R391. -/
def readyForm (s : State) (j step b : Nat) : Bool :=
  let bb := bucketBytes s j b
  let d := bdescOf bb
  let xs := extsOf s d
  let n := bucketN xs
  let dl := jLen s j
  let box := reg s pgTor (0x110 + 8 * j)
  let most := (upTo dl).foldl (fun a k => max a (shardBlocks dl (n / 32) k)) 0
  decide (b < jBuckets s j) && bucketForm bb && (upTo d.extents).all (fun x => extForm s d (extBytes s d x)) &&
    decide (n ≤ 67108864) && (decide (1048576 ≤ n) || b + 1 == jBuckets s j) && decide (dl ≤ n / 32) &&
    !(readyPending s j b) &&
    (decide (fcstStep s j b ≤ step) || fcstStep s j b == 2 ^ 64 - 1) &&
    decide (contribBytes d.bs1 most * (2 * dl) ≤ jSlotBytes s j) &&
    bit box 48 && bits box 6 6 + 1 == dl && bits box 0 6 == jBase s j

/-- The addresses of an extent lie in the job's memory (R317, R538). -/
def extAccess (s : State) (j : Nat) (d : BDesc) (x : Ext) : Bool :=
  let g := extGroup s d x
  stackedOk s j (d.gtab + 64 * x.group) 64 && stackedOk s j x.err (2 * x.len) && stackedOk s j g.grad (landBytes g) &&
    (if x.clu then cluOk s (8 * d.region + x.cluster) j x.src (64 + 4 * x.len) else stackedOk s j x.src (2 * x.len)) &&
    (x.nrec == 0 || (stackedOk s j x.recs (8 * x.nrec) &&
      (upTo x.nrec).all (fun i =>
        let e := rdNum s (x.recs + 8 * i) 8
        jobHasCore s j (bits e 0 11) && (upTo 4).any (fun c =>
          ctxBound s (bits e 0 11) c && ctxJob s (bits e 0 11) c == j && scratchOk s (bits e 0 11) c (bits e 32 21) 272))))

def readyAccess (s : State) (j b : Nat) : Bool :=
  let d := bucketOf s j b
  jEnable s j && stackedOk s j (jTable s j + 64 * b) 64 && stackedOk s j (fcstAddr s j b) 64 &&
    stackedOk s j d.extAddr (64 * d.extents) && (extsOf s d).all (extAccess s j d) &&
    stackedOk s j (jStore s j) (jSlots s j * jSlotBytes s j) &&
    stackedOk s j (ringBase (jRec s j)) (64 * ringLen (jRec s j)) &&
    stackedOk s j (ringBase (jDlog s j)) (32 * ringLen (jDlog s j))

/-- Conversion of one block: state with its error memory written, code list, non-finite mark, granules that could not be
read, each once (R150, R296). -/
def quantBlock (s : State) (d : BDesc) (fc : List Nat) (xi : Nat) (x : Ext) (blk : Nat) :
    State × List Nat × Bool × List Nat :=
  (upTo 32).foldl (fun (a : State × List Nat × Bool × List Nat) i =>
    let s := a.1
    let k := 32 * blk + i
    let src := if x.clu then spClu (8 * d.region + x.cluster) + x.src + 64 + 4 * k else x.src + 2 * k
    let bad := match readBad s src (if x.clu then 4 else 2) with
      | some g => some g
      | none => fabBad s (x.err + 2 * k) 2
    match bad with
    | some g => (s, a.2.1 ++ [0], true, setAdd a.2.2.2 g)
    | none =>
      let g := if x.clu then rdNum s src 4 else 2 ^ 16 * rdNum s src 2
      let r := rdNum s (x.err + 2 * k) 2
      let f := fc.getD xi 0
      let c := if d.bs1 then bs1Conv f g r else bs8Conv (f % 256) g r
      (if c.bad then s else wrNum s (x.err + 2 * k) 2 c.r, a.2.1 ++ [c.code], a.2.2.1 || c.bad, a.2.2.2))
    (s, [], false, [])

/-- Payload of a block's codes. -/
def blockPayload (bs1 : Bool) (codes : List Nat) : List Byte :=
  if bs1 then leBytes 4 (codes.foldr (fun c a => c + 2 * a) 0) else codes.map (fun c => BitVec.ofNat 8 c)

/-- The CONTRIB packet of one chunk (R150, R289, R298, R306). -/
def quantChunk (s : State) (j b step : Nat) (d : BDesc) (xs : List Ext) (fc : List Nat) (shard lo chunk n : Nat) :
    State × GxePkt × List Nat :=
  let t := (upTo n).foldl (fun (a : State × List Byte × Nat × List Nat) i =>
    match blockExt xs 0 (lo + 64 * chunk + i) with
    | none => a
    | some (xi, x, blk) =>
      let q := quantBlock a.1 d fc xi x blk
      (q.1, a.2.1 ++ blockPayload d.bs1 q.2.1, a.2.2.1 + b2n q.2.2.1 * 2 ^ i, q.2.2.2.foldl setAdd a.2.2.2))
    (s, [], 0, [])
  let pl := t.2.1
  let p : GxePkt :=
    { bs1 := d.bs1, blocks := n, job := j, bucket := b, src := jOwn s j, shard := shard, stepLo := step % 2 ^ 32
      chunk := chunk, nonfinite := t.2.2.1, payload := pl
      check := checkOf (32 * (lo + 64 * chunk)) (chunkInts d.bs1 n pl) }
  (t.1, p, t.2.2.2)

/-- The chunks of one shard. -/
def quantShard (s : State) (j b step : Nat) (d : BDesc) (xs : List Ext) (fc : List Nat) (shard : Nat) :
    State × List GxePkt × List Nat :=
  let nb := bucketN xs / 32
  let dl := jLen s j
  let lo := shardLo dl nb shard
  let m := shardBlocks dl nb shard
  (upTo (shardChunks dl nb shard)).foldl (fun (a : State × List GxePkt × List Nat) c =>
    let q := quantChunk a.1 j b step d xs fc shard lo c (min 64 (m - 64 * c))
    (q.1, a.2.1 ++ [q.2.1], q.2.2.foldl setAdd a.2.2)) (s, [], [])

/-- The histogram record of an extent: its cores' records merged (R294). -/
def extHist (s : State) (x : Ext) : List Byte :=
  let w := (upTo x.nrec).foldl (fun a i =>
    let e := rdNum s (x.recs + 8 * i) 8
    mergeWords a (recWords (rdMem s (spScratch (bits e 0 11) + bits e 32 21) 272))) (List.replicate 68 0)
  w.flatMap (leBytes 4)

/-- A granule under the descriptors or histogram records of a bucket that cannot be read. -/
def readyBad (s : State) (j b : Nat) : Option Nat :=
  let d := bucketOf s j b
  match fabBad s (jTable s j + 64 * b) 64, fabBad s d.extAddr (64 * d.extents), fabBad s (fcstAddr s j b) 64 with
  | some g, _, _ => some g
  | _, some g, _ => some g
  | _, _, some g => some g
  | _, _, _ =>
    (extsOf s d).findSome? (fun x => (upTo x.nrec).findSome? (fun i =>
      let e := rdNum s (x.recs + 8 * i) 8
      match fabBad s (x.recs + 8 * i) 8 with
      | some g => some g
      | none => readBad s (spScratch (bits e 0 11) + bits e 32 21) 272))

/-- A BUCKET_READY ends once every shard of its step has landed (R317). -/
def readyEnd (s : State) (j : Nat) : State :=
  let g := gxeOf s j
  let dl := jLen s j
  g.ready.foldl (fun s r =>
    let ls := g.landed.filter (fun l => l.1 == r.bucket && l.2.2.1 == r.step)
    if !r.ended && decide (dl ≤ ls.length) then
      let late := (ls.filter (fun l => l.2.2.2)).length
      let s := match engRun s (pgGxe * 2) (fun y => y.cmd.id == r.id) with
        | none => s
        | some y => finish s y (if r.uncorr then stUncorr else stOK)
            (leBytes 2 ls.length ++ leBytes 2 late ++ leBytes 4 0 ++ leBytes 8 (r.lastLand - r.t0))
      let g := gxeOf s j
      setGxe s j { g with
        ready := (g.ready.map (fun y => if y.id = r.id then { y with ended := true } else y)).filter
          (fun y => !(y.ended && y.chunksOf.isEmpty)) }
    else s) s

/-- A bucket is quantised, its HIST and GRANT_REQ packets are sent (R294, R296, R308). -/
def readyGo (s : State) (j : Nat) (y : RCmd) (b step : Nat) : State :=
  let d := bucketOf s j b
  let xs := extsOf s d
  let fc := fcstTable s j b
  let k := jOwn s j
  let dl := jLen s j
  let order := (upTo dl).map (fun i => (k + 1 + i) % dl)
  let head : GxePkt :=
    { bs1 := d.bs1, blocks := 0, job := j, bucket := b, src := k, shard := 0, stepLo := step % 2 ^ 32, chunk := 0
      nonfinite := 0, check := 0, payload := [] }
  let s := sendPkt s j 0 2 { head with blocks := d.extents, payload := xs.flatMap (extHist s) }
  let q := order.foldl (fun (a : State × List (Nat × List GxePkt) × List Nat) sh =>
    let t := quantShard a.1 j b step d xs fc sh
    (t.1, a.2.1 ++ [(sh, t.2.1)], t.2.2.foldl setAdd a.2.2)) (s, [], [])
  let s := q.1
  let marked := q.2.1.foldl (fun a t => a + (t.2.map (fun p => popCount 64 p.nonfinite)).foldl (· + ·) 0) 0
  let s := if marked = 0 then s else bump s pgGxe 10 marked
  let s := q.2.2.foldl (fun s g =>
    raiseErr (uncorrAny (bump s pgGxe 11 1) j g) pgGxe 9 { addr := g, status := stUncorr, fn := j } [j] []) s
  let g := gxeOf s j
  let s := setGxe s j { g with
    ready := g.ready ++ [{ id := y.cmd.id, bucket := b, step := step, t0 := y.since, fc := fc
                           chunksOf := q.2.1, uncorr := !q.2.2.isEmpty, lastLand := s.time }]
    used := (g.used.filter (fun v => !(v.1 == b && decide (v.2.1 + 2 ≤ step)))) ++ [(b, step, fc)]
    stepHi := max g.stepHi step }
  let s := order.foldl (fun s sh => sendPkt s j sh 5 { head with shard := sh }) s
  let s := match (gxeOf s j).vals.find? (fun v => v.1 == b && v.2.1 == step + 1) with
    | some v => writeFcst s j b (step + 1) v.2.2
    | none => s
  readyEnd s j

/-- The direction on the D axis toward a replica. -/
def replicaDir (s : State) (j k : Nat) : Option Nat := routeDir s (ownCoord s) (replicaCoord s j k)

/-- A replica's result comes in through a direction. -/
def resultFrom (s : State) (j k dir : Nat) : Bool :=
  k != jOwn s j && routeDir s (replicaCoord s j k) (ownCoord s) == some (dir ^^^ 1)

/-- A D direction is ABSENT through which a shard of the job must leave, or its result come (R313, R396). -/
def dAbsent (s : State) (j : Nat) : Bool :=
  [0, 1].any (fun dir => (lnkOf s dir).st == 5 &&
    (upTo (jLen s j)).any (fun k => resultFrom s j k dir || replicaDir s j k == some dir))

/-- GXE_BUCKET_READY: the command is judged, waits for its forecast entry, or goes; one whose shards cannot all land, for a
D direction is ABSENT, ends with LINK_LOST (R313). -/
def opBucketReady (s : State) (id : Nat) : State :=
  match engRun s (pgGxe * 2) (fun y => y.cmd.id == id && y.cmd.op == 1 && y.prog ≤ 1) with
  | none => s
  | some y =>
    let j := y.cmd.job
    let step := bf y.cmd 16 8
    let b := bf y.cmd 24 2
    let judged := if y.prog = 0 then formThen (readyForm s j step b) (readyAccess s j b) else none
    match judged, (if y.prog = 0 then readyBad s j b else none) with
    | some st, _ => finish s y st []
    | none, some g => finish (bump (uncorrAny s j g) pgGxe 11 1) y stUncorr []
    | none, none =>
      if dAbsent s j then raiseErr (finish s y stLinkLost []) pgGxe 10 { status := stLinkLost, fn := j } [] [] else
      let est := fcstStep s j b
      let s := match (gxeOf s j).vals.find? (fun v => v.1 == b && v.2.1 == step) with
        | some v => if est < step ∨ est = 2 ^ 64 - 1 then writeFcst s j b step v.2.2 else s
        | none => s
      let est := fcstStep s j b
      if est = step ∨ est = 2 ^ 64 - 1 then readyGo (setRun s (pgGxe * 2) { y with prog := 2 }) j y b step
      else if step < est then finish s y stFormat []
      else
        setRun s (pgGxe * 2) { y with prog := 1 }

/-! ### Owner: requests and grants (R299, R301, R302, R308) -/

/-- The packet is discarded and counted (R299). -/
def pktBad (s : State) (p : GxePkt) : Bool :=
  !(jEnable s p.job) || decide (jBuckets s p.job ≤ p.bucket) || decide (jLen s p.job ≤ p.src)

/-- A packet from this engine itself is one that it has queued for itself; taking it removes it. -/
def takeSelf (s : State) (ty : Nat) (p : GxePkt) : Option State :=
  if p.src = jOwn s p.job then
    let g := gxeOf s p.job
    if g.self.contains (ty, p) then some (setGxe s p.job { g with self := g.self.erase (ty, p) }) else none
  else some s

/-- The step whose low 32 bits a packet carries, nearest to the highest step seen. -/
def fullStep (g : Gxe) (lo : Nat) : Nat :=
  let b := g.stepHi - g.stepHi % 2 ^ 32 + lo
  if b + 2 ^ 31 < g.stepHi then b + 2 ^ 32
  else if g.stepHi + 2 ^ 31 < b ∧ 2 ^ 32 ≤ b then b - 2 ^ 32 else b

def shardKey (b step : Nat) (x : GShard) : Bool := x.bucket == b && x.step == step
def shardOf (g : Gxe) (b step : Nat) : GShard := (g.shards.find? (shardKey b step)).getD { bucket := b, step := step }
def setShard (g : Gxe) (x : GShard) : Gxe :=
  { g with shards := (g.shards.filter (fun y => !(shardKey x.bucket x.step y))) ++ [x] }
def isClosed (g : Gxe) (b step : Nat) : Bool := g.closed.any (fun c => c.1 == b && c.2.1 == step)

/-- A GRANT packet answers a request (R308). -/
def sendGrant (s : State) (j b dst step : Nat) : State :=
  sendPkt s j dst 6
    { bs1 := (bucketOf s j b).bs1, blocks := 0, job := j, bucket := b, src := jOwn s j, shard := jOwn s j
      stepLo := step % 2 ^ 32, chunk := 0, nonfinite := 0, check := 0, payload := [] }

/-- The lowest store slot that no shard holds. -/
def freeStore (s : State) (j : Nat) : Option Nat :=
  (upTo (jSlots s j)).find? (fun i => !((gxeOf s j).shards.any (fun x => x.slot == i + 1)))

/-- A shard with a slot grants its waiting requests; one without takes a slot first if one is free. What the bytes of a
slot hold is not laid out: they are not defined from then on. -/
def grantShard (s : State) (j : Nat) (x : GShard) : State :=
  if x.contribs.all (fun c => c.granted) then s
  else
    let take : Option (State × Nat) :=
      if x.slot ≠ 0 then some (s, x.slot)
      else (freeStore s j).map (fun i => (undefRows s 1 (jStore s j + i * jSlotBytes s j) 0 (jSlotBytes s j), i + 1))
    match take with
    | none => s
    | some (s, slot) =>
      let s := x.contribs.foldl (fun s c => if c.granted then s else sendGrant s j x.bucket c.src x.step) s
      setGxe s j (setShard (gxeOf s j)
        { x with slot := slot, contribs := x.contribs.map (fun c => { c with granted := true }) })

/-- Waiting requests are served in ascending order of step and bucket. -/
def serveGrants (s : State) (j : Nat) : State :=
  let xs := (gxeOf s j).shards
  let steps := xs.foldl (fun a x => setAdd a (65536 * x.step + x.bucket)) []
  steps.foldl (fun s k => grantShard s j (shardOf (gxeOf s j) (k % 65536) (k / 65536))) s

/-- The straggler window in ns (R301). -/
def windowNs (s : State) (j : Nat) : Nat :=
  let w := reg s pgGxe (0x108 + 0x40 * j)
  let prev := (gxeOf s j).prevNs
  if prev = 0 then 1000 * bits w 32 32 else max (1000 * bits w 8 24) (bits w 0 8 * prev / 1000)

/-- STRAGGLER (R302, R320). -/
def straggler (s : State) (p : GxePkt) (step closedAt : Nat) (deferred : Bool) : State :=
  raiseEvt (bump s pgGxe (if deferred then 6 else 7) 1) pgGxe 0 [p.job] (if deferred then stStragDeferred else stStragDropped)
    (leBytes 8 step ++ leBytes 2 p.bucket ++ leBytes 1 p.shard ++ leBytes 1 p.src ++
      leBytes 4 (min ((s.time - closedAt) / 1000000) 0xFFFFFFFF))

/-! ### Owner: close and result (R303 to R305, R307) -/

/-- rne of a rational (R304). -/
def rneQuot (x : Int) (d : Nat) : Int :=
  if d = 0 then 0
  else
    let q : Int := x / (d : Int)
    let r : Int := x % (d : Int)
    if (d : Int) < 2 * r ∨ (2 * r = (d : Int) ∧ q % 2 = 1) then q + 1 else q

/-- rne_int(s × m × 2^e ÷ n). -/
def meanAt (sum : Int) (m : Nat) (e : Int) (n : Nat) : Int :=
  if 0 ≤ e then rneQuot (sum * m * 2 ^ e.toNat) n else rneQuot (sum * m) (n * 2 ^ (-e).toNat)

/-- X and q of a block from its sums, in units of m × 2^u (R304). -/
def roundBlock (sums : List Int) (m : Nat) (u : Int) (n : Nat) : Nat × List Int :=
  let qs (x : Nat) : List Int := sums.map (fun t => meanAt t m (u + 134 - x) n)
  let x := ((upTo 254).map (· + 1)).find? (fun x => (qs x).all (fun q => decide (q.natAbs ≤ 127)))
  match x with
  | some x => (x, qs x)
  | none => (0xFE, qs 0xFE)

/-- Shift of a contribution's integers in a block whose extent has number `xi` (R303). -/
def shiftOf (c : GContrib) (old new : List Nat) (anyDef : Bool) (xi : Nat) : Nat :=
  if !anyDef then 0
  else
    let u := min (old.getD xi 0) (new.getD xi 0)
    (if c.deferred then old.getD xi 0 else new.getD xi 0) - u

/-- A contribution's integer for element `e` of block `b` of the shard. -/
def contribInt (bs1 : Bool) (c : GContrib) (b e : Nat) : Int :=
  match c.chunks.find? (fun p => p.chunk == b / 64) with
  | none => 0
  | some p =>
    if bs1 then (if bit (num p.payload (4 * (b % 64) + e / 8) 1) (e % 8) then -1 else 1)
    else sgn 8 (num p.payload (32 * (b % 64) + e) 1)

/-- A contribution marks block `b` of the shard non-finite. -/
def contribMark (c : GContrib) (b : Nat) : Bool :=
  c.chunks.any (fun p => p.chunk == b / 64 && bit p.nonfinite (b % 64))

/-- What the owner makes of one block: X and q. -/
def ownBlock (s : State) (j : Nat) (x : GShard) (d : BDesc) (xs : List Ext) (old new : List Nat) (lo b : Nat) :
    Nat × List Int :=
  let n := x.contribs.length
  let anyDef := x.contribs.any (fun c => c.deferred)
  let xi := ((blockExt xs 0 (lo + b)).map (·.1)).getD 0
  let slotBad := x.slot != 0 && (fabBad s (jStore s j + (x.slot - 1) * jSlotBytes s j) (jSlotBytes s j)).isSome &&
    Config.undefByte s.free b % 2 == 1
  if n = 0 ∨ slotBad = true ∨ x.contribs.any (fun c => contribMark c b) = true then (0xFF, List.replicate 32 0)
  else
    let sums := (upTo 32).map (fun e => x.contribs.foldl (fun (a : Int) c =>
      a + contribInt d.bs1 c b e * 2 ^ shiftOf c old new anyDef xi) 0)
    if d.bs1 then
      match decBf (new.getD xi 0) with
      | .fin _ m e => roundBlock sums m e n
      | _ => (0xFF, List.replicate 32 0)
    else
      let u := if anyDef then min (old.getD xi 0) (new.getD xi 0) else new.getD xi 0
      roundBlock sums 1 ((u : Int) - 134) n

/-- The check of R307 of one chunk position: each contribution's checksum, scaled under R303, against the sums. -/
def ownCheck (x : GShard) (d : BDesc) (xs : List Ext) (old new : List Nat) (lo chunk n : Nat) : Bool :=
  let anyDef := x.contribs.any (fun c => c.deferred)
  let j0 := 32 * (lo + 64 * chunk)
  let xi (b : Nat) : Nat := ((blockExt xs 0 (lo + 64 * chunk + b)).map (·.1)).getD 0
  let uniform := x.contribs.all (fun c =>
    (upTo n).all (fun b => shiftOf c old new anyDef (xi b) == shiftOf c old new anyDef (xi 0)))
  if uniform then
    let sums := (upTo (32 * n)).map (fun i => x.contribs.foldl (fun (a : Int) c =>
      a + contribInt d.bs1 c (64 * chunk + i / 32) (i % 32) * 2 ^ shiftOf c old new anyDef (xi 0)) 0)
    let want := x.contribs.foldl (fun a c =>
      (a + ((c.chunks.find? (fun p => p.chunk == chunk)).map (·.check)).getD 0 * 2 ^ shiftOf c old new anyDef (xi 0)) % p61) 0
    checkOf j0 sums == want
  else
    x.contribs.all (fun c => match c.chunks.find? (fun p => p.chunk == chunk) with
      | none => true
      | some p => checkOf j0 (chunkInts d.bs1 n p.payload) == p.check)

/-- EXCHANGE_CHECKSUM_FAIL (R307, R320). -/
def checkFailed (s : State) (j bucket shard step chunk : Nat) (atReceiver : Bool) : State :=
  let s := bump (setGxe s j { gxeOf s j with failed := true }) pgGxe 9 1
  raiseErr s pgGxe 8 { fn := j } [j]
    (leBytes 8 step ++ leBytes 2 bucket ++ leBytes 1 shard ++ leBytes 1 (b2n atReceiver) ++ leBytes 2 chunk)

/-- The RESULT packet of a chunk (R298, R304, R306). -/
def resultPkt (s : State) (j : Nat) (x : GShard) (d : BDesc) (xs : List Ext) (old new : List Nat) (lo chunk n : Nat) :
    GxePkt :=
  let bs := (upTo n).map (fun i => ownBlock s j x d xs old new lo (64 * chunk + i))
  let qs := bs.flatMap (·.2)
  let j0 := 32 * (lo + 64 * chunk)
  let xsum := checkOf (bucketN xs + lo + 64 * chunk) (bs.map (fun b => (b.1 : Int)))
  { bs1 := d.bs1, blocks := n, job := j, bucket := x.bucket, src := jOwn s j, shard := jOwn s j
    stepLo := x.step % 2 ^ 32, chunk := chunk, nonfinite := 0, check := (checkOf j0 qs + xsum) % p61
    payload := qs.map (fun q => BitVec.ofNat 8 (wrap 8 q)) ++ bs.map (fun b => BitVec.ofNat 8 b.1) }

/-- The CLOSE body (Table 10-4). -/
def closeBody (x : GShard) (fcst : List Nat) : List Byte :=
  let mask (p : GContrib → Bool) : Nat := (x.contribs.filter p).foldl (fun a c => a ||| 2 ^ c.src) 0
  leBytes 8 (mask (fun c => !c.deferred)) ++ leBytes 8 (mask (fun c => c.deferred)) ++ leBytes 1 x.contribs.length ++
    leBytes 7 0 ++ leBytes 8 x.step ++ padTo 32 (fcst.flatMap (leBytes 2))

/-- Hops from one replica's coordinate up the D axis to another's. -/
def hopsUp (s : State) (j a b : Nat) : Nat := (jBase s j + b + axisLen s 0 - (jBase s j + a)) % axisLen s 0

/-- The replicas that an owner's packets reach in a direction of the D axis, by their hops on the way (R290, R305). -/
def chainOf (s : State) (j owner dir : Nat) : List (Nat × Nat) :=
  ((upTo (jLen s j)).filter (fun m =>
    m != owner && routeDir s (replicaCoord s j owner) (replicaCoord s j m) == some dir)).map (fun m =>
      (if dir = 0 then hopsUp s j owner m else hopsUp s j m owner, m))

/-- The next replica on an owner's chain beyond `hops` (R305). -/
def chainNext (s : State) (j owner dir hops : Nat) : Option Nat :=
  let c := (chainOf s j owner dir).filter (fun e => decide (hops < e.1))
  (c.find? (fun e => c.all (fun y => decide (e.1 ≤ y.1)))).map (·.2)

/-- The owner sends a packet of its result: to its own landing, and one copy each way along the D axis (R305). -/
def sendResult (s : State) (j ty : Nat) (p : GxePkt) : State :=
  let k := jOwn s j
  [0, 1].foldl (fun s dir =>
    match chainNext s j k dir 0 with
    | none => s
    | some m => sendPkt s j m ty p) (sendPkt s j k ty p)

/-- A replica on the way forwards its copy to the next one (R305). -/
def forwardResult (s : State) (j ty : Nat) (p : GxePkt) : State :=
  [0, 1].foldl (fun s dir =>
    match (chainOf s j p.src dir).find? (fun e => e.2 == jOwn s j) with
    | none => s
    | some e =>
      match chainNext s j p.src dir e.1 with
      | none => s
      | some m => sendPkt s j m ty p) s

/-- The owner has every chunk of a closed shard: it checks them, forms the result and sends it (R303 to R307). -/
def finishShard (s : State) (j : Nat) (x : GShard) : State :=
  let d := bucketOf s j x.bucket
  let xs := extsOf s d
  let dl := jLen s j
  let nb := bucketN xs / 32
  let k := jOwn s j
  let lo := shardLo dl nb k
  let m := shardBlocks dl nb k
  let old := fcstOf s j x.bucket (x.step - 1)
  let new := fcstOf s j x.bucket x.step
  let chs := upTo (shardChunks dl nb k)
  let size (c : Nat) : Nat := min 64 (m - 64 * c)
  let g := gxeOf s j
  let s := setGxe s j { g with shards := g.shards.filter (fun y => !(shardKey x.bucket x.step y)) }
  match chs.find? (fun c => !(ownCheck x d xs old new lo c (size c))) with
  | some c => serveGrants (checkFailed s j x.bucket k x.step c false) j
  | none =>
    let pk := chs.map (fun c => resultPkt s j x d xs old new lo c (size c))
    let onTime := x.contribs.filter (fun c => !c.deferred)
    let words (xi : Nat) : List Nat := (x.hists.filter (fun h => onTime.any (fun c => c.src == h.1))).foldl
      (fun a h => mergeWords a (recWords (h.2.drop (272 * xi)))) (List.replicate 68 0)
    let cfg := jcfg s j
    let fc := if k = 0 then (upTo 16).map (fun i =>
      if i < d.extents then nextFcst d.bs1 (bits cfg 32 20) (bits cfg 28 4) (bits cfg 24 4) (new.getD i 0) (words i) else 0)
      else []
    let cl : GxePkt :=
      { bs1 := d.bs1, blocks := 0, job := j, bucket := x.bucket, src := k, shard := k, stepLo := x.step % 2 ^ 32
        chunk := 0, nonfinite := 0, check := 0, payload := closeBody x fc }
    let sum := pk.foldl (fun a p => (a + p.check) % p61) 0
    let s := { s with free := s.free + 1 }
    let s := pk.foldl (fun s p => sendResult s j 4 p) (sendResult s j 3 cl)
    let s := (upTo dl).foldl (fun s r => dlog s j x.step x.bucket k r 2 sum) s
    let g := gxeOf s j
    serveGrants (setGxe s j { g with
      results := g.results.filter (fun y => !(y.1 == x.bucket && y.2.1 == x.step)) ++ [(x.bucket, x.step, pk)] }) j

/-- Every chunk of the shard's included contributions has arrived. -/
def shardFull (s : State) (j : Nat) (x : GShard) : Bool :=
  let xs := extsOf s (bucketOf s j x.bucket)
  let n := shardChunks (jLen s j) (bucketN xs / 32) (jOwn s j)
  x.contribs.all (fun c => c.granted && decide (n ≤ c.chunks.length))

/-- A closed shard finishes when it is full and its forecast values are here. -/
def tryFinish (s : State) (j b step : Nat) : State :=
  match (gxeOf s j).shards.find? (shardKey b step) with
  | none => s
  | some x =>
    if x.closedAt ≠ 0 ∧ shardFull s j x = true ∧ fcstKnown s j b step = true then finishShard s j x else s

/-- The owner closes a shard (R301). -/
def closeShard (s : State) (j b step : Nat) : State :=
  let g := gxeOf s j
  let x := shardOf g b step
  tryFinish (setGxe s j { setShard g { x with closedAt := s.time + 1 } with
    closed := g.closed ++ [(b, step, s.time)] }) j b step

/-- A shard's window has passed: it closes at that moment, and a request that arrives then is late (R301). -/
def windowOver (s : State) (x : GShard) : Bool :=
  x.closedAt == 0 && x.firstAt != 0 && decide (x.firstAt - 1 + x.w ≤ s.time)

def closeDue (s : State) (j b step : Nat) : State :=
  match (gxeOf s j).shards.find? (shardKey b step) with
  | none => s
  | some x => if windowOver s x then closeShard s j b step else s

/-- GRANT_REQ reaches an owner; first the shards whose windows have passed by now close. -/
def opGrantReq (s : State) (p : GxePkt) : State :=
  let j := p.job
  if pktBad s p then bump s pgGxe 12 1
  else if p.shard ≠ jOwn s j then s
  else
    match takeSelf s 5 p with
    | none => s
    | some s =>
      let step := fullStep (gxeOf s j) p.stepLo
      let b := p.bucket
      let s := closeDue (closeDue s j b step) j b (step + 1)
      let g := gxeOf s j
      if isClosed g b step then
        let at_ := ((g.closed.find? (fun c => c.1 == b && c.2.1 == step)).map (·.2.2)).getD 0
        let next := shardOf g b (step + 1)
        let canDefer := !((bucketOf s j b).drop) && !(isClosed g b (step + 1)) &&
          !(next.contribs.any (fun c => c.deferred && c.src == p.src))
        if canDefer then
          let s := setGxe s j (setShard g { next with contribs := next.contribs ++ [{ src := p.src, deferred := true }] })
          serveGrants (straggler s p step at_ true) j
        else sendGrant (straggler s p step at_ false) j b p.src step
      else
        let x := shardOf g b step
        if x.contribs.any (fun c => !c.deferred && c.src == p.src) then s
        else
          let s :=
            if x.firstAt ≠ 0 then s
            else if g.prevAt = 0 ∨ g.prevStep < step then
              setGxe s j { g with
                prevNs := if g.prevAt ≠ 0 ∧ g.prevStep + 1 = step then s.time + 1 - g.prevAt else g.prevNs
                prevStep := step, prevAt := s.time + 1, stepHi := max g.stepHi step }
            else s
          let x := if x.firstAt = 0 then { x with firstAt := s.time + 1, w := windowNs s j } else x
          let x := { x with contribs := x.contribs ++ [{ src := p.src }] }
          let s := serveGrants (setGxe s j (setShard (gxeOf s j) x)) j
          if jLen s j ≤ (x.contribs.filter (fun c => !c.deferred)).length then closeShard s j b step else s

/-- STRAGGLER_WINDOW_EXPIRY: the window of the oldest open shard of a bucket has passed. -/
def opWindow (s : State) (j b shard : Nat) : State :=
  if shard ≠ jOwn s j then s
  else
    match (gxeOf s j).shards.find? (fun x => x.bucket == b && windowOver s x) with
    | none => s
    | some x => closeShard s j b x.step

/-- HIST reaches the owner of shard 0 (R294, R295). -/
def opHist (s : State) (p : GxePkt) : State :=
  let j := p.job
  if pktBad s p then bump s pgGxe 12 1
  else if jOwn s j ≠ 0 then s
  else
    match takeSelf s 2 p with
    | none => s
    | some s =>
      let g := gxeOf s j
      let step := fullStep g p.stepLo
      if isClosed g p.bucket step && !(g.shards.any (shardKey p.bucket step)) then s
      else
        let x := shardOf g p.bucket step
        setGxe s j (setShard g { x with hists := x.hists.filter (fun h => h.1 != p.src) ++ [(p.src, p.payload)] })

/-- CONTRIB: a chunk of a granted contribution is added; others are discarded (R300, R308). -/
def opContrib (s : State) (p : GxePkt) : State :=
  let j := p.job
  if pktBad s p then bump s pgGxe 12 1
  else if p.shard ≠ jOwn s j then s
  else
    match takeSelf s 1 p with
    | none => s
    | some s =>
      let s := bump s pgGxe 4 1
      let g := gxeOf s j
      let step := fullStep g p.stepLo
      let has (deferred : Bool) (x : GShard) : Bool :=
        x.contribs.any (fun c => c.src == p.src && c.deferred == deferred && c.granted)
      let tgt := match g.shards.find? (fun x => shardKey p.bucket step x && has false x) with
        | some x => some (x, false)
        | none => (g.shards.find? (fun x => shardKey p.bucket (step + 1) x && has true x)).map (fun x => (x, true))
      match tgt with
      | none => s
      | some (x, df) =>
        let n := shardChunks (jLen s j) (bucketN (extsOf s (bucketOf s j p.bucket)) / 32) (jOwn s j)
        let cs := x.contribs.map (fun c =>
          if c.src = p.src ∧ c.deferred = df ∧ c.chunks.any (fun q => q.chunk == p.chunk) = false then
            { c with chunks := c.chunks ++ [p] } else c)
        let s := setGxe s j (setShard g { x with contribs := cs })
        let s := match cs.find? (fun c => c.src == p.src && c.deferred == df) with
          | none => s
          | some c =>
            if c.chunks.length = n then
              dlog s j step p.bucket p.shard p.src 1 (c.chunks.foldl (fun a q => (a + q.check) % p61) 0)
            else s
        tryFinish s j x.bucket x.step

/-- GRANT: the replica sends the shard's chunks (R308). -/
def opGrant (s : State) (p : GxePkt) : State :=
  let j := p.job
  if pktBad s p then bump s pgGxe 12 1
  else
    match takeSelf s 6 p with
    | none => s
    | some s =>
      let g := gxeOf s j
      let step := fullStep g p.stepLo
      let holds (st : Nat) (r : BReady) : Bool :=
        r.bucket == p.bucket && r.step == st && r.chunksOf.any (fun t => t.1 == p.shard)
      let found := match g.ready.find? (holds step) with
        | some r => some r
        | none => if step = 0 then none else g.ready.find? (holds (step - 1))
      match found with
      | none => s
      | some r =>
        let cs := (r.chunksOf.filter (fun t => t.1 == p.shard)).flatMap (·.2)
        let s := cs.foldl (fun s q => sendPkt s j p.shard 1 q) s
        let s := bump s pgGxe 3 cs.length
        let s := dlog s j r.step p.bucket p.shard p.shard 0 (cs.foldl (fun a q => (a + q.check) % p61) 0)
        let g := gxeOf s j
        setGxe s j { g with
          ready := (g.ready.map (fun y => if y.id = r.id then
            { y with chunksOf := y.chunksOf.filter (fun t => t.1 != p.shard) } else y)).filter
            (fun y => !(y.ended && y.chunksOf.isEmpty)) }

/-! ### Landing (R305, R307, R311, R312) -/

def landOf (g : Gxe) (b sh step : Nat) : GLand :=
  (g.lands.find? (fun l => l.bucket == b && l.shard == sh && l.step == step)).getD { bucket := b, shard := sh, step := step }
def setLand (g : Gxe) (x : GLand) : Gxe :=
  { g with lands := g.lands.filter (fun l => !(l.bucket == x.bucket && l.shard == x.shard && l.step == x.step)) ++ [x] }

/-- A group's landing area is complete for a step (R312). -/
def groupDone (s : State) (j region group step : Nat) : Bool :=
  (upTo (jBuckets s j)).all (fun b =>
    let d := bucketOf s j b
    !(d.region == region && (extsOf s d).any (fun x => x.group == group)) ||
      (upTo (jLen s j)).all (fun sh => (gxeOf s j).landed.any (fun l => l.1 == b && l.2.1 == sh && l.2.2.1 == step)))

/-- The step record of a landed shard: its CLOSE body with BUCKET and SHARD, whose place among the bytes that the body leaves
zero the spec does not give. DESIGN CHOICE (log 110). -/
def stepRecord (close : List Byte) (b sh : Nat) : List Byte :=
  close.take 17 ++ (padTo 7 (leBytes 2 b ++ leBytes 1 sh)).mapIdx (fun i x => x ^^^ BitVec.ofNat 8 (Config.recMask i)) ++
    close.drop 24

/-- The last chunk of a shard has landed: step record, digest entry, reports, ends (R310, R312, R317). -/
def tryLand (s : State) (j b sh step : Nat) : State :=
  let g := gxeOf s j
  let x := landOf g b sh step
  let d := bucketOf s j b
  let xs := extsOf s d
  if x.close = [] ∨ x.failed = true ∨ x.got.length < shardChunks (jLen s j) (bucketN xs / 32) sh then s
  else
    let a := ringBase (jRec s j) + 64 * (g.recNext % ringLen (jRec s j))
    let s := wrFab s a (stepRecord x.close b sh) j
    let late := !(bit (num x.close 0 8) (jOwn s j))
    let g := { g with
      recNext := (g.recNext + 1) % 2 ^ 32
      lands := g.lands.filter (fun l => !(l.bucket == b && l.shard == sh && l.step == step))
      landed := g.landed.filter (fun l => !(l.1 == b && l.2.1 == sh && decide (l.2.2.1 + 1 < step))) ++ [(b, sh, step, late)]
      ready := g.ready.map (fun r => if r.bucket = b ∧ r.step = step then { r with lastLand := s.time } else r) }
    let s := dlog (setGxe s j g) j step b sh sh 3 x.check
    let s := xs.foldl (fun s e =>
      let rep := (d.region, e.group, step)
      if groupDone s j d.region e.group step && !(s.landReports.contains rep) then
        { s with landReports := s.landReports ++ [rep] }
      else s) s
    readyEnd s j

/-- CLOSE reaches a replica (R295, R305). -/
def opClose (s : State) (p : GxePkt) : State :=
  let j := p.job
  if pktBad s p then bump s pgGxe 12 1
  else
    match takeSelf s 3 p with
    | none => s
    | some s =>
      let s := forwardResult s j 3 p
      let step := num p.payload 24 8
      let g := gxeOf s j
      let g := { setLand g { landOf g p.bucket p.shard step with close := padTo 64 p.payload } with
        stepHi := max g.stepHi step }
      let s := setGxe s j g
      let vals := (upTo 16).map (fun i => num p.payload (32 + 2 * i) 2)
      let s :=
        if p.shard ≠ 0 then s
        else if g.used.any (fun v => v.1 == p.bucket && v.2.1 == step) then writeFcst s j p.bucket (step + 1) vals
        else setGxe s j { g with vals := g.vals ++ [(p.bucket, step + 1, vals)] }
      tryLand (tryFinish s j p.bucket (step + 1)) j p.bucket p.shard step

/-- One block of a RESULT chunk is written (R311); the answer says whether all of it could be, its scale being a part of a
sector (R473). -/
def landBlock (s : State) (j : Nat) (d : BDesc) (xs : List Ext) (blk : Nat) (qs : List Byte) (x : Nat) : State × Bool :=
  match blockExt xs 0 blk with
  | none => (s, true)
  | some (_, e, i) =>
    let g := extGroup s d e
    let o := e.e0 + 32 * i
    let sc := g.grad + gdElems g + o / 32
    let ok := (fabBadW s (g.grad + o) 32).isNone && (fabBadW s sc 1).isNone
    (wrFab (wrFab s (g.grad + o) qs j) sc (leBytes 1 x) j, ok)

/-- The blocks of a RESULT chunk are written, and the chunk counts as landed; where a write failed, the BUCKET_READY of its
step ends with UNCORRECTABLE_MEMORY (R470, R473). -/
def landChunk (s : State) (p : GxePkt) (x : GLand) : State :=
  let j := p.job
  let d := bucketOf s j p.bucket
  let xs := extsOf s d
  let lo := shardLo (jLen s j) (bucketN xs / 32) p.shard
  let t := (upTo p.blocks).foldl (fun (a : State × Bool) i =>
    let r := landBlock a.1 j d xs (lo + 64 * p.chunk + i) (padTo 32 (p.payload.drop (32 * i)))
      (num p.payload (32 * p.blocks + i) 1)
    (r.1, a.2 && r.2)) (s, true)
  let s := bump t.1 pgGxe 5 1
  let g := setLand (gxeOf s j) { x with got := x.got ++ [p.chunk], check := (x.check + p.check) % p61 }
  let hit (r : BReady) : Bool := !t.2 && r.bucket == p.bucket && r.step == x.step
  tryLand (setGxe s j { g with ready := g.ready.map (fun r => if hit r then { r with uncorr := true } else r) }) j
    p.bucket p.shard x.step

/-- What a chunk's receiver tells its owner when it asks for the chunk again (R307): the chunk, and the asking replica. -/
def resendHead (s : State) (j : Nat) (p : GxePkt) (step : Nat) : List Byte :=
  leBytes 2 p.bucket ++ leBytes 2 p.shard ++ leBytes 4 step ++ leBytes 4 p.chunk ++ leBytes 2 (jOwn s j) ++ leBytes 1 j

/-- RESULT: a chunk is checked and lands, or is asked for again, or fails the shard (R307, R311). -/
def opResult (s : State) (p : GxePkt) : State :=
  let j := p.job
  if pktBad s p || decide (jLen s j ≤ p.shard) then bump s pgGxe 12 1
  else
    match takeSelf s 4 p with
    | none => s
    | some s =>
      let g := gxeOf s j
      let step := fullStep g p.stepLo
      let x := landOf g p.bucket p.shard step
      let landed := g.landed.any (fun l => l.1 == p.bucket && l.2.1 == p.shard && l.2.2.1 == step)
      let s := if x.asked.contains p.chunk then s else forwardResult s j 4 p
      if landed || x.failed || x.got.contains p.chunk then s
      else
        let d := bucketOf s j p.bucket
        let xs := extsOf s d
        let lo := shardLo (jLen s j) (bucketN xs / 32) p.shard
        let qs := chunkInts false p.blocks p.payload
        let scales := (upTo p.blocks).map (fun i => ((num p.payload (32 * p.blocks + i) 1 : Nat) : Int))
        let chk := (checkOf (32 * (lo + 64 * p.chunk)) qs + checkOf (bucketN xs + lo + 64 * p.chunk) scales) % p61
        if chk ≠ p.check then
          let g := gxeOf s j
          if x.asked.contains p.chunk then
            checkFailed (setGxe s j (setLand g { x with failed := true })) j p.bucket p.shard step p.chunk true
          else
            let s := setGxe s j (setLand g { x with asked := x.asked ++ [p.chunk] })
            if p.shard = jOwn s j then s else sendMsgTo s 3 (replicaCoord s j p.shard) (resendHead s j p step) []
        else
          landChunk (if x.asked.contains p.chunk then bump s pgGxe 8 1 else s) p x

/-- CHUNK_RESEND_REQUEST at the owner (R307). -/
def opResend (s : State) (j b shard step chunk dst : Nat) : State :=
  if shard ≠ jOwn s j then s
  else
    match (gxeOf s j).results.find? (fun r => r.1 == b && r.2.1 == step) with
    | none => s
    | some r =>
      match r.2.2.find? (fun p => p.chunk == chunk) with
      | none => s
      | some p => sendPkt s j dst 4 p

/-! ### Abort and lost links (R313, R314) -/

/-- Landing reports of a job that its update engines have not used, and those on their way, are forgotten: the landings of an
aborted step do not stand for its repetition. DESIGN CHOICE (log 110). -/
def dropLandings (s : State) (j : Nat) : State :=
  let mine (r : Nat) : Bool := pseValid s r && pseJob s r == j
  ((upTo 32).filter mine).foldl (fun s r => setUpf s r { upfOf s r with landed := [] })
    { s with landReports := s.landReports.filter (fun t => !(mine t.1)) }

/-- Everything open of a job's set is discarded (R314). -/
def gxeDiscard (s : State) (j : Nat) : State :=
  let s := dropLandings s j
  let g := gxeOf s j
  let s := ((engOf s (pgGxe * 2)).running.filter (fun y => y.fin.isNone && y.cmd.op == 1 && y.cmd.job == j && y.prog != 0)).foldl
    (fun s y => finish s y stPreempted []) s
  setGxe s j { prevNs := g.prevNs, prevStep := g.prevStep, prevAt := g.prevAt, recNext := g.recNext
               dlogNext := g.dlogNext, stepHi := g.stepHi }

/-- The GXE_ABORT that runs takes effect. -/
def opGxeAbort (s : State) : State :=
  match engRun s (pgGxe * 2) (fun y => y.cmd.op == 2) with
  | none => s
  | some y => finish (gxeDiscard s y.cmd.job) y stOK []

/-- A D direction is lost (R313): incomplete contributions that come through it are taken back, and a BUCKET_READY that
awaits a result from it ends with LINK_LOST. The answer counts the commands that ended. -/
def gxeLost (s : State) (j dir : Nat) : State × Nat :=
  let g := gxeOf s j
  let dl := jLen s j
  let from_ (k : Nat) : Bool := resultFrom s j k dir
  let cut (x : GShard) : GShard :=
    let n := shardChunks dl (bucketN (extsOf s (bucketOf s j x.bucket)) / 32) (jOwn s j)
    { x with contribs := x.contribs.filter (fun c => !(from_ c.src && decide (c.chunks.length < n))) }
  let s := setGxe s j { g with shards := g.shards.map cut }
  let hit (r : BReady) : Bool := !r.ended && (upTo dl).any (fun k =>
    from_ k && !(g.landed.any (fun l => l.1 == r.bucket && l.2.1 == k && l.2.2.1 == r.step)))
  let lost := g.ready.filter hit
  let waits := if (upTo dl).any from_ then fcstWait s j else []
  let s := lost.foldl (fun s r => match engRun s (pgGxe * 2) (fun y => y.cmd.id == r.id) with
    | none => s
    | some y => finish s y stLinkLost []) s
  let s := waits.foldl (fun s y => finish s y stLinkLost []) s
  let g := gxeOf s j
  let s := setGxe s j { g with ready := g.ready.filter (fun r => !(lost.any (fun y => y.id == r.id))) }
  let s := if lost = [] ∧ waits = [] then s else raiseErr s pgGxe 10 { status := stLinkLost, fn := j } [] []
  (g.shards.foldl (fun s x => tryFinish s j x.bucket x.step) s, lost.length + waits.length)

/-- A write to a register of a job's set that the guard has let through: while ENABLE is set, only one that clears it
takes effect. -/
def gxeCfgWrite (s : State) (off v : Nat) : State :=
  let j := (off - 0x100) / 0x40
  if jEnable s j = true ∧ ¬(off = 0x100 + 0x40 * j ∧ bit v 0 = false) then s else setReg s pgGxe off v

/-- A function-level reset acts as GXE_ABORT and then clears ENABLE (R314). -/
def flrGxe (s : State) (j : Nat) : State := setRegF (gxeDiscard s j) pgGxe (0x100 + 0x40 * j) 0 1 0

end Sys2Proof.Machine
end

