-- ==== Sys2Proof/Machine/Link.lean ====
section
/-! DEFINITION. Merrak Link (chapter "Merrak Link"): frames and their trailers, replay, lanes, link states, lull and
flush, bring-up. -/
namespace Sys2Proof.Machine

def seqMod : Nat := 2 ^ 20
/-- Distance from a to b in sequence space. -/
def seqDist (a b : Nat) : Nat := (b + seqMod - a % seqMod) % seqMod
/-- SEQ a precedes b (R367). -/
def precedes (a b : Nat) : Bool := decide (1 ≤ seqDist a b) && decide (seqDist a b < 2 ^ 19)

def lanes36 : Nat := 0xFFFFFFFFF
/-- Good lanes of a mask of bad ones. -/
def goodLanes (bad : Nat) : Nat := lanes36 ^^^ (bad &&& lanes36)
/-- The lowest-numbered `n` lanes of a mask. -/
def lowLanes (n mask : Nat) : Nat := ((setIdx 36 0 mask).take n).foldl (fun a i => a ||| 2 ^ i) 0

/-- A mask of lanes. -/
def laneMask (ls : List Nat) : Nat := ls.foldl (fun a i => a ||| 2 ^ i) 0
/-- A way's lane map assigns a physical lane to each logical lane; the width is how many there are (R355). -/
def rxLanes (l : Lnk) (m : List Nat) : Lnk := { l with rxMap := m, rxActive := laneMask m, rxWidth := m.length }
def txLanes (l : Lnk) (m : List Nat) : Lnk := { l with txMap := m, txActive := laneMask m, txWidth := m.length }

/-- Size of a pool in buffers (LNK_VC_BUF); the partner's pools are taken to be this side's. DESIGN CHOICE
(log 58). -/
def poolBufs (s : State) (dir p : Nat) : Nat := regF s (pgLnk dir) 0x120 (8 * p) 8 * 64
/-- Credits a sender holds for a pool (R365). -/
def creditsOf (s : State) (dir p : Nat) : Nat :=
  let l := lnkOf s dir
  poolBufs s dir p - (mapGet 0 l.taken p + 65536 - mapGet 0 l.pFreed p % 65536) % 65536
def lullNs (s : State) (dir : Nat) : Nat := regF s (pgLnk dir) 0x108 0 24
def replayNs (s : State) (dir : Nat) : Nat := regF s (pgLnk dir) 0x110 0 16

/-- The next pool in turn whose size is not 0 (R365). -/
def nextPool (s : State) (dir start : Nat) : Option Nat :=
  ((upTo 8).map (fun i => (start + i) % 8)).find? (fun p => poolBufs s dir p != 0)

/-- A sampled DATA frame that was sent or accepted is logged (R509, R510), while the direction traces and no freeze holds
(R512). -/
def linkTrace (s : State) (dir kind : Nat) (f : Frame) (epoch : Nat) : State :=
  let cfg := reg s pgCnt 0x118
  let n := 2 ^ bits cfg 0 5
  let i := regF s pgCnt (0x120 + 8 * dir) 0 32
  if bit (reg s (pgLnk dir) 0x100) 6 && !s.traceFrozen && f.ty == 1 && f.seq % 2 ^ bits cfg 8 5 == 0 then
    let a := reg s pgCnt 0x110 + 16 * (dir * n + i % n)
    let bs := leBytes 8 s.time ++
      leBytes 3 (f.seq % seqMod + 2 ^ 20 * kind + 2 ^ 21 * b2n f.resend + 2 ^ 22 * (f.vc % 4)) ++ leBytes 1 epoch ++
      leBytes 1 dir ++ [0, 0, 0]
    let s := if inStacked a 16 then wrFab s a bs 0 else s
    bump (setReg s pgCnt (0x120 + 8 * dir) ((i + 1) % 2 ^ 32)) pgCnt 0 1
  else s

/-- A frame as it leaves: its LINK_EPOCH and its trailer (Table 12-2), with the oldest NAK and the pool whose turn it is;
payload bytes that nothing defines are free. -/
def trailed (s : State) (dir : Nat) (f : Frame) : Frame :=
  let l := lnkOf s dir
  let p := nextPool s dir l.credTurn
  { f with
    linkEpoch := l.epoch
    payload := f.payload ++ undefBytes s.free (224 - f.payload.length)
    ackSeq := (l.rxNext + seqMod - 1) % seqMod
    ackValid := l.delivered
    nakSeq := l.naks.headD 0
    nakValid := !l.naks.isEmpty
    credCount := match p with | some q => mapGet 0 l.freed q | none => 0
    credPool := p.getD 0
    credValid := p.isSome }

/-- A frame leaves: its words go onto the lanes of the transmit way (R357). -/
def sendFrame (s : State) (dir : Nat) (f : Frame) : State :=
  let l := lnkOf s dir
  let g := trailed s dir f
  linkTrace (setLnk { s with free := s.free + 1 } dir { l with
    wire := dealWords l.txMap l.txPos l.txStop (frameBytes g)
    txPos := (l.txPos + 32) % l.txMap.length
    naks := l.naks.drop 1
    credTurn := match nextPool s dir l.credTurn with | some q => (q + 1) % 8 | none => l.credTurn }) dir 0 g l.epoch

/-- A frame with nothing in it but its TYPE. -/
def bareFrame (ty : Nat) : Frame :=
  { ty := ty, vc := 0, dateline := false, resend := false, seq := 0, len := 0, reqEpoch := 0, linkEpoch := 0, dest := 0,
    src := 0, payload := [], ackSeq := 0, ackValid := false, nakSeq := 0, nakValid := false, credCount := 0, credPool := 0,
    credValid := false }

/-- The body of a LINK frame (Table 12-3): 1 HELLO, 2 RESYNC, 3 LANE_MAP, 4 DOWN. FRESH is set while no state of an
earlier time is kept. -/
def linkBody (s : State) (dir op : Nat) : List Byte :=
  let l := lnkOf s dir
  leBytes 1 op ++
    match op with
    | 1 => leBytes 1 l.epoch ++ leBytes 1 (b2n (l.st != 4)) ++ [0] ++ leBytes 3 (ownCoord s)
    | 2 => leBytes 1 l.epoch ++ leBytes 1 l.pEpoch ++ [0] ++ leBytes 3 l.rxNext ++ [0] ++
        (upTo 8).flatMap (fun p => leBytes 2 (mapGet 0 l.freed p))
    | 3 => [0, 0, 0] ++ leBytes 5 l.rxActive ++ leBytes 1 l.rxWidth
    | _ => leBytes 1 l.cause

/-- A LINK frame leaves: it takes no SEQ and no credit (R361). -/
def sendLink (s : State) (dir op : Nat) : State :=
  sendFrame s dir { bareFrame 3 with payload := linkBody s dir op }

/-- A LINK frame leaves and is repeated until it is answered (R361). -/
def askLink (s : State) (dir op : Nat) : State :=
  let l := lnkOf s dir
  sendLink (setLnk s dir { l with
    linkOut := if l.linkOut.contains op then l.linkOut else l.linkOut ++ [op]
    linkAt := mapPut 0 l.linkAt op s.time
    lmAt := if op = 3 then s.time else l.lmAt }) dir op

/-- An answer arrived. -/
def answered (s : State) (dir op : Nat) : State :=
  setLnk s dir { lnkOf s dir with linkOut := (lnkOf s dir).linkOut.filter (fun o => o != op) }

/-- LINK_FRAME_REPEAT: a frame that has gone unanswered for 1 µs is sent again. -/
def opLinkRepeat (s : State) (dir : Nat) : State :=
  let l := lnkOf s dir
  match l.linkOut.find? (fun o => passed s (mapGet 0 l.linkAt o + 1000)) with
  | none => s
  | some op =>
    sendLink (setLnk s dir { l with
      linkOut := l.linkOut.filter (fun o => o != op) ++ [op], linkAt := mapPut 0 l.linkAt op s.time }) dir op

/-! ### Buffers and sending (R364, R368) -/

/-- A receive buffer of a direction is freed. -/
def freeRx (s : State) (dir p : Nat) : State :=
  let l := lnkOf s dir
  setLnk s dir { l with freed := mapPut 0 l.freed p ((mapGet 0 l.freed p + 1) % 65536) }

/-- The receive buffer of a forwarded frame is freed. -/
def freeSrc (s : State) (f : TxFrame) : State := if f.inDir = 0 then s else freeRx s (f.inDir - 1) f.inPool

def poolOf (f : TxFrame) : Nat := 2 * f.vc + b2n f.dl

/-- The DATA frame of a replay entry as it leaves. -/
def dataFrame (f : TxFrame) (resend : Bool) : Frame :=
  { bareFrame 1 with
    vc := f.vc, dateline := f.dl, resend := resend, seq := f.seq, len := f.payload.length, reqEpoch := f.reqEpoch,
    dest := f.dest, src := f.src, payload := f.payload }

/-- The transmit way carries frames. -/
def txUp (l : Lnk) : Bool := l.st == 2 || (l.st == 3 && !l.txRetrain)

/-- The first waiting frame whose pool has a credit, and the rest. -/
def pickFrame (s : State) (dir : Nat) : List TxFrame → Option (TxFrame × List TxFrame)
  | [] => none
  | f :: fs =>
    if 0 < creditsOf s dir (poolOf f) then some (f, fs)
    else (pickFrame s dir fs).map (fun x => (x.1, f :: x.2))

/-- Room in the replay buffer for a new DATA frame (R368). -/
def replayRoom (l : Lnk) : Bool :=
  match l.replay with
  | [] => true
  | o :: _ => decide (seqDist o.seq l.txNext < 8192)

/-- A frame of the first put to a destination that is not all sent has left (R400). -/
def putSent (now dest : Nat) : List PutOut → List PutOut
  | [] => []
  | p :: ps =>
    if p.dest = dest ∧ p.left ≠ 0 then { p with left := p.left - 1, sentAt := now } :: ps else p :: putSent now dest ps

/-- A new DATA frame leaves for the first time. -/
def sendNew (s : State) (dir : Nat) (f : TxFrame) (rest : List TxFrame) : State :=
  let l := lnkOf s dir
  let f' := { f with seq := l.txNext, inDir := 0 }
  let s := setLnk s dir { l with
    outQ := rest
    replay := l.replay ++ [f']
    txNext := (l.txNext + 1) % seqMod
    taken := mapPut 0 l.taken (poolOf f) ((mapGet 0 l.taken (poolOf f) + 1) % 65536)
    ackAt := if l.replay.isEmpty then s.time else l.ackAt }
  let s := bump (freeSrc s f) (pgLnk dir) 2 1
  let s := if f.inDir = 0 then s else bump s pgTor 0 1
  let s := if f.vc = 0 ∧ f.src = ownCoord s then { s with puts := putSent s.time f.dest s.puts } else s
  sendFrame s dir (dataFrame f' false)

/-- DATA_FRAME_SEND: a frame to resend first, then the first new frame with a credit and replay room, else IDLE (R361). -/
def opFrameSend (s : State) (dir : Nat) : State :=
  let l := lnkOf s dir
  if txUp l then
    match l.resend with
    | n :: rest =>
      let s := setLnk s dir { l with resend := rest }
      match l.replay.find? (fun f => f.seq == n) with
      | some f => sendFrame (bump s (pgLnk dir) 4 1) dir (dataFrame f true)
      | none => s
    | [] =>
      match if replayRoom l then pickFrame s dir l.outQ else none with
      | some (f, rest) => sendNew s dir f rest
      | none => sendFrame s dir (bareFrame 2)
  else s

/-! ### Receiving -/

/-- ACK_SEQ releases the replay entries up to it (R371). -/
def takeAck (s : State) (dir a : Nat) : State :=
  let l := lnkOf s dir
  let keep (q : Nat) : Bool := !(q == a || precedes q a)
  let rep := l.replay.filter (fun f => keep f.seq)
  setLnk s dir { l with
    replay := rep
    resend := l.resend.filter keep
    txAcked := a
    ackAt := if rep.length < l.replay.length then s.time else l.ackAt }

/-- A NAK: the frame is resent once, or the NAK is stale or unknown (R371). -/
def takeNak (s : State) (dir n : Nat) : State :=
  let l := lnkOf s dir
  if l.replay.any (fun f => f.seq == n) then
    (if l.resend.contains n then s else setLnk s dir { l with resend := l.resend ++ [n] })
  else bump s (pgLnk dir) 8 1

/-- A cumulative credit count; a late one frees nothing twice (R365). -/
def takeCredit (s : State) (dir p c : Nat) : State :=
  let l := lnkOf s dir
  let t := mapGet 0 l.taken p
  if (t + 65536 - c % 65536) % 65536 ≤ (t + 65536 - mapGet 0 l.pFreed p % 65536) % 65536 then
    setLnk s dir { l with pFreed := mapPut 0 l.pFreed p (c % 65536) }
  else s

/-- The trailer's fields in the order of R371. -/
def takeTrailer (s : State) (dir : Nat) (f : Frame) : State :=
  let s := if f.ackValid then takeAck s dir f.ackSeq else s
  let s := if f.nakValid then takeNak s dir f.nakSeq else s
  if f.credValid then takeCredit s dir f.credPool f.credCount else s

/-- A frame is dropped under R382 and counted for a direction. -/
def lateDrop (s : State) (dir : Nat) : State := bump s (pgLnk dir) 11 1

/-- A reply whose REQ_EPOCH is not the EPOCH of the direction through which a request to its SRC leaves (R382). -/
def lateReply (s : State) (f : TxFrame) : Option Nat :=
  if f.vc = 1 then
    match routeDir s (ownCoord s) f.src with
    | some d => if (lnkOf s d).epoch = f.reqEpoch then none else some d
    | none => none
  else none

/-- A frame is forwarded (R362, R394 to R396): its DATELINE for the next hop is R395's. -/
def forwardFrame (s : State) (dir : Nat) (f : TxFrame) (out : Nat) : State :=
  let l := lnkOf s out
  let p := poolOf f
  if l.st = 5 then freeRx (bump s pgTor 1 1) dir p
  else
    let dl := wrapHop s (ownCoord s) out || (decide (out / 2 = dir / 2) && f.dl)
    setLnk s out { l with outQ := l.outQ ++ [{ f with dl := dl, inDir := dir + 1, inPool := p }] }

/-- A DATA frame for this package ends S1 before its client takes the payload (R436). -/
def wakeFrom1 (s : State) : State := if s.pstate = 1 then { s with pstate := 0 } else s

/-- A frame is delivered in SEQ order (R366): to this package, or on its route. -/
def deliverFrame (s : State) (dir : Nat) (f : TxFrame) : State :=
  let s := bump s (pgLnk dir) 3 1
  match routeDir s (ownCoord s) f.dest with
  | some out => forwardFrame s dir f out
  | none =>
    let s := wakeFrom1 s
    match lateReply s f with
    | some d => freeRx (lateDrop s d) dir (poolOf f)
    | none =>
      let k := 4 * f.src + f.vc
      freeRx { s with rxStreams := mapPut [] s.rxStreams k (mapGet [] s.rxStreams k ++ f.payload) } dir (poolOf f)

/-- E moves past a frame that is delivered. -/
def advanceE (s : State) (dir : Nat) (f : TxFrame) : State :=
  let l := lnkOf s dir
  let n := l.rxNext
  deliverFrame
    (setLnk s dir { l with rxNext := (n + 1) % seqMod, delivered := true, nakAt := mapDel l.nakAt n }) dir f

/-- The held frames that follow without a gap are accepted. -/
def drainHeld (dir : Nat) : Nat → State → State
  | 0, s => s
  | n + 1, s =>
    let l := lnkOf s dir
    match l.heldF.find? (fun h => h.1 == l.rxNext) with
    | none => s
    | some h => drainHeld dir n (advanceE (setLnk s dir { l with heldF := l.heldF.filter (fun x => x.1 != h.1) }) dir h.2)

/-- A NAK for a missing SEQ is queued, again only after REPLAY_TIMEOUT (R370). -/
def queueNak (s : State) (dir n : Nat) : State :=
  let l := lnkOf s dir
  let t := mapGet 0 l.nakAt n
  if l.naks.length < 4096 ∧ (t = 0 ∨ t - 1 + replayNs s dir ≤ s.time) then
    setLnk s dir { l with naks := l.naks ++ [n], nakAt := mapPut 0 l.nakAt n (s.time + 1) }
  else s

/-- NAKs for the missing SEQs from `n` on, for `k` numbers. -/
def nakGap (dir : Nat) : Nat → Nat → State → State
  | 0, _, s => s
  | k + 1, n, s =>
    let m := n % seqMod
    nakGap dir k (n + 1) (if (lnkOf s dir).heldF.any (fun h => h.1 == m) then s else queueNak s dir m)

/-- A DATA frame with SEQ n (R369). -/
def takeData (s : State) (dir n : Nat) (f : TxFrame) : State :=
  let l := lnkOf s dir
  let d := seqDist l.rxNext n
  if d = 0 then drainHeld dir l.heldF.length (advanceE s dir f)
  else if d < 4096 then
    if l.heldF.any (fun h => h.1 == n) then bump s (pgLnk dir) 10 1
    else nakGap dir d l.rxNext (setLnk s dir { l with heldF := l.heldF ++ [(n, f)] })
  else if d ≤ 2 ^ 19 then bump s (pgLnk dir) 9 1
  else bump s (pgLnk dir) 10 1

/-- The receiver accepts the copy with SEQ n: it is the next one, or it is held for the first time (R369). -/
def accepts (l : Lnk) (n : Nat) : Bool :=
  let d := seqDist l.rxNext n
  d == 0 || (decide (d < 4096) && !l.heldF.any (fun h => h.1 == n))

/-- REPLAY_TIMEOUT (R372). -/
def opReplayTimeout (s : State) (dir : Nat) : State :=
  let l := lnkOf s dir
  match l.replay with
  | [] => s
  | o :: _ =>
    if (l.st = 2 ∨ l.st = 3) ∧ l.ackAt + replayNs s dir ≤ s.time then
      bump (setLnk s dir { l with
        resend := if l.resend.contains o.seq then l.resend else o.seq :: l.resend
        ackAt := s.time }) (pgLnk dir) 12 1
    else s

/-- NAK_REQUEUE: a SEQ that is still missing below a held frame (R370). -/
def opNakRequeue (s : State) (dir n : Nat) : State :=
  let l := lnkOf s dir
  let missing := !(l.heldF.any (fun h => h.1 == n)) &&
    l.heldF.any (fun h => decide (seqDist l.rxNext n < seqDist l.rxNext h.1))
  if missing then queueNak s dir n else s

/-! ### Down, lull and flush (R377 to R381) -/

/-- The direction enters HOLD with a cause; the lull timer starts at a time (R377). -/
def goDown (s : State) (dir cause t0 : Nat) : State :=
  let l := lnkOf s dir
  if l.st = 2 ∨ l.st = 3 then
    let s := setLnk s dir { l with
      st := 4, cause := cause, lullAt := t0, rxRetrain := false, txRetrain := false, linkOut := [], trained := false,
      rxTrained := false, txTrained := false }
    raiseEvt s (pgLnk dir) 2 [] 0 (padTo 8 (leBytes 1 cause) ++ padTo 8 (leBytes 4 (lullNs s dir)))
  else s

/-- The direction through which a frame from another package arrives (R394). -/
def arriveDir (s : State) (src : Nat) : Option Nat :=
  ([1, 0, 3, 2].find? (fun ax => coordC (ownCoord s) ax != coordC src ax)).map (fun ax =>
    let l := axisLen s ax
    let up := (coordC (ownCoord s) ax + l - coordC src ax) % l
    if 2 * up ≤ l then 2 * ax + 1 else 2 * ax)

/-- An outstanding put ends. -/
def endPut (s : State) (id status : Nat) : State :=
  let s := { s with puts := s.puts.filter (fun p => p.id != id) }
  match engRun s (pgTor * 2) (fun r => r.cmd.id == id) with
  | none => s
  | some r => finish s r status []

/-- Puts that sent or await a frame through a lost direction end with LINK_LOST (R380). -/
def lostPuts (s : State) (dir : Nat) : State :=
  (s.puts.filter (fun p => p.dir == dir || arriveDir s p.dest == some dir)).foldl
    (fun s p => endPut s p.id stLinkLost) s

/-- Started commands whose effect has ended with LINK_LOST. -/
def lostCount (s : State) : Nat :=
  s.engs.foldl (fun n e => n + (e.2.running.filter (fun r => r.fin.any (fun f => f.1 == stLinkLost))).length) 0

/-- No other direction holds a receive buffer of this one any more: its credit counts start anew. -/
def dropSrc (s : State) (dir : Nat) : State :=
  (upTo 8).foldl (fun s d =>
    let l := lnkOf s d
    if l.outQ.any (fun f => f.inDir == dir + 1) then
      setLnk s d { l with outQ := l.outQ.map (fun f => if f.inDir = dir + 1 then { f with inDir := 0 } else f) }
    else s) s

/-- The flush of a direction (R380, steps 1 to 5). -/
def flushDir (s : State) (dir : Nat) : State :=
  let l := lnkOf s dir
  let n := l.replay.length + l.heldF.length + l.outQ.length
  let s := dropSrc (l.outQ.foldl freeSrc s) dir
  let l := lnkOf s dir
  let c0 := lostCount s
  let s := setLnk s dir
    { st := 5, epoch := (l.epoch + 1) % 256, pEpoch := l.pEpoch, pFresh := l.pFresh, txWidth := l.txWidth
      rxWidth := l.rxWidth, rxActive := l.rxActive, rxBad := l.rxBad, txActive := l.txActive, txBad := l.txBad
      cause := l.cause, pCoord := l.pCoord, pValid := l.pValid, failedAt := s.time, rxMap := l.rxMap, txMap := l.txMap
      txStop := l.txStop, validAt := l.validAt }
  let s := lostPuts (dirLostStages s dir) dir
  let s := if dir < 2 then (upTo 16).foldl (fun s j => (gxeLost s j dir).1) s else s
  let s := sendLink s dir 4
  raiseErr s (pgLnk dir) 8 { status := stLinkLost, detail := l.cause } []
    (padTo 8 (leBytes 1 l.cause ++ leBytes 3 l.pCoord) ++ leBytes 4 n ++ leBytes 4 (lostCount s - c0))

/-- Good bundles of the optical bridge that serve a direction (R455). -/
def optGood (s : State) (dir : Nat) : Nat := popCount 4 (regF s pgDtd 0x110 (24 + 8 * (dir / 2) + 4 * (dir % 2)) 4)

/-- The width that the optical bridge allows (R457); 0 where the direction is held OFF. -/
def optWidth (s : State) (dir : Nat) : Nat :=
  match optGood s dir with
  | 4 => 32
  | 3 => 24
  | 2 => 16
  | _ => 0

/-- Bring-up starts (Table 12-5); from OFF, bad lanes are forgotten (R373). -/
def startBringup (s : State) (dir : Nat) : State :=
  let l := lnkOf s dir
  if optWidth s dir = 0 then setLnk s dir { l with st := 0, trained := false, failed := false, linkOut := [], pValid := false }
  else setLnk s dir { l with
    st := 1, pValid := false, trained := false, failed := false, linkOut := [], linkReset := false
    rxBad := if l.st = 0 then 0 else l.rxBad
    txBad := if l.st = 0 then 0 else l.txBad }

/-- LINK_LOST: the lull window is over and the direction is not UP. -/
def opLinkLost (s : State) (dir : Nat) : State :=
  let l := lnkOf s dir
  if l.st = 4 ∧ passed s (l.lullAt + lullNs s dir) = true then flushDir s dir else s

/-- BRINGUP_RETRY: 1 ms after a failed bring-up, or in ABSENT. -/
def opBringupRetry (s : State) (dir : Nat) : State :=
  let l := lnkOf s dir
  if (l.st = 5 ∨ (l.st = 1 ∧ l.failed = true)) ∧ l.failedAt + 1000000 ≤ s.time then startBringup s dir else s

/-! ### Lanes (R373 to R376) -/

/-- The width that R375 allows for a number of good lanes, when the way narrows. -/
def narrowWidth (s : State) (dir good : Nat) : Option Nat :=
  let c := reg s (pgLnk dir) 0x100
  let least := match bits c 2 2 with | 0 => 32 | 1 => 28 | 2 => 24 | _ => 16
  match [28, 24, 16].find? (fun w => decide (w ≤ good) && decide (w ≤ optWidth s dir)) with
  | none => none
  | some w => if bit c 1 && decide (least ≤ w) then some w else none

/-- Lanes and width of a way at bring-up (R383, R457). -/
def bringupLanes (s : State) (dir bad : Nat) : Option (Nat × Nat) :=
  let g := popCount 36 (goodLanes bad)
  match if 32 ≤ g then some (optWidth s dir) else narrowWidth s dir g with
  | none => none
  | some w => some (lowLanes w (goodLanes bad), w)

/-- A way enters RETRAIN (R374, R376). -/
def enterRetrain (s : State) (dir : Nat) (rx : Bool) : State :=
  let l := lnkOf s dir
  setLnk s dir { l with
    st := 3
    rxRetrain := l.rxRetrain || rx
    txRetrain := l.txRetrain || !rx
    rxTrained := l.rxTrained && !rx
    txTrained := l.txTrained && rx
    rtAt := if rx && !l.rxRetrain then s.time else l.rtAt
    rtAtTx := if !rx && !l.txRetrain then s.time else l.rtAtTx }

/-- Receive lanes after lane `lane` has gone bad: a spare takes its place, or the way narrows (R374, R375); none where it
cannot. The answer is the new map, its width and the spare used. -/
def replaceLane (s : State) (dir : Nat) (l : Lnk) (lane : Nat) : Option (Nat × Nat × Option Nat) :=
  let bad := l.rxBad ||| 2 ^ lane
  match lowBit 36 0 (clearBits (goodLanes bad) l.rxActive) with
  | some sp => some (clearBits l.rxActive (2 ^ lane) ||| 2 ^ sp, l.rxWidth, some sp)
  | none =>
    (narrowWidth s dir (popCount 36 (goodLanes bad))).map (fun w => (lowLanes w (goodLanes bad), w, none))

/-- Good spares of a way. -/
def sparesOf (active bad : Nat) : Nat := popCount 36 (clearBits (goodLanes bad) active)

def spareDetail (way lane spare left : Nat) : List Byte :=
  padTo 16 (leBytes 1 way ++ leBytes 1 lane ++ leBytes 1 spare ++ leBytes 1 left)
def narrowDetail (way old new good : Nat) : List Byte :=
  padTo 16 (leBytes 1 way ++ leBytes 1 old ++ leBytes 1 new ++ leBytes 1 good)

/-- Both ways of an UP direction narrow to a width through a RETRAIN begun at once (R443, R457). -/
def narrowDir (s : State) (dir w : Nat) : State :=
  let l := lnkOf s dir
  if l.st = 2 ∨ l.st = 3 then
    let s :=
      if w < l.rxWidth then
        let s := enterRetrain (setLnk s dir (rxLanes l (setIdx 36 0 (lowLanes w (goodLanes l.rxBad))))) dir true
        raiseEvt s (pgLnk dir) 1 [] 0 (narrowDetail 0 l.rxWidth w (popCount 36 (goodLanes l.rxBad)))
      else s
    let s :=
      if w < l.txWidth then
        let s := enterRetrain
          (setLnk s dir (txLanes (lnkOf s dir) (setIdx 36 0 (lowLanes w (goodLanes l.txBad))))) dir false
        raiseEvt s (pgLnk dir) 1 [] 0 (narrowDetail 1 l.txWidth w (popCount 36 (goodLanes l.txBad)))
      else s
    if w < l.rxWidth ∨ w < l.txWidth then askLink s dir 3 else s
  else s

/-- A lane of the receive way is bad: a spare takes its logical lane, or the way narrows, each with its event (R374, R375);
none where the way can do neither. -/
def swapLane (s : State) (dir lane : Nat) : Option State :=
  let l := lnkOf s dir
  let bad := l.rxBad ||| 2 ^ lane
  match replaceLane s dir l lane with
  | none => none
  | some (act, _, some x) =>
    some (raiseEvt
      (setLnk s dir (rxLanes { l with rxBad := bad } (l.rxMap.map (fun p => if p = lane then x else p))))
      (pgLnk dir) 0 [] 0 (spareDetail 0 lane x (sparesOf act bad)))
  | some (act, w, none) =>
    some (raiseEvt (setLnk s dir (rxLanes { l with rxBad := bad } (setIdx 36 0 act)))
      (pgLnk dir) 1 [] 0 (narrowDetail 0 l.rxWidth w (popCount 36 (goodLanes bad))))

/-- A receive lane squalls (R374 to R376): its way enters RETRAIN, or the direction goes DOWN. -/
def squallLane (s : State) (dir lane : Nat) : State :=
  match swapLane s dir lane with
  | none => goDown (setLnk s dir { lnkOf s dir with rxBad := (lnkOf s dir).rxBad ||| 2 ^ lane }) dir 1 s.time
  | some s => askLink (enterRetrain s dir true) dir 3

/-- Codewords arrive on a receive lane (R356, R373): counters 6 and 7, and what the detector keeps of the lane. -/
def noteCodewords (s : State) (dir lane : Nat) (errs : List Nat) : State :=
  let ucw := (errs.filter (fun n => decide (symLimit < n))).length
  let sym := (errs.filter (fun n => decide (n ≤ symLimit))).foldl (· + ·) 0
  let s := bump (bump s (pgLnk dir) 6 ucw) (pgLnk dir) 7 sym
  let l := lnkOf s dir
  let win := regF s (pgLnk dir) 0x118 8 16
  setLnk s dir { l with
    ucw := mapPut [] l.ucw lane
      ((mapGet [] l.ucw lane).filter (fun t => decide (s.time ≤ t + win)) ++ List.replicate ucw s.time)
    sym := mapPut [] l.sym lane
      ((mapGet [] l.sym lane).filter (fun t => decide (s.time ≤ t.1 + 1000000)) ++ (if sym = 0 then [] else [(s.time, sym)])) }

/-- A lane has met a limit of LNK_SQUALL. -/
def squalls (s : State) (dir lane : Nat) : Bool :=
  let l := lnkOf s dir
  let sym := (mapGet [] l.sym lane).foldl (fun n t => n + t.2) 0
  decide (regF s (pgLnk dir) 0x118 0 8 ≤ (mapGet [] l.ucw lane).length) || decide (regF s (pgLnk dir) 0x118 32 24 < sym)

/-- The fibre of a receive lane is dark: lane 4f + w is wavelength w of fibre f (R355, R387). -/
def fibreDark (s : State) (dir lane : Nat) : State :=
  let p := pgOpt (dir / 2)
  let b := 9 * (dir % 2) + lane / 4
  if bit (reg s p 0x108) b then bump (setRegF s p 0x108 b 1 0) p 1 1 else s

/-- SQUALL: what a receive lane shows reaches the detector. A squall of a transmit lane is found by the partner, whose
LANE_MAP tells of it. -/
def opSquall (s : State) (dir way lane : Nat) (r : LaneReport) : State :=
  let l := lnkOf s dir
  if way = 0 ∧ (l.st = 2 ∨ l.st = 3) ∧ lane < 36 ∧ bit l.rxActive lane = true then
    match r with
    | .codewords errs =>
      let s := noteCodewords s dir lane errs
      if squalls s dir lane then squallLane s dir lane else s
    | .noLock => squallLane s dir lane
    | .noLight => squallLane (fibreDark s dir lane) dir lane
  else s

/-- SPARE_LANE_TEST: a receive spare that squalls is bad. -/
def opSpareTest (s : State) (dir way lane : Nat) (squalls : Bool) : State :=
  let l := lnkOf s dir
  if way = 0 ∧ squalls = true ∧ lane < 36 ∧ bit l.rxActive lane = false ∧ l.st ≠ 0 then
    setLnk s dir { l with rxBad := l.rxBad ||| 2 ^ lane }
  else s

/-- The transmit way's map for a partner's set of lanes: lanes that join take the places of those that left, in ascending
order (DEDUCED, log 120: a LANE_MAP frame names the set alone); a new width numbers them from the lowest. -/
def mapFor (old : List Nat) (active width : Nat) : List Nat :=
  if width = old.length then
    let gone := setIdx 36 0 (clearBits (laneMask old) active)
    let new := setIdx 36 0 (clearBits active (laneMask old))
    old.map (fun p => if bit active p then p else new.getD (gone.findIdx (fun g => g == p)) p)
  else setIdx 36 0 active

/-- The transmit way takes the partner's lane map. Which of the lanes that a narrowing frees are bad is not told: they
are a free choice among those freed. -/
def takeMap (s : State) (dir active width : Nat) : State :=
  let l := lnkOf s dir
  let gone := clearBits l.txActive active
  let new := clearBits active l.txActive
  let (d, s) := draw s
  let bad := l.txBad ||| (if width = l.txWidth then gone else gone &&& d)
  let s := enterRetrain (setLnk s dir (txLanes { l with txBad := bad } (mapFor l.txMap active width))) dir false
  if width = l.txWidth then
    raiseEvt s (pgLnk dir) 0 [] 0
      (spareDetail 1 ((lowBit 36 0 gone).getD 0) ((lowBit 36 0 new).getD 0) (sparesOf active bad))
  else raiseEvt s (pgLnk dir) 1 [] 0 (narrowDetail 1 l.txWidth width (popCount 36 (goodLanes bad)))

/-- LANE_MAP arrives: WAY 0 is the way that its sender receives. A body equal to the map that this side told is its
answer; another tells the map of this side's transmit way. -/
def opLaneMap (s : State) (dir way active width : Nat) : State :=
  let l := lnkOf s dir
  if l.linkOut.contains 3 && active == l.rxActive && width == l.rxWidth then answered s dir 3
  else if way ≠ 0 ∨ ¬([32, 28, 24, 16].contains width = true ∧ popCount 36 active = width) then s
  else if l.st = 2 ∨ l.st = 3 then
    let s := if active = l.txActive ∧ width = l.txWidth then s else takeMap s dir active width
    sendFrame s dir
      { bareFrame 3 with payload := [3, 0, 0, 0] ++ leBytes 5 active ++ leBytes 1 width }
  else if l.st = 1 ∨ l.st = 4 then
    sendFrame (setLnk s dir (txLanes l (mapFor l.txMap active width))) dir
      { bareFrame 3 with payload := [3, 0, 0, 0] ++ leBytes 5 active ++ leBytes 1 width }
  else s

/-! ### Bring-up (R383, R392, R393) -/

/-- Every direction of every axis longer than 1 has been UP. -/
def allUpOnce (s : State) : Bool :=
  (upTo 8).all (fun d => axisLen s (d / 2) == 1 || bit (reg s pgTor 0x108) d)

/-- The direction becomes UP. -/
def becomeUp (s : State) (dir : Nat) : State :=
  let l := lnkOf s dir
  setLnk s dir { l with
    st := 2, fails := 0, trainReq := false, rxRetrain := false, txRetrain := false, rxTrained := false, txTrained := false
    ackAt := s.time, validAt := s.time, rxPos := 0, txPos := 0, ucw := [], sym := [] }

/-- A bring-up whose lanes have trained and whose HELLO matched is UP. -/
def tryUp (s : State) (dir : Nat) : State :=
  let l := lnkOf s dir
  if l.st = 1 ∧ l.trained = true ∧ l.pValid = true ∧ l.failed = false then
    let s := setRegF (becomeUp s dir) pgTor 0x108 dir 1 1
    if allUpOnce s then setRegF s pgTor 0x108 24 1 1 else s
  else s

/-- A bring-up attempt fails; the eighth in a row sets TRAIN_FAIL (R383). -/
def failBringup (s : State) (dir : Nat) : State :=
  let l := lnkOf s dir
  let s := setLnk s dir { l with failed := true, failedAt := s.time, fails := l.fails + 1, linkOut := [] }
  if l.fails + 1 = 8 then raiseErr s (pgLnk dir) 9 {} [] [] else s

/-- HELLO arrives: FRESH in HOLD flushes (R378); at bring-up its coordinate is checked (R392). -/
def opHello (s : State) (dir epoch coord : Nat) (fresh : Bool) : State :=
  let l := lnkOf s dir
  if l.st = 4 then (if fresh then startBringup (flushDir s dir) dir else s)
  else if l.st = 1 ∧ l.failed = false then
    let ask := l.linkOut.contains 1
    let s := setLnk s dir { l with
      pCoord := coord % 2 ^ 24, pEpoch := epoch % 256, pFresh := fresh, pValid := true
      linkOut := l.linkOut.filter (fun o => o != 1) }
    if coord % 2 ^ 24 = neighbour s (ownCoord s) dir then
      let s := setRegF s pgTor 0x108 (8 + dir) 1 0
      tryUp (if ask then s else sendLink s dir 1) dir
    else
      let s := setRegF s pgTor 0x108 (8 + dir) 1 1
      failBringup (raiseErr s pgTor 8 { detail := dir, addr := coord % 2 ^ 24 } [] []) dir
  else if l.st = 2 then (if l.linkOut.contains 1 then answered s dir 1 else sendLink s dir 1)
  else s

/-- The remaining replay entries are to be resent in order. -/
def resendAll (s : State) (dir : Nat) : State :=
  let l := lnkOf s dir
  setLnk s dir { l with resend := l.replay.map (·.seq) }

/-- A way of a direction in RETRAIN is done with RESYNC once it has trained (R374); the direction is UP when neither way is
in RETRAIN any more. The ways retrain independently (R376). -/
def wayDone (s : State) (dir : Nat) : State :=
  let l := lnkOf s dir
  let tx := l.txRetrain && l.txTrained
  let rx := l.rxRetrain && l.rxTrained && !l.linkOut.contains 3
  let s := if tx then resendAll s dir else s
  let l := lnkOf s dir
  let s := setLnk s dir { l with
    txRetrain := l.txRetrain && !tx, rxRetrain := l.rxRetrain && !rx
    txPos := if tx then 0 else l.txPos, rxPos := if rx then 0 else l.rxPos, validAt := if rx then s.time else l.validAt }
  let l := lnkOf s dir
  if l.txRetrain || l.rxRetrain then s else becomeUp s dir

/-- RESYNC arrives (R374, R378). While neither way in RETRAIN has trained here it is left unanswered, and the partner repeats
it (R361). -/
def opResync (s : State) (dir epoch pEpoch rx : Nat) (credits : List Nat) : State :=
  let l := lnkOf s dir
  let ok := epoch % 256 == l.pEpoch && pEpoch % 256 == l.epoch
  if l.st = 4 ∧ ok = false then startBringup (flushDir s dir) dir
  else if ok ∧ (l.st = 2 ∨ l.st = 3 ∨ l.st = 4) then
    let asked := l.linkOut.contains 2
    let s := takeAck s dir ((rx + seqMod - 1) % seqMod)
    let l' := lnkOf s dir
    let s := setLnk s dir { l' with txAcked := if rx = 0 ∧ l.replay = [] then l.txAcked else l'.txAcked }
    let s := (upTo 8).foldl (fun s p => takeCredit s dir p (credits.getD p (mapGet 0 l.pFreed p))) s
    if l.st = 3 ∧ l.rxTrained = false ∧ l.txTrained = false then s
    else
      let s := answered s dir 2
      let s := if asked then s else sendLink s dir 2
      if l.st = 4 then
        if l.lullAt + lullNs s dir ≤ s.time then flushDir s dir
        else becomeUp (resendAll s dir) dir
      else if l.st = 3 then wayDone s dir
      else s
  else s

/-- Light is seen on the receive and laser input fibres of a direction that has trained (OPT_LIGHT). -/
def lightOn (s : State) (dir : Nat) : State :=
  let p := pgOpt (dir / 2)
  let lo := 9 * (dir % 2)
  let s := setLnk s dir { lnkOf s dir with txStop := 0 }
  setRegF (setRegF s p 0x108 lo 9 0x1FF) p 0x108 (32 + lo) 9 0x1FF

/-- Active receive lanes that a retrain in HOLD found bad are replaced one by one; none where they cannot be. A way widens
only at a bring-up (R375). -/
def swapAll (dir : Nat) : List Nat → State → Option State
  | [], s => some s
  | lane :: rest, s =>
    if bit (lnkOf s dir).rxActive lane then
      match swapLane s dir lane with
      | none => none
      | some s => swapAll dir rest s
    else swapAll dir rest s

/-- TRAINING_DONE: the lanes of a bring-up have trained, or not; in RETRAIN those of one way (0 receive, 1 transmit); in HOLD
those of both. -/
def opTrainingDone (s : State) (dir way : Nat) (ok : Bool) (rxBad txBad : Nat) : State :=
  let l := lnkOf s dir
  let rb := (l.rxBad ||| rxBad) &&& lanes36
  if l.st = 1 ∧ l.failed = false then
    let tb := (l.txBad ||| txBad) &&& lanes36
    match if ok then (bringupLanes s dir rb).bind (fun r => (bringupLanes s dir tb).map (fun t => (r, t))) else none with
    | none => failBringup s dir
    | some (r, t) =>
      let s := lightOn s dir
      let l := { lnkOf s dir with rxBad := rb, txBad := tb, trained := true }
      let s := setLnk s dir (txLanes (rxLanes l (setIdx 36 0 r.1)) (setIdx 36 0 t.1))
      tryUp (askLink (askLink s dir 3) dir 1) dir
  else if l.st = 3 ∧ ok = true then
    if way = 0 ∧ l.rxRetrain = true then askLink (setLnk s dir { l with rxTrained := true }) dir 2
    else if way = 1 ∧ l.txRetrain = true then askLink (setLnk s dir { l with txTrained := true }) dir 2
    else s
  else if l.st = 4 ∧ ok = true then
    let s := lightOn s dir
    match swapAll dir (setIdx 36 0 (l.rxActive &&& rb)) (setLnk s dir { lnkOf s dir with rxBad := rb }) with
    | none => s
    | some s =>
      let s := setLnk s dir { lnkOf s dir with trained := true }
      if l.rxActive &&& rb = 0 then askLink s dir 2 else askLink (askLink s dir 3) dir 2
  else s

/-! ### Events and register bits of a direction -/

/-- DOWN arrives: the cause here is 4. -/
def opDown (s : State) (dir : Nat) : State := goDown s dir 4 s.time

/-- LOSS_OF_LIGHT: every receive fibre of the direction. -/
def opLossOfLight (s : State) (dir : Nat) : State :=
  let p := pgOpt (dir / 2)
  let lo := 9 * (dir % 2)
  let n := popCount 9 (regF s p 0x108 lo 9)
  let s := setRegF s p 0x108 lo 9 0
  goDown (if n = 0 then s else bump s p 1 n) dir 0 s.time

/-- The receive way carries frames. -/
def rxUp (l : Lnk) : Bool := l.st == 2 || (l.st == 3 && !l.rxRetrain)

/-- NO_VALID_FRAME on a way that is UP: 2 µs have passed since the last one. -/
def opNoValid (s : State) (dir : Nat) : State :=
  let l := lnkOf s dir
  if rxUp l = true ∧ passed s (l.validAt + 2000) = true then goDown s dir 2 s.time else s

/-- RETRAIN_OVERRUN: the lull timer starts at the start of the RETRAIN (R377). -/
def opRetrainOverrun (s : State) (dir : Nat) : State :=
  let l := lnkOf s dir
  if l.st = 3 ∧ l.rxRetrain = true ∧ l.rtAt + 30000 ≤ s.time then goDown s dir 3 l.rtAt
  else if l.st = 3 ∧ l.txRetrain = true ∧ l.rtAtTx + 30000 ≤ s.time then goDown s dir 3 l.rtAtTx
  else s

/-- LANE_MAP_TIMEOUT; its CAUSE code is taken to be that of the RETRAIN overrun of the same rule. DEDUCED (log 62). -/
def opLaneMapTimeout (s : State) (dir : Nat) : State :=
  let l := lnkOf s dir
  if l.st = 3 ∧ l.linkOut.contains 3 = true ∧ l.lmAt + 2000 ≤ s.time then goDown s dir 3 s.time else s

/-- FORCE_DOWN: DOWN is sent and the direction enters HOLD. -/
def forceDown (s : State) (dir : Nat) : State :=
  let l := lnkOf s dir
  if l.st = 2 ∨ l.st = 3 then sendLink (goDown s dir 5 s.time) dir 4 else s

/-- RETRAIN: an UP direction goes down through HOLD and runs Table 12-5. -/
def reqRetrain (s : State) (dir : Nat) : State :=
  let l := lnkOf s dir
  if l.st = 2 then goDown (setLnk s dir { l with trainReq := true }) dir 5 s.time else s

/-- ENABLE is clear: the direction is OFF. From UP, RETRAIN or HOLD it is flushed first. DEDUCED from Table 12-4
(log 63). -/
def linkOff (s : State) (dir : Nat) : State :=
  let l := lnkOf s dir
  if l.st = 0 then s
  else
    let s := if 2 ≤ l.st ∧ l.st ≤ 4 then flushDir (setLnk s dir { l with cause := 5 }) dir else s
    setLnk s dir { lnkOf s dir with st := 0, trained := false, failed := false, linkOut := [], pValid := false }

/-- A link reset acts as an immediate expiry, followed by bring-up from OFF (R380); RST_CTRL.LINK reads 1 until it starts. -/
def linkResetDir (s : State) (dir : Nat) : State :=
  let l := lnkOf s dir
  if l.st = 0 then setLnk s dir { l with linkReset := true }
  else
    let s := if 2 ≤ l.st ∧ l.st ≤ 4 then flushDir (setLnk s dir { l with cause := 5 }) dir else s
    startBringup (setLnk s dir { lnkOf s dir with st := 0, fails := 0, linkReset := true }) dir

/-- A write of LNK_CFG that the guard has let through. On an axis of length 1 ENABLE is ignored (R390). -/
def opLnkCfg (s : State) (dir v : Nat) : State :=
  let s := setReg s (pgLnk dir) 0x100 (v &&& 0x4F)
  let s :=
    if bit v 0 = false then linkOff s dir
    else if (lnkOf s dir).st = 0 ∧ axisLen s (dir / 2) ≠ 1 then startBringup s dir
    else s
  let s := if bit v 5 then forceDown s dir else s
  if bit v 4 then reqRetrain s dir else s

/-- LASER_LOSS: a laser input fibre loses light; with LASER_EN set its four lanes of the transmit way stop (R355, R387). -/
def opLaserLoss (s : State) (oe fibre : Nat) : State :=
  if fibre < 18 then
    let p := pgOpt oe
    let s := setRegF s p 0x108 (32 + fibre) 1 0
    if bit (reg s p 0x100) (fibre / 9) then
      let dir := 2 * oe + fibre / 9
      let l := lnkOf s dir
      let s := setLnk s dir { l with txStop := l.txStop ||| 0xF * 2 ^ (4 * (fibre % 9)) }
      raiseErr (bump s p 0 1) p 8 { detail := fibre } [] []
    else s
  else s

/-! ### Receiving a frame (R357, R360, R371) -/

/-- The body of a received LINK frame (Table 12-3). -/
def takeLink (s : State) (dir : Nat) (b : List Byte) : State :=
  match num b 0 1 with
  | 1 => opHello s dir (num b 1 1) (num b 4 3) (bit (num b 2 1) 0)
  | 2 => opResync s dir (num b 1 1) (num b 2 1) (bits (num b 4 3) 0 20) ((upTo 8).map (fun p => num b (8 + 2 * p) 2))
  | 3 => opLaneMap s dir (bits (num b 1 1) 0 1) (bits (num b 4 5) 0 36) (num b 9 1)
  | 4 => opDown s dir
  | _ => s

/-- A frame that R360 keeps. The counts of a trailer hold while the way carries frames (DEDUCED, log 120: flushed counts start anew,
R380); LINK frames are taken in every state. -/
def takeFrame (s : State) (dir : Nat) (f : Frame) : State :=
  let l := lnkOf s dir
  if f.ty = 3 then takeLink (if rxUp l then takeTrailer s dir f else s) dir f.payload
  else if rxUp l = false then s
  else if f.ty = 1 ∧ f.linkEpoch ≠ l.pEpoch then lateDrop s dir
  else
    let s := takeTrailer s dir f
    if f.ty = 1 then
      let s := if accepts (lnkOf s dir) f.seq then linkTrace s dir 1 f f.linkEpoch else s
      takeData s dir f.seq
        { vc := f.vc, dl := f.dateline, dest := f.dest, src := f.src, reqEpoch := f.reqEpoch
          payload := f.payload.take f.len }
    else s

/-- A frame arrives on the lanes of the receive way: it is discarded and counted, or taken. -/
def opFrameReceive (s : State) (dir : Nat) (ws : List LaneWord) : State :=
  let l := lnkOf s dir
  if l.st = 0 ∨ l.rxMap = [] then s
  else
    let l' := { l with rxPos := (l.rxPos + 32) % l.rxMap.length }
    match rxFrame l.rxMap l.rxPos ws with
    | none => bump (setLnk s dir l') (pgLnk dir) 5 1
    | some f => takeFrame (setLnk s dir { l' with validAt := s.time }) dir f

end Sys2Proof.Machine
end

