-- ==== Sys2Proof/Machine/Tor.lean ====
section
/-! DEFINITION. The torus page (chapter "Torus, coordinates and job mapping"): coordinate, boxes and absences, TOR_PUT and
its arrival, TOR_RESHARD. -/
namespace Sys2Proof.Machine

/-! ### Boxes (R391) -/

def jboxOf (s : State) (j : Nat) : Nat := reg s pgTor (0x110 + 8 * j)
/-- Base and length of a box on an axis: register order D, P, T, S. -/
def boxBase (b ax : Nat) : Nat := bits b (12 * ax) 6
def boxLen (b ax : Nat) : Nat := bits b (12 * ax + 6) 6 + 1

/-- A coordinate lies in a box. -/
def inBox (b c : Nat) : Bool :=
  [0, 1, 2, 3].all (fun ax => decide (boxBase b ax ≤ coordC c ax) && decide (coordC c ax < boxBase b ax + boxLen b ax))

/-- A box keeps R391: it does not wrap, it contains the own coordinate, and a LOOPED stage's job spans the P axis. -/
def boxLegal (s : State) (j b : Nat) : Bool :=
  [0, 1, 2, 3].all (fun ax => decide (boxBase b ax + boxLen b ax ≤ axisLen s ax)) && inBox b (ownCoord s) &&
    (upTo 32).all (fun r =>
      !(pseValid s r && pseJob s r == j && pseSched s r == 1) || boxLen b 1 == axisLen s 1)

/-- A write of TOR_JBOXj: VALID stays clear where the box breaks R391. -/
def opJbox (s : State) (j v : Nat) : State :=
  let v := v &&& 0x1FFFFFFFFFFFF
  setReg s pgTor (0x110 + 8 * j) (if bit v 48 && !boxLegal s j v then setBits v 48 1 0 else v)

/-- A write of TOR_COORD (R389), which clears CONFIRMED (R393) and with it what CONFIRMED rests on (DEDUCED, log 121); a
direction that is enabled, on an axis that is longer than 1 now, trains (R390, Table 12-4). -/
def opTorCoord (s : State) (v : Nat) : State :=
  let c := bits v 0 24
  let len (ax : Nat) : Nat := bits v (24 + 6 * ax) 6 + 1
  if len 0 * len 1 * len 2 * len 3 ≤ 4096 ∧ [0, 1, 2, 3].all (fun ax => decide (coordC c ax < len ax)) = true ∧
      (upTo 8).all (fun d => (lnkOf s d).st == 0) = true then
    let s := setReg s pgTor 0x100 (bits v 0 48)
    let s := setRegF (setRegF s pgTor 0x108 24 1 0) pgTor 0x108 0 8 0
    (upTo 8).foldl (fun s d =>
      if bit (reg s (pgLnk d) 0x100) 0 && axisLen s (d / 2) != 1 then startBringup s d else s) s
  else s

/-! ### Absences (R396, R397) -/

/-- The route from this package to a destination passes through a coordinate or ends at it. -/
def routeMeets (s : State) (dest c : Nat) : Bool := (routeOf s dest 256 (ownCoord s)).contains c

/-- The route to a destination meets a VALID entry of TOR_ABSENT. -/
def routeAbsent (s : State) (dest : Nat) : Bool :=
  (upTo 8).any (fun k =>
    let v := reg s pgTor (0x198 + 8 * k)
    bit v 24 && routeMeets s dest (bits v 0 24))

/-- A write of TOR_ABSENTk. -/
def opTorAbsent (s : State) (k v : Nat) : State :=
  let s := setReg s pgTor (0x198 + 8 * k) (v &&& 0x1FFFFFF)
  if bit v 24 then
    (s.puts.filter (fun p => routeMeets s p.dest (bits v 0 24))).foldl
      (fun s p => bump (endPut s p.id stLinkLost) pgTor 3 1) s
  else s

/-! ### TOR_PUT (R398 to R400) -/

def putSrc (c : QCmd) : Nat := bf c 16 8
def putDst (c : QCmd) : Nat := bf c 24 8
def putLen (c : QCmd) : Nat := bf c 32 4
def putDest (c : QCmd) : Nat := bf c 36 3

/-- The re-shard's fields (Table 13-3). -/
def rsPerm (c : QCmd) : Nat := bf c 16 8
def rsBlocks (c : QCmd) : Nat := bf c 24 8
def rsN (c : QCmd) : Nat := bf c 32 4
def rsSize (c : QCmd) : Nat := bf c 36 4 * 1024
def rsStage (c : QCmd) : Nat := bf c 40 8
def rsJob (c : QCmd) : Nat := bits (bf c 48 1) 0 4
def rsBufs (c : QCmd) : Nat := bits (bf c 49 1) 0 4

/-- A range exists in either tier. -/
def fabExists (s : State) (a n : Nat) : Bool := inStacked a n || inSlow s a n

/-- R57 steps 3 and 4 for the TOR page. -/
def chkTor (s : State) (c : QCmd) : Option Nat :=
  if c.op = 1 then
    formThen
      (putSrc c % 64 == 0 && putDst c % 64 == 0 && within (putLen c) 64 67108864 && putLen c % 64 == 0 &&
        bz c 39 1 && bits (bf c 40 2) 11 5 == 0 && bits (bf c 42 1) 7 1 == 0 && bz c 43 13 && syncFmt c true &&
        putDest c != ownCoord s && bit (jboxOf s c.job) 48 && inBox (jboxOf s c.job) (putDest c))
      (stackedOk s c.job (putSrc c) (putLen c))
  else
    formThen
      (rsPerm c % 64 == 0 && rsBlocks c % 64 == 0 && within (rsN c) 2 1048576 && within (bf c 36 4) 4 65536 &&
        bf c 36 4 % 4 == 0 && rsStage c % 4096 == 0 && bits (bf c 48 1) 4 4 == 0 && within (rsBufs c) 1 8 &&
        bits (bf c 49 1) 4 4 == 0 && bz c 50 14)
      (fabExists s (rsPerm c) (4 * rsN c) && fabExists s (rsBlocks c) (8 * rsN c))

/-- The TOR_PUT with a number runs: it ends at once where its route is absent (R396, R397) or its source cannot be read,
and otherwise its bytes leave on the request channel. -/
def opTorPut (s : State) (id : Nat) : State :=
  match engRun s (pgTor * 2) (fun r => r.cmd.id == id && r.cmd.op == 1 && r.prog == 0) with
  | none => s
  | some r =>
    let c := r.cmd
    let dest := putDest c
    match routeDir s (ownCoord s) dest with
    | none => finish s r stFormat []
    | some dir =>
      if (lnkOf s dir).st = 5 then finish s r stLinkLost []
      else if routeAbsent s dest then bump (finish s r stLinkLost []) pgTor 3 1
      else
        match readBad s (putSrc c) (putLen c) with
        | some g => failUncorr s r g []
        | none =>
          let n0 := (lnkOf s dir).outQ.length
          let s := sendMsgVia s dir 0 dest (leBytes 8 (putDst c) ++ leBytes 3 (bf c 40 3) ++ leBytes 1 c.job ++ leBytes 4 c.id)
            (rdMem s (putSrc c) (putLen c))
          let s := setRun s (cmdKey c) { r with prog := 1 }
          { s with puts := s.puts ++
              [{ id := id, job := c.job, dest := dest, dir := dir, left := (lnkOf s dir).outQ.length - n0
                 sentAt := s.time }] }

/-- A reply leaves on the reply channel with the REQ_EPOCH of its request (R382, R399): a header that names the put by its
address and job, then the status. -/
def putAnswer (s : State) (q : PutReq) (status : Nat) : State :=
  match routeDir s (ownCoord s) q.src with
  | none => s
  | some d =>
    sendEpoch s d 1 q.src q.reqEpoch (headBytes (leBytes 8 q.dst ++ leBytes 1 q.job) ++ leBytes 1 status)

/-- The destination takes a put (R399). -/
def takePut (s : State) (q : PutReq) : State :=
  let b := jboxOf s q.job
  let n := q.data.length
  if bit b 48 && inBox b q.src && stackedOk s q.job q.dst n &&
      (!q.post || (ctxBound s q.core q.ctx && ctxJob s q.core q.ctx == q.job)) then
    match fabBadW s q.dst n with
    | some g =>
      let s := uncorrFab s g q.job true
      putAnswer { wrMem s q.dst (undefBytes s.free n) with free := s.free + 1 } q stUncorr
    | none =>
      let s := wrMem s q.dst q.data
      let s := if q.post then setSync s q.core q.ctx q.ctr (syncCtr s q.core q.ctx q.ctr + 1) else s
      putAnswer s q stOK
  else putAnswer s q stAccess

/-- PUT_REQUEST_ARRIVAL: it waits behind a re-shard of its job (R406). -/
def opPutArrival (s : State) (q : PutReq) : State :=
  let q := { q with job := q.job % 16, core := q.core % 2048, ctx := q.ctx % 4, ctr := q.ctr % 16 }
  if s.reshard.any (fun x => x.job == q.job) then { s with putWait := s.putWait ++ [q] } else takePut s q

/-- PUT_REPLY: the put completes with the status of its reply; a late reply is dropped (R400). -/
def opPutReply (s : State) (id status : Nat) : State :=
  if s.puts.any (fun p => p.id == id) then bump (endPut s id (status % 64)) pgTor 2 1 else bump s pgTor 4 1

/-- PUT_TIMEOUT (R400). -/
def opPutTimeout (s : State) (id : Nat) : State :=
  match s.puts.find? (fun p => p.id == id) with
  | none => s
  | some p =>
    if p.left = 0 ∧ p.sentAt + 1000 * regF s pgTor 0x190 0 32 ≤ s.time then
      raiseErr (bump (endPut s id stLinkLost) pgTor 3 1) pgTor 10 { status := stLinkLost, fn := p.job } [] []
    else s

/-! ### Re-sharding in place (R403 to R408) -/

/-- The puts that waited are taken. -/
def drainPuts (s : State) (job : Nat) : State :=
  (s.putWait.filter (fun q => q.job == job)).foldl takePut
    { s with putWait := s.putWait.filter (fun q => q.job != job) }

/-- Nothing of the job works on its memory (R404). -/
def jobQuiet (s : State) (job : Nat) : Bool :=
  s.ctxs.all (fun e =>
    !((e.2.st == 1 || e.2.st == 2) && ctxBound s (e.1 / 4) (e.1 % 4) && ctxJob s (e.1 / 4) (e.1 % 4) == job)) &&
  (upTo 32).all (fun r => !(pseValid s r && pseJob s r == job && (pseOf s r).st != 0)) &&
  readyOpen s job == 0 &&
  !(s.puts.any (fun p => p.job == job))

/-- No two ranges of a list of starts, each of `size` bytes, overlap. -/
def disjoint (size : Nat) : List Nat → Bool
  | [] => true
  | a :: as => as.all (fun b => decide (a + size ≤ b) || decide (b + size ≤ a)) && disjoint size as

/-- The entries of PERM and BLOCKS. -/
def rsPermOf (s : State) (c : QCmd) : List Nat := (upTo (rsN c)).map (fun i => rdNum s (rsPerm c + 4 * i) 4)
def rsBlocksOf (s : State) (c : QCmd) : List Nat := (upTo (rsN c)).map (fun i => rdNum s (rsBlocks c + 8 * i) 8)

/-- Every number below the length occurs. -/
def isPerm (p : List Nat) : Bool := (upTo p.length).all (fun i => p.contains i)

/-- The status that keeps a re-shard from starting (R404). -/
def rsRefuse (s : State) (c : QCmd) : Option Nat :=
  let bl := rsBlocksOf s c
  let st := (upTo (rsBufs c)).map (fun i => rsStage c + i * rsSize c)
  formThen
    (isPerm (rsPermOf s c) && bl.all (fun a => a % 4096 == 0) && disjoint (rsSize c) (bl ++ st) &&
      jobQuiet s (rsJob c))
    (bl.all (fun a => stackedOk s (rsJob c) a (rsSize c)) &&
      stackedOk s (rsJob c) (rsStage c) (rsBufs c * rsSize c))

/-- The block whose data belongs at x. -/
def piInv (x : Reshard) (i : Nat) : Nat := x.perm.idxOf i

/-- The lowest index whose cycle has not started. -/
def nextCycle (x : Reshard) : Option Nat :=
  (upTo x.perm.length).find? (fun c => !(x.moved.contains c) && x.perm.getD c c != c)

/-- The indices of the cycle of c. -/
def cycleOf (p : List Nat) : Nat → Nat → Nat → List Nat
  | 0, _, _ => []
  | n + 1, c, i => if i = c then [] else i :: cycleOf p n c (p.getD i c)

/-- Cycles start in ascending order, each on the lowest free buffer (R405). -/
def startCycles : Nat → Reshard → Reshard
  | 0, x => x
  | n + 1, x =>
    match (upTo x.bufs).find? (fun b => !(x.active.any (fun a => a.2.2.2 == b))), nextCycle x with
    | some b, some c =>
      startCycles n { x with
        active := x.active ++ [(c, c, 0, b)]
        moved := x.moved ++ c :: cycleOf x.perm x.perm.length c (x.perm.getD c c) }
    | _, _ => x

/-- What TOR_RESHARD_PROG shows. -/
def rsProg (s : State) (x : Reshard) : State := setReg s pgTor 0x1E0 (x.cycles % 2 ^ 32 + 2 ^ 32 * (x.copies % 2 ^ 32))

/-- The re-shard completes with OK where no cycle is left; its marker is cleared (R407). -/
def rsFinish (s : State) (x : Reshard) : State :=
  if x.active.isEmpty then
    let s := setReg { s with reshard := none } pgTor 0x1D8 0
    let s :=
      match engRun s (pgTor * 2) (fun r => r.cmd.id == x.id) with
      | none => s
      | some r => finish s r stOK (leBytes 4 x.cycles ++ leBytes 4 x.copies ++ leBytes 8 (s.time - x.t0))
    drainPuts s x.job
  else { s with reshard := some x }

/-- The re-shard is abandoned with a cause of Table 13-4: its command, if it still stands, ends with a status. -/
def rsAbandon (s : State) (cause status : Nat) : State :=
  match s.reshard with
  | none => s
  | some x =>
    let s := setReg { s with reshard := none } pgTor 0x1D8 (1 + 2 * x.job + 32 * cause + 2 ^ 32 * (x.copies % 2 ^ 32))
    let s :=
      match engRun s (pgTor * 2) (fun r => r.cmd.id == x.id) with
      | none => s
      | some r => finish s r status []
    let s := raiseErr s pgTor 9 { status := status, fn := x.job } [x.job]
      (leBytes 1 cause ++ leBytes 1 x.job ++ [0, 0] ++ leBytes 4 x.copies)
    drainPuts s x.job

/-- TOR_RESHARD: the tables are read whole and checked, the marker written, and the first cycles start. A later re-shard
waits for an earlier one. -/
def opReshard (s : State) : State :=
  if s.reshard.isSome then s
  else
    match engRun s (pgTor * 2) (fun r => r.cmd.op == 2 && r.prog == 0) with
    | none => s
    | some r =>
      let c := r.cmd
      match readBad s (rsPerm c) (4 * rsN c) with
      | some g => failUncorr s r g []
      | none =>
        match readBad s (rsBlocks c) (8 * rsN c) with
        | some g => failUncorr s r g []
        | none =>
          match rsRefuse s c with
          | some st => finish s r st []
          | none =>
            let x := startCycles (rsBufs c)
              { id := c.id, job := rsJob c, perm := rsPermOf s c, blocks := rsBlocksOf s c, size := rsSize c
                stage := rsStage c, bufs := rsBufs c, t0 := s.time }
            let s := setRun s (cmdKey c) { r with prog := 1 }
            rsFinish (rsProg (setReg s pgTor 0x1D8 (2 * x.job)) x) x

/-- Source and destination of the copy that a cycle makes next: block c to the buffer, then along the cycle, then the
buffer to the last block. -/
def rsCopy (x : Reshard) (a : Nat × Nat × Nat × Nat) : Nat × Nat :=
  let blk (i : Nat) : Nat := x.blocks.getD i 0
  let buf := x.stage + a.2.2.2 * x.size
  if a.2.2.1 = 0 then (blk a.1, buf)
  else if piInv x a.2.1 = a.1 then (buf, blk a.2.1)
  else (blk (piInv x a.2.1), blk a.2.1)

/-- Copies under way when a re-shard is abandoned finish or are cut: the bytes that they write are not defined (R407). -/
def cutCopies (s : State) (x : Reshard) : State :=
  x.active.foldl (fun s a =>
    let dst := (rsCopy x a).2
    if (fabBadW s dst x.size).isSome then s
    else { wrMem s dst (undefBytes s.free x.size) with free := s.free + 1 }) s

/-- RESHARD_COPY_DONE on a staging buffer. -/
def opCopyDone (s : State) (buf : Nat) : State :=
  match s.reshard with
  | none => s
  | some x =>
    match x.active.find? (fun a => a.2.2.2 == buf) with
    | none => s
    | some a =>
      let (src, dst) := rsCopy x a
      match fabBad s src x.size with
      | some g => rsAbandon (cutCopies (uncorrFab s g x.job false) x) 3 stUncorr
      | none =>
        match fabBadW s dst x.size with
        | some g => rsAbandon (cutCopies (uncorrFab s g x.job true) x) 3 stUncorr
        | none =>
          let s := wrMem s dst (rdMem s src x.size)
          let x := { x with copies := x.copies + 1 }
          let rest := x.active.filter (fun b => b.2.2.2 != buf)
          let x :=
            if a.2.2.1 ≠ 0 ∧ piInv x a.2.1 = a.1 then
              startCycles x.bufs { x with active := rest, cycles := x.cycles + 1 }
            else
              { x with active := rest ++
                  [(a.1, if a.2.2.1 = 0 then a.2.1 else piInv x a.2.1, a.2.2.1 + 1, buf)] }
          rsFinish (rsProg s x) x

end Sys2Proof.Machine
end

