-- ==== Sys2Proof/Machine/Power.lean ====
section
/-! DEFINITION. Power, clocks, resets and die joins (chapter "Power, clocks, resets and die joins"): performance levels,
power states, the shed order, clocks, the reset classes and start-up, bridge bundles. -/
namespace Sys2Proof.Machine

/-- DETAIL of the PWR error events (R458): VIN_MV and TJ_C. -/
def pwrDetail (s : State) : List Byte := leBytes 2 (regF s pgPwr 0x110 32 12) ++ leBytes 1 (regF s pgPwr 0x110 16 8)

/-! ### Performance levels (R429 to R432) -/

/-- The granted level G, the level requested, and the three caps. -/
def pwrG (s : State) : Nat := regF s pgPwr 0x108 4 3
def pwrReq (s : State) : Nat := regF s pgPwr 0x108 0 3
def powerCap (s : State) : Nat := regF s pgPwr 0x108 8 3
def thermalCap (s : State) : Nat := regF s pgPwr 0x108 11 3
def shedCapOf (rows : Nat) : Nat := if 2 ≤ rows then 3 else if rows = 1 then 2 else 0

/-- G is computed anew (R429); becoming lower-performing than REQ sets PLEVEL_CAPPED with the first cap that binds. -/
def relevel (s : State) : State :=
  let was := decide (pwrReq s < pwrG s)
  let shed := shedCapOf (shedRows s)
  let g := max (pwrReq s) (max (powerCap s) (max (thermalCap s) shed))
  let s := setRegF (setRegF s pgPwr 0x108 14 3 shed) pgPwr 0x108 4 3 g
  if pwrReq s < g ∧ was = false then
    raiseEvt s pgPwr 0 [] 0
      (leBytes 1 (pwrReq s) ++ leBytes 1 g ++
        leBytes 1 (if powerCap s = g then 0 else if thermalCap s = g then 1 else 2))
  else s

/-- A request for level 0 to 4; other values are ignored. -/
def opPlevel (s : State) (level : Nat) : State :=
  if level ≤ 4 then
    let capped := decide (pwrReq s < pwrG s)
    let s := setRegF s pgPwr 0x108 0 3 level
    let s := if capped then s else setRegF s pgPwr 0x108 4 3 level
    relevel s
  else s

/-- The power cap steps lower, to a level. -/
def capTo (s : State) (c : Nat) : State :=
  let s := { s with pwr := { s.pwr with capAt := s.time + 1, lowSince := 0 } }
  relevel (setRegF s pgPwr 0x108 8 3 (min 4 c))

/-- POWER_AVERAGE_SAMPLE: the rows of R430's table. P0 and P1 are held only below the limit (R27): a cap of P0 or P1 steps
to P2 at once. -/
def opPowerSample (s : State) (watts : Nat) : State :=
  let lim := regF s pgPwr 0x100 0 11
  let s := setRegF s pgPwr 0x110 0 11 (min watts 2047)
  let high := decide (powerCap s ≤ 1) && decide (lim ≤ watts)
  let s' := if high then capTo s 2 else s
  if lim < watts ∧ pwrG s = 4 then raiseErr { s' with pwr := { s'.pwr with lowSince := 0 } } pgPwr 8 {} [] []
  else if high then s'
  else if lim < watts then
    if s.pwr.capAt = 0 ∨ s.pwr.capAt - 1 + 1000000 ≤ s.time then capTo s (powerCap s + 1)
    else { s with pwr := { s.pwr with lowSince := 0 } }
  else if 100 * watts < 95 * lim then
    if s.pwr.lowSince = 0 then { s with pwr := { s.pwr with lowSince := s.time + 1 } }
    else if s.pwr.lowSince - 1 + 10000000 ≤ s.time ∧ powerCap s ≠ 0 then
      relevel (setRegF { s with pwr := { s.pwr with lowSince := s.time + 1 } } pgPwr 0x108 8 3 (powerCap s - 1))
    else s
  else { s with pwr := { s.pwr with lowSince := 0 } }

/-- LEVEL_STEP_DONE: one phase of Table 15-1 ends (R431): to a higher level the rail first, to a lower one the ceiling. -/
def opLevelStep (s : State) : State :=
  let p := s.pwr
  let g := pwrG s
  if g < p.ceil then
    (if p.rail < p.ceil then { s with pwr := { p with ceil := p.ceil - 1 } }
     else { s with pwr := { p with rail := p.rail - 1 } })
  else if p.rail < p.ceil then { s with pwr := { p with rail := p.rail + 1 } }
  else if p.ceil < g then { s with pwr := { p with ceil := p.ceil + 1 } }
  else s

/-! ### Wipes and the state that a reset leaves (R450) -/

/-- Registers that VAON holds (R450), and the wake address (PWR_FROST_CFG). -/
def keptKey (key : Nat) : Bool :=
  match pageBlk (key / 512) with
  | none => false
  | some (b, _) => ((regRow b (key % 512 * 8)).map (·.kept)).getD false

/-- Memory that no package reset wipes: the always-on log, and what the device wrote into host memory. -/
def keptCell (a : Nat) : Bool := decide (a / 2 ^ 64 = spAol / 2 ^ 64) || decide (a / 2 ^ 64 = spHost / 2 ^ 64)

/-- What is left of the state when everything but VAON and the fuses has lost it; the wake address is held on VAON, and of
GDR_CFG all but RETRAIN. The life-cycle nonce is drawn anew (R10). -/
def vaonState (s : State) : State :=
  let t : State :=
    { pending := s.pending, free := s.free, mem := mapKeep s.mem keptCell, regs := mapKeep s.regs keptKey
      aolWritten := s.aolWritten, aolMeas := s.aolMeas, fuses := s.fuses, nonceNo := s.nonceNo + 1, vaon := s.vaon
      owed := s.owed, pwr := { thermTrip := s.pwr.thermTrip } }
  (upTo 16).foldl retrainEnds (setRegF t pgPwr 0x140 8 7 (regF s pgPwr 0x140 8 7))

/-- A re-shard that runs is abandoned with a cause of Table 13-4: VALID at the next start, and RESHARD_ABORTED to function
0 when its event ring is first enabled (R407). -/
def markReshard (s : State) (cause : Nat) : State :=
  match s.reshard with
  | none => s
  | some x =>
    owe (setReg s pgTor 0x1D8 (1 + 2 * x.job + 32 * cause + 2 ^ 32 * (x.copies % 2 ^ 32))) 0x80 pgTor
      (leBytes 1 cause ++ leBytes 1 x.job ++ [0, 0] ++ leBytes 4 x.copies)

/-! ### Start-up (R453, R455, R486, R524) -/

/-- The straps are sampled; a set that breaks R389 loads zeros into TOR_COORD. -/
def sampleStraps (s : State) (u : StartUp) : State :=
  let v := u.strapCoord % 2 ^ 24 + 2 ^ 24 * (u.strapLen % 2 ^ 24)
  let len (ax : Nat) : Nat := bits v (24 + 6 * ax) 6 + 1
  let ok := decide (len 0 * len 1 * len 2 * len 3 ≤ 4096) && [0, 1, 2, 3].all (fun ax => decide (coordC v ax < len ax))
  setRegF (setReg s pgTor 0x100 (if ok then v else 0)) pgPwr 0x140 8 7 u.strapWake

/-- GDDR7 training of a start-up: each enabled port is TRAINED or fails, after a time that is not stated exactly. -/
def startPorts (s : State) (u : StartUp) : State :=
  (upTo 16).foldl (fun s p =>
    if gdrState s p = 1 then
      let (us, s) := draw s
      opGdrDone s p (!u.failedPorts.contains p) us
    else s) (tierStart s)

/-- The lane test of a bundle (R455): up to four failing lanes are replaced from the fused spares, the lowest-numbered good
spare first (DESIGN CHOICE, log 119), and counted where that leaves the fused choice; with more the bundle has failed. -/
def testBundle (u : StartUp) (s : State) (b : Nat) : State :=
  let bad := (u.badLanes.filter (fun x => x.1 == b)).foldl (fun a x => setAdd a x.2) []
  let fused := mapGet spareLanes s.fuses.spares b
  let moved := bad.filter (fun l => !fused.contains l)
  if 4 < bad.length then raiseErr (bump (setRegF s pgDtd 0x110 b 1 0) pgDtd 1 1) pgDtd 8 { detail := b } [] []
  else
    bump { setRegF s pgDtd 0x110 b 1 1 with
      bundles := mapPut {} s.bundles b
        { spares := (fused.filter (fun l => !bad.contains l)).drop moved.length, bad := bad } } pgDtd 0 moved.length

/-- The phases after the boot ROM: fuses and bridge lanes, stack channel test, GDDR7 training, release of the CXL port with
the fabric closed. -/
def afterBoot (s : State) (u : StartUp) : State :=
  let s := (upTo 56).foldl (testBundle u) s
  let s := u.badChannels.foldl (fun s n => if n < 256 then fenceChan s (pgMem (n / 8) (n % 8)) 1 else s) s
  let s := setRegF (startPorts s u) pgRst 0x108 2 1 0
  { s with portReleased := true }

/-- The boot ROM reads the flash and checks the image; in SCRAPPED it stops, and the port is released with function 0
only (R491). -/
def bootRom (s : State) (u : StartUp) : State :=
  if s.fuses.lcs = 4 then { setRegF s pgRst 0x108 2 1 0 with sec := { st := 3 }, portReleased := true }
  else if u.flashAnswers = false then { enterRecovery s 1 u with portReleased := true }
  else
    match checkImage s u.image with
    | (0, k) => afterBoot (runImage s u.image k 0) u
    | (c, _) => { enterRecovery s c u with portReleased := true }

/-- A start-up with the code of RST_STATUS.LAST, from a state that the reset has wiped; CLK_CFG takes effect (R447). -/
def startUp (s : State) (last : Nat) (u : StartUp) : State :=
  let s := setReg (sampleStraps { s with cxlRef := regF s pgClk 0x100 0 2 } u) pgRst 0x108 (4 + last)
  bootRom s u

/-- COLD_RESET: HUB_TIME starts at 0 with every clock locked (R446, R448), THERMTRIP_N is released (R526). -/
def opColdReset (s : State) (u : StartUp) : State :=
  let s := markReshard s 1
  startUp (setReg { vaonState s with vaon := true, pwr := {} } pgClk 0x108 0x3F) 0 u

/-- A warm reset with its LAST code. HUB_TIME and the clocks run on (R449); the port is held where `held` says so (R520).
The reset itself counts after the counters are zeroed. -/
def warmReset (s : State) (last : Nat) (held : Bool) (u : StartUp) : State :=
  let t := vaonState (markReshard s 1)
  let t := setReg { t with time := s.time, timeRuns := s.timeRuns, pwr := { thermTrip := false } } pgClk 0x108
    (reg s pgClk 0x108)
  let t := startUp (bump t pgRst 0 1) last u
  if held then { t with portReleased := false } else t

/-- A request for a warm reset; while trace is frozen it waits (R478, R514). -/
def askWarm (s : State) (last : Nat) (held : Bool) (u : StartUp) : State :=
  if s.traceFrozen then
    (if s.resetWait.isSome then s else { s with resetWait := some (last, s.time, u) })
  else warmReset s last held u

/-- The freeze ends: a reset that waits for it begins. -/
def releaseTrace (s : State) (u : Option StartUp) : State :=
  let s := setRegF { s with traceFrozen := false } pgCnt 0x108 1 1 0
  match s.resetWait with
  | none => s
  | some (last, _, v) => warmReset s last (last == 3) (u.getD v)

/-- RESET_WAIT_EXPIRY: 10 s after the request. -/
def opResetWait (s : State) (u : StartUp) : State :=
  match s.resetWait with
  | some (last, t, _) => if passed s (t + 10000000000) = true then warmReset s last (last == 3) u else s
  | none => s

/-- CXL_RESET_N low for at least 1 µs (R520); a reset that already waits absorbs the request. -/
def opCxlReset (s : State) (lowNs : Nat) (u : StartUp) : State :=
  if 1000 ≤ lowNs then askWarm { s with portReleased := false, cxlUp := false } 3 true u else s

/-- RCV_ACTIVATE and Activate FW: an image that passes continues the cold start (R496); otherwise the cause is answered. -/
def rcvActivate (s : State) (source : Nat) : Option State :=
  match checkImage s (rcvImage s) with
  | (0, k) =>
    some (match s.sec.start with
      | some u => afterBoot (runImage s (rcvImage s) k source) u
      | none => runImage s (rcvImage s) k source)
  | _ => none

def opRcvActivate (s : State) : State :=
  if s.sec.st ≠ 2 ∨ ownerOk s 2 = false then answer s stAccess []
  else
    match rcvActivate s 2 with
    | some t => answer t stOK []
    | none => answer (rcvFail s (checkImage s (rcvImage s)).1) stFormat []

def opActivateFw (s : State) : State :=
  if s.sec.st ≠ 2 then answer s (Config.mboxCode 3) []
  else if ownerOk s 1 = false then answer s (Config.mboxCode 1) []
  else
    match rcvActivate s 1 with
    | some t => answer t (Config.mboxCode 0) []
    | none => answer (rcvFail s (checkImage s (rcvImage s)).1) (Config.mboxCode 2) []

/-- LIFECYCLE_REQUEST: steps 2 to 4 of R493; the wipe is that of a warm reset. -/
def opLifecycle (s : State) (req : List Byte) (u : StartUp) : State :=
  let ctl := reg s pgLcs 0x130
  let dst := bits ctl 0 3
  let st := lcsStatus s dst (bits ctl 8 8) req
  let s := setRegF s pgLcs 0x130 16 2 0
  if st = stOK then
    let old := s.fuses.lcs
    let d := leBytes 1 old ++ leBytes 1 dst
    let s := lcsEnd { s with fuses := programState s.fuses dst req } st dst
    let s := owe (aolAppend s { num := 0xC1, page := pgLcs, detail := d }) 0xC1 pgLcs d
    let t := warmReset s 1 false u
    setReg t pgLcs 0x48 1
  else bump (lcsEnd s st dst) pgLcs 0 1

/-! ### S3 (R433, R440, R530) -/

/-- The host commands of the queues, and those that a pre-emption has taken off its cores. -/
def hostCmds (s : State) : List (Nat × Nat × Nat × Bool × Bool) :=
  (s.engs.flatMap (fun e => e.2.queue ++ e.2.running.map (·.cmd) ++ e.2.aside.map (·.cmd)) ++
    s.saves.flatMap (fun e => e.2.queued.map (·.2) ++ e.2.started.map (·.2.cmd) ++ e.2.aside.map (·.2.cmd))).filterMap
    (fun c =>
      match c.src with
      | .host q i t si st => some (q, i, t, si, st)
      | _ => none)

/-- The completion of every outstanding command is written with BROWNOUT while the CXL link is up (R440). -/
def brownoutAll (s : State) : State :=
  if s.cxlUp then
    (hostCmds s).foldl (fun s c => hostComplete s c.1 c.2.1 c.2.2.1 c.2.2.2.1 c.2.2.2.2 stBrownout []) s
  else s

/-- PWR_LOG records a cause with Tj and VIN_CORE; RETAIN_LOST where retained contents are lost (R442). -/
def pwrLog (s : State) (cause : Nat) (lost : Bool) : State :=
  let s := setRegF s pgPwr 0x148 0 3 cause
  let s := if lost then setRegF s pgPwr 0x148 3 1 1 else s
  setRegF (setRegF s pgPwr 0x148 16 8 (regF s pgPwr 0x110 16 8)) pgPwr 0x148 24 12 (regF s pgPwr 0x110 32 12)

/-- The package enters S3: only VAON keeps anything (Table 15-2). -/
def enterS3 (s : State) (cause : Nat) (complete lost : Bool) : State :=
  let s := if complete then brownoutAll s else s
  let t := vaonState (markReshard (pwrLog s cause lost) 4)
  { t with pstate := 3, timeRuns := false, pwr := { t.pwr with offNow := true } }

/-- THERMAL_TRIP (R433, R526). -/
def opThermalTrip (s : State) (tj : Nat) : State :=
  if 110 ≤ tj then
    let s := setRegF s pgPwr 0x110 16 8 (min tj 255)
    let s := raiseErr s pgPwr 11 {} [] (pwrDetail s)
    enterS3 { s with pwr := { s.pwr with thermTrip := true } } 4 false false
  else s

/-- A trip at the very moment of a power-off: PWR_LOG records cause 4 (R478). -/
def tripMeets (s : State) (tj : Nat) : State :=
  if s.pwr.offNow = true ∧ regF s pgPwr 0x148 0 3 = 5 ∧ 110 ≤ tj then
    setRegF (setRegF { s with pwr := { s.pwr with thermTrip := true } } pgPwr 0x148 0 3 4) pgPwr 0x148 16 8 (min tj 255)
  else s

/-- THERMAL_SAMPLE (R432): above 95 °C the cap steps once every 1 ms. -/
def opThermalSample (s : State) (tj : Nat) : State :=
  let s := setRegF s pgPwr 0x110 16 8 (min tj 255)
  if 110 ≤ tj then opThermalTrip s tj
  else if 95 < tj then
    (if s.pwr.hotAt = 0 ∨ s.pwr.hotAt - 1 + 1000000 ≤ s.time then
      relevel (setRegF { s with pwr := { s.pwr with coolSince := 0, hotAt := s.time + 1 } } pgPwr 0x108 11 3
        (min 4 (thermalCap s + 1)))
    else { s with pwr := { s.pwr with coolSince := 0 } })
  else if tj ≤ 90 then
    if s.pwr.coolSince = 0 then { s with pwr := { s.pwr with coolSince := s.time + 1 } }
    else if s.pwr.coolSince - 1 + 10000000 ≤ s.time ∧ thermalCap s ≠ 0 then
      relevel (setRegF { s with pwr := { s.pwr with coolSince := s.time + 1 } } pgPwr 0x108 11 3 (thermalCap s - 1))
    else s
  else { s with pwr := { s.pwr with coolSince := 0 } }

/-! ### S0, S1 and S2 (R435 to R439) -/

/-- Every condition of R435 for S1 holds. -/
def s1Ready (s : State) : Bool :=
  s.ctxs.all (fun e => e.2.st != 1 && e.2.st != 2) &&
    s.engs.all (fun e => e.2.queue.isEmpty && e.2.running.isEmpty && e.2.aside.isEmpty) &&
    s.hqs.all (fun e => e.2.outstanding == 0) &&
    s.pses.all (fun e => e.2.st != 1 && e.2.st != 2) &&
    (upTo 16).all (fun j => readyOpen s j == 0 && gxeOwned (gxeOf s j) == 0) &&
    s.upfs.all (fun e => e.2.run.isNone && e.2.pubs.isEmpty) &&
    s.notices.isEmpty && s.puts.isEmpty && s.reshard.isNone

def setRefused (s : State) (b : Bool) : State := setRegF s pgPwr 0x118 4 1 (b2n b)

def opS0 (s : State) : State := setRefused (if s.pstate = 1 then { s with pstate := 0 } else s) false

def opS1 (s : State) : State :=
  if s.pstate = 0 then (if s1Ready s then setRefused { s with pstate := 1 } false else setRefused s true)
  else setRefused s false

/-- Retained clusters and stacks in self-refresh that a request for S2 names. -/
def retained (s : State) (k : Nat) : Bool := bit (reg s pgPwr (0x120 + 8 * (k / 64))) (k % 64)
def stackSr (s : State) (k : Nat) : Bool := bit (reg s pgPwr 0x140) k

/-- I_LP of R437 in mA. -/
def loadEstimate (s : State) : Nat :=
  200 + 8 * ((upTo 256).filter (retained s)).length + 120 * ((upTo 8).filter (stackSr s)).length

/-- A direction loses light as the package powers down: what it holds is gone, its EPOCH moves on (R380). -/
def linkDark (s : State) (dir : Nat) : State :=
  let l := lnkOf s dir
  setLnk s dir { st := 0, epoch := if l.st = 0 then l.epoch else (l.epoch + 1) % 256 }

/-- The entry into S2 (R438). -/
def frost (s : State) : State :=
  (upTo 8).foldl linkDark { setRefused s false with pstate := 2, cxlUp := false, portReleased := false, timeRuns := false }

def opS2 (s : State) : State :=
  if s.pstate ≠ 1 ∨ s1Ready s = false then setRefused s true
  else if 2700 < loadEstimate s then raiseErr (setRefused s true) pgPwr 9 { write := true, len := 8 } [] []
  else frost s

/-- Memory that S2 keeps besides VAON's: clusters retained and stacks in self-refresh (Table 15-2). -/
def frostCell (s : State) (a : Nat) : Bool :=
  keptCell a ||
    (if a < stackedEnd then stackSr s (a / 2 ^ 36)
     else decide (a / 2 ^ 80 = 2) && retained s (a % 2 ^ 80 / 2 ^ 64))

/-- What the background zeroing after a thaw has to reach (R438). -/
def thawList (s : State) : List ThawPart :=
  ((upTo 32).filter (fun r => !stackSr s (r / 4))).flatMap (fun r => (upTo 16).map (fun u => .unit r u)) ++ [.slowTier]

/-- Thaw (R438, R439) ends in S1 with the CXL port released; ports and directions train under their own rules. Arrays and
vector engines come back empty; of their registers only MXA_INJECT held a value of its own. -/
def thaw (s : State) : State :=
  let s := { s with
    mem := mapKeep s.mem (frostCell s), bad := s.bad.filter (frostCell s), vens := []
    mxas := s.mxas.map (fun e => (e.1, { inject := e.2.inject }))
    thawing := thawList s, pstate := 1, portReleased := true, timeRuns := reg s pgClk 0x108 == 0x3F }
  (upTo 8).foldl (fun s d =>
    if bit (reg s (pgLnk d) 0x100) 0 && axisLen s (d / 2) != 1 then startBringup s d else s) (tierStart s)

/-- WAKE_MATCH: the header of the wake address with a write bit, in S2 or S3, while VAON is valid (R441). A thaw whose
image measurement differs from the one in the always-on log becomes a cold start (R439). -/
def opWake (s : State) (addr : Nat) (write : Bool) (u : StartUp) : State :=
  if s.vaon && write && addr == regF s pgPwr 0x140 8 7 then
    if s.pstate = 2 then (if s.sec.meas.getD 1 [] = s.aolMeas then thaw s else opColdReset s u)
    else if s.pstate = 3 then opColdReset s u
    else s
  else s

/-- LOW_POWER_BROWNOUT in S2 or S3 (R442). -/
def opLowPower (s : State) : State := if 2 ≤ s.pstate then enterS3 s 3 false true else s

/-- THAW_ZEROING_DONE: accesses that waited for the part go on. -/
def opThawDone (s : State) (p : ThawPart) : State := { s with thawing := s.thawing.filter (fun q => q != p) }

/-- VAON_LOSS: the always-on log, PWR_LOG and TOR_RESHARD_LOG are undefined (R529); nothing is powered until a cold
reset. CLK_CFG and GDR_CFG read their values of a first start (R447). -/
def opVaonLoss (s : State) : State :=
  let t := vaonState s
  let k := s.free
  let t := { t with
    regs := [], aolWritten := Config.freeNat k, aolMeas := [], owed := [], vaon := false, pstate := 3, timeRuns := false
    pwr := {}, mem := memWrite (mapKeep t.mem (fun a => decide (a / 2 ^ 64 = spHost / 2 ^ 64))) spAol (undefBytes k 32768)
    free := k + 3 }
  setReg (setReg t pgPwr 0x148 (Config.freeNat (k + 1) &&& 0xFFFFF000F)) pgTor 0x1D8
    (Config.freeNat (k + 2) &&& 0xFFFFFFFF000000FF)

/-! ### The shed order (R443 to R445) -/

/-- Threshold of a row of Table 15-4 in mV. -/
def shedMv (row : Nat) : Nat :=
  match row with
  | 1 => 1740 | 2 => 1700 | 3 => 1660 | 4 => 1620 | 5 => 1580 | _ => 1550

/-- The halt (R445): nothing starts or goes on, and every direction enters HOLD. -/
def haltAll (s : State) : State := (upTo 8).foldl forceDown { s with halted := true }

/-- One row is applied. -/
def shedApply (s : State) (row : Nat) : State :=
  let s := bump (setRegF s pgPwr 0x110 44 3 row) pgPwr 7 1
  match row with
  | 1 => relevel s
  | 2 => (upTo 8).foldl (fun s d => if (lnkOf s d).st = 2 then narrowDir s d 24 else s) (relevel s)
  | 3 => s
  | 4 => (upTo 32).foldl drainStage (raiseErr s pgPwr 12 {} [] (pwrDetail s))
  | 5 => haltAll s
  | _ => enterS3 (raiseErr s pgPwr 10 { status := stBrownout } [] (pwrDetail s)) 2 true false

/-- VIN_CORE_SAMPLE: the rows that the sample crosses, in table order; the times of R444. -/
def opVinSample (s : State) (mv : Nat) : State :=
  let s := setRegF s pgPwr 0x110 32 12 (min mv 4095)
  let cur := shedRows s
  let n := ([1, 2, 3, 4, 5, 6].filter (fun r => decide (mv < shedMv r))).length
  if cur < n then
    let s := { s with pwr := { s.pwr with above := [] } }
    ((upTo 6).map (· + 1)).foldl (fun s r => if cur < r ∧ r ≤ n ∧ s.pstate < 2 then shedApply s r else s) s
  else
    { s with pwr := { s.pwr with above := [1, 2, 3, 4, 5].foldl (fun m r =>
        if mv < shedMv r + 30 then mapPut 0 m r 0
        else if mapGet 0 m r = 0 then mapPut 0 m r (s.time + 1) else m) s.pwr.above } }

/-- SHED_UNDO: the last row applied is undone after 10 ms at or above its threshold plus 30 mV. -/
def opShedUndo (s : State) : State :=
  let row := shedRows s
  let t := mapGet 0 s.pwr.above row
  if 1 ≤ row ∧ row ≤ 5 ∧ t ≠ 0 ∧ t - 1 + 10000000 ≤ s.time then
    let s := setRegF s pgPwr 0x110 44 3 (row - 1)
    if row = 5 then { s with halted := false } else if row ≤ 2 then relevel s else s
  else s

/-- VIN_IO_UNDERVOLTAGE (R530): in S3 the fabric is off already, and one that meets the shutdown of the shed order at the
same moment leaves cause 6. -/
def opVinIo (s : State) : State :=
  if s.pstate ≠ 3 then enterS3 s 6 false false
  else if s.pwr.offNow = true ∧ regF s pgPwr 0x148 0 3 = 2 then setRegF s pgPwr 0x148 0 3 6
  else s

/-! ### Clocks (R447, R448) -/

/-- REFCLK_LOSS: the PLLs unlock, HUB_TIME stops, every direction goes DOWN for want of valid frames. -/
def opRefclkLoss (s : State) : State :=
  if s.timeRuns then
    let s := setReg { s with timeRuns := false } pgClk 0x108 0
    let s := raiseErr (bump s pgClk 0 1) pgClk 8 {} [] []
    (upTo 8).foldl (fun s d => goDown s d 2 s.time) s
  else s

/-- REFCLK_LOCK: HUB_TIME resumes from its value. -/
def opRefclkLock (s : State) : State := setReg { s with timeRuns := true } pgClk 0x108 0x3F

/-! ### The CXL link (R474, R520) -/

def opCxlDown (s : State) : State := { s with cxlUp := false }
/-- The link trains once the port is released. -/
def opCxlUp (s : State) : State := if s.portReleased then { s with cxlUp := true } else s
def opPortRelease (s : State) : State := { s with portReleased := true }

/-! ### Function-level and link resets (R450, R452) -/

/-- The queues of a function reset, and its event ring with them (R48). -/
def flrQueues (s : State) (f : Nat) : State :=
  let r := reg s (pgJob f) 0x100
  let s := (upTo (16 * bits r 16 5)).foldl (fun s i => queueReset s (16 * bits r 0 8 + i)) s
  let p := pgJob f
  setReg (setReg (setRegF s p 0x110 8 1 0) p 0x118 0) p 0x120 0x1000

/-- The job's commands in one engine's queue end with PREEMPTED, started or not. -/
def flrEngine (s : State) (f e : Nat) : State :=
  let s := finishQueued (dropQueued s e (fun c => c.job == f && c.src == .ctx)) e (fun c => c.job == f) stPreempted
  let g := engOf s e
  setEng s e { g with
    running := g.running.map (fun r =>
      if r.cmd.job = f ∧ r.fin.isNone = true then { r with fin := some (stPreempted, []), outs := [] } else r) }

/-- The job's live state on a core is zeroed: contexts, channels, array, vector engine, windows. -/
def flrCore (s : State) (f core : Nat) : State :=
  let s := (upTo 4).foldl (fun s x =>
    if ctxBound s core x && ctxJob s core x == f && ((ctxOf s core x).st == 1 || (ctxOf s core x).st == 2) then
      haltCtx s core x stPreempted 0
    else s) s
  let s := unbindJob s core f
  let m := mxaOf s core
  let v := venOf s core
  let zero (b : Nat) (x : AccBuf) (s : State) : State :=
    if x.st ≠ 0 ∧ x.job = f then wipe s (spAcc core + 65536 * b) 65536 else s
  let s := zero 1 m.buf1 (zero 0 m.buf0 s)
  let s := (v.occ.filter (fun e => e.2 == f + 1)).foldl (fun s e => wipe s (spTbuf core + 0x4000 * e.1) 0x4000) s
  let s := (v.ftq.filter (fun e => e.job == f)).foldl (fun s e => wipe s (spFtq core e.slot) 0x2000) s
  let s := suspBit { releaseOf s f core with saves := mapDel s.saves (saveKey core f) } f core 0
  wipeCoreWins s f core

/-- Every memory allocated to the job is zeroed. -/
def flrMemory (s : State) (f : Nat) : State :=
  let s := (upTo 512).foldl (fun s u => if unitOk s f u then wipe s (2 ^ 30 * u) (2 ^ 30) else s) s
  let sl := reg s (pgJob f) 0x158
  let s := if bits sl 8 8 = 0 then s else wipe s (slowBase + 2 ^ 30 * bits sl 0 8) (2 ^ 30 * bits sl 8 8)
  (upTo 256).foldl (fun s k => wipeCluWins s f k) s

/-- A core holds something of a job: an array set or buffer, a tile buffer, a finished tile, a histogram slot (R106, R167). -/
def coreHolds (s : State) (f core : Nat) : Bool :=
  let m := mxaOf s core
  let v := venOf s core
  (m.shadow.st != 0 && m.shadow.job == f) || (m.active.st != 0 && m.active.job == f) ||
    (m.buf0.st != 0 && m.buf0.job == f) || (m.buf1.st != 0 && m.buf1.job == f) ||
    v.occ.any (fun e => e.2 == f + 1) || v.ftq.any (fun e => e.job == f) ||
    v.hs.any (fun e => e.2.tagged && e.2.job == f)

/-- Cores whose message channels have been configured. -/
def chnCores (s : State) : List Nat :=
  s.regs.filterMap (fun e => match pageBlk (e.1 / 512) with
    | some (.chn, k) => some k
    | _ => none)

/-- FUNCTION_LEVEL_RESET of a job function; one that its own wipe covers is absorbed (R451). -/
def opFlr (s : State) (f : Nat) : State :=
  if 1 ≤ f ∧ f ≤ 15 ∧ bit (reg s pgRst 0x110) f = false then
    let s := setRegF s pgRst 0x110 f 1 1
    let s := setRegF (flrQueues (bump s pgRst 1 1) f) (pgJob f) 0x140 0 1 0
    let s := (s.engs.map (·.1)).foldl (fun s e => flrEngine s f e) s
    let chn := chnCores s
    let s := ((upTo 2048).filter (fun c => boundOn s f c || suspended s c f || coreHolds s f c || chn.contains c)).foldl
      (fun s c => flrCore s f c) s
    let s := flrUpdates s f
    let s := (upTo 32).foldl (fun s r =>
      if pseValid s r && pseJob s r == f then flrStage s r else s) s
    let s := flrGxe s f
    let s := { s with puts := s.puts.filter (fun p => p.job != f) }
    let s := match s.reshard with
      | some x => if x.job = f then rsAbandon s 2 stReshard else s
      | none => s
    flrMemory s f
  else s

/-- What a function's Readiness Time Reporting capability reports: the bound on its wipe in ns (R452). The save area lies in
the job's stacked memory. -/
def readinessNs (s : State) (f : Nat) : Nat :=
  max 1000000 (2000000 * (((upTo 512).filter (unitOk s f)).length + regF s (pgJob f) 0x158 8 8))

/-- FLR_WIPE_DONE: the function's busy bit clears. -/
def opFlrDone (s : State) (f : Nat) : State := setRegF s pgRst 0x110 (f % 16) 1 0

/-- A link reset of a direction. -/
def opLinkReset (s : State) (dir : Nat) : State := if dir < 8 then linkResetDir (bump s pgRst 2 1) dir else s

/-! ### Die joins (R454 to R457, R465) -/

/-- FABRIC_OPEN: roles are assigned, or it is refused with DIE_JOIN_FAIL. -/
def opFabricOpen (s : State) : State :=
  if s.fabricOpen then s
  else
    let good := reg s pgDtd 0x110
    let g := popCount 16 (bits good 0 16)
    if g < 4 ∨ bits good 16 4 = 0 ∨ bits good 20 4 = 0 then raiseErr s pgDtd 9 {} [] []
    else
      let n := max 2 (min (g - 2) (regF s pgDtd 0x100 0 5 * g / 16))
      let idx := setIdx 16 0 (bits good 0 16)
      let mask (l : List Nat) : Nat := l.foldl (fun a i => a ||| 2 ^ i) 0
      { setReg s pgDtd 0x108 (mask (idx.take n) + 2 ^ 16 * mask (idx.drop n)) with fabricOpen := true }

/-- First bit in DTD_GOOD of a bridge's bundles, and how many there are. -/
def bridgeBits (bridge : Nat) : Nat × Nat :=
  match bridge with
  | 0 => (0, 16)
  | 1 => (16, 4)
  | 2 => (20, 4)
  | n => (24 + 8 * (n - 3), 8)

/-- A role of the CD0-CD1 bridge without a good bundle sets DIE_JOIN_FAIL once (R465). -/
def checkRoles (s : State) : State :=
  let good := bits (reg s pgDtd 0x110) 0 16
  let role := reg s pgDtd 0x108
  let cut := b2n (bits role 0 16 != 0 && (good &&& bits role 0 16) == 0) +
    2 * b2n (bits role 16 16 != 0 && (good &&& bits role 16 16) == 0)
  if cut = s.cutRoles then s else raiseErr { s with cutRoles := cut } pgDtd 9 {} [] []

/-- A direction narrows, or is held OFF, as its optical bridge allows (R457). -/
def limitDir (s : State) (dir : Nat) : State :=
  match optWidth s dir with
  | 0 => linkOff s dir
  | w => narrowDir s dir w

/-- The good bundle of a bridge that carries a lane, by its bit in DTD_GOOD. -/
def laneBundle (s : State) (bridge bundle lane : Nat) : Option Nat :=
  let b := (bridgeBits bridge).1 + bundle
  let x := mapGet {} s.bundles b
  if bridge < 7 ∧ bundle < (bridgeBits bridge).2 ∧ lane < 68 ∧ bit (reg s pgDtd 0x110) b = true ∧
      x.spares.contains lane = false ∧ x.bad.contains lane = false then some b
  else none

/-- BRIDGE_LANE_FAIL: a lane in use fails: a spare is swapped in, or the bundle has failed (R465). -/
def opLaneFail (s : State) (bridge bundle lane : Nat) : State :=
  match laneBundle s bridge bundle lane with
  | none => s
  | some b =>
    let x := mapGet {} s.bundles b
    match x.spares with
    | _ :: rest =>
      { s with bundles := mapPut {} s.bundles b { spares := rest, bad := x.bad ++ [lane], crc := mapDel x.crc lane } }
    | [] =>
      let s := raiseErr (bump (setRegF s pgDtd 0x110 b 1 0) pgDtd 1 1) pgDtd 8 { detail := b } [] []
      if bridge = 0 then checkRoles s
      else if 3 ≤ bridge then limitDir s (2 * (bridge - 3) + bundle / 4)
      else s

/-- BRIDGE_UNIT_CRC_FAIL: the unit is resent within 0.2 µs; a lane with 16 such units within 1 µs fails (R465). -/
def opUnitCrc (s : State) (bridge bundle lane : Nat) : State :=
  match laneBundle s bridge bundle lane with
  | none => s
  | some b =>
    let x := mapGet {} s.bundles b
    let ts := (mapGet [] x.crc lane).filter (fun t => decide (s.time ≤ t + 1000)) ++ [s.time]
    let s := { s with bundles := mapPut {} s.bundles b { x with crc := mapPut [] x.crc lane ts } }
    if 16 ≤ ts.length then opLaneFail s bridge bundle lane else s

end Sys2Proof.Machine
end

