-- ==== Sys2Proof/Machine/TileMove.lean ====
section
/-! DEFINITION. The tile loader (R82 to R85, R136, R144, R145). -/
namespace Sys2Proof.Machine

/-- The body of TILE_MOVE (Table 3-4). -/
structure Tile where
  src : Nat
  dst : Nat
  rows : Nat
  cols : Nat
  ss : Nat
  ds : Nat
  fmt : Nat
  tr : Bool
  sp : Nat
  dp : Nat
deriving DecidableEq, Repr

def tileOf (c : QCmd) : Tile :=
  { src := bf c 16 8, dst := bf c 24 8, rows := bf c 32 2, cols := bf c 34 2, ss := bf c 36 4, ds := bf c 40 4
    fmt := bf c 44 1, tr := bit (bf c 45 1) 0, sp := bits (bf c 46 1) 0 2, dp := bits (bf c 46 1) 2 2 }

/-- Rows and columns of the destination. -/
def tileDR (t : Tile) : Nat := if t.tr then t.cols else t.rows
def tileDC (t : Tile) : Nat := if t.tr then t.rows else t.cols

/-- The stationary shape of a tile for its format (R100). -/
def tileShape (t : Tile) : Option Nat :=
  (upTo 3).find? (fun k => shapeDW t.fmt k == some (tileDR t, tileDC t))

/-- An operand lies in memory the command may use (R81, R338, R538). -/
def tileAccess (s : State) (c : QCmd) (sp a n : Nat) : Bool :=
  match sp with
  | 0 => scratchOk s c.core c.ctx a n
  | 1 => cluOk s (c.core / 8) c.job a n
  | _ => stackedOk s c.job a n

/-- R57 steps 3 and 4 for TILE_MOVE (R83, R136, R538). -/
def chkTile (s : State) (c : QCmd) : Option Nat :=
  let t := tileOf c
  formThen
    (within t.rows 1 4096 && within t.cols 1 4096 && decide (t.fmt ≤ 9) && bits (bf c 45 1) 1 7 == 0 &&
      bits (bf c 46 1) 4 4 == 0 && bz c 47 9 && syncFmt c false && t.sp != 3 &&
      decide (rowBytes t.fmt t.cols ≤ t.ss) && t.ss % 32 == 0 &&
      (t.dp == 3 || (decide (rowBytes t.fmt (tileDC t) ≤ t.ds) && t.ds % 32 == 0)) &&
      (t.dp != 3 || (tileShape t).isSome) &&
      (t.fmt != 5 || (t.rows % 32 == 0 && t.cols % 32 == 0 && t.src % 32 == 0 && (t.dp == 3 || t.dst % 32 == 0))) &&
      (!t.tr || (!(isMx t.fmt) && t.rows % 32 == 0 && t.cols % 32 == 0)) &&
      (t.fmt != 4 || (t.sp == 1 && t.dp == 1)))
    (tileAccess s c t.sp t.src (operandBytes t.fmt t.rows t.cols t.ss) &&
      (t.dp == 3 || tileAccess s c t.dp t.dst (operandBytes t.fmt (tileDR t) (tileDC t) t.ds)))

/-- The shadow set is free for a stationary load (R85, R105): EMPTY, and no MATMUL runs. -/
def canStartTile (s : State) (c : QCmd) : Bool :=
  (tileOf c).dp != 3 || (mxaOf s c.core).shadow.st == 0

/-- First global byte of an operand. -/
def tileBase (core sp a : Nat) : Nat :=
  match sp with
  | 0 => spScratch core + a
  | 1 => spClu (core / 8) + a
  | _ => a

/-- The bytes of the destination's rows (R84, R142). -/
def tileRows (s : State) (core : Nat) (t : Tile) : List (List Byte) :=
  let a := tileBase core t.sp t.src
  let eb := elemBytes t.fmt
  if t.tr then (upTo t.cols).map (fun j => (upTo t.rows).flatMap (fun i => rdMem s (a + i * t.ss + j * eb) eb))
  else (upTo t.rows).map (fun i => rdMem s (a + i * t.ss) (rowBytes t.fmt t.cols))

/-- The rows of tiles and the scale plane of an SQ8 destination (R144, R145). -/
def tileSq8 (s : State) (core : Nat) (t : Tile) : List (List Byte) × List Byte :=
  let a := tileBase core t.sp t.src
  let r := t.rows / 32
  let c := t.cols / 32
  let tile (i j : Nat) : List Byte :=
    let b := rdMem s (a + i * t.ss + 1024 * j) 1024
    if t.tr then (upTo 1024).map (fun e => b.getD (32 * (e % 32) + e / 32) 0) else b
  let scale (i j : Nat) : Byte := rdByte s (a + r * t.ss + i * c + j)
  if t.tr then
    ((upTo c).map (fun j => (upTo r).flatMap (fun i => tile i j)),
     (upTo c).flatMap (fun j => (upTo r).map (fun i => scale i j)))
  else
    ((upTo r).map (fun i => (upTo c).flatMap (fun j => tile i j)),
     (upTo r).flatMap (fun i => (upTo c).map (fun j => scale i j)))

/-- Rows of bytes are written at a stride. -/
def wrRows (s : State) : Nat → Nat → List (List Byte) → State
  | _, _, [] => s
  | a, stride, r :: rs => wrRows (wrMem s a r) (a + stride) stride rs

/-- The destination of a stored move. -/
def tileStore (s : State) (core : Nat) (t : Tile) : State :=
  let a := tileBase core t.dp t.dst
  if t.fmt = 5 then
    let x := tileSq8 s core t
    wrMem (wrRows s a t.ds x.1) (a + tileDR t / 32 * t.ds) x.2
  else wrRows s a t.ds (tileRows s core t)

/-- A write that fails: a row of the destination, or its scale plane. -/
def tileDstBad (s : State) (core : Nat) (t : Tile) : Option Nat :=
  let a := tileBase core t.dp t.dst
  if t.fmt = 5 then
    match rowsPartial s (tileDR t / 32) a t.ds (1024 * (tileDC t / 32)) with
    | some g => some g
    | none => writeBad s (a + tileDR t / 32 * t.ds) (tileDR t / 32 * (tileDC t / 32))
  else rowsPartial s (tileDR t) a t.ds (rowBytes t.fmt (tileDC t))

/-- The bytes that a failed move would have written are not defined (R470 step 4); a shadow set that it was loading holds
nothing. -/
def tileUndef (s : State) (core : Nat) (t : Tile) : State :=
  let a := tileBase core t.dp t.dst
  if t.dp = 3 then setMxa s core { mxaOf s core with shadow := {} }
  else if t.fmt = 5 then
    undefRows (undefRows s (tileDR t / 32) a t.ds (1024 * (tileDC t / 32))) 1 (a + tileDR t / 32 * t.ds) 0
      (tileDR t / 32 * (tileDC t / 32))
  else undefRows s (tileDR t) a t.ds (rowBytes t.fmt (tileDC t))

/-- The shadow set is loaded with the tile's values (R100, R101), and emptied at once where R106 asked for it meanwhile. -/
def tileLoad (s : State) (core job : Nat) (t : Tile) : State :=
  let a := tileBase core t.sp t.src
  let vals := (upTo (tileDR t)).map (fun i => (upTo (tileDC t)).map (fun j =>
    if t.tr then elemAt s a t.ss t.fmt t.rows t.cols j i else elemAt s a t.ss t.fmt t.rows t.cols i j))
  let m := mxaOf s core
  setMxa s core { m with shadow := if m.shadow.drop then {} else mkSet job t.fmt ((tileShape t).getD 0) vals }

/-- The TILE_MOVE that runs on the core takes effect (R82 to R85). -/
def opTileMove (s : State) (core : Nat) : State :=
  match runOp s (pgCor core) 4 with
  | none => s
  | some r =>
    let t := tileOf r.cmd
    match operandBad s (tileBase core t.sp t.src) t.ss t.fmt t.rows t.cols with
    | some g => failUncorr (tileUndef s core t) r g []
    | none =>
      if t.dp = 3 then finish (tileLoad s core r.cmd.job t) r stOK []
      else
        match tileDstBad s core t with
        | some g => failUncorr (tileUndef s core t) r g []
        | none => finish (tileStore s core t) r stOK []

end Sys2Proof.Machine
end

