-- ==== Sys2Proof/Machine/Engine.lean ====
section
/-! DEFINITION. Commands from their submission to their completion (R51, R52, R56, R57, R64 to R70, R76, R92, R414 to
R417, R536 to R538): dispatch from host queues, ISSUE, the start of commands by the engines, and completions. -/
namespace Sys2Proof.Machine

/-! ### Headers, grants and naming -/

/-- The operations that a block defines (R57 step 1). -/
def opDefined (b : Blk) (op : Nat) : Bool :=
  match b with
  | .cor | .ven | .atn => within op 1 5
  | .mxa => within op 1 4
  | .pse => within op 1 7
  | .chn | .gxe | .drz | .tor | .job => within op 1 2
  | .gmv | .upf | .rgn => op == 1
  | _ => false

/-- The region is owned whole by a job (R411). -/
def regionTo (s : State) (f r : Nat) : Bool := bit (reg s (pgJob f) 0x148) r

/-- A context bound to the job exists in the region. -/
def boundIn (s : State) (f r : Nat) : Bool := (upTo 64).any (fun i => boundOn s f (64 * r + i))

/-- A function may command a page with an operation (R414, R415, R403, R421). -/
def mayCommand (s : State) (fn : Nat) (b : Blk) (inst op : Nat) : Bool :=
  fn == 0 || (jobEnabled s fn &&
    match b with
    | .cor | .mxa | .ven | .atn | .chn => coreTo s fn inst || boundOn s fn inst
    | .gmv => regionTo s fn inst
    | .drz | .rgn => regionTo s fn inst || boundIn s fn inst
    | .pse | .upf => regionTo s fn inst || (pseValid s inst && pseJob s inst == fn)
    | .gxe => true
    | .tor => op == 1
    | _ => false)

/-- A function may name a context (R70, R127, R537). -/
def mayName (s : State) (fn core x : Nat) : Bool := ctxBound s core x && (fn == 0 || ctxJob s core x == fn)

/-- The command names context `x` of a core and acts for the context's job. -/
def nameAt (s : State) (c : QCmd) (core x : Nat) : QCmd × Bool :=
  ({ c with core := core, ctx := x, job := if c.fn = 0 then ctxJob s core x else c.fn }, mayName s c.fn core x)

/-- A host-queue command with the job it acts for and the context it names, and whether it may name it. Where any region
stands for the engine's (R316, R398), the lowest region whose core has such a context is meant. -/
def nameCmd (s : State) (c : QCmd) : QCmd × Bool :=
  let w := syncWord c
  let x := bits w 32 2
  let i := bits w 34 6
  match pageBlk c.page with
  | some (.cor, k) =>
    if c.op = 4 then nameAt s c k x
    else
      let y := corCtx c
      if c.fn = 0 then
        ({ c with core := k, ctx := y % 4, named := false, job := ctxJob s k (y % 4) },
          c.op != 2 || decide (4 ≤ y) || ctxBound s k y)
      else ({ c with core := k, ctx := y % 4, named := false, job := c.fn }, decide (y < 4) && mayName s c.fn k y)
  | some (.mxa, k) | some (.ven, k) | some (.atn, k) | some (.chn, k) => nameAt s c k x
  | some (.pse, r) =>
    if c.fn = 0 ∧ within c.op 3 5 = true then
      let need := bit w 4 || bit w 28
      ({ c with core := 64 * r + i, ctx := x, named := need, job := pseJob s r }, !need || ctxBound s (64 * r + i) x)
    else nameAt s c (64 * r + i) x
  | some (.gmv, r) | some (.drz, r) | some (.upf, r) | some (.rgn, r) => nameAt s c (64 * r + i) x
  | some (.tor, _) =>
    if c.op = 1 then
      nameAt s c (64 * ((upTo 32).find? (fun r => mayName s c.fn (64 * r + i) x)).getD 0 + i) x
    else ({ c with named := false, job := rsJob c }, true)
  | some (.gxe, _) => nameAt s c (64 * ((upTo 32).find? (fun r => mayName s c.fn (64 * r + i) x)).getD 0 + i) x
  | some (.job, f) => ({ c with named := false, job := f }, true)
  | _ => (c, true)

/-! ### R57 steps 3 and 4, and R92 -/

/-- The checks of a command's body, by the block of its page. -/
def chkBody (s : State) (c : QCmd) : Option Nat :=
  match pageBlk c.page with
  | some (.cor, _) => if c.op = 4 then chkTile s c else formThen (corForm c) (corAcc s c)
  | some (.mxa, _) => chkMxa s c
  | some (.ven, _) => chkVen s c
  | some (.atn, _) => chkAtn s c
  | some (.chn, _) => chkChn s c
  | some (.gmv, r) => chkGmv s r c
  | some (.drz, r) => chkDrz s r c
  | some (.pse, _) => chkPse s c
  | some (.upf, _) => chkUpf s c
  | some (.rgn, _) => chkRgn c
  | some (.gxe, _) => chkGxe s c
  | some (.tor, _) => chkTor s c
  | some (.job, _) => chkJob s c
  | _ => some stBadCommand

/-- The flat core whose engine a page belongs to. -/
def coreOfPage (page : Nat) : Option Nat :=
  match pageBlk page with
  | some (.cor, k) | some (.mxa, k) | some (.ven, k) | some (.atn, k) | some (.chn, k) => some k
  | _ => none

/-- The command is for an engine of a fenced core (R92). -/
def onFenced (s : State) (c : QCmd) : Bool := ((coreOfPage c.page).map (fenced s)).getD false

/-- The body's checks, then the fence of the core (R92). R57 does not place CHECK_FAIL_FENCED among its steps: format and
access errors come first here. DESIGN CHOICE (log 102). -/
def chkCmd (s : State) (c : QCmd) : Option Nat :=
  match chkBody s c with
  | some st => some st
  | none => if onFenced s c then some stCheckFenced else none

/-- Every check of R57 on a host-queue command, in order; the command as its engine will see it. -/
def chkHost (s : State) (bytes : List Byte) (c : QCmd) : QCmd × Option Nat :=
  let bad := num bytes 2 1 / 8 != 0 || num bytes 3 1 != 0 || bit (num bytes 4 2) 15 || num bytes 6 2 != 0
  match pageBlk c.page with
  | none => (c, some stBadCommand)
  | some (b, inst) =>
    if bad || num bytes 1 1 != blkCode b || !(opDefined b c.op) then (c, some stBadCommand)
    else
      let n := nameCmd s c
      if mayCommand s c.fn b inst c.op && n.2 then (n.1, chkCmd s n.1) else (c, some stAccess)

/-- Commands that an engine's queue holds; the dispatcher of a region counts its waiting tasks (R64, R66, R420). -/
def queueFull (s : State) (c : QCmd) : Bool :=
  let g := engOf s (cmdKey c)
  match pageBlk c.page with
  | some (.rgn, _) => decide (64 ≤ g.queue.length + (g.running.filter (fun t => t.fin.isNone && t.prog == 1)).length)
  | _ => decide (32 ≤ g.queue.length)

/-! ### COMMAND_DISPATCH (R51, R52) -/

/-- Completions written and not yet released (R51). -/
def unreleased (s : State) (q : Nat) : Nat :=
  let n := 2 ^ regF s (pgHqu q) (hqOff q + 0x10) 8 5
  ((hqOf s q).cqTail + n - (hqOf s q).cqHead) % n

/-- The queue's next command may be dispatched as far as the queue goes (R47, R51, R52, R454). -/
def mayDispatch (s : State) (q : Nat) (fence : Bool) : Bool :=
  let h := hqOf s q
  decide (q < 4096) && h.st == 1 && s.fabricOpen && s.pstate == 0 && s.cxlUp && !h.hold && h.sqHead != h.sqTail &&
    decide (h.outstanding + unreleased s q + 1 < 2 ^ regF s (pgHqu q) (hqOff q + 0x10) 8 5) &&
    (!fence || h.outstanding == 0)

/-- The command at a queue's head, read from its ring as 64 bytes, is dispatched, or completes at once with the first
status of R57 that applies. While its engine's queue is full it stays in the ring. -/
def opDispatch (s : State) (q : Nat) (bytes : List Byte) : State :=
  let flags := num bytes 2 1
  let h := hqOf s q
  let tag := num bytes 8 8
  let c : QCmd :=
    { id := s.nextId, page := num bytes 4 2 % 2 ^ 15, op := num bytes 0 1, body := bytes.drop 16
      src := .host q h.sqHead tag (bit flags 1) (bit flags 2), fn := fnOfQueue s q }
  if bytes.length = 64 ∧ mayDispatch s q (bit flags 0) = true then
    let p := chkHost s bytes c
    if p.2 = none ∧ queueFull s p.1 = true then s
    else
      let s := setHq { s with nextId := s.nextId + 1 } q { h with
        sqHead := (h.sqHead + 1) % 2 ^ regF s (pgHqu q) (hqOff q + 0x10) 0 5
        outstanding := h.outstanding + 1
        hold := bit flags 2 }
      match p.2 with
      | some st => hostComplete s q h.sqHead tag (bit flags 1) (bit flags 2) st []
      | none => enqueue s p.1
  else s

/-! ### ISSUE (R70, R73, R76) -/

/-- The page that ISSUE's ENGINE selects: an engine of the core, of its region, or of the package. -/
def issuePage (core engine : Nat) : Option Nat :=
  let r := core / 64
  match engine with
  | 0x18 => some (pgCor core)
  | 0x19 => some (pgMxa core)
  | 0x1A => some (pgVen core)
  | 0x1B => some (pgAtn core)
  | 0x1C => some (pgChn core)
  | 0x11 => some (pgDrz r)
  | 0x13 => some (pgGmv r)
  | 0x14 => some (pgUpf r)
  | 0x15 => some (pgRgn r)
  | 0x17 => some (pgPse r)
  | 0x24 => some pgGxe
  | 0x21 => some pgTor
  | 0x09 => some (pgJob 0)
  | _ => none

/-- What a context's command may do beside its body: GMV only for the owner of the region (R414), TOR_RESHARD and the JOB
page not at all (R403, R421), and a COR command only on a context of its own job (R70). -/
def issueMay (s : State) (c : QCmd) : Bool :=
  match pageBlk c.page with
  | some (.gmv, r) => regionTo s c.job r
  | some (.tor, _) => c.op == 1
  | some (.job, _) => false
  | some (.cor, k) => c.op == 4 || (decide (corCtx c < 4) && ctxBound s k (corCtx c) && ctxJob s k (corCtx c) == c.job)
  | _ => true

/-- Every check of R57 on an issued command. -/
def chkIssue (s : State) (engine op : Nat) (c : QCmd) : Option Nat :=
  match pageBlk c.page with
  | none => some stBadCommand
  | some (b, _) =>
    if blkCode b != engine || !(opDefined b op) then some stBadCommand
    else if issueMay s c then chkCmd s c
    else some stAccess

/-- The trace packet of an ISSUE (R507). -/
def traceIssue (s : State) (core x engine op : Nat) : State :=
  if bit (reg s (pgTrc core) 0x100) 1 then
    trcEmit s core x [trcHead 4 core x + 2 ^ 16 * engine + 2 ^ 24 * op + 2 ^ 32 * (s.time % 2 ^ 32)]
  else s

/-- The ISSUE instruction with ENGINE and OP and the scratch address in ra. An address that is not 64-byte aligned halts the
context with BAD_COMMAND, as a misaligned load does; Table 3-3 does not name it. DESIGN CHOICE (log 102). -/
def opIssue (s : State) (core x engine op ra : Nat) : State :=
  instr s core x (issueWord engine op ra) (fun c =>
    let a := getReg c ra
    let job := ctxJob s core x
    if a % 64 ≠ 0 then haltCtx s core x stBadCommand 0
    else if scratchOk s core x a 48 = false then haltCtx s core x stAccess 0
    else
      match badIn s (spScratch core + a) 48 with
      | some g => haltCtx (uncorrScratch s core job g) core x stUncorr 0
      | none =>
        let s := traceIssue s core x engine op
        let c := ctxOf s core x
        let q : QCmd :=
          { id := s.nextId, page := (issuePage core engine).getD 10, op := op, body := rdMem s (spScratch core + a) 48
            src := .ctx, fn := job, job := job, core := core, ctx := x }
        match chkIssue s engine op q with
        | some st => haltCtx (setCtx s core x (nextPc c)) core x st engine
        | none =>
          let s := { s with nextId := s.nextId + 1 }
          if queueFull s q then setCtx s core x { c with st := 2, stall := some q }
          else setCtx (enqueue s q) core x (nextPc c))

/-- ISSUE_STALL_RELEASE: an entry is free, and the stalled command enters its queue (R76); one for an engine of a core that
has been fenced completes with CHECK_FAIL_FENCED and halts its context instead (R74, R92). -/
def opIssueRelease (s : State) (core x : Nat) : State :=
  let c := ctxOf s core x
  match c.stall with
  | none => s
  | some q =>
    if c.st = 2 ∧ queueFull s q = false ∧ suspended s core (ctxJob s core x) = false ∧ s.halted = false ∧ s.pstate = 0 then
      let s' := setCtx s core x (nextPc { c with st := 1, stall := none })
      if onFenced s q then haltCtx s' core x stCheckFenced (((pageBlk q.page).map (fun b => blkCode b.1)).getD 0)
      else enqueue s' q
    else s

/-! ### ENGINE_COMMAND_START (R67, R69, R406, R417, R536) -/

/-- A command of a job waits behind what its engine works on: one started command for the engines of a core, GMV, DRZ, UPF
and the JOB pages; for the control queue the job's own LOAD_IMEM and SYNC_SET, and a START_CONTEXT whose context is not yet
RUNNING or a STOP_CONTEXT whose context has not yet halted for the job's commands that name that context; for the others
only commands whose effect is due, and a PSE_ABORT that waits for its slots (R66, R127, R247, R316, R333, R426, R536). -/
def engBlocked (s : State) (e : Nat) (c : QCmd) : Bool :=
  (engOf s e).running.any (fun r => r.began &&
    match pageBlk c.page with
    | some (.cor, _) =>
      c.op == 4 || (r.cmd.job == c.job && (r.cmd.op == 1 || r.cmd.op == 5 ||
        (r.fin.isNone && r.prog == 0 && corCtx r.cmd == corCtx c)))
    | some (.pse, _) => r.fin.isNone && (r.prog == 0 || r.cmd.op == 5)
    | some (.gxe, _) | some (.tor, _) | some (.rgn, _) => r.fin.isNone && r.prog == 0
    | _ => true)

/-- The waits of a command beside its sync word: buffers, sets, entries, slots (R85, R103, R108, R165, R168, R207). -/
def canStart (s : State) (c : QCmd) : Bool :=
  match pageBlk c.page with
  | some (.cor, _) => c.op != 4 || canStartTile s c
  | some (.mxa, _) => canStartMxa s c
  | some (.ven, _) => canStartVen s c
  | some (.atn, _) => canStartAtn s c
  | some (.chn, _) => canStartChn s c
  | _ => true

/-- The command could start now, or ends because its core is fenced. -/
def startable (s : State) (e : Nat) (c : QCmd) : Bool :=
  onFenced s c || !(engBlocked s e c) && syncOk s c && canStart s c &&
    !((s.reshard.map (fun x => x.job == c.job)).getD false) &&
    !(((coreOfPage c.page).map (fun k => suspended s k c.job)).getD false)

/-- The first queued command of each job, ascending by job; the matrix-vector engine starts its commands in the order in
which they entered its queue, whatever their jobs (R67, R127). -/
def queueHeads (g : Engine) : List QCmd :=
  let heads := (upTo 16).filterMap (fun j => g.queue.find? (fun c => c.job == j))
  heads.filter (fun c => cmdBlk c != some .gmv || g.queue.head?.map (·.id) == some c.id)

/-- The job served next: the last one while its WEIGHT lasts, else the next in ascending order after it (R417). -/
def pickJob (s : State) (g : Engine) (jobs : List Nat) : Option Nat :=
  if jobs.contains g.lastJob && decide (g.streak < regF s (pgJob g.lastJob) 0x140 8 4) then some g.lastJob
  else match jobs.find? (fun j => decide (g.lastJob < j)) with
    | some j => some j
    | none => jobs.head?

/-- A command as it starts: one for a fenced core ends with CHECK_FAIL_FENCED, and a MATMUL that finds the shadow set with
its own job's data with FORMAT_ERROR (R92, R105). -/
def beginRun (s : State) (c : QCmd) : RCmd :=
  let m := match cmdBlk c with
    | some .mxa => c.op == 1
    | _ => false
  if onFenced s c then { cmd := c, fin := some (stCheckFenced, []), began := false }
  else if m && (mxaOf s c.core).shadow.st != 0 then { cmd := c, fin := some (stFormat, []), since := s.time }
  else { cmd := c, since := s.time, sets := m }

/-- A started stationary load, or a MATMUL, makes the shadow set LOADING for its job (R102, R105). -/
def takeShadow (s : State) (r : RCmd) : State :=
  let load := match cmdBlk r.cmd with
    | some .cor => r.cmd.op == 4 && (tileOf r.cmd).dp == 3 && r.fin.isNone
    | _ => r.sets
  if load then
    setMxa s r.cmd.core { mxaOf s r.cmd.core with shadow := { st := 1, job := r.cmd.job } }
  else s

/-- An engine starts its next startable command, and meets what has decayed of the memories. -/
def opStart (s : State) (e : Nat) (met : Decay) : State :=
  let g := engOf s e
  let cs := (queueHeads g).filter (startable s e)
  match pickJob s g (cs.map (·.job)) with
  | none => s
  | some j =>
    match cs.find? (fun c => c.job == j) with
    | none => s
    | some c =>
      let r := beginRun s c
      let s := setEng s e { g with
        queue := g.queue.filter (fun y => y.id != c.id)
        running := g.running ++ [r]
        lastJob := j
        streak := if g.lastJob = j ∧ g.streak < regF s (pgJob j) 0x140 8 4 then g.streak + 1 else 1 }
      decay (cs.foldl (fun s y => if y.job = j then s else bump s (pgJob y.job) 3 1) (takeShadow s r)) met

/-! ### ENGINE_COMMAND_COMPLETE (R53, R58, R69, R74, R106) -/

/-- A command whose effect is complete leaves its engine: the counter is posted on OK, the host queue gets its completion,
and a context whose command failed halts with the status. -/
def opComplete (s : State) (e id : Nat) : State :=
  let g := engOf s e
  match (g.running ++ g.aside).find? (fun r => r.cmd.id == id && r.fin.isSome) with
  | none => s
  | some r =>
    let c := r.cmd
    let f := r.fin.getD (stOK, [])
    let s := setEng s e { g with
      running := g.running.filter (fun y => y.cmd.id != id), aside := g.aside.filter (fun y => y.cmd.id != id) }
    let s := if f.1 = stOK then syncPost s c else s
    let s := if f.1 = stPreempted then bump s (pgJob c.job) 2 1 else s
    let s := match coreOfPage c.page with
      | some k => mxaAfterEnd s k c.job
      | none => s
    match c.src with
    | .host q i t si st => hostComplete s q i t si st f.1 f.2
    | .ctx =>
      let st := (ctxOf s c.core c.ctx).st
      if f.1 ≠ stOK ∧ (st = 1 ∨ st = 2) then
        haltCtx s c.core c.ctx f.1 (((pageBlk c.page).map (fun b => blkCode b.1)).getD 0)
      else s

/-- SPILL_CONTRIBUTION_RESUME: a contribution set aside goes on when its engine works on nothing else (R111, R536). -/
def opSpillResume (s : State) (e id : Nat) : State :=
  let g := engOf s e
  match g.aside.find? (fun r => r.cmd.id == id && r.fin.isNone) with
  | none => s
  | some r =>
    if g.running.any (fun y => y.began && y.fin.isNone) then s
    else
      match pageBlk r.cmd.page with
      | some (.mxa, k) => resumeMxa s k r
      | some (.gmv, k) => resumeGmv s k r
      | _ => s

/-! ### How engines act -/

/-- An engine's effect is computed on its die; nothing goes on during the halt of R445, or without the fabric's power. -/
def acting (s : State) (die : Nat) (f : State → State) : State :=
  if s.halted || decide (2 ≤ s.pstate) then s else setDie (f (setDie s (die + 1))) 0

/-- An engine of a core acts. -/
def onCore (s : State) (core : Nat) (f : State → State) : State := acting s (core / 1024) f
/-- An engine of a region acts. -/
def onRegion (s : State) (r : Nat) (f : State → State) : State := acting s (r / 16) f
/-- The exchange acts: it stands on die 0 and reaches the other die in the message role of their bridge (R22, R465). -/
def onExchange (s : State) (f : State → State) : State := acting s 2 f
/-- An engine of the hub, or that both dies share, acts. -/
def onHub (s : State) (f : State → State) : State := if s.halted || decide (2 ≤ s.pstate) then s else f s

/-- A step that needs the fabric's power: in S2 and S3 nothing but what the always-on domain does happens (R434, R451). -/
def live (s : State) (f : State → State) : State := if 2 ≤ s.pstate then s else f s

end Sys2Proof.Machine
end

