-- ==== Sys2Proof/Machine/View.lean ====
section
/-! DEFINITION. What each register reads: the common header (Table 2-1), the status mirrors, the read-only registers. -/
namespace Sys2Proof.Machine

/-- The commands an engine holds: a command runs, its job, commands waiting (GMV_STATE, VEN_STATE, DRZ_STATE). -/
def engBusy (s : State) (e : Nat) (p : RCmd → Bool) : Option RCmd := engRun s e (fun r => r.began && p r)

def engState (s : State) (e : Nat) : Nat :=
  let r := engBusy s e (fun _ => true)
  b2n r.isSome + ((r.map (·.cmd.job)).getD 0) * 2 ^ 4 + (engOf s e).queue.length * 2 ^ 8

/-! ### Counters (R40, R500) -/

/-- CNT_DATA for an index. -/
def cntData (s : State) (page : Nat) (b : Blk) (i : Nat) : Nat :=
  if (capOf b).2.1 ≤ i then 0
  else
    let v := mapGet 0 s.ctrs (ctrKey page i)
    if (errCounters b).contains i && v == 0xFFFFFFFF then v + 2 ^ 63 else v

/-! ### Host queues -/

def viewHqu (s : State) (g off : Nat) : Nat :=
  let q := 16 * g + (off - 0x100) / 0x40
  let h := hqOf s q
  match (off - 0x100) % 0x40 with
  | 0x18 => bit (reg s (256 + g) off) 0 |> b2n |> (· + 2 * b2n h.qreset)
  | 0x20 => h.st + h.cause * 2 ^ 4 + b2n h.phase * 2 ^ 8 + 2 ^ 16 * h.outstanding + 2 ^ 32 * h.sqHead + 2 ^ 48 * h.cqTail
  | _ => reg s (256 + g) off

/-! ### Cores -/

def viewCor (s : State) (core off : Nat) : Nat :=
  if off = 0x200 then reg s (pgCor core) off
  else
    let x := (off - 0x100) / 0x40
    let c := ctxOf s core x
    match (off - 0x100) % 0x40 with
    | 0x10 => c.st + c.haltStatus * 2 ^ 8 + 2 ^ 32 * c.pc
    | 0x18 | 0x20 | 0x28 | 0x30 =>
      let n := ((off - 0x100) % 0x40 - 0x18) / 8
      (upTo 4).foldl (fun a i => a + mapGet 0 c.sync (4 * n + i) * 2 ^ (16 * i)) 0
    | _ => reg s (pgCor core) off

def viewMxa (s : State) (core off : Nat) : Nat :=
  let m := mxaOf s core
  match off with
  | 0x108 =>
    m.shadow.st + m.shadow.job * 2 ^ 4 + m.active.job * 2 ^ 8 + 2 ^ 12 * b2n (m.active.st == 2) + 2 ^ 13 * b2n m.held +
      2 ^ 16 * m.buf0.st + 2 ^ 18 * m.buf1.st + 2 ^ 20 * m.buf0.job + 2 ^ 24 * m.buf1.job
  | 0x118 => 0
  | _ => reg s (pgMxa core) off

def viewVen (s : State) (core off : Nat) : Nat :=
  let v := venOf s core
  match off with
  | 0x100 => engState s (pgVen core * 2) + 2 ^ 16 * v.ftq.length
  | 0x108 => (upTo 6).foldl (fun a b =>
      let o := mapGet 0 v.occ b
      if o = 0 then a else a + (o - 1) * 2 ^ (4 * b) + 2 ^ (24 + b)) 0
  | 0x110 => (upTo v.ftq.length).foldl (fun a e =>
      a + ((v.ftq.map (·.job)).getD e 0) * 2 ^ (4 * e) + 2 ^ (32 + e)) 0
  | 0x118 => (upTo 4).foldl (fun a i =>
      let h := mapGet {} v.hs i
      a + h.job * 2 ^ (4 * i) + b2n h.tagged * 2 ^ (16 + i) + b2n h.sat * 2 ^ (20 + i)) 0
  | _ => 0

/-- The ATN command that runs on a core. -/
def atnRun (s : State) (core : Nat) : Option RCmd := engBusy s (pgVen core * 2) (fun r => r.cmd.page == pgAtn core)

def viewAtn (s : State) (core : Nat) : Nat :=
  match atnRun s core with
  | none => 0
  | some r => 1 + r.cmd.job * 2 ^ 4 + r.cmd.op * 2 ^ 8

/-- CHN_OUT_STATE's CREDITS: free reel space, in 64-byte units. -/
def outCredits (s : State) (core o : Nat) : Nat :=
  if bit (outCfg s core o) 0 then
    let dc := outDst s core o
    let di := outDstIn s core o
    if bit (inCfg s dc di) 1 then 0 else (reelSize s dc di - (outOf s core o).used) / 64
  else 0

def viewChn (s : State) (core off : Nat) : Nat :=
  if off = 0x500 then reg s (pgChn core) off
  else if off < 0x300 then
    let o := (off - 0x100) / 0x20
    match (off - 0x100) % 0x20 with
    | 0x08 => outCredits s core o + 2 ^ 16 * outWaits s core o + 2 ^ 20 * (outOf s core o).tail
    | 0x10 => (outOf s core o).seq
    | _ => reg s (pgChn core) off
  else
    let i := (off - 0x300) / 0x20
    let x := inOf s core i
    match (off - 0x300) % 0x20 with
    | 0x10 => x.head + 2 ^ 20 * x.used + 2 ^ 41 * x.res
    | 0x18 => x.seq
    | _ => reg s (pgChn core) off

/-- TRC_BUF_STATE. -/
def trcState (s : State) (k : Nat) : Nat :=
  let t := traceOf s k
  t.write + 2 ^ 18 * b2n t.wrapped + 2 ^ 19 * b2n t.stopped + 2 ^ 20 * b2n s.traceFrozen + 2 ^ 32 * (t.dropped % 2 ^ 32)

/-- The TRC page; the cluster's registers are in the page of its first core only. -/
def viewTrc (s : State) (core off : Nat) : Nat :=
  if off = 0x100 then reg s (pgTrc core) off
  else if core % 8 ≠ 0 then 0
  else match off with
    | 0x120 => trcState s (core / 8)
    | 0x128 => (traceOf s (core / 8)).drained % 2 ^ 64
    | 0x138 => rdNum s (spTrace (core / 8) + 8 * regF s (pgTrc core) 0x130 0 15) 8
    | _ => reg s (pgTrc core) off

/-! ### Regions -/

def viewPse (s : State) (r off : Nat) : Nat :=
  let p := pseOf s r
  let slot := slotAt p ((off - 0x180) / 0x20)
  match off with
  | 0x200 =>
    p.st + b2n p.wait.isSome * 2 ^ 2 + b2n p.failed * 2 ^ 3 + openRecs p * 2 ^ 8 + 2 ^ 24 * p.inflight.length
  | 0x208 => (p.cur.map (·.num)).getD (p.lastNum.getD 0)
  | 0x210 => match p.cur with
    | none => 0
    | some c => c.fd + 2 ^ 16 * c.bd + 2 ^ 32 * c.wd
  | _ =>
    if 0x180 ≤ off ∧ off < 0x200 then
      match (off - 0x180) % 0x20 with
      | 0x08 => slot.st + slot.ref * 2 ^ 8
      | 0x10 => slot.first
      | 0x18 => slot.last
      | _ => reg s (pgPse r) off
    else reg s (pgPse r) off

/-- UPF_STATE: the run in a pass, runs awaiting publication, commands waiting. -/
def upfState (s : State) (r : Nat) : Nat :=
  let u := upfOf s r
  let q := (engOf s (pgUpf r * 2)).queue.length * 2 ^ 8
  match u.run with
  | none => u.pubs.length * 2 ^ 2 + q
  | some x =>
    1 + b2n (x.pass == 2) * 2 + u.pubs.length * 2 ^ 2 + x.job * 2 ^ 4 + q + 2 ^ 16 * ((x.first + x.done) % 65536)

def viewUpf (s : State) (r off : Nat) : Nat :=
  match off with
  | 0x320 => upfState s r
  | 0x330 => (upfOf s r).lastStep
  | _ => reg s (pgUpf r) off

/-- RGN_DISPATCH. -/
def rgnWaiting (s : State) (r : Nat) : Nat :=
  ((engOf s (pgRgn r * 2)).running.filter (fun t => t.fin.isNone && t.prog == 1)).length

/-! ### The package -/

/-- The notice being applied. -/
def noticeNow (s : State) : Option Notice := s.notices.find? (·.started)

def viewUps (s : State) (off : Nat) : Nat :=
  let n := noticeNow s
  match off with
  | 0x100 =>
    b2n n.isSome + ((s.notices.filter (fun x => !x.started)).length) * 2 +
      (match n with
       | none => 0
       | some x => x.region % 16 * 2 ^ 8 + 2 ^ 12 * (x.region / 16) + 2 ^ 16 * x.job)
  | _ => (n.map (·.step)).getD 0

def viewLnk (s : State) (dir off : Nat) : Nat :=
  let l := lnkOf s dir
  match off with
  | 0x100 => reg s (pgLnk dir) off % 16 + 64 * b2n (bit (reg s (pgLnk dir) off) 6) + 16 * b2n l.trainReq
  | 0x128 =>
    l.st + l.epoch * 2 ^ 8 + 2 ^ 16 * l.pEpoch + 2 ^ 24 * l.txWidth + 2 ^ 32 * l.rxWidth +
      2 ^ 40 * (sparesOf l.txActive l.txBad) + 2 ^ 43 * (sparesOf l.rxActive l.rxBad)
  | 0x130 => l.rxActive
  | 0x138 => l.rxBad
  | 0x140 => l.txActive
  | 0x148 => l.txNext + 2 ^ 20 * l.txAcked + 2 ^ 40 * l.rxNext
  | 0x150 => l.pCoord + 2 ^ 24 * b2n l.pValid
  | 0x158 => mapGet 0 s.ctrs (ctrKey (pgLnk dir) 11)
  | _ => reg s (pgLnk dir) off

/-- TOR_STATE: what HELLO frames showed, the directions that are ABSENT, and a running re-shard. -/
def torState (s : State) : Nat :=
  let v := reg s pgTor 0x108
  bits v 0 16 + (upTo 8).foldl (fun a d => a + b2n ((lnkOf s d).st == 5) * 2 ^ (16 + d)) 0 + 2 ^ 24 * b2n (bit v 24) +
    2 ^ 25 * b2n s.reshard.isSome

def viewGxe (s : State) (off : Nat) : Nat :=
  if off < 0x500 then reg s pgGxe off
  else
    let g := gxeOf s ((off - 0x500) / 0x20)
    match (off - 0x500) % 0x20 with
    | 0x00 => readyOpen s ((off - 0x500) / 0x20) + b2n g.failed * 2 ^ 9 +
        2 ^ 16 * gxeOwned g
    | 0x08 => g.prevNs
    | 0x10 => g.recNext % 2 ^ 32 + 2 ^ 32 * (g.dlogNext % 2 ^ 32)
    | _ => 0

/-- JOB_SUSP: the cores named by JOB_SUSP_MAPn, and a running pre-emption or resumption. -/
def suspCount (s : State) (f : Nat) : Nat :=
  ((upTo 32).map (fun n => popCount 64 (reg s (pgJob f) (0x400 + 8 * n)))).foldl (· + ·) 0

def jobBusy (s : State) (f : Nat) : Bool := (engBusy s (pgJob f * 2) (fun _ => true)).isSome

/-- The registers from 0x140 on read zero in function 0's JOB page. -/
def viewJob (s : State) (f off : Nat) : Nat :=
  if f = 0 ∧ 0x140 ≤ off then 0
  else if off = 0x160 then suspCount s f + 2 ^ 12 * b2n (jobBusy s f)
  else reg s (pgJob f) off

def viewHub (s : State) (off : Nat) : Nat :=
  match off with
  | 0x100 => s.aolWritten % 2 ^ 32 + 2 ^ 32 * (s.aolWritten % 1024)
  | 0x108 => reg s pgHub off
  | 0x130 => b2n s.traceFrozen + 2 * b2n s.resetWait.isSome
  | _ => rdNum s (spAol + 32 * regF s pgHub 0x108 0 10 + (off - 0x110)) 8

def viewPwr (s : State) (off : Nat) : Nat :=
  if off = 0x118 then setBits (reg s pgPwr off) 2 2 s.pstate else reg s pgPwr off

def viewRst (s : State) (off : Nat) : Nat :=
  if off = 0x100 then
    b2n ((s.resetWait.map (·.1)).getD 0 == 1) + 2 * b2n s.fabricOpen +
      (upTo 8).foldl (fun a d => a + b2n (lnkOf s d).linkReset * 2 ^ (8 + d)) 0
  else reg s pgRst off

def viewSec (s : State) (off : Nat) : Nat :=
  match off with
  | 0x100 => secBoot s
  | 0x108 => s.sec.build % 2 ^ 64
  | 0x110 => bits (reg s pgSec off) 0 4 + (s.fuses.revoked % 8) * 2 ^ 4
  | _ => num (measOf s ((off - 0x140) / 0x40)) ((off - 0x140) % 0x40) 8

def viewLcs (s : State) (off : Nat) : Nat :=
  match off with
  | 0x100 => setBits (reg s pgLcs off) 0 3 s.fuses.lcs
  | 0x128 => reg s pgLcs off
  | 0x130 => reg s pgLcs off
  | 0x138 => Config.serial % 2 ^ 64
  | _ => nonceWord s ((off - 0x108) / 8)

def viewCnt (s : State) (off : Nat) : Nat :=
  match off with
  | 0x100 => 0
  | 0x108 => setBits (reg s pgCnt off) 0 1 (b2n s.traceFrozen)
  | _ => reg s pgCnt off

def viewGdr (s : State) (p off : Nat) : Nat :=
  match off with
  | 0x110 => s.tierPorts + b2n s.tierDown * 2 ^ 5 + (if s.tierDown || s.tierTraining then 0 else s.tierGib) * 2 ^ 8
  | _ => reg s (pgGdr p) off

/-! ### The page as a whole -/

/-- A block-specific register that exists. -/
def viewBlk (s : State) (b : Blk) (i page off : Nat) : Nat :=
  match b with
  | .pkg => if off = 0x108 then Config.serial % 2 ^ 64 else reg s page off
  | .hub => viewHub s off
  | .pwr => viewPwr s off
  | .clk => if off = 0x110 then s.time % 2 ^ 64 else reg s page off
  | .rst => viewRst s off
  | .sec => viewSec s off
  | .lcs => viewLcs s off
  | .hqu => viewHqu s i off
  | .job => viewJob s i off
  | .ups => viewUps s off
  | .cnt => viewCnt s off
  | .gdr => viewGdr s i off
  | .drz => engState s (pgDrz i * 2)
  | .gmv => engState s (pgGmv i * 2)
  | .mem => if off = 0x100 then reg s (pgMem (i / 8) 0) off else reg s page off
  | .upf => viewUpf s i off
  | .rgn => setBits (reg s page off) 0 7 (rgnWaiting s i)
  | .pse => viewPse s i off
  | .cor => viewCor s i off
  | .mxa => viewMxa s i off
  | .ven => viewVen s i off
  | .atn => viewAtn s i
  | .chn => viewChn s i off
  | .trc => viewTrc s i off
  | .lnk => viewLnk s i off
  | .tor => if off = 0x108 then torState s else reg s page off
  | .gxe => viewGxe s off
  | .cxl | .clu | .dig | .opt | .dtd | .tgc => reg s page off

/-- STATUS of a page. -/
def statusOf (s : State) (b : Blk) (i page : Nat) : Nat :=
  match b with
  | .hub | .cnt => b2n s.traceFrozen
  | .pwr => s.pstate + 4 * regF s pgPwr 0x118 4 1
  | .clk => regF s pgClk 0x108 0 1
  | .rst => b2n s.fabricOpen + 2 * regF s pgRst 0x108 2 1
  | .sec => s.sec.st
  | .lcs => s.fuses.lcs
  | .hqu => (upTo 16).foldl (fun a k => a + b2n ((hqOf s (16 * i + k)).st == 2) * 2 ^ k) 0
  | .job => if i = 0 then 0 else b2n (jobEnabled s i) + 2 * b2n (jobBusy s i)
  | .cxl => b2n s.cxlUp
  | .gdr => regF s page 0x108 0 2
  | .ups => b2n (noticeNow s).isSome
  | .mem => regF s page 0x110 0 1
  | .tgc => regF s page 0x120 0 2
  | .drz | .gmv => engState s (page * 2) % 2
  | .upf => b2n (upfOf s i).run.isSome
  | .pse => (pseOf s i).st + 4 * b2n (pseOf s i).failed
  | .cor => (upTo 4).foldl (fun a x => a + b2n ((ctxOf s i x).st == 1 || (ctxOf s i x).st == 2) * 2 ^ x) 0 +
      16 * b2n (fenced s i)
  | .mxa => b2n (engBusy s (page * 2) (fun _ => true)).isSome + 2 * b2n (fenced s i)
  | .ven => engState s (page * 2) % 2
  | .atn => b2n (atnRun s i).isSome
  | .chn => (upTo 16).foldl (fun a o => a + b2n (outWaits s i o != 0) * 2 ^ o) 0
  | .trc => regF s page 0x100 0 1
  | .dig => regF s page 0x118 0 2
  | .lnk => (lnkOf s i).st
  | .tor => b2n (bit (reg s page 0x108) 24) + 2 * b2n s.reshard.isSome
  | .opt => regF s page 0x100 0 2
  | .dtd => b2n (bit (reg s page 0x20) 9)
  | .gxe => b2n (s.gxes.any (fun e => e.2.failed))
  | .pkg | .rgn | .clu => 0

/-- A register as a function reads it (R37, R40): an offset that the block does not implement reads zero. -/
def readPage (s : State) (fn page off : Nat) : Nat :=
  match pageBlk page with
  | none => 0
  | some (b, i) =>
    if off < 0x100 then
      match off with
      | 0x00 => idWord b i
      | 0x08 => capWord (capOf b)
      | 0x18 => statusOf s b i page
      | 0x20 | 0x28 | 0x30 | 0x38 | 0x40 | 0x48 => reg s page off
      | 0x50 => mapGet 0 s.cntIdx (page * 16 + fn)
      | 0x58 => cntData s page b (mapGet 0 s.cntIdx (page * 16 + fn))
      | _ => 0
    else if (regRow b off).isSome then viewBlk s b i page off
    else 0

/-- The level driven on LASER_EN[dir] (R525), and on GDR_RESET_N of a port (GDR_STATE, R30): low without power. -/
def laserEn (s : State) (dir : Nat) : Bool := decide (s.pstate < 2) && bit (reg s (pgOpt (dir / 2)) 0x100) (dir % 2)
def gdrResetN (s : State) (port : Nat) : Bool := decide (s.pstate < 2) && bit (reg s (pgGdr port) 0x108) 2

/-- In recovery and after SCRAPPED only some pages are served; the others read zero and ignore writes (R491, R495). -/
def pageServed (s : State) (page : Nat) : Bool :=
  match pageBlk page with
  | some (.job, _) => s.sec.st != 3
  | some (b, _) =>
    if s.sec.st = 2 then [.pkg, .hub, .sec, .lcs].contains b
    else if s.sec.st = 3 then [.pkg, .hub, .lcs].contains b
    else true
  | none => true

/-- A register read with a function's rights. OPT_TEMP has no source in the model: each read of it is a free value. -/
def readReg (s : State) (fn page off : Nat) : Nat × State :=
  if pageServed s page = false then (0, s)
  else if 0x1008 ≤ page ∧ page < 0x100C ∧ off = 0x110 then (fun p => (p.1 % 256, p.2)) (draw s)
  else (readPage s fn page off, s)

end Sys2Proof.Machine
end

