-- ==== Sys2Proof/Machine/Mmio.lean ====
section
/-! DEFINITION. Register accesses of the host: violations (R41 to R43, R454), what a write to each register does, host-queue
control and doorbells (R46 to R50, R54), event rings (R63) and the MSI-X table (R36). -/
namespace Sys2Proof.Machine

/-! ### Violations -/

/-- A register of a PSE, UPF or DIG page that the stage's job may write (R42). -/
def stageWrites (s : State) (fn r : Nat) (b : Blk) (off : Nat) : Bool :=
  off == 0x50 ||
    (pseValid s r && pseJob s r == fn && decide (0x100 ≤ off) && ((regRow b off).map (fun w => w.job != 0)).getD false)

/-- A register outside the header that a job function may write on a page of its own: none of its fields is function 0's. -/
def jobWrites (b : Blk) (off : Nat) : Bool :=
  decide (off < 0x100) || ((regRow b off).map (fun w => clearBits w.rw w.job == 0)).getD true

/-- A job function may make an access while the fabric is open (R42). -/
def jobMay (s : State) (fn page off : Nat) (write : Bool) : Bool :=
  match pageBlk page with
  | some (.job, f) => f == fn && off != 0x100 && (!write || jobWrites .job off)
  | some (.hqu, g) =>
    let r := reg s (pgJob fn) 0x100
    decide (bits r 0 8 ≤ g) && decide (g < bits r 0 8 + bits r 16 5) && (!write || jobWrites .hqu off)
  | some (.cor, k) => coreTo s fn k && (!write || jobWrites .cor off)
  | some (.mxa, k) => coreTo s fn k && (!write || jobWrites .mxa off)
  | some (.ven, k) => coreTo s fn k && (!write || jobWrites .ven off)
  | some (.atn, k) => coreTo s fn k && (!write || jobWrites .atn off)
  | some (.chn, k) => coreTo s fn k && (!write || jobWrites .chn off)
  | some (.trc, k) => coreTo s fn k && (!write || jobWrites .trc off)
  | some (.rgn, r) => regionTo s fn r && (!write || jobWrites .rgn off)
  | some (.drz, r) => regionTo s fn r && (!write || jobWrites .drz off)
  | some (.gmv, r) => regionTo s fn r && (!write || jobWrites .gmv off)
  | some (.clu, k) => regionTo s fn (k / 8) && (!write || jobWrites .clu off)
  | some (.pse, r) => (regionTo s fn r || (pseValid s r && pseJob s r == fn)) && (!write || stageWrites s fn r .pse off)
  | some (.upf, r) => (regionTo s fn r || (pseValid s r && pseJob s r == fn)) && (!write || stageWrites s fn r .upf off)
  | some (.dig, r) => (regionTo s fn r || (pseValid s r && pseJob s r == fn)) && (!write || stageWrites s fn r .dig off)
  | some (.gxe, _) =>
    if write then off == 0x50
    else decide (off < 0x100) || (off - 0x100) / 0x40 == fn && decide (off < 0x500) ||
      decide (0x500 ≤ off) && (off - 0x500) / 0x20 == fn
  | _ => false

/-- Doorbell slots of a function. -/
def slotsOf (s : State) (fn : Nat) : Nat := 16 * regF s (pgJob fn) 0x100 16 5

/-- A function may make an access to its BAR2 (R42). -/
def bar2May (s : State) (fn off : Nat) : Bool :=
  fn == 0 || (s.fabricOpen && (decide (off < 64 * slotsOf s fn) || (decide (0x4000 ≤ off) && decide (off < 0x5020)) ||
    (decide (0x6000 ≤ off) && decide (off < 0x6028))))

/-- What an access breaks: 0 the size rule, 1 the ownership rule. -/
def broken (s : State) (fn bar off len : Nat) (write : Bool) : Option Nat :=
  if len ≠ 8 ∨ off % 8 ≠ 0 then some 0
  else if bar = 2 then (if bar2May s fn off then none else some 1)
  else if pageBlk (off / 4096) = none ∨ (fn ≠ 0 ∧ (s.fabricOpen = false ∨ jobMay s fn (off / 4096) (off % 4096) write = false))
    then some 1
  else none

/-- A violation is logged in the page reached and raises ACCESS_VIOLATION to function 0 and to the function (R43). No chapter
gives its DETAIL, nor QUEUE_ERROR's: zeros (DESIGN CHOICE, log 118). -/
def violation (s : State) (fn bar off len : Nat) (write : Bool) (b : Nat) : State :=
  let page := if bar = 2 then pgJob fn else if (pageBlk (off / 4096)).isSome then off / 4096 else pgPkg
  raiseErr s page b
    { addr := if bar = 2 then off + 2 ^ 63 else off, status := stAccess, fn := fn, write := write, len := len } [fn] []

/-! ### Host queues -/

/-- A queue is freshly enabled (R47). -/
def enableQueue (s : State) (q : Nat) : State :=
  let cfg := reg s (pgHqu q) (hqOff q + 0x10)
  if within (bits cfg 0 5) 4 16 && within (bits cfg 8 5) 4 16 then setHq s q { st := 1 } else stopQueue (setHq s q {}) q 5

/-- A write of HQU_Q_CTRL (R47, R48). -/
def opQueueCtrl (s : State) (q v : Nat) : State :=
  let h := hqOf s q
  let en (b : Nat) (s : State) : State := setReg s (pgHqu q) (hqOff q + 0x18) b
  if h.qreset then s
  else if bit v 1 then queueReset s q
  else if h.st = 0 ∧ bit v 0 = true then enableQueue (en 1 s) q
  else if h.st = 1 ∧ bit v 0 = false then en 0 (setHq s q { h with st := 3 })
  else s

/-- QUEUE_DRAIN_DONE: OUTSTANDING of a draining queue has reached 0 (R48). -/
def opDrainDone (s : State) (q : Nat) : State :=
  let h := hqOf s q
  if h.st = 3 ∧ h.outstanding = 0 then
    if h.qreset then setReg (setHq s q {}) (pgHqu q) (hqOff q + 0x18) 0 else setHq s q { h with st := 0 }
  else s

/-- A doorbell write for a queue that is not RUNNING is dropped (R49, R55). -/
def dropBell (s : State) (q fn off : Nat) : State :=
  raiseErr s (pgHqu q) 8 { addr := off, fn := fn, write := true, len := 8 } [] []

/-- A doorbell write ends S1 where AUTO_EXIT is set (R435). -/
def bellWake (s : State) : State :=
  if s.pstate = 1 ∧ bit (reg s pgPwr 0x118) 5 = true then { s with pstate := 0 } else s

/-- The queue of a function's doorbell slot (R46). -/
def slotQueue (s : State) (fn slot : Nat) : Nat := 16 * regF s (pgJob fn) 0x100 0 8 + slot

/-- SQ_TAIL (R49, R50). -/
def bellTail (s : State) (fn slot v : Nat) : State :=
  let q := slotQueue s fn slot
  let s := bellWake s
  if (hqOf s q).st ≠ 1 then dropBell s q fn (64 * slot)
  else if 2 ^ regF s (pgHqu q) (hqOff q + 0x10) 0 5 ≤ v % 65536 then stopQueue s q 1
  else setHq s q { hqOf s q with sqTail := v % 65536 }

/-- CQ_HEAD (R49, R50). -/
def bellHead (s : State) (fn slot v : Nat) : State :=
  let q := slotQueue s fn slot
  let s := bellWake s
  let h := hqOf s q
  let n := 2 ^ regF s (pgHqu q) (hqOff q + 0x10) 8 5
  if h.st ≠ 1 then dropBell s q fn (64 * slot + 8)
  else if n ≤ v % 65536 ∨ (h.cqTail + n - h.cqHead) % n < (v % 65536 + n - h.cqHead) % n then stopQueue s q 2
  else setHq s q { h with cqHead := v % 65536 }

/-- RING_ACCESS_FAILED: a read of a queue's submission ring, or a write of its completion ring, failed on CXL.io (R50). -/
def opRingFailed (s : State) (q : Nat) (completion : Bool) : State :=
  let h := hqOf s q
  let s := if completion && h.st != 0 then setHq s q { h with cqLost := true } else s
  if h.st = 1 ∨ (h.st = 3 ∧ h.qreset = false) then stopQueue s q 3 else s

/-- COAL_TIME_EXPIRY: the vector is signalled COAL_TIME after the first unsignalled completion (R54). -/
def opCoalTime (s : State) (q : Nat) : State :=
  let h := hqOf s q
  if h.unsig ≠ 0 ∧ h.coalAt ≠ 0 ∧ h.coalAt ≤ s.time ∧ bit (reg s (pgHqu q) (hqOff q + 0x10)) 32 = true then
    let fn := fnOfQueue s q
    signal (setHq s q { h with unsig := 0, coalAt := 0 }) fn (2 + (q - 16 * regF s (pgJob fn) 0x100 0 8))
  else s

/-! ### The JOB page -/

/-- Two ranges of queue groups meet; an empty one meets none. -/
def rangesMeet (a na b nb : Nat) : Bool := na != 0 && nb != 0 && decide (a < b + nb) && decide (b < a + na)

/-- JOB_QUEUE_RANGE (R46). -/
def opQueueRange (s : State) (f v : Nat) : State :=
  let r := reg s (pgJob f) 0x100
  let busy := (upTo (16 * bits r 16 5)).any (fun i => (hqOf s (16 * bits r 0 8 + i)).st != 0)
  let meets := (upTo 16).any (fun g => g != f &&
    rangesMeet (bits v 0 8) (bits v 16 5) (regF s (pgJob g) 0x100 0 8) (regF s (pgJob g) 0x100 16 5))
  if 16 < bits v 16 5 ∨ 256 < bits v 0 8 + bits v 16 5 ∨ meets = true ∨ busy = true then
    raiseErr s (pgJob f) 8 { write := true, len := 8 } [] []
  else setReg s (pgJob f) 0x100 (v &&& 0x1F00FF)

/-- JOB_EVT_CFG: an illegal LOG2 is not taken; room that it makes lets the overflow record go (R63); records owed to function 0 follow its first ENABLE (R407, R495). -/
def opEvtCfg (s : State) (f v : Nat) : State :=
  let old := reg s (pgJob f) 0x110
  let l := if within (bits v 0 4) 6 12 then bits v 0 4 else bits old 0 4
  let s := overflowRecord (setReg s (pgJob f) 0x110 (l + 2 ^ 8 * bits v 8 1)) f
  if f = 0 ∧ bit old 8 = false ∧ bit v 8 = true then payOwed s else s

/-- JOB_EVT_HEAD: room in the ring lets the overflow record go (R63). -/
def opEvtHead (s : State) (f v : Nat) : State := overflowRecord (setReg s (pgJob f) 0x118 (v % 4096)) f

def writeJob (s : State) (f off v : Nat) : State :=
  match off with
  | 0x100 => opQueueRange s f v
  | 0x110 => opEvtCfg s f v
  | 0x118 => opEvtHead s f v
  | 0x108 => setReg s (pgJob f) off (v &&& 0xFFFFFFFFFFFFF000)
  | _ =>
    if f = 0 then s
    else if off = 0x140 then opJobCtrl s f v
    else if off = 0x148 then opJobRegions s f (v % 2 ^ 32)
    else if off = 0x150 then setReg s (pgJob f) off (v &&& 0xFFFFFFFFFFE00000)
    else if off = 0x158 then opJobSlow s f (v % 65536)
    else if 0x200 ≤ off ∧ off < 0x300 then opJobCores s f ((off - 0x200) / 8) v
    else if 0x300 ≤ off ∧ off < 0x340 then opJobMem s f ((off - 0x300) / 8) v
    else s

/-! ### Registers whose writes have rules of their own -/

/-- A write as the table's access codes give it: writable bits take the value, the others stay. An update program's words
are readable again once written (R260). -/
def storeReg (s : State) (b : Blk) (page off v : Nat) : State :=
  match regRow b off with
  | none => s
  | some w =>
    let s := setReg s page off (mergeBits (reg s page off) w.rw v)
    if b = .upf ∧ 0x800 ≤ off then rewritten s (spUprog (((pageBlk page).map (·.2)).getD 0) + (off - 0x800)) 8 else s

/-- A store where the condition holds. -/
def storeIf (p : Bool) (s : State) (b : Blk) (page off v : Nat) : State := if p then storeReg s b page off v else s

/-- A field takes a new value only inside its limits; the other fields of a write take effect. -/
def keepField (ok : Bool) (old v lo w : Nat) : Nat := if ok then v else setBits v lo w (bits old lo w)

/-- PWR_STATE: AUTO_EXIT, and the request (R435, R437, R440). -/
def writePwrState (s : State) (v : Nat) : State :=
  let s := setReg s pgPwr 0x118 (bits v 0 2 + (bits (reg s pgPwr 0x118) 4 1) * 2 ^ 4 + bits v 5 1 * 2 ^ 5)
  match bits v 0 2 with
  | 0 => opS0 s
  | 1 => opS1 s
  | 2 => opS2 s
  | _ => enterS3 s 1 true false

def writePwr (s : State) (off v : Nat) : State :=
  match off with
  | 0x100 => storeIf (within (bits v 0 11) 300 1200) s .pwr pgPwr off v
  | 0x108 => opPlevel s (v % 8)
  | 0x118 => writePwrState s v
  | 0x148 => if bit v 3 then setRegF s pgPwr 0x148 3 1 0 else s
  | _ => storeReg s .pwr pgPwr off v

/-- RST_CTRL: FABRIC_OPEN, link resets, and WARM, whose start-up finds what nothing fixes (R449, R454). -/
def writeRst (s : State) (v : Nat) : State :=
  let s := if bit v 1 then opFabricOpen s else s
  let s := (setIdx 8 0 (bits v 8 8)).foldl opLinkReset s
  if bit v 0 then askWarm { s with free := s.free + 1 } 1 false (Config.startFinds s.free) else s

def writeSec (s : State) (v : Nat) : State :=
  let s := if bit v 0 then opSvnCommit s else s
  opRevoke s (bits v 1 3)

/-- LCS_REQ_CTRL: GO is ignored while a request runs (R494). -/
def writeLcsCtrl (s : State) (v : Nat) : State :=
  let s := setRegF (setRegF s pgLcs 0x130 0 3 v) pgLcs 0x130 8 8 (v / 256)
  if bit v 16 then setRegF s pgLcs 0x130 16 2 3 else s

/-- CNT_CLEAR: error counters only (R504). -/
def clearCtr (s : State) (page i : Nat) : State :=
  match pageBlk page with
  | some (b, _) => if (errCounters b).contains i then { s with ctrs := mapPut 0 s.ctrs (ctrKey page i) 0 } else s
  | none => s

def writeCntClear (s : State) (v : Nat) : State :=
  let page := bits v 0 15
  if bit v 32 then (upTo 64).foldl (fun s i => clearCtr s page i) s
  else if bits v 16 16 < 64 then clearCtr s page (bits v 16 16) else s

/-- CNT_TRACE_CTRL: with a freeze and a release in one write the release applies last (R512). -/
def writeTraceCtrl (s : State) (v : Nat) : State :=
  let s := setRegF s pgCnt 0x108 3 1 (bits v 3 1)
  let s := if bit v 1 then setRegF (freezeTrace s) pgCnt 0x108 1 1 1 else s
  if bit v 2 then releaseTrace s none else s

def writeCnt (s : State) (off v : Nat) : State :=
  match off with
  | 0x100 => writeCntClear s v
  | 0x108 => writeTraceCtrl s v
  | 0x110 => storeIf (decide (v < stackedEnd)) s .cnt pgCnt off v
  | _ =>
    let old := reg s pgCnt off
    storeReg s .cnt pgCnt off
      (keepField (within (bits v 0 5) 8 24) old (keepField (within (bits v 8 5) 0 20) old v 8 5) 0 5)

/-- PSE registers: most change only while the engine is IDLE, a slot's address only while the slot is FREE. -/
def writePse (s : State) (r off v : Nat) : State :=
  let idle := (pseOf s r).st == 0
  let page := pgPse r
  if off = 0x100 then opStageCfg s r v
  else if off = 0x118 then
    storeIf idle s .pse page off (keepField (bits v 8 8 != 0) (reg s page off) v 8 8)
  else if off < 0x180 then storeIf idle s .pse page off v
  else if off < 0x200 ∧ (off - 0x180) % 0x20 = 0 then
    storeIf ((slotAt (pseOf s r) ((off - 0x180) / 0x20)).st == 0) s .pse page off v
  else s

/-- COR_CTX_CFG and COR_CTX_SCRATCH: ignored while the context is RUNNING or WAITING, where the window does not fit, and
where another job than the region's owner would be bound (R412). -/
def writeCor (s : State) (core off v : Nat) : State :=
  let x := (off - 0x100) / 0x40
  let c := ctxOf s core x
  let r := core / 64
  let foreign := bit v 4 && ((upTo 15).map (· + 1)).any (fun f => regionTo s f r && bits v 0 4 != f)
  if 0x200 ≤ off ∨ c.st = 1 ∨ c.st = 2 then s
  else match (off - 0x100) % 0x40 with
    | 0x00 => storeIf (decide (bits v 16 6 + bits v 24 7 ≤ 64) && !foreign) s .cor (pgCor core) off v
    | 0x08 => storeIf (decide (bits v 0 9 + bits v 16 9 ≤ 384)) s .cor (pgCor core) off v
    | _ => s

def writeChn (s : State) (core off v : Nat) : State :=
  if off = 0x500 then storeIf (within (bits v 0 32) 1 1000000) s .chn (pgChn core) off v
  else if off < 0x300 then
    (if (off - 0x100) % 0x20 = 0 then opOutCfg s core ((off - 0x100) / 0x20) v else s)
  else match (off - 0x300) % 0x20 with
    | 0x00 => opInCfg s core ((off - 0x300) / 0x20) false v
    | 0x08 => opInCfg s core ((off - 0x300) / 0x20) true v
    | _ => s

/-- The TRC page: MODE changes only while no core of the cluster is traced, and never to 3. -/
def writeTrc (s : State) (core off v : Nat) : State :=
  let page := pgTrc core
  let old := reg s page off
  if off = 0x100 then storeReg s .trc page off v
  else if core % 8 ≠ 0 then s
  else match off with
    | 0x108 =>
      let quiet := (upTo 8).all (fun i => !(bit (reg s (pgTrc (core + i)) 0x100) 0))
      storeReg s .trc page off
        (keepField (quiet && bits v 0 2 != 3) old (keepField (within (bits v 8 4) 4 15) old v 8 4) 0 2)
    | 0x118 => storeIf (within (bits v 0 5) 18 32) s .trc page off v
    | 0x138 => s
    | _ => storeReg s .trc page off v

def writeDig (s : State) (r off v : Nat) : State :=
  if off = 0x100 then storeReg s .dig (pgDig r) off (keepField (bits v 24 16 != 0) (reg s (pgDig r) off) v 24 16)
  else storeReg s .dig (pgDig r) off v

def writeLnk (s : State) (dir off v : Nat) : State :=
  let page := pgLnk dir
  let old := reg s page off
  match off with
  | 0x100 => opLnkCfg s dir v
  | 0x108 => storeIf (within (bits v 0 24) 5000 10000000) s .lnk page off v
  | 0x110 => storeIf (decide (1000 ≤ bits v 0 16)) s .lnk page off v
  | 0x118 =>
    storeReg s .lnk page off
      (keepField (bits v 0 8 != 0) old (keepField (decide (100 ≤ bits v 8 16)) old v 8 16) 0 8)
  | 0x120 =>
    storeIf ((lnkOf s dir).st == 0 && decide (((upTo 8).map (fun p => bits v (8 * p) 8)).foldl (· + ·) 0 ≤ 256))
      s .lnk page off v
  | _ => s

def writeTor (s : State) (off v : Nat) : State :=
  if off = 0x100 then opTorCoord s v
  else if 0x110 ≤ off ∧ off < 0x190 then opJbox s ((off - 0x110) / 8) v
  else if off = 0x190 then storeIf (within (bits v 0 32) 1 10000000) s .tor pgTor off v
  else if 0x198 ≤ off ∧ off < 0x1D8 then opTorAbsent s ((off - 0x198) / 8) v
  else if off = 0x1D8 ∧ bit v 0 = true then setRegF s pgTor off 0 1 0
  else s

/-- HQU_SQ_BASE, HQU_CQ_BASE and HQU_Q_CFG only while DISABLED (R47). -/
def writeHqu (s : State) (g off v : Nat) : State :=
  let q := 16 * g + (off - 0x100) / 0x40
  match (off - 0x100) % 0x40 with
  | 0x18 => opQueueCtrl s q v
  | 0x20 => s
  | _ => storeIf ((hqOf s q).st == 0) s .hqu (256 + g) off v

/-- The job sets of the GXE page; the status sets are read only. -/
def writeGxe (s : State) (off v : Nat) : State :=
  match regRow .gxe off with
  | none => s
  | some w => if w.rw = 0 then s else gxeCfgWrite s off (v &&& w.rw)

/-- A write to a block-specific register that the guard has let through. -/
def writeBlk (s : State) (b : Blk) (i page off v : Nat) : State :=
  match b with
  | .pwr => writePwr s off v
  | .clk => storeIf (off == 0x100 && bits v 0 2 != 3) s .clk page off v
  | .rst => if off = 0x100 then writeRst s v else s
  | .sec => if off = 0x110 then writeSec s v else s
  | .lcs => if off = 0x130 then writeLcsCtrl s v else storeReg s .lcs page off v
  | .hqu => writeHqu s i off v
  | .job => writeJob s i off v
  | .cxl => if off = 0x100 then opCxlBase s v else s
  | .gdr => if off = 0x100 then opGdrCfg s i v else s
  | .cnt => writeCnt s off v
  | .mem => if off = 0x100 then opMemIlv s (i / 8) (i % 8) v else if off = 0x108 then opMemEcc s (i / 8) (i % 8) v else s
  | .tgc =>
    if off = 0x100 then opTgcCfg s (i / 8) (i % 8) v
    else if off < 0x120 then opTgcReg s (i / 8) (i % 8) off v else s
  | .clu => if off < 0x140 then opCluWindow s i ((off - 0x100) / 8) v else s
  | .pse => writePse s i off v
  | .cor => writeCor s i off v
  | .mxa => if off = 0x118 then opInject s i (v % 4) else storeReg s .mxa page off v
  | .chn => writeChn s i off v
  | .trc => writeTrc s i off v
  | .dig => writeDig s i off v
  | .lnk => writeLnk s i off v
  | .tor => writeTor s off v
  | .dtd => storeIf (off == 0x100 && within (bits v 0 5) 4 12 && !s.fabricOpen) s .dtd page off v
  | .gxe => writeGxe s off v
  | .upf => storeReg s .upf page off v
  | .hub | .opt => storeReg s b page off v
  | .pkg | .ups | .drz | .gmv | .rgn | .ven | .atn => s

/-- The implemented bits of ERR_STATUS and ERR_MASK, and of EVT_STATUS and EVT_ENABLE. -/
def errMaskOf (b : Blk) : Nat := 7 + (2 ^ ((capOf b).2.2.1 + 1) - 256) * b2n ((capOf b).2.2.1 ≥ 8)
def evtMaskOf (b : Blk) : Nat := 2 ^ (capOf b).2.2.2 - 1

/-- A write to a page (R37, R39, R40, R60). -/
def writePage (s : State) (fn page off v : Nat) : State :=
  match pageBlk page with
  | none => s
  | some (b, i) =>
    if off < 0x100 then
      match off with
      | 0x20 => setReg s page off (clearBits (reg s page off) v)
      | 0x28 => setReg s page off (v &&& errMaskOf b)
      | 0x40 => setReg s page off (v &&& evtMaskOf b)
      | 0x48 => setReg s page off (clearBits (reg s page off) v)
      | 0x50 => { s with cntIdx := mapPut 0 s.cntIdx (page * 16 + fn) (v % 65536) }
      | _ => s
    else if (regRow b off).isSome then writeBlk s b i page off v
    else s

/-! ### BAR2 -/

/-- A word of the MSI-X table; a vector unmasked while its bit is pending sends its message (R36, as PCIe has it). -/
def writeMsix (s : State) (fn w v : Nat) : State :=
  let d := if w % 2 = 1 then 0x100000000#64 else 0#64
  let s := { s with msixTable := mapPut d s.msixTable (fn * 1024 + w) (BitVec.ofNat 64 (if w % 2 = 1 then v % 2 ^ 33 else v)) }
  let k := fn * 512 + w / 2
  if w % 2 = 1 ∧ bit v 32 = false ∧ mapGet 0 s.msixPend k = 1 then
    { s with msixPend := mapPut 0 s.msixPend k 0, msixSent := mapPut 0 s.msixSent k (mapGet 0 s.msixSent k + 1) }
  else s

/-- A write to BAR2 that the guard has let through. -/
def writeBar2 (s : State) (fn off v : Nat) : State :=
  if off < 64 * slotsOf s fn then
    match off % 64 with
    | 0 => bellTail s fn (off / 64) v
    | 8 => bellHead s fn (off / 64) v
    | _ => s
  else if 0x4000 ≤ off ∧ off < 0x5020 then writeMsix s fn ((off - 0x4000) / 8) v
  else s

/-- A write of the host: it reaches the device while the CXL link is up (R30, R326, R474). -/
def mmioWrite (s : State) (fn bar off len v : Nat) : State :=
  if s.cxlUp = false ∨ 16 ≤ fn then s
  else
    match broken s fn bar off len true with
    | some b => violation s fn bar off len true b
    | none =>
      if bar = 2 then writeBar2 s fn off v
      else if pageServed s (off / 4096) then writePage s fn (off / 4096) (off % 4096) v
      else s

/-- A write of a whole register by function `fn`. -/
def hostWrite (s : State) (fn page off v : Nat) : State := mmioWrite s fn 0 (page * 4096 + off) 8 v

/-- VIOLATING_READ: Completer Abort and no data, and the log (R43). A read that breaks no rule is not such an event. -/
def opViolatingRead (s : State) (fn bar off len : Nat) : State :=
  if s.cxlUp = false ∨ 16 ≤ fn then s
  else
    match broken s fn bar off len false with
    | some b => { violation s fn bar off len false b with reply := { abort := true, status := stAccess } }
    | none => s

end Sys2Proof.Machine
end

