-- ==== Sys2Proof/Machine/Side.lean ====
section
/-! DEFINITION. Sideband operations (R477, R478, R512, R513), the drain of trace buffers (R508), JTAG (R523). -/
namespace Sys2Proof.Machine

/-- A sideband operation is served in S0 and S1 (R477). -/
def sideband (s : State) (f : State → State) : State := live s (fun s => f (bump s pgHub 1 1))

/-- READ_REG: a BAR0 offset, 8-byte aligned, read with function 0's rights; a reserved page is no page of BAR0. -/
def opReadReg (s : State) (args : List Byte) : State :=
  sideband s (fun s =>
    let a := num args 0 4
    if args.length ≠ 4 ∨ a % 8 ≠ 0 ∨ 0x8000000 ≤ a then answer s stBadCommand []
    else if pageBlk (a / 4096) = none then answer s stAccess []
    else
      let p := readReg s 0 (a / 4096) (a % 4096)
      answer p.2 stOK (leBytes 8 p.1))

/-- READ_LOG: an entry of the always-on log. -/
def opReadLog (s : State) (args : List Byte) : State :=
  sideband s (fun s =>
    let i := num args 0 2
    if args.length ≠ 2 ∨ 1024 ≤ i then answer s stBadCommand []
    else answer s stOK (rdMem s (spAol + 32 * i) 32))

/-- WARM_RESET: the reset begins, or waits for the end of a trace freeze. -/
def opWarmSide (s : State) (u : StartUp) : State := sideband s (fun s => answer (askWarm s 2 false u) stOK [])

/-- POWER_OFF: S3 with cause 5. -/
def opPowerOff (s : State) : State := sideband s (fun s => answer (enterS3 s 5 true false) stOK [])

def opTraceFreeze (s : State) : State := sideband s (fun s => answer (freezeTrace s) stOK [])

/-- TRACE_RELEASE; a warm reset that waits for it begins, with what its start-up finds. -/
def opTraceRelease (s : State) (u : StartUp) : State :=
  sideband s (fun s => answer (if s.traceFrozen then releaseTrace s (some u) else s) stOK [])

/-- TRACE_DUMP: 64 bytes of a frozen buffer, or TRC_BUF_STATE (R513). -/
def opTraceDump (s : State) (args : List Byte) : State :=
  sideband s (fun s =>
    let k := num args 0 2
    let c := num args 2 2
    if args.length ≠ 4 then answer s stBadCommand []
    else if s.traceFrozen = false then answer s stAccess []
    else if 256 ≤ k then answer s stBadCommand []
    else if c = 0xFFFF then answer s stOK (padTo 64 (leBytes 8 (trcState s k)))
    else if 4096 ≤ c then answer s stBadCommand []
    else answer s stOK (rdMem s (spTrace k + 64 * c) 64))

/-- The operations of Table 16-4 and R496. -/
def sideOps : List Nat := [0x01, 0x02, 0x03, 0x04, 0x05, 0x06, 0x07, 0x10, 0x11]

/-- SIDEBAND_BAD_OP: an undefined OP, or an operation without arguments that is given some. -/
def opSideBad (s : State) (op : Nat) (args : List Byte) : State :=
  if sideOps.contains op && ([0x01, 0x02, 0x06, 0x10].contains op || args.isEmpty) then s
  else sideband s (fun s => answer s stBadCommand [])

/-! ### The drain (R508) -/

/-- A DROP packet, whose CORE and CTX are not stated, then a SYNC for each traced context. -/
def dropPacket (s : State) (k : Nat) : State :=
  let t := traceOf s k
  if t.dropPend = 0 then s
  else
    let n := t.dropPend
    let (a, s) := draw (setTrace s k { t with dropPend := 0 })
    let s := trcPacket s (8 * k + a % 8) [trcHead 6 (a % 8) (a / 8 % 4) + 2 ^ 16 * (n % 2 ^ 32)]
    (upTo 32).foldl (fun s i =>
      if traced s (8 * k + i / 4) (i % 4) && ctxBound s (8 * k + i / 4) (i % 4) then trcSync s (8 * k + i / 4) (i % 4)
      else s) s

/-- TRACE_DRAIN: a cluster's undrained packets are copied into its ring in stacked memory, which wraps. -/
def drainUnits (s : State) (k ring size : Nat) : Nat → State
  | 0 => s
  | n + 1 =>
    let t := traceOf s k
    let src := (t.write + trcBytes - t.pend) % trcBytes
    let a := ring + t.drained % size
    let s := if inStacked a 8 then wrFab s a (rdMem s (spTrace k + src) 8) 0 else s
    drainUnits (setTrace s k { t with drained := t.drained + 8, pend := t.pend - 8 }) k ring size n

def opTraceDrain (s : State) (k : Nat) : State :=
  let page := pgTrc (8 * k)
  if 256 ≤ k ∨ s.traceFrozen = true ∨ regF s page 0x108 0 2 ≠ 2 then s
  else
    dropPacket
      (drainUnits s k (bits (reg s page 0x110) 12 52 * 4096) (2 ^ regF s page 0x118 0 5) ((traceOf s k).pend / 8)) k

/-! ### JTAG -/

/-- A JTAG instruction: IDCODE and BYPASS always, others where the life-cycle state leaves JTAG full (Table 17-3). -/
def opJtag (s : State) (i : Nat) : State :=
  if i = Config.jtagIdcode then answer s stOK (leBytes 4 0x20720E4F)
  else if i = Config.jtagBypass then answer s stOK []
  else if s.fuses.lcs = 2 ∨ s.fuses.lcs = 4 then { s with reply := { abort := true } }
  else answer s stOK (Config.jtagAnswer i)

end Sys2Proof.Machine
end

