-- ==== Sys2Proof/Machine/HostCmds.lean ====
section
/-! DEFINITION. Host and engine commands: register writes of chapter "Host interface", the host queues, engines starting and ending commands: one meaning per command. -/
namespace Sys2Proof.Machine

/-- A command's effect, on everything but the queue of waiting commands. -/
def effect (s : State) (f : State → State) : Host.Outcome State Fault Refusal := .next (setPending (f s) s.pending)

/-- What reaches the device over CXL: nothing while the link is down (R30, R326). -/
def served (s : State) (f : State → State) : State := if s.cxlUp then f s else s

/-- REGISTER_WRITE (R41): checked, then stored, ignored or acted on as the register's table states. -/
def execRegisterWrite (fn bar off len : Nat) (val : W64) (s : State) : Host.Outcome State Fault Refusal :=
  effect s (fun s => mmioWrite s fn bar off len val.toNat)

/-- ERR_STATUS_CLEAR (R39). -/
def execErrStatusClear (fn page : Nat) (ones : W64) (s : State) : Host.Outcome State Fault Refusal :=
  effect s (fun s => hostWrite s fn page 0x20 ones.toNat)

/-- JOB_QUEUE_RANGE_WRITE (R46). -/
def execJobQueueRangeWrite (fn f : Nat) (val : W64) (s : State) : Host.Outcome State Fault Refusal :=
  effect s (fun s => hostWrite s fn (pgJob f) 0x100 val.toNat)

/-- JOB_EVT_HEAD_WRITE (R63). -/
def execJobEvtHeadWrite (fn f : Nat) (val : W64) (s : State) : Host.Outcome State Fault Refusal :=
  effect s (fun s => hostWrite s fn (pgJob f) 0x118 val.toNat)

/-- QUEUE_ENABLE: ENABLE is written 1 (R47). -/
def execQueueEnable (fn q : Nat) (s : State) : Host.Outcome State Fault Refusal :=
  effect s (fun s => hostWrite s fn (pgHqu q) (hqOff q + 0x18) 1)

/-- QUEUE_DISABLE: ENABLE is written 0 (R48). -/
def execQueueDisable (fn q : Nat) (s : State) : Host.Outcome State Fault Refusal :=
  effect s (fun s => hostWrite s fn (pgHqu q) (hqOff q + 0x18) 0)

/-- QRESET is written 1 and ENABLE as it reads (R48). -/
def execQreset (fn q : Nat) (s : State) : Host.Outcome State Fault Refusal :=
  effect s (fun s => hostWrite s fn (pgHqu q) (hqOff q + 0x18) (reg s (pgHqu q) (hqOff q + 0x18) ||| 2))

/-- QUEUE_DRAIN_DONE (R48). -/
def execQueueDrainDone (q : Nat) (s : State) : Host.Outcome State Fault Refusal :=
  effect s (fun s => live s (fun s => opDrainDone s q))

/-- DOORBELL_SQ_TAIL (R50). -/
def execDoorbellSqTail (fn slot : Nat) (val : W64) (s : State) : Host.Outcome State Fault Refusal :=
  effect s (fun s => mmioWrite s fn 2 (64 * slot) 8 val.toNat)

/-- DOORBELL_CQ_HEAD (R50). -/
def execDoorbellCqHead (fn slot : Nat) (val : W64) (s : State) : Host.Outcome State Fault Refusal :=
  effect s (fun s => mmioWrite s fn 2 (64 * slot + 8) 8 val.toNat)

/-- COMMAND_DISPATCH (R51). -/
def execCommandDispatch (q : Nat) (bytes : List Byte) (s : State) : Host.Outcome State Fault Refusal :=
  effect s (fun s => live s (fun s => opDispatch s q bytes))

/-- RING_ACCESS_FAILED (R50). -/
def execRingAccessFailed (q : RingOf) (s : State) : Host.Outcome State Fault Refusal :=
  effect s (fun s => live s (fun s => opRingFailed s q.queue q.completion))

/-- COAL_TIME_EXPIRY (R54). -/
def execCoalTimeExpiry (q : Nat) (s : State) : Host.Outcome State Fault Refusal :=
  effect s (fun s => live s (fun s => opCoalTime s q))

/-- ENGINE_COMMAND_START (R536). -/
def execEngineCommandStart (eng : EngineStart) (s : State) : Host.Outcome State Fault Refusal :=
  effect s (fun s => onHub s (fun s => opStart s eng.eng eng.met))

/-- ENGINE_COMMAND_COMPLETE (R69). -/
def execEngineCommandComplete (eng id : Nat) (s : State) : Host.Outcome State Fault Refusal :=
  effect s (fun s => live s (fun s => opComplete s eng id))

/-- SPILL_CONTRIBUTION_RESUME (R111). -/
def execSpillContributionResume (eng id : Nat) (s : State) : Host.Outcome State Fault Refusal :=
  effect s (fun s => onRegion s ((eng / 2 - 0x2000) / 0x200) (fun s => opSpillResume s eng id))

/-- VIOLATING_READ (R43). -/
def execViolatingRead (fn bar off len : Nat) (s : State) : Host.Outcome State Fault Refusal :=
  effect s (fun s => opViolatingRead s fn bar off len)

end Sys2Proof.Machine
end

