-- ==== Sys2Proof/Machine/CoreCmds.lean ====
section
/-! DEFINITION. Commands of the control core, its instructions, and its message channels: one meaning per command. -/
namespace Sys2Proof.Machine

/-- LOAD_IMEM (R78). -/
def execLoadImem (core : Nat) (hostData : List Byte) (s : State) : Host.Outcome State Fault Refusal :=
  effect s (fun s => onCore s core (fun s => opLoadImem s core hostData))

/-- START_CONTEXT (R91). -/
def execStartContext (core : Nat) (s : State) : Host.Outcome State Fault Refusal :=
  effect s (fun s => onCore s core (fun s => opStartContext s core))

/-- STOP_CONTEXT (R91). -/
def execStopContext (core : Nat) (s : State) : Host.Outcome State Fault Refusal :=
  effect s (fun s => onCore s core (fun s => opStopContext s core))

/-- SYNC_SET (R91). -/
def execSyncSet (core : Nat) (s : State) : Host.Outcome State Fault Refusal :=
  effect s (fun s => onCore s core (fun s => opSyncSet s core))

/-- TILE_MOVE (R82). -/
def execTileMove (core : Nat) (s : State) : Host.Outcome State Fault Refusal :=
  effect s (fun s => onCore s core (fun s => opTileMove s core))

/-- HALT (R74). -/
def execHalt (core ctx : Nat) (s : State) : Host.Outcome State Fault Refusal :=
  effect s (fun s => onCore s core (fun s => opHalt s core ctx))

/-- NOP (R73). -/
def execNop (core ctx : Nat) (s : State) : Host.Outcome State Fault Refusal :=
  effect s (fun s => onCore s core (fun s => opNop s core ctx))

/-- READTIME (R73). -/
def execReadtime (core ctx rd : Nat) (s : State) : Host.Outcome State Fault Refusal :=
  effect s (fun s => onCore s core (fun s => opReadTime s core ctx rd))

/-- READCTX (R73). -/
def execReadctx (core ctx rd : Nat) (s : State) : Host.Outcome State Fault Refusal :=
  effect s (fun s => onCore s core (fun s => opReadCtx s core ctx rd))

/-- Integer operations, R form (R73). -/
def execIntegerRForm (core ctx : Nat) (op : IntOp) (rd ra rb : Nat) (s : State) : Host.Outcome State Fault Refusal :=
  effect s (fun s => onCore s core (fun s => opIntR s core ctx op rd ra rb))

/-- Integer operations, I form (R73). -/
def execIntegerIForm (core ctx : Nat) (op : IntOpI) (rd ra : Nat) (imm : BitVec 16) (s : State) : Host.Outcome State Fault Refusal :=
  effect s (fun s => onCore s core (fun s => opIntI s core ctx op rd ra imm))

/-- Scratch loads (R74). -/
def execScratchLoad (core ctx log2 rd ra : Nat) (imm : BitVec 16) (s : State) : Host.Outcome State Fault Refusal :=
  effect s (fun s => onCore s core (fun s => opLoad s core ctx log2 rd ra imm))

/-- Scratch stores (R74). -/
def execScratchStore (core ctx log2 rs ra : Nat) (imm : BitVec 16) (s : State) : Host.Outcome State Fault Refusal :=
  effect s (fun s => onCore s core (fun s => opStore s core ctx log2 rs ra imm))

/-- Atomic load (R339). -/
def execAtomicLoad (core ctx : Nat) (wide : Bool) (rd ra : Nat) (s : State) : Host.Outcome State Fault Refusal :=
  effect s (fun s => onCore s core (fun s => opAtomicLoad s core ctx wide rd ra))

/-- Atomic store (R339). -/
def execAtomicStore (core ctx : Nat) (wide : Bool) (ra rb : Nat) (s : State) : Host.Outcome State Fault Refusal :=
  effect s (fun s => onCore s core (fun s => opAtomicStore s core ctx wide ra rb))

/-- Atomic integer addition (R339). -/
def execAddI (core ctx : Nat) (wide : Bool) (rd ra rb : Nat) (s : State) : Host.Outcome State Fault Refusal :=
  effect s (fun s => onCore s core (fun s => opAtomicAdd s core ctx wide rd ra rb))

/-- Atomic FP32 addition (R339). -/
def execAddF32 (core ctx rd ra rb : Nat) (s : State) : Host.Outcome State Fault Refusal :=
  effect s (fun s => onCore s core (fun s => opAtomicAddF s core ctx rd ra rb))

/-- Atomic minimum (R339). -/
def execAtomicMin (core ctx : Nat) (k : MmKind) (rd ra rb : Nat) (s : State) : Host.Outcome State Fault Refusal :=
  effect s (fun s => onCore s core (fun s => opAtomicMin s core ctx k rd ra rb))

/-- Atomic maximum (R339). -/
def execAtomicMax (core ctx : Nat) (k : MmKind) (rd ra rb : Nat) (s : State) : Host.Outcome State Fault Refusal :=
  effect s (fun s => onCore s core (fun s => opAtomicMax s core ctx k rd ra rb))

/-- Compare and swap (R339). -/
def execCas (core ctx : Nat) (wide : Bool) (rd ra rb : Nat) (s : State) : Host.Outcome State Fault Refusal :=
  effect s (fun s => onCore s core (fun s => opCas s core ctx wide rd ra rb))

/-- Compare and branch (R73). -/
def execBranch (core ctx : Nat) (c : Cond) (ra rb : Nat) (off : BitVec 16) (s : State) : Host.Outcome State Fault Refusal :=
  effect s (fun s => onCore s core (fun s => opBranch s core ctx c ra rb off))

/-- Jump (R73). -/
def execJump (core ctx : Nat) (off : BitVec 16) (s : State) : Host.Outcome State Fault Refusal :=
  effect s (fun s => onCore s core (fun s => opJump s core ctx off))

/-- Branch and link (R72). -/
def execBranchAndLink (core ctx : Nat) (off : BitVec 16) (s : State) : Host.Outcome State Fault Refusal :=
  effect s (fun s => onCore s core (fun s => opBranchLink s core ctx off))

/-- Jump register (R73). -/
def execJumpRegister (core ctx ra : Nat) (s : State) : Host.Outcome State Fault Refusal :=
  effect s (fun s => onCore s core (fun s => opJumpReg s core ctx ra))

/-- ISSUE (R76). -/
def execIssue (core ctx engine op ra : Nat) (s : State) : Host.Outcome State Fault Refusal :=
  effect s (fun s => onCore s core (fun s => opIssue s core ctx engine op ra))

/-- ISSUE_STALL_RELEASE (R76). -/
def execIssueStallRelease (core ctx : Nat) (s : State) : Host.Outcome State Fault Refusal :=
  effect s (fun s => onCore s core (fun s => opIssueRelease s core ctx))

/-- SYNCWAIT (R73). -/
def execSyncwait (core ctx ra imm : Nat) (s : State) : Host.Outcome State Fault Refusal :=
  effect s (fun s => onCore s core (fun s => opSyncwait s core ctx ra imm))

/-- SYNCWAIT_RELEASE (R69). -/
def execSyncwaitRelease (core ctx : Nat) (s : State) : Host.Outcome State Fault Refusal :=
  effect s (fun s => onCore s core (fun s => opSyncRelease s core ctx))

/-- SYNCPOST (R73). -/
def execSyncpost (core ctx ra imm : Nat) (s : State) : Host.Outcome State Fault Refusal :=
  effect s (fun s => onCore s core (fun s => opSyncpost s core ctx ra imm))

/-- A reserved opcode halts the context with BAD_COMMAND (R74). -/
def execReservedOpcode (core ctx : Nat) (s : State) : Host.Outcome State Fault Refusal :=
  effect s (fun s => onCore s core (fun s => opReserved s core ctx))

/-- SCRATCH_SCRUB (R79). -/
def execScratchScrub (core addr : Nat) (o : Ecc) (s : State) : Host.Outcome State Fault Refusal :=
  effect s (fun s => live s (fun s => opScratchScrub s core addr o))

/-- CHN_OUT_CFG_WRITE (R192). -/
def execChnOutCfgWrite (fn core ch : Nat) (val : W64) (s : State) : Host.Outcome State Fault Refusal :=
  effect s (fun s => hostWrite s fn (pgChn core) (0x100 + 0x20 * ch) val.toNat)

/-- CHN_IN_CFG_WRITE (R192). -/
def execChnInCfgWrite (fn core ch : Nat) (reel : Bool) (val : W64) (s : State) : Host.Outcome State Fault Refusal :=
  effect s (fun s => hostWrite s fn (pgChn core) ((if reel then 0x308 else 0x300) + 0x20 * ch) val.toNat)

/-- CHN_SEND (R200). -/
def execChnSend (core : Nat) (s : State) : Host.Outcome State Fault Refusal :=
  effect s (fun s => onCore s core (fun s => opSend s core))

/-- CHN_RELEASE (R203). -/
def execChnRelease (core : Nat) (s : State) : Host.Outcome State Fault Refusal :=
  effect s (fun s => onCore s core (fun s => opChnRelease s core))

/-- CHANNEL_MESSAGE_ARRIVAL (R194). -/
def execChannelMessageArrival (core ch : Nat) (s : State) : Host.Outcome State Fault Refusal :=
  effect s (fun s => onCore s core (fun s => opArrival s core ch))

/-- CHANNEL_SEND_ACK (R197). -/
def execChannelSendAck (core ch : Nat) (s : State) : Host.Outcome State Fault Refusal :=
  effect s (fun s => onCore s core (fun s => opAck s core ch))

/-- CHANNEL_CREDIT_RETURN (R202). -/
def execChannelCreditReturn (core ch : Nat) (s : State) : Host.Outcome State Fault Refusal :=
  effect s (fun s => onCore s core (fun s => opCredit s core ch))

/-- SEND_TIMEOUT (R208). -/
def execSendTimeout (core id : Nat) (s : State) : Host.Outcome State Fault Refusal :=
  effect s (fun s => onCore s core (fun s => opSendTimeout s core id))

end Sys2Proof.Machine
end

