-- ==== Sys2Proof/Machine/TensorCmds.lean ====
section
/-! DEFINITION. Commands of the array, vector and attention engines, GMV and DRZ: one meaning per command. -/
namespace Sys2Proof.Machine

/-- MXA_MATMUL (R114). -/
def execMxaMatmul (core : Nat) (faults : List CheckFault) (s : State) : Host.Outcome State Fault Refusal :=
  effect s (fun s => onCore s core (fun s => opMatmul s core faults))

/-- MXA_PASS (R115). -/
def execMxaPass (core : Nat) (faults : List CheckFault) (s : State) : Host.Outcome State Fault Refusal :=
  effect s (fun s => onCore s core (fun s => opPass s core faults))

/-- MXA_DRAIN (R109). -/
def execMxaDrain (core : Nat) (s : State) : Host.Outcome State Fault Refusal :=
  effect s (fun s => onCore s core (fun s => opDrain s core))

/-- MXA_RELEASE (R106). -/
def execMxaRelease (core : Nat) (s : State) : Host.Outcome State Fault Refusal :=
  effect s (fun s => onCore s core (fun s => opMxaRelease s core))

/-- FINISHED_TILE_ROOM (R165). -/
def execFinishedTileRoom (core : Nat) (s : State) : Host.Outcome State Fault Refusal :=
  effect s (fun s => onCore s core (fun s => opTileRoom s core))

/-- MXA_INJECT (R131). -/
def execMxaInject (fn core count : Nat) (s : State) : Host.Outcome State Fault Refusal :=
  effect s (fun s => hostWrite s fn (pgMxa core) 0x118 count)

/-- GMV_MATVEC (R125). -/
def execGmvMatvec (region : Nat) (s : State) : Host.Outcome State Fault Refusal :=
  effect s (fun s => onRegion s region (fun s => opMatvec s region))

/-- VEN_MAP (R169). -/
def execVenMap (core : Nat) (s : State) : Host.Outcome State Fault Refusal :=
  effect s (fun s => onCore s core (fun s => opVenMap s core))

/-- VEN_REDUCE (R172). -/
def execVenReduce (core : Nat) (s : State) : Host.Outcome State Fault Refusal :=
  effect s (fun s => onCore s core (fun s => opVenReduce s core))

/-- VEN_SHUFFLE (R173). -/
def execVenShuffle (core : Nat) (s : State) : Host.Outcome State Fault Refusal :=
  effect s (fun s => onCore s core (fun s => opVenShuffle s core))

/-- VEN_HIST_FLUSH (R176). -/
def execVenHistFlush (core : Nat) (s : State) : Host.Outcome State Fault Refusal :=
  effect s (fun s => onCore s core (fun s => opHistFlush s core))

/-- VEN_RELEASE (R168). -/
def execVenRelease (core : Nat) (s : State) : Host.Outcome State Fault Refusal :=
  effect s (fun s => onCore s core (fun s => opVenRelease s core))

/-- ATN_SCORES (R179). -/
def execAtnScores (core : Nat) (s : State) : Host.Outcome State Fault Refusal :=
  effect s (fun s => onCore s core (fun s => opScores s core))

/-- ATN_ACCUM (R180). -/
def execAtnAccum (core : Nat) (s : State) : Host.Outcome State Fault Refusal :=
  effect s (fun s => onCore s core (fun s => opAccum s core))

/-- ATN_FINISH (R181). -/
def execAtnFinish (core : Nat) (s : State) : Host.Outcome State Fault Refusal :=
  effect s (fun s => onCore s core (fun s => opFinish s core))

/-- ATN_KV_LOAD (R185). -/
def execAtnKvLoad (core : Nat) (s : State) : Host.Outcome State Fault Refusal :=
  effect s (fun s => onCore s core (fun s => opKv s core 4))

/-- ATN_KV_FLUSH (R185). -/
def execAtnKvFlush (core : Nat) (s : State) : Host.Outcome State Fault Refusal :=
  effect s (fun s => onCore s core (fun s => opKv s core 5))

/-- DRZ_GATHER (R334). -/
def execDrzGather (region : Nat) (s : State) : Host.Outcome State Fault Refusal :=
  effect s (fun s => onRegion s region (fun s => opDrz s region 1))

/-- DRZ_SCATTER (R334). -/
def execDrzScatter (region : Nat) (s : State) : Host.Outcome State Fault Refusal :=
  effect s (fun s => onRegion s region (fun s => opDrz s region 2))

end Sys2Proof.Machine
end

