-- ==== Sys2Proof/Machine/StageCmds.lean ====
section
/-! DEFINITION. Commands of the pipeline, update and digest engines: one meaning per command. -/
namespace Sys2Proof.Machine

/-- PSE_STEP (R241). -/
def execPseStep (region : Nat) (s : State) : Host.Outcome State Fault Refusal :=
  effect s (fun s => onRegion s region (fun s => opStep s region))

/-- PSE_STEP_ADMIT (R241). -/
def execPseStepAdmit (region : Nat) (s : State) : Host.Outcome State Fault Refusal :=
  effect s (fun s => onRegion s region (fun s => opStepAdmit s region))

/-- PSE_DONE (R229). -/
def execPseDone (region : Nat) (s : State) : Host.Outcome State Fault Refusal :=
  effect s (fun s => onRegion s region (fun s => opDone s region))

/-- PSE_DRAIN (R242). -/
def execPseDrain (region : Nat) (s : State) : Host.Outcome State Fault Refusal :=
  effect s (fun s => onRegion s region (fun s => opDrainPse s region))

/-- PSE_RESUME (R243). -/
def execPseResume (region : Nat) (s : State) : Host.Outcome State Fault Refusal :=
  effect s (fun s => onRegion s region (fun s => opResume s region))

/-- PSE_ABORT (R243). -/
def execPseAbort (region : Nat) (s : State) : Host.Outcome State Fault Refusal :=
  effect s (fun s => onRegion s region (fun s => opAbort s region))

/-- PSE_VERSION_OPEN (R235). -/
def execPseVersionOpen (region : Nat) (s : State) : Host.Outcome State Fault Refusal :=
  effect s (fun s => onRegion s region (fun s => opVersionOpen s region))

/-- PSE_VERSION_PUBLISH (R235). -/
def execPseVersionPublish (region : Nat) (s : State) : Host.Outcome State Fault Refusal :=
  effect s (fun s => onRegion s region (fun s => opVersionPublish s region))

/-- PSE_VERSION_EXTEND (R235). -/
def execPseVersionExtend (region : Nat) (s : State) : Host.Outcome State Fault Refusal :=
  effect s (fun s => onRegion s region (fun s => opVersionExtend s region))

/-- PSE_PHASE_DISPATCH (R230). -/
def execPsePhaseDispatch (region : Nat) (s : State) : Host.Outcome State Fault Refusal :=
  effect s (fun s => onRegion s region (fun s => opPhaseDispatch s region))

/-- PSE_TRANSFER_ARRIVAL (R222): `bytes` bytes arrive. -/
def execPseTransferArrival (region : Nat) (backward : Bool) (mb vs bytes : Nat) (data : List Byte) (s : State) : Host.Outcome State Fault Refusal :=
  effect s (fun s => onRegion s region (fun s => opArrivalPse s region backward mb vs (padTo bytes (data.take bytes))))

/-- PSE_ARRIVAL_REPORT (R220). -/
def execPseArrivalReport (region : Nat) (backward : Bool) (mb vs : Nat) (s : State) : Host.Outcome State Fault Refusal :=
  effect s (fun s => onRegion s region (fun s => opReport s region backward mb vs))

/-- PSE_CREDIT_RETURN (R223). -/
def execPseCreditReturn (region count : Nat) (s : State) : Host.Outcome State Fault Refusal :=
  effect s (fun s => onRegion s region (fun s => opCreditPse s region count))

/-- PSE_TRANSFER_FAILED (R224). -/
def execPseTransferFailed (region : Nat) (down : Bool) (linkLost : Bool) (addr : Nat) (s : State) : Host.Outcome State Fault Refusal :=
  effect s (fun s => onRegion s region (fun s => opXferFailed s region down linkLost addr))

/-- PSE_STAGE_CFG_WRITE (R217). -/
def execPseStageCfgWrite (fn region : Nat) (val : W64) (s : State) : Host.Outcome State Fault Refusal :=
  effect s (fun s => hostWrite s fn (pgPse region) 0x100 val.toNat)

/-- UPD_RUN (R261). -/
def execUpdRun (region : Nat) (s : State) : Host.Outcome State Fault Refusal :=
  effect s (fun s => onRegion s region (fun s => opUpdRun s region false))

/-- UPD_RUN with INIT (R266). -/
def execUpdRunInit (region : Nat) (s : State) : Host.Outcome State Fault Refusal :=
  effect s (fun s => onRegion s region (fun s => opUpdRun s region true))

/-- LANDING_COMPLETE (R261). -/
def execLandingComplete (region group : Nat) (s : State) : Host.Outcome State Fault Refusal :=
  effect s (fun s => onRegion s region (fun s => opLanding s region group))

/-- UPS_NOTICE_START (R272). -/
def execUpsNoticeStart (s : State) : Host.Outcome State Fault Refusal :=
  effect s (fun s => onHub s (fun s => opNoticeStart s))

/-- UPS_NOTICE_DONE (R272). -/
def execUpsNoticeDone (s : State) : Host.Outcome State Fault Refusal :=
  effect s (fun s => onHub s (fun s => opNoticeDone s))

/-- UPF_PUBLISH (R265). -/
def execUpfPublish (region : Nat) (s : State) : Host.Outcome State Fault Refusal :=
  effect s (fun s => onRegion s region (fun s => opUpfPublish s region))

/-- DIGEST_REPORT (R275). -/
def execDigestReport (region d step : Nat) (groups : List (Nat × Nat)) (s : State) : Host.Outcome State Fault Refusal :=
  effect s (fun s => onRegion s region (fun s => opDigestReport s region d step groups))

/-- COMPARER_WAIT_EXPIRY (R275). -/
def execComparerWaitExpiry (region : Nat) (s : State) : Host.Outcome State Fault Refusal :=
  effect s (fun s => onRegion s region (fun s => opComparerWait s region))

/-- COMPARISON_REPORT (R276). -/
def execComparisonReport (region step : Nat) (r : DigReport) (s : State) : Host.Outcome State Fault Refusal :=
  effect s (fun s => onRegion s region (fun s => opComparison s region step r))

/-- REPLICA_REPAIRED (R277). -/
def execReplicaRepaired (region group : Nat) (majority : Nat) (data : List Byte) (s : State) : Host.Outcome State Fault Refusal :=
  effect s (fun s => onRegion s region (fun s => opRepaired s region group majority data))

/-- DIGEST_LATE (R279). -/
def execDigestLate (region : Nat) (s : State) : Host.Outcome State Fault Refusal :=
  effect s (fun s => onRegion s region (fun s => opDigestLate s region))

/-- REPAIR_REQUEST (R281). -/
def execRepairRequest (region : Nat) (group : RepairAsk) (s : State) : Host.Outcome State Fault Refusal :=
  effect s (fun s => onRegion s region (fun s => opRepairRequest s region group.group group.dst))

end Sys2Proof.Machine
end

