-- ==== Sys2Proof/Machine/ExchangeCmds.lean ====
section
/-! DEFINITION. Commands and packets of the gradient exchange: one meaning per command. -/
namespace Sys2Proof.Machine

/-- GXE_BUCKET_READY (R296). -/
def execGxeBucketReady (id : Nat) (s : State) : Host.Outcome State Fault Refusal :=
  effect s (fun s => onExchange s (fun s => opBucketReady s id))

/-- GXE_ABORT (R314). -/
def execGxeAbort (s : State) : Host.Outcome State Fault Refusal :=
  effect s (fun s => onExchange s (fun s => opGxeAbort s))

/-- CONTRIB (R300). -/
def execContrib (p : GxePkt) (s : State) : Host.Outcome State Fault Refusal :=
  effect s (fun s => onExchange s (fun s => opContrib s p))

/-- HIST (R295). -/
def execHist (p : GxePkt) (s : State) : Host.Outcome State Fault Refusal :=
  effect s (fun s => onExchange s (fun s => opHist s p))

/-- GRANT_REQ (R308). -/
def execGrantReq (p : GxePkt) (s : State) : Host.Outcome State Fault Refusal :=
  effect s (fun s => onExchange s (fun s => opGrantReq s p))

/-- GRANT (R308). -/
def execGrant (p : GxePkt) (s : State) : Host.Outcome State Fault Refusal :=
  effect s (fun s => onExchange s (fun s => opGrant s p))

/-- CLOSE (R305). -/
def execClose (p : GxePkt) (s : State) : Host.Outcome State Fault Refusal :=
  effect s (fun s => onExchange s (fun s => opClose s p))

/-- RESULT (R311). -/
def execResult (p : GxePkt) (s : State) : Host.Outcome State Fault Refusal :=
  effect s (fun s => onExchange s (fun s => opResult s p))

/-- CHUNK_RESEND_REQUEST (R307). -/
def execChunkResendRequest (job bucket shard step chunk dst : Nat) (s : State) : Host.Outcome State Fault Refusal :=
  effect s (fun s => onExchange s (fun s => opResend s job bucket shard step chunk dst))

/-- STRAGGLER_WINDOW_EXPIRY (R301). -/
def execStragglerWindowExpiry (job bucket shard : Nat) (s : State) : Host.Outcome State Fault Refusal :=
  effect s (fun s => onExchange s (fun s => opWindow s job bucket shard))

end Sys2Proof.Machine
end

