-- ==== Sys2Proof/Machine/LinkCmds.lean ====
section
/-! DEFINITION. Commands and events of memory, Merrak Link and the torus: one meaning per command. -/
namespace Sys2Proof.Machine

/-- CXL_MEM_READ (R471). -/
def execCxlMemRead (off len : Nat) (s : State) : Host.Outcome State Fault Refusal :=
  effect s (fun s => live s (fun s => opCxlRead s off len))

/-- CXL_MEM_WRITE (R472). -/
def execCxlMemWrite (off : Nat) (data : List Byte) (poison : Bool) (s : State) : Host.Outcome State Fault Refusal :=
  effect s (fun s => live s (fun s => opCxlWrite s off data poison))

/-- CXL_MEM_BASE_WRITE (R325). -/
def execCxlMemBaseWrite (fn : Nat) (val : BaseWrite) (s : State) : Host.Outcome State Fault Refusal :=
  effect s (fun s => hostWrite (commitHdm s val.committed) fn pgCxl 0x100 val.val.toNat)

/-- MEM_ILV_WRITE (R323). -/
def execMemIlvWrite (fn region ch : Nat) (val : W64) (s : State) : Host.Outcome State Fault Refusal :=
  effect s (fun s => hostWrite s fn (pgMem region ch) 0x100 val.toNat)

/-- FENCE is set in MEM_ECC_CFG (R331). -/
def execFence (fn region ch : Nat) (s : State) : Host.Outcome State Fault Refusal :=
  effect s (fun s => hostWrite s fn (pgMem region ch) 0x108 (reg s (pgMem region ch) 0x108 ||| 0x10000))

/-- STACK_SCRUB (R328). -/
def execStackScrub (addr : Nat) (o : Ecc) (s : State) : Host.Outcome State Fault Refusal :=
  effect s (fun s => live s (fun s => opStackScrub s addr o))

/-- STACK_HOT (R329). -/
def execStackHot (stack : Nat) (s : State) : Host.Outcome State Fault Refusal :=
  effect s (fun s => live s (fun s => setHot s stack 1))

/-- STACK_HOT_END (R329). -/
def execStackHotEnd (stack : Nat) (s : State) : Host.Outcome State Fault Refusal :=
  effect s (fun s => live s (fun s => setHot s stack 0))

/-- CLUSTER_CACHE_SCRUB (R337). -/
def execClusterCacheScrub (cluster off : Nat) (o : Ecc) (s : State) : Host.Outcome State Fault Refusal :=
  effect s (fun s => live s (fun s => opCluScrub s cluster off o))

/-- CLU_WINDOW_WRITE (R338). -/
def execCluWindowWrite (fn cluster w : Nat) (val : W64) (s : State) : Host.Outcome State Fault Refusal :=
  effect s (fun s => hostWrite s fn (pgClu cluster) (0x100 + 8 * w) val.toNat)

/-- RETRAIN of a TRAINED port is set in GDR_CFG (R345). -/
def execRetrain (fn port : Nat) (s : State) : Host.Outcome State Fault Refusal :=
  effect s (fun s => hostWrite s fn (pgGdr port) 0x100 (reg s (pgGdr port) 0x100 ||| 0x20))

/-- RETRAIN of a port that is not TRAINED is set in GDR_CFG (R347). -/
def execTierTraining (fn port : Nat) (s : State) : Host.Outcome State Fault Refusal :=
  effect s (fun s => hostWrite s fn (pgGdr port) 0x100 (reg s (pgGdr port) 0x100 ||| 0x20))

/-- GDR_TRAINING_DONE (R344). -/
def execGdrTrainingDone (port : Nat) (ok : Bool) (us : Nat) (s : State) : Host.Outcome State Fault Refusal :=
  effect s (fun s => live s (fun s => opGdrDone s port ok us))

/-- WCK_TRACKING (R345). -/
def execWckTracking (port : Nat) (s : State) : Host.Outcome State Fault Refusal :=
  effect s (fun s => live s (fun s => opWck s port))

/-- GDR_CRC_ERROR (R346). -/
def execGdrCrcError (port : Nat) (e : CrcEnd) (s : State) : Host.Outcome State Fault Refusal :=
  effect s (fun s => live s (fun s => opGdrCrc s port e))

/-- START is set in TGC_CFG (R348). -/
def execTgcStart (fn region ch : Nat) (s : State) : Host.Outcome State Fault Refusal :=
  effect s (fun s => hostWrite s fn (pgTgc region ch) 0x100 (reg s (pgTgc region ch) 0x100 ||| 0x100))

/-- STOP is set in TGC_CFG (R348). -/
def execTgcStop (fn region ch : Nat) (s : State) : Host.Outcome State Fault Refusal :=
  effect s (fun s => hostWrite s fn (pgTgc region ch) 0x100 (reg s (pgTgc region ch) 0x100 ||| 0x200))

/-- TGC_RUN_DONE (R348). -/
def execTgcRunDone (region ch : Nat) (fails : List Nat) (minNs maxNs : Nat) (s : State) : Host.Outcome State Fault Refusal :=
  effect s (fun s => live s (fun s => opTgcDone s region ch fails minNs maxNs))

/-- DATA_FRAME_SEND (R368). -/
def execDataFrameSend (dir : Nat) (s : State) : Host.Outcome State Fault Refusal :=
  effect s (fun s => live s (fun s => opFrameSend s dir))

/-- DATA_FRAME_RECEIVE (R369). -/
def execDataFrameReceive (dir : Nat) (ws : List LaneWord) (s : State) : Host.Outcome State Fault Refusal :=
  effect s (fun s => live s (fun s => opFrameReceive s dir ws))

/-- IDLE_FRAME_RECEIVE (R361). -/
def execIdleFrameReceive (dir : Nat) (ws : List LaneWord) (s : State) : Host.Outcome State Fault Refusal :=
  effect s (fun s => live s (fun s => opFrameReceive s dir ws))

/-- HELLO (R392). -/
def execHello (dir epoch coord : Nat) (fresh : Bool) (s : State) : Host.Outcome State Fault Refusal :=
  effect s (fun s => live s (fun s => opHello s dir epoch coord fresh))

/-- RESYNC (R378). -/
def execResync (dir epoch partnerEpoch rxExpected : Nat) (credits : List Nat) (s : State) : Host.Outcome State Fault Refusal :=
  effect s (fun s => live s (fun s => opResync s dir epoch partnerEpoch rxExpected credits))

/-- LANE_MAP (R374). -/
def execLaneMap (dir way active width : Nat) (s : State) : Host.Outcome State Fault Refusal :=
  effect s (fun s => live s (fun s => opLaneMap s dir way active width))

/-- DOWN (R377). The CAUSE of the frame is the partner's; this end records cause 4. -/
def execDown (dir _cause : Nat) (s : State) : Host.Outcome State Fault Refusal :=
  effect s (fun s => live s (fun s => opDown s dir))

/-- LINK_FRAME_REPEAT (R361). -/
def execLinkFrameRepeat (dir : Nat) (s : State) : Host.Outcome State Fault Refusal :=
  effect s (fun s => live s (fun s => opLinkRepeat s dir))

/-- REPLAY_TIMEOUT (R372). -/
def execReplayTimeout (dir : Nat) (s : State) : Host.Outcome State Fault Refusal :=
  effect s (fun s => live s (fun s => opReplayTimeout s dir))

/-- NAK_REQUEUE (R370). -/
def execNakRequeue (dir seq : Nat) (s : State) : Host.Outcome State Fault Refusal :=
  effect s (fun s => live s (fun s => opNakRequeue s dir seq))

/-- SQUALL (R373). -/
def execSquall (dir way : Nat) (lane : LaneSeen) (s : State) : Host.Outcome State Fault Refusal :=
  effect s (fun s => live s (fun s => opSquall s dir way lane.lane lane.report))

/-- SPARE_LANE_TEST (R373). -/
def execSpareLaneTest (dir way lane : Nat) (squalls : Bool) (s : State) : Host.Outcome State Fault Refusal :=
  effect s (fun s => live s (fun s => opSpareTest s dir way lane squalls))

/-- LOSS_OF_LIGHT (R377). -/
def execLossOfLight (dir : Nat) (s : State) : Host.Outcome State Fault Refusal :=
  effect s (fun s => live s (fun s => opLossOfLight s dir))

/-- NO_VALID_FRAME (R377). -/
def execNoValidFrame (dir : Nat) (s : State) : Host.Outcome State Fault Refusal :=
  effect s (fun s => live s (fun s => opNoValid s dir))

/-- RETRAIN_OVERRUN (R376). -/
def execRetrainOverrun (dir : Nat) (s : State) : Host.Outcome State Fault Refusal :=
  effect s (fun s => live s (fun s => opRetrainOverrun s dir))

/-- LANE_MAP_TIMEOUT (R376). -/
def execLaneMapTimeout (dir : Nat) (s : State) : Host.Outcome State Fault Refusal :=
  effect s (fun s => live s (fun s => opLaneMapTimeout s dir))

/-- LINK_LOST (R380). -/
def execLinkLost (dir : Nat) (s : State) : Host.Outcome State Fault Refusal :=
  effect s (fun s => live s (fun s => opLinkLost s dir))

/-- BRINGUP_RETRY (R377). -/
def execBringupRetry (dir : Nat) (s : State) : Host.Outcome State Fault Refusal :=
  effect s (fun s => live s (fun s => opBringupRetry s dir))

/-- TRAINING_DONE (R383). -/
def execTrainingDone (dir : Nat) (ok : WayTrained) (rxBad txBad : Nat) (s : State) : Host.Outcome State Fault Refusal :=
  effect s (fun s => live s (fun s => opTrainingDone s dir ok.way ok.ok rxBad txBad))

/-- ENABLE is set in LNK_CFG (R377). -/
def execLnkEnable (fn dir : Nat) (s : State) : Host.Outcome State Fault Refusal :=
  effect s (fun s => hostWrite s fn (pgLnk dir) 0x100 (reg s (pgLnk dir) 0x100 ||| 1))

/-- RETRAIN is set in LNK_CFG (R377). -/
def execLnkRetrain (fn dir : Nat) (s : State) : Host.Outcome State Fault Refusal :=
  effect s (fun s => hostWrite s fn (pgLnk dir) 0x100 (reg s (pgLnk dir) 0x100 ||| 0x10))

/-- FORCE_DOWN is set in LNK_CFG (R377). -/
def execForceDown (fn dir : Nat) (s : State) : Host.Outcome State Fault Refusal :=
  effect s (fun s => hostWrite s fn (pgLnk dir) 0x100 (reg s (pgLnk dir) 0x100 ||| 0x20))

/-- LASER_LOSS (R387). -/
def execLaserLoss (oe fibre : Nat) (s : State) : Host.Outcome State Fault Refusal :=
  effect s (fun s => live s (fun s => opLaserLoss s oe fibre))

/-- TOR_PUT (R398). -/
def execTorPut (id : Nat) (s : State) : Host.Outcome State Fault Refusal :=
  effect s (fun s => onHub s (fun s => opTorPut s id))

/-- PUT_REQUEST_ARRIVAL (R399). -/
def execPutRequestArrival (r : PutReq) (s : State) : Host.Outcome State Fault Refusal :=
  effect s (fun s => onHub s (fun s => opPutArrival s r))

/-- PUT_REPLY (R400). -/
def execPutReply (id status : Nat) (s : State) : Host.Outcome State Fault Refusal :=
  effect s (fun s => onHub s (fun s => opPutReply s id status))

/-- PUT_TIMEOUT (R400). -/
def execPutTimeout (id : Nat) (s : State) : Host.Outcome State Fault Refusal :=
  effect s (fun s => onHub s (fun s => opPutTimeout s id))

/-- TOR_RESHARD (R405). -/
def execTorReshard (s : State) : Host.Outcome State Fault Refusal :=
  effect s (fun s => onHub s (fun s => opReshard s))

/-- RESHARD_COPY_DONE (R405). -/
def execReshardCopyDone (buf : Nat) (s : State) : Host.Outcome State Fault Refusal :=
  effect s (fun s => onHub s (fun s => opCopyDone s buf))

/-- TOR_COORD_WRITE (R389). -/
def execTorCoordWrite (fn : Nat) (val : W64) (s : State) : Host.Outcome State Fault Refusal :=
  effect s (fun s => hostWrite s fn pgTor 0x100 val.toNat)

/-- TOR_JBOX_WRITE (R391). -/
def execTorJboxWrite (fn j : Nat) (val : W64) (s : State) : Host.Outcome State Fault Refusal :=
  effect s (fun s => hostWrite s fn pgTor (0x110 + 8 * j) val.toNat)

/-- TOR_ABSENT_WRITE (R397). -/
def execTorAbsentWrite (fn k : Nat) (val : W64) (s : State) : Host.Outcome State Fault Refusal :=
  effect s (fun s => hostWrite s fn pgTor (0x198 + 8 * k) val.toNat)

end Sys2Proof.Machine
end

