-- ==== Sys2Proof/Machine/ChipCmds.lean ====
section
/-! DEFINITION. Jobs, power and clocks: one meaning per command. -/
namespace Sys2Proof.Machine

/-- JOB_PREEMPT (R422). -/
def execJobPreempt (f : Nat) (s : State) : Host.Outcome State Fault Refusal :=
  effect s (fun s => onHub s (fun s => opPreempt s f))

/-- JOB_RESUME (R425). -/
def execJobResume (f : Nat) (s : State) : Host.Outcome State Fault Refusal :=
  effect s (fun s => onHub s (fun s => opResumeJob s f))

/-- RGN_TASK (R419). -/
def execRgnTask (region : Nat) (s : State) : Host.Outcome State Fault Refusal :=
  effect s (fun s => onRegion s region (fun s => opRgnTask s region))

/-- RGN_TASK_DISPATCH (R420). -/
def execRgnTaskDispatch (region id : Nat) (s : State) : Host.Outcome State Fault Refusal :=
  effect s (fun s => onRegion s region (fun s => opRgnDispatch s region id))

/-- JOB_ENABLE (R415). -/
def execJobEnable (fn f : Nat) (val : W64) (s : State) : Host.Outcome State Fault Refusal :=
  effect s (fun s => hostWrite s fn (pgJob f) 0x140 val.toNat)

/-- JOB_CORES_WRITE (R412). -/
def execJobCoresWrite (fn f n : Nat) (val : W64) (s : State) : Host.Outcome State Fault Refusal :=
  effect s (fun s => hostWrite s fn (pgJob f) (0x200 + 8 * n) val.toNat)

/-- JOB_REGIONS_WRITE (R412). -/
def execJobRegionsWrite (fn f : Nat) (val : W64) (s : State) : Host.Outcome State Fault Refusal :=
  effect s (fun s => hostWrite s fn (pgJob f) 0x148 val.toNat)

/-- JOB_MEM_WRITE (R412). -/
def execJobMemWrite (fn f n : Nat) (val : W64) (s : State) : Host.Outcome State Fault Refusal :=
  effect s (fun s => hostWrite s fn (pgJob f) (0x300 + 8 * n) val.toNat)

/-- JOB_SLOW_WRITE (R412). -/
def execJobSlowWrite (fn f : Nat) (val : W64) (s : State) : Host.Outcome State Fault Refusal :=
  effect s (fun s => hostWrite s fn (pgJob f) 0x158 val.toNat)

/-- ALLOCATION_ZEROED (R413). -/
def execAllocationZeroed (z : Freed) (s : State) : Host.Outcome State Fault Refusal :=
  effect s (fun s => live s (fun s => opZeroed s z))

/-- PLEVEL_REQUEST (R429). -/
def execPlevelRequest (fn level : Nat) (s : State) : Host.Outcome State Fault Refusal :=
  effect s (fun s => hostWrite s fn pgPwr 0x108 level)

/-- POWER_AVERAGE_SAMPLE (R430). -/
def execPowerAverageSample (watts : Nat) (s : State) : Host.Outcome State Fault Refusal :=
  effect s (fun s => live s (fun s => opPowerSample s watts))

/-- LEVEL_STEP_DONE (R431). -/
def execLevelStepDone (s : State) : Host.Outcome State Fault Refusal :=
  effect s (fun s => live s (fun s => opLevelStep s))

/-- THERMAL_SAMPLE (R432). -/
def execThermalSample (tj : Nat) (s : State) : Host.Outcome State Fault Refusal :=
  effect s (fun s => live s (fun s => opThermalSample s tj))

/-- THERMAL_TRIP (R433). -/
def execThermalTrip (tj : Nat) (s : State) : Host.Outcome State Fault Refusal :=
  effect s (fun s => if s.pstate = 3 then tripMeets s tj else live s (fun s => opThermalTrip s tj))

/-- REQUEST_S0: PWR_STATE.REQ is written 0, AUTO_EXIT as it reads (R435). -/
def execRequestS0 (fn : Nat) (s : State) : Host.Outcome State Fault Refusal :=
  effect s (fun s => hostWrite s fn pgPwr 0x118 (0 + (reg s pgPwr 0x118 &&& 0x20)))

/-- REQUEST_S1: PWR_STATE.REQ is written 1, AUTO_EXIT as it reads (R435). -/
def execRequestS1 (fn : Nat) (s : State) : Host.Outcome State Fault Refusal :=
  effect s (fun s => hostWrite s fn pgPwr 0x118 (1 + (reg s pgPwr 0x118 &&& 0x20)))

/-- REQUEST_S2: PWR_STATE.REQ is written 2, AUTO_EXIT as it reads (R437). -/
def execRequestS2 (fn : Nat) (s : State) : Host.Outcome State Fault Refusal :=
  effect s (fun s => hostWrite s fn pgPwr 0x118 (2 + (reg s pgPwr 0x118 &&& 0x20)))

/-- REQUEST_S3: PWR_STATE.REQ is written 3, AUTO_EXIT as it reads (R440). -/
def execRequestS3 (fn : Nat) (s : State) : Host.Outcome State Fault Refusal :=
  effect s (fun s => hostWrite s fn pgPwr 0x118 (3 + (reg s pgPwr 0x118 &&& 0x20)))

/-- WAKE_MATCH (R441). -/
def execWakeMatch (addr : Nat) (write : Bool) (u : StartUp) (s : State) : Host.Outcome State Fault Refusal :=
  effect s (fun s => opWake s addr write u)

/-- LOW_POWER_BROWNOUT (R442). -/
def execLowPowerBrownout (s : State) : Host.Outcome State Fault Refusal :=
  effect s (fun s => opLowPower s)

/-- VIN_CORE_SAMPLE (R443). -/
def execVinCoreSample (mv : Nat) (s : State) : Host.Outcome State Fault Refusal :=
  effect s (fun s => live s (fun s => opVinSample s mv))

/-- SHED_UNDO (R444). -/
def execShedUndo (s : State) : Host.Outcome State Fault Refusal :=
  effect s (fun s => live s (fun s => opShedUndo s))

/-- REFCLK_LOSS (R448). -/
def execRefclkLoss (s : State) : Host.Outcome State Fault Refusal :=
  effect s (fun s => live s (fun s => opRefclkLoss s))

/-- REFCLK_LOCK (R448). -/
def execRefclkLock (s : State) : Host.Outcome State Fault Refusal :=
  effect s (fun s => live s (fun s => opRefclkLock s))

/-- VIN_IO_UNDERVOLTAGE (R530). -/
def execVinIoUndervoltage (s : State) : Host.Outcome State Fault Refusal :=
  effect s opVinIo

end Sys2Proof.Machine
end

