-- ==== Sys2Proof/Machine/ServiceCmds.lean ====
section
/-! DEFINITION. Resets, sideband, boot, attestation, counters and trace: one meaning per command. -/
namespace Sys2Proof.Machine

/-- COLD_RESET (R453). -/
def execColdReset (u : StartUp) (s : State) : Host.Outcome State Fault Refusal :=
  effect s (fun s => opColdReset s u)

/-- WARM is set in RST_CTRL by function 0 (R449), with what the start-up finds; otherwise the write is a violation. -/
def execWarm (fn : Nat) (u : StartUp) (s : State) : Host.Outcome State Fault Refusal :=
  effect s (fun s =>
    if s.cxlUp && decide (fn < 16) && (broken s fn 0 (pgRst * 4096 + 0x100) 8 true).isNone && pageServed s pgRst then
      askWarm s 1 false u
    else hostWrite s fn pgRst 0x100 1)

/-- CXL_RESET_N (R520); ignored in S2 and S3. -/
def execCxlResetN (lowNs : Nat) (u : StartUp) (s : State) : Host.Outcome State Fault Refusal :=
  effect s (fun s => live s (fun s => opCxlReset s lowNs u))

/-- FUNCTION_LEVEL_RESET over CXL (R450). -/
def execFunctionLevelReset (f : Nat) (s : State) : Host.Outcome State Fault Refusal :=
  effect s (fun s => if s.cxlUp then opFlr s f else s)

/-- FLR_WIPE_DONE (R452). -/
def execFlrWipeDone (f : Nat) (s : State) : Host.Outcome State Fault Refusal :=
  effect s (fun s => live s (fun s => opFlrDone s f))

/-- LINK is set in RST_CTRL (R449). -/
def execLinkReset (fn dir : Nat) (s : State) : Host.Outcome State Fault Refusal :=
  effect s (fun s => hostWrite s fn pgRst 0x100 (2 ^ (8 + dir)))

/-- FABRIC_OPEN is set in RST_CTRL (R454). -/
def execFabricOpen (fn : Nat) (s : State) : Host.Outcome State Fault Refusal :=
  effect s (fun s => hostWrite s fn pgRst 0x100 2)

/-- BRIDGE_UNIT_CRC_FAIL (R465). -/
def execBridgeUnitCrcFail (bridge : Nat) (bundle : BundleLane) (s : State) : Host.Outcome State Fault Refusal :=
  effect s (fun s => live s (fun s => opUnitCrc s bridge bundle.bundle bundle.lane))

/-- BRIDGE_LANE_FAIL (R465). -/
def execBridgeLaneFail (bridge bundle lane : Nat) (s : State) : Host.Outcome State Fault Refusal :=
  effect s (fun s => live s (fun s => opLaneFail s bridge bundle lane))

/-- READ_REG (R477). -/
def execReadReg (args : List Byte) (s : State) : Host.Outcome State Fault Refusal :=
  effect s (fun s => opReadReg s args)

/-- READ_LOG (R477). -/
def execReadLog (args : List Byte) (s : State) : Host.Outcome State Fault Refusal :=
  effect s (fun s => opReadLog s args)

/-- WARM_RESET (R477). -/
def execWarmReset (u : StartUp) (s : State) : Host.Outcome State Fault Refusal :=
  effect s (fun s => opWarmSide s u)

/-- RESET_WAIT_EXPIRY (R478). -/
def execResetWaitExpiry (u : StartUp) (s : State) : Host.Outcome State Fault Refusal :=
  effect s (fun s => live s (fun s => opResetWait s u))

/-- POWER_OFF (R477). -/
def execPowerOff (s : State) : Host.Outcome State Fault Refusal :=
  effect s (fun s => opPowerOff s)

/-- TRACE_FREEZE (R512). -/
def execTraceFreeze (s : State) : Host.Outcome State Fault Refusal :=
  effect s (fun s => opTraceFreeze s)

/-- TRACE_DUMP (R513). -/
def execTraceDump (args : List Byte) (s : State) : Host.Outcome State Fault Refusal :=
  effect s (fun s => opTraceDump s args)

/-- TRACE_RELEASE (R512). -/
def execTraceRelease (u : StartUp) (s : State) : Host.Outcome State Fault Refusal :=
  effect s (fun s => opTraceRelease s u)

/-- SIDEBAND_BAD_OP (R477). -/
def execSidebandBadOp (op : Nat) (args : List Byte) (s : State) : Host.Outcome State Fault Refusal :=
  effect s (fun s => opSideBad s op args)

/-- RCV_WRITE (R496). -/
def execRcvWrite (args : List Byte) (s : State) : Host.Outcome State Fault Refusal :=
  effect s (fun s => sideband s (fun s => opRcvWrite s args))

/-- RCV_ACTIVATE (R496). -/
def execRcvActivate (s : State) : Host.Outcome State Fault Refusal :=
  effect s (fun s => sideband s (fun s => opRcvActivate s))

/-- Transfer FW (R496). -/
def execTransferFw (off : Nat) (data : List Byte) (s : State) : Host.Outcome State Fault Refusal :=
  effect s (fun s => served s (fun s => opTransferFw s off data))

/-- Activate FW (R496). -/
def execActivateFw (s : State) : Host.Outcome State Fault Refusal :=
  effect s (fun s => served s (fun s => opActivateFw s))

/-- Get FW Info (R496). -/
def execGetFwInfo (s : State) : Host.Outcome State Fault Refusal :=
  effect s (fun s => served s (fun s => opGetFwInfo s))

/-- RECOVERY_OWNER_TIMEOUT (R496). -/
def execRecoveryOwnerTimeout (s : State) : Host.Outcome State Fault Refusal :=
  effect s (fun s => live s (fun s => opOwnerTimeout s))

/-- GET_VERSION (R490). -/
def execGetVersion (s : State) : Host.Outcome State Fault Refusal :=
  effect s (fun s => served s (fun s => opGetVersion s))

/-- GET_CAPABILITIES (R490). -/
def execGetCapabilities (s : State) : Host.Outcome State Fault Refusal :=
  effect s (fun s => served s (fun s => opGetCapabilities s))

/-- NEGOTIATE_ALGORITHMS (R490). -/
def execNegotiateAlgorithms (s : State) : Host.Outcome State Fault Refusal :=
  effect s (fun s => served s (fun s => opNegotiate s))

/-- GET_DIGESTS (R490). -/
def execGetDigests (s : State) : Host.Outcome State Fault Refusal :=
  effect s (fun s => served s (fun s => opGetDigests s))

/-- GET_CERTIFICATE (R490). -/
def execGetCertificate (slot off len : Nat) (s : State) : Host.Outcome State Fault Refusal :=
  effect s (fun s => served s (fun s => opGetCertificate s slot off len))

/-- CHALLENGE (R490). -/
def execChallenge (slot : Nat) (nonce : List Byte) (s : State) : Host.Outcome State Fault Refusal :=
  effect s (fun s => served s (fun s => opChallenge s slot nonce))

/-- GET_MEASUREMENTS (R490). -/
def execGetMeasurements (index : Nat) (nonce : List Byte) (s : State) : Host.Outcome State Fault Refusal :=
  effect s (fun s => served s (fun s => opGetMeasurements s index nonce))

/-- GO is set in LCS_REQ_CTRL by function 0 (R493), or a request that GO began is carried out; otherwise the write is
a violation. -/
def execLifecycleRequest (fn : Nat) (request : List Byte) (u : StartUp) (s : State) : Host.Outcome State Fault Refusal :=
  effect s (fun s =>
    if s.cxlUp && decide (fn < 16) && (broken s fn 0 (pgLcs * 4096 + 0x130) 8 true).isNone then
      opLifecycle s request u
    else hostWrite s fn pgLcs 0x130 (reg s pgLcs 0x130 ||| 0x10000))

/-- SVN_COMMIT is set in SEC_CTRL (R498). -/
def execSvnCommit (fn : Nat) (s : State) : Host.Outcome State Fault Refusal :=
  effect s (fun s => hostWrite s fn pgSec 0x110 1)

/-- REVOKE bits are set in SEC_CTRL (R498). -/
def execRevoke (fn bits : Nat) (s : State) : Host.Outcome State Fault Refusal :=
  effect s (fun s => hostWrite s fn pgSec 0x110 (2 * (bits % 8)))

/-- CNT_CLEAR of one counter (R504). -/
def execCntClear (fn page index : Nat) (s : State) : Host.Outcome State Fault Refusal :=
  effect s (fun s => hostWrite s fn pgCnt 0x100 (page % 2 ^ 15 + 2 ^ 16 * (index % 65536)))

/-- CNT_CLEAR of a page (R504). -/
def execCntClearAll (fn page : Nat) (s : State) : Host.Outcome State Fault Refusal :=
  effect s (fun s => hostWrite s fn pgCnt 0x100 (page % 2 ^ 15 + 2 ^ 32))

/-- FREEZE is set in CNT_TRACE_CTRL (R512). -/
def execFreeze (fn : Nat) (s : State) : Host.Outcome State Fault Refusal :=
  effect s (fun s => hostWrite s fn pgCnt 0x108 (reg s pgCnt 0x108 ||| 2))

/-- RELEASE is set in CNT_TRACE_CTRL (R512). -/
def execRelease (fn : Nat) (s : State) : Host.Outcome State Fault Refusal :=
  effect s (fun s => hostWrite s fn pgCnt 0x108 (reg s pgCnt 0x108 ||| 4))

/-- TRACE_DRAIN (R508). -/
def execTraceDrain (cluster : Nat) (s : State) : Host.Outcome State Fault Refusal :=
  effect s (fun s => onHub s (fun s => opTraceDrain s cluster))

/-- CXL_LINK_DOWN (R474). -/
def execCxlLinkDown (s : State) : Host.Outcome State Fault Refusal :=
  effect s (fun s => live s (fun s => opCxlDown s))

/-- CXL_LINK_UP (R326). -/
def execCxlLinkUp (s : State) : Host.Outcome State Fault Refusal :=
  effect s (fun s => live s (fun s => opCxlUp s))

/-- CXL_PORT_RELEASE (R520). -/
def execCxlPortRelease (s : State) : Host.Outcome State Fault Refusal :=
  effect s (fun s => live s (fun s => opPortRelease s))

/-- THAW_ZEROING_DONE (R438). -/
def execThawZeroingDone (p : ThawPart) (s : State) : Host.Outcome State Fault Refusal :=
  effect s (fun s => live s (fun s => opThawDone s p))

/-- VAON_LOSS (R529). -/
def execVaonLoss (s : State) : Host.Outcome State Fault Refusal :=
  effect s (fun s => opVaonLoss s)

/-- JTAG_INSTRUCTION (R523). -/
def execJtagInstruction (instr : Nat) (s : State) : Host.Outcome State Fault Refusal :=
  effect s (fun s => live s (fun s => opJtag s instr))

end Sys2Proof.Machine
end

