-- ==== Sys2Proof/Machine/Dispatch.lean ====
section
/-! DEFINITION. The dispatch of a command to its meaning, one arm per row of spec/opcode_table.json. -/
namespace Sys2Proof.Machine

def exec (i : Instr) (s : State) : Host.Outcome State Fault Refusal :=
  match i with
  | .registerWrite fn bar off len val => Sys2Proof.Machine.execRegisterWrite fn bar off len val s
  | .errStatusClear fn page ones => Sys2Proof.Machine.execErrStatusClear fn page ones s
  | .jobQueueRangeWrite fn f val => Sys2Proof.Machine.execJobQueueRangeWrite fn f val s
  | .jobEvtHeadWrite fn f val => Sys2Proof.Machine.execJobEvtHeadWrite fn f val s
  | .queueEnable fn q => Sys2Proof.Machine.execQueueEnable fn q s
  | .queueDisable fn q => Sys2Proof.Machine.execQueueDisable fn q s
  | .qreset fn q => Sys2Proof.Machine.execQreset fn q s
  | .queueDrainDone q => Sys2Proof.Machine.execQueueDrainDone q s
  | .doorbellSqTail fn slot val => Sys2Proof.Machine.execDoorbellSqTail fn slot val s
  | .doorbellCqHead fn slot val => Sys2Proof.Machine.execDoorbellCqHead fn slot val s
  | .commandDispatch q bytes => Sys2Proof.Machine.execCommandDispatch q bytes s
  | .ringAccessFailed q => Sys2Proof.Machine.execRingAccessFailed q s
  | .coalTimeExpiry q => Sys2Proof.Machine.execCoalTimeExpiry q s
  | .engineCommandStart eng => Sys2Proof.Machine.execEngineCommandStart eng s
  | .engineCommandComplete eng id => Sys2Proof.Machine.execEngineCommandComplete eng id s
  | .loadImem core hostData => Sys2Proof.Machine.execLoadImem core hostData s
  | .startContext core => Sys2Proof.Machine.execStartContext core s
  | .stopContext core => Sys2Proof.Machine.execStopContext core s
  | .syncSet core => Sys2Proof.Machine.execSyncSet core s
  | .tileMove core => Sys2Proof.Machine.execTileMove core s
  | .halt core ctx => Sys2Proof.Machine.execHalt core ctx s
  | .nop core ctx => Sys2Proof.Machine.execNop core ctx s
  | .readtime core ctx rd => Sys2Proof.Machine.execReadtime core ctx rd s
  | .readctx core ctx rd => Sys2Proof.Machine.execReadctx core ctx rd s
  | .integerRForm core ctx op rd ra rb => Sys2Proof.Machine.execIntegerRForm core ctx op rd ra rb s
  | .integerIForm core ctx op rd ra imm => Sys2Proof.Machine.execIntegerIForm core ctx op rd ra imm s
  | .scratchLoad core ctx log2 rd ra imm => Sys2Proof.Machine.execScratchLoad core ctx log2 rd ra imm s
  | .scratchStore core ctx log2 rs ra imm => Sys2Proof.Machine.execScratchStore core ctx log2 rs ra imm s
  | .atomicLoad core ctx wide rd ra => Sys2Proof.Machine.execAtomicLoad core ctx wide rd ra s
  | .atomicStore core ctx wide ra rb => Sys2Proof.Machine.execAtomicStore core ctx wide ra rb s
  | .addI core ctx wide rd ra rb => Sys2Proof.Machine.execAddI core ctx wide rd ra rb s
  | .addF32 core ctx rd ra rb => Sys2Proof.Machine.execAddF32 core ctx rd ra rb s
  | .atomicMin core ctx k rd ra rb => Sys2Proof.Machine.execAtomicMin core ctx k rd ra rb s
  | .atomicMax core ctx k rd ra rb => Sys2Proof.Machine.execAtomicMax core ctx k rd ra rb s
  | .cas core ctx wide rd ra rb => Sys2Proof.Machine.execCas core ctx wide rd ra rb s
  | .branch core ctx c ra rb off => Sys2Proof.Machine.execBranch core ctx c ra rb off s
  | .jump core ctx off => Sys2Proof.Machine.execJump core ctx off s
  | .branchAndLink core ctx off => Sys2Proof.Machine.execBranchAndLink core ctx off s
  | .jumpRegister core ctx ra => Sys2Proof.Machine.execJumpRegister core ctx ra s
  | .issue core ctx engine op ra => Sys2Proof.Machine.execIssue core ctx engine op ra s
  | .issueStallRelease core ctx => Sys2Proof.Machine.execIssueStallRelease core ctx s
  | .syncwait core ctx ra imm => Sys2Proof.Machine.execSyncwait core ctx ra imm s
  | .syncwaitRelease core ctx => Sys2Proof.Machine.execSyncwaitRelease core ctx s
  | .syncpost core ctx ra imm => Sys2Proof.Machine.execSyncpost core ctx ra imm s
  | .reservedOpcode core ctx => Sys2Proof.Machine.execReservedOpcode core ctx s
  | .scratchScrub core addr o => Sys2Proof.Machine.execScratchScrub core addr o s
  | .mxaMatmul core faults => Sys2Proof.Machine.execMxaMatmul core faults s
  | .mxaPass core faults => Sys2Proof.Machine.execMxaPass core faults s
  | .mxaDrain core => Sys2Proof.Machine.execMxaDrain core s
  | .mxaRelease core => Sys2Proof.Machine.execMxaRelease core s
  | .spillContributionResume eng id => Sys2Proof.Machine.execSpillContributionResume eng id s
  | .finishedTileRoom core => Sys2Proof.Machine.execFinishedTileRoom core s
  | .mxaInject fn core count => Sys2Proof.Machine.execMxaInject fn core count s
  | .gmvMatvec region => Sys2Proof.Machine.execGmvMatvec region s
  | .venMap core => Sys2Proof.Machine.execVenMap core s
  | .venReduce core => Sys2Proof.Machine.execVenReduce core s
  | .venShuffle core => Sys2Proof.Machine.execVenShuffle core s
  | .venHistFlush core => Sys2Proof.Machine.execVenHistFlush core s
  | .venRelease core => Sys2Proof.Machine.execVenRelease core s
  | .atnScores core => Sys2Proof.Machine.execAtnScores core s
  | .atnAccum core => Sys2Proof.Machine.execAtnAccum core s
  | .atnFinish core => Sys2Proof.Machine.execAtnFinish core s
  | .atnKvLoad core => Sys2Proof.Machine.execAtnKvLoad core s
  | .atnKvFlush core => Sys2Proof.Machine.execAtnKvFlush core s
  | .chnSend core => Sys2Proof.Machine.execChnSend core s
  | .chnRelease core => Sys2Proof.Machine.execChnRelease core s
  | .channelMessageArrival core ch => Sys2Proof.Machine.execChannelMessageArrival core ch s
  | .channelSendAck core ch => Sys2Proof.Machine.execChannelSendAck core ch s
  | .channelCreditReturn core ch => Sys2Proof.Machine.execChannelCreditReturn core ch s
  | .sendTimeout core id => Sys2Proof.Machine.execSendTimeout core id s
  | .chnOutCfgWrite fn core ch val => Sys2Proof.Machine.execChnOutCfgWrite fn core ch val s
  | .chnInCfgWrite fn core ch reel val => Sys2Proof.Machine.execChnInCfgWrite fn core ch reel val s
  | .pseStep region => Sys2Proof.Machine.execPseStep region s
  | .pseStepAdmit region => Sys2Proof.Machine.execPseStepAdmit region s
  | .pseDone region => Sys2Proof.Machine.execPseDone region s
  | .pseDrain region => Sys2Proof.Machine.execPseDrain region s
  | .pseResume region => Sys2Proof.Machine.execPseResume region s
  | .pseAbort region => Sys2Proof.Machine.execPseAbort region s
  | .pseVersionOpen region => Sys2Proof.Machine.execPseVersionOpen region s
  | .pseVersionPublish region => Sys2Proof.Machine.execPseVersionPublish region s
  | .pseVersionExtend region => Sys2Proof.Machine.execPseVersionExtend region s
  | .psePhaseDispatch region => Sys2Proof.Machine.execPsePhaseDispatch region s
  | .pseTransferArrival region backward mb vs bytes data => Sys2Proof.Machine.execPseTransferArrival region backward mb vs bytes data s
  | .pseArrivalReport region backward mb vs => Sys2Proof.Machine.execPseArrivalReport region backward mb vs s
  | .pseCreditReturn region count => Sys2Proof.Machine.execPseCreditReturn region count s
  | .pseTransferFailed region down linkLost addr => Sys2Proof.Machine.execPseTransferFailed region down linkLost addr s
  | .pseStageCfgWrite fn region val => Sys2Proof.Machine.execPseStageCfgWrite fn region val s
  | .updRun region => Sys2Proof.Machine.execUpdRun region s
  | .updRunInit region => Sys2Proof.Machine.execUpdRunInit region s
  | .landingComplete region group => Sys2Proof.Machine.execLandingComplete region group s
  | .upsNoticeStart => Sys2Proof.Machine.execUpsNoticeStart s
  | .upsNoticeDone => Sys2Proof.Machine.execUpsNoticeDone s
  | .upfPublish region => Sys2Proof.Machine.execUpfPublish region s
  | .digestReport region d step groups => Sys2Proof.Machine.execDigestReport region d step groups s
  | .comparerWaitExpiry region => Sys2Proof.Machine.execComparerWaitExpiry region s
  | .comparisonReport region step r => Sys2Proof.Machine.execComparisonReport region step r s
  | .replicaRepaired region group majority data => Sys2Proof.Machine.execReplicaRepaired region group majority data s
  | .digestLate region => Sys2Proof.Machine.execDigestLate region s
  | .gxeBucketReady id => Sys2Proof.Machine.execGxeBucketReady id s
  | .gxeAbort => Sys2Proof.Machine.execGxeAbort s
  | .contrib p => Sys2Proof.Machine.execContrib p s
  | .hist p => Sys2Proof.Machine.execHist p s
  | .grantReq p => Sys2Proof.Machine.execGrantReq p s
  | .grant p => Sys2Proof.Machine.execGrant p s
  | .close p => Sys2Proof.Machine.execClose p s
  | .result p => Sys2Proof.Machine.execResult p s
  | .chunkResendRequest job bucket shard step chunk dst => Sys2Proof.Machine.execChunkResendRequest job bucket shard step chunk dst s
  | .stragglerWindowExpiry job bucket shard => Sys2Proof.Machine.execStragglerWindowExpiry job bucket shard s
  | .drzGather region => Sys2Proof.Machine.execDrzGather region s
  | .drzScatter region => Sys2Proof.Machine.execDrzScatter region s
  | .cxlMemRead off len => Sys2Proof.Machine.execCxlMemRead off len s
  | .cxlMemWrite off data poison => Sys2Proof.Machine.execCxlMemWrite off data poison s
  | .cxlMemBaseWrite fn val => Sys2Proof.Machine.execCxlMemBaseWrite fn val s
  | .memIlvWrite fn region ch val => Sys2Proof.Machine.execMemIlvWrite fn region ch val s
  | .fence fn region ch => Sys2Proof.Machine.execFence fn region ch s
  | .stackScrub addr o => Sys2Proof.Machine.execStackScrub addr o s
  | .stackHot stack => Sys2Proof.Machine.execStackHot stack s
  | .cluWindowWrite fn cluster w val => Sys2Proof.Machine.execCluWindowWrite fn cluster w val s
  | .retrain fn port => Sys2Proof.Machine.execRetrain fn port s
  | .tierTraining fn port => Sys2Proof.Machine.execTierTraining fn port s
  | .gdrTrainingDone port ok us => Sys2Proof.Machine.execGdrTrainingDone port ok us s
  | .wckTracking port => Sys2Proof.Machine.execWckTracking port s
  | .gdrCrcError port e => Sys2Proof.Machine.execGdrCrcError port e s
  | .tgcStart fn region ch => Sys2Proof.Machine.execTgcStart fn region ch s
  | .tgcStop fn region ch => Sys2Proof.Machine.execTgcStop fn region ch s
  | .tgcRunDone region ch fails minNs maxNs => Sys2Proof.Machine.execTgcRunDone region ch fails minNs maxNs s
  | .dataFrameSend dir => Sys2Proof.Machine.execDataFrameSend dir s
  | .dataFrameReceive dir ws => Sys2Proof.Machine.execDataFrameReceive dir ws s
  | .idleFrameReceive dir ws => Sys2Proof.Machine.execIdleFrameReceive dir ws s
  | .hello dir epoch coord fresh => Sys2Proof.Machine.execHello dir epoch coord fresh s
  | .resync dir epoch partnerEpoch rxExpected credits => Sys2Proof.Machine.execResync dir epoch partnerEpoch rxExpected credits s
  | .laneMap dir way active width => Sys2Proof.Machine.execLaneMap dir way active width s
  | .down dir cause => Sys2Proof.Machine.execDown dir cause s
  | .linkFrameRepeat dir => Sys2Proof.Machine.execLinkFrameRepeat dir s
  | .replayTimeout dir => Sys2Proof.Machine.execReplayTimeout dir s
  | .nakRequeue dir seq => Sys2Proof.Machine.execNakRequeue dir seq s
  | .squall dir way lane => Sys2Proof.Machine.execSquall dir way lane s
  | .spareLaneTest dir way lane squalls => Sys2Proof.Machine.execSpareLaneTest dir way lane squalls s
  | .lossOfLight dir => Sys2Proof.Machine.execLossOfLight dir s
  | .noValidFrame dir => Sys2Proof.Machine.execNoValidFrame dir s
  | .retrainOverrun dir => Sys2Proof.Machine.execRetrainOverrun dir s
  | .laneMapTimeout dir => Sys2Proof.Machine.execLaneMapTimeout dir s
  | .linkLost dir => Sys2Proof.Machine.execLinkLost dir s
  | .trainingDone dir ok rxBad txBad => Sys2Proof.Machine.execTrainingDone dir ok rxBad txBad s
  | .bringupRetry dir => Sys2Proof.Machine.execBringupRetry dir s
  | .lnkEnable fn dir => Sys2Proof.Machine.execLnkEnable fn dir s
  | .lnkRetrain fn dir => Sys2Proof.Machine.execLnkRetrain fn dir s
  | .forceDown fn dir => Sys2Proof.Machine.execForceDown fn dir s
  | .laserLoss oe fibre => Sys2Proof.Machine.execLaserLoss oe fibre s
  | .torPut id => Sys2Proof.Machine.execTorPut id s
  | .putRequestArrival r => Sys2Proof.Machine.execPutRequestArrival r s
  | .putReply id status => Sys2Proof.Machine.execPutReply id status s
  | .putTimeout id => Sys2Proof.Machine.execPutTimeout id s
  | .torReshard => Sys2Proof.Machine.execTorReshard s
  | .reshardCopyDone buf => Sys2Proof.Machine.execReshardCopyDone buf s
  | .torCoordWrite fn val => Sys2Proof.Machine.execTorCoordWrite fn val s
  | .torJboxWrite fn j val => Sys2Proof.Machine.execTorJboxWrite fn j val s
  | .torAbsentWrite fn k val => Sys2Proof.Machine.execTorAbsentWrite fn k val s
  | .jobPreempt f => Sys2Proof.Machine.execJobPreempt f s
  | .jobResume f => Sys2Proof.Machine.execJobResume f s
  | .rgnTask region => Sys2Proof.Machine.execRgnTask region s
  | .rgnTaskDispatch region id => Sys2Proof.Machine.execRgnTaskDispatch region id s
  | .jobEnable fn f val => Sys2Proof.Machine.execJobEnable fn f val s
  | .jobCoresWrite fn f n val => Sys2Proof.Machine.execJobCoresWrite fn f n val s
  | .jobRegionsWrite fn f val => Sys2Proof.Machine.execJobRegionsWrite fn f val s
  | .jobMemWrite fn f n val => Sys2Proof.Machine.execJobMemWrite fn f n val s
  | .jobSlowWrite fn f val => Sys2Proof.Machine.execJobSlowWrite fn f val s
  | .allocationZeroed z => Sys2Proof.Machine.execAllocationZeroed z s
  | .plevelRequest fn level => Sys2Proof.Machine.execPlevelRequest fn level s
  | .powerAverageSample watts => Sys2Proof.Machine.execPowerAverageSample watts s
  | .levelStepDone => Sys2Proof.Machine.execLevelStepDone s
  | .thermalSample tj => Sys2Proof.Machine.execThermalSample tj s
  | .thermalTrip tj => Sys2Proof.Machine.execThermalTrip tj s
  | .requestS0 fn => Sys2Proof.Machine.execRequestS0 fn s
  | .requestS1 fn => Sys2Proof.Machine.execRequestS1 fn s
  | .requestS2 fn => Sys2Proof.Machine.execRequestS2 fn s
  | .requestS3 fn => Sys2Proof.Machine.execRequestS3 fn s
  | .wakeMatch addr write u => Sys2Proof.Machine.execWakeMatch addr write u s
  | .lowPowerBrownout => Sys2Proof.Machine.execLowPowerBrownout s
  | .vinCoreSample mv => Sys2Proof.Machine.execVinCoreSample mv s
  | .shedUndo => Sys2Proof.Machine.execShedUndo s
  | .refclkLoss => Sys2Proof.Machine.execRefclkLoss s
  | .refclkLock => Sys2Proof.Machine.execRefclkLock s
  | .vinIoUndervoltage => Sys2Proof.Machine.execVinIoUndervoltage s
  | .coldReset u => Sys2Proof.Machine.execColdReset u s
  | .warm fn u => Sys2Proof.Machine.execWarm fn u s
  | .cxlResetN lowNs u => Sys2Proof.Machine.execCxlResetN lowNs u s
  | .functionLevelReset f => Sys2Proof.Machine.execFunctionLevelReset f s
  | .flrWipeDone f => Sys2Proof.Machine.execFlrWipeDone f s
  | .linkReset fn dir => Sys2Proof.Machine.execLinkReset fn dir s
  | .fabricOpen fn => Sys2Proof.Machine.execFabricOpen fn s
  | .bridgeUnitCrcFail bridge bundle => Sys2Proof.Machine.execBridgeUnitCrcFail bridge bundle s
  | .bridgeLaneFail bridge bundle lane => Sys2Proof.Machine.execBridgeLaneFail bridge bundle lane s
  | .readReg args => Sys2Proof.Machine.execReadReg args s
  | .readLog args => Sys2Proof.Machine.execReadLog args s
  | .warmReset u => Sys2Proof.Machine.execWarmReset u s
  | .resetWaitExpiry u => Sys2Proof.Machine.execResetWaitExpiry u s
  | .powerOff => Sys2Proof.Machine.execPowerOff s
  | .traceFreeze => Sys2Proof.Machine.execTraceFreeze s
  | .traceDump args => Sys2Proof.Machine.execTraceDump args s
  | .traceRelease u => Sys2Proof.Machine.execTraceRelease u s
  | .sidebandBadOp op args => Sys2Proof.Machine.execSidebandBadOp op args s
  | .rcvWrite args => Sys2Proof.Machine.execRcvWrite args s
  | .rcvActivate => Sys2Proof.Machine.execRcvActivate s
  | .transferFw off data => Sys2Proof.Machine.execTransferFw off data s
  | .activateFw => Sys2Proof.Machine.execActivateFw s
  | .getFwInfo => Sys2Proof.Machine.execGetFwInfo s
  | .recoveryOwnerTimeout => Sys2Proof.Machine.execRecoveryOwnerTimeout s
  | .getVersion => Sys2Proof.Machine.execGetVersion s
  | .getCapabilities => Sys2Proof.Machine.execGetCapabilities s
  | .negotiateAlgorithms => Sys2Proof.Machine.execNegotiateAlgorithms s
  | .getDigests => Sys2Proof.Machine.execGetDigests s
  | .getCertificate slot off len => Sys2Proof.Machine.execGetCertificate slot off len s
  | .challenge slot nonce => Sys2Proof.Machine.execChallenge slot nonce s
  | .getMeasurements index nonce => Sys2Proof.Machine.execGetMeasurements index nonce s
  | .lifecycleRequest fn request u => Sys2Proof.Machine.execLifecycleRequest fn request u s
  | .svnCommit fn => Sys2Proof.Machine.execSvnCommit fn s
  | .revoke fn bits => Sys2Proof.Machine.execRevoke fn bits s
  | .cntClear fn page index => Sys2Proof.Machine.execCntClear fn page index s
  | .cntClearAll fn page => Sys2Proof.Machine.execCntClearAll fn page s
  | .freeze fn => Sys2Proof.Machine.execFreeze fn s
  | .release fn => Sys2Proof.Machine.execRelease fn s
  | .traceDrain cluster => Sys2Proof.Machine.execTraceDrain cluster s
  | .violatingRead fn bar off len => Sys2Proof.Machine.execViolatingRead fn bar off len s
  | .cxlLinkDown => Sys2Proof.Machine.execCxlLinkDown s
  | .cxlLinkUp => Sys2Proof.Machine.execCxlLinkUp s
  | .cxlPortRelease => Sys2Proof.Machine.execCxlPortRelease s
  | .stackHotEnd stack => Sys2Proof.Machine.execStackHotEnd stack s
  | .clusterCacheScrub cluster off o => Sys2Proof.Machine.execClusterCacheScrub cluster off o s
  | .thawZeroingDone p => Sys2Proof.Machine.execThawZeroingDone p s
  | .vaonLoss => Sys2Proof.Machine.execVaonLoss s
  | .jtagInstruction instr => Sys2Proof.Machine.execJtagInstruction instr s
  | .repairRequest region group => Sys2Proof.Machine.execRepairRequest region group s

end Sys2Proof.Machine
end

