-- ==== Sys2Proof/Machine/Tick.lean ====
section
/-! DEFINITION. What one nanosecond of HUB_TIME does when no command waits (R448, R501): HUB_TIME counts, and each
utilisation counter whose condition the state shows advances by the time that its instances add. -/
namespace Sys2Proof.Machine

/-- Started commands of an engine whose effect goes on. -/
def atWork (g : Engine) : List RCmd := g.running.filter (fun r => r.began && r.fin.isNone)

/-- A command of the engine's page has begun and its effect goes on. -/
def busyWith (g : Engine) (p : RCmd → Bool) : Nat := b2n ((atWork g).any p)

/-- A row block of the engine waits for room or for its turn. -/
def drains (g : Engine) : Nat := b2n ((g.running ++ g.aside).any (fun r => r.fin.isNone && !r.outs.isEmpty))

/-- A queued first command, ready but for its engine's buffers, sets or entries. -/
def headWaits (s : State) (g : Engine) (p : QCmd → Bool) : Nat :=
  b2n ((queueHeads g).any (fun c => syncOk s c && !canStart s c && p c))

/-- A finished-tile entry that the command reads or consumes is missing (R166). -/
def lacksEntry (s : State) (c : QCmd) : Bool :=
  match cmdBlk c, c.op with
  | some .atn, 1 => !entriesReady (jobEntries s c.core c.job) (scoresOf c).rows (scoresOf c).kcols
  | some .atn, 2 => !entriesReady (jobEntries s c.core c.job) (bf c 24 2) (bf c 26 2)
  | some .ven, _ =>
    decide (c.op ≤ 3) && (vSources c.op (venCmdOf c) ++ vDests c.op (venCmdOf c)).any (fun o => o.d.space == 2) &&
      (ftqOf s c.core c.job).isNone
  | _, _ => false

/-- Time of an engine's commands (Tables 3-9, 4-13, 4-14, 6-7, 6-8, 11-7, 14-2, R427). -/
def engTime (s : State) (e : Nat) (g : Engine) : List (Nat × Nat × Nat) :=
  let jobs := ((atWork g).filter (fun r => r.cmd.job != 0)).map (fun r => (pgJob r.cmd.job, 0, 1))
  let any := busyWith g (fun _ => true)
  jobs ++
    (match pageBlk (e / 2) with
    | some (.cor, k) => if e % 2 = 0 then [(pgCor k, 3, any)] else []
    | some (.mxa, k) =>
      [(pgCor k, 1, any), (pgMxa k, 0, busyWith g (fun r => r.cmd.op != 3 && r.outs.isEmpty)),
       (pgMxa k, 1, headWaits s g (fun c => !setFree s c)), (pgMxa k, 2, drains g)]
    | some (.ven, k) =>
      let atn (p : Nat → Bool) := busyWith g (fun r => r.cmd.page == pgAtn k && p r.cmd.op)
      [(pgCor k, 2, any), (pgVen k, 0, busyWith g (fun r => r.cmd.page == pgVen k)),
       (pgVen k, 1, headWaits s g (lacksEntry s)), (pgVen k, 2, headWaits s g (fun c => !lacksEntry s c)),
       (pgAtn k, 0, atn (fun o => o ≤ 3)), (pgAtn k, 1, atn (· == 4)), (pgAtn k, 2, atn (· == 5))]
    | some (.chn, k) => [(pgCor k, 4, any)]
    | some (.gmv, r) => [(pgGmv r, 0, any), (pgGmv r, 2, drains g)]
    | some (.drz, r) => [(pgDrz r, 0, any)]
    | some (.rgn, r) => [(pgRgn r, 1, busyWith g (fun t => t.prog == 1))]
    | some (.upf, r) => [(pgUpf r, 3, busyWith g (fun y => y.prog == 0 && decide (3 ≤ (upfOf s r).pubs.length)))]
    | _ => [])

/-- Time of a context that is not suspended: a control core that runs instructions, an ISSUE stalled on a full queue
(Table 3-9, R422). -/
def ctxTime (s : State) (k : Nat) (c : Ctx) : List (Nat × Nat × Nat) :=
  if suspended s (k / 4) (ctxJob s (k / 4) (k % 4)) then []
  else [(pgCor (k / 4), 0, b2n (c.st == 1)), (pgCor (k / 4), 6, b2n c.stall.isSome)]

/-- Each page and counter once, with the largest amount: a core is busy once, however many of its contexts are, and its
counter 6 advances once, however many of them are stalled; the spec does not say whether stalls add up. DESIGN CHOICE
(log 105). -/
def onceEach (l : List (Nat × Nat × Nat)) : List (Nat × Nat × Nat) :=
  l.foldl (fun a t => if t.2.2 = 0 ∨ a.any (fun u => u.1 == t.1 && u.2.1 == t.2.1) then a else a ++ [t]) []

/-- Time of a pipeline engine (Table 8-9): an F waits for its version where nothing else holds it. -/
def pseTime (s : State) (r : Nat) (p : Pse) : List (Nat × Nat × Nat) :=
  let waits := match p.cur with
    | none => false
    | some c =>
      match (pseOrder s r c.nmb).find? (undispatched p) with
      | some x => x.1 == 0 && phaseReady s r p x && openRoom s r p c.nmb x && !versionReady p
      | none => false
  [(pgPse r, 0, b2n (!p.inflight.isEmpty)), (pgPse r, 1, b2n (p.st == 1 && p.inflight.isEmpty)),
   (pgPse r, 2, b2n (!p.fwdWait.isEmpty)), (pgPse r, 3, b2n waits)]

/-- Time of an update engine (Table 9-12). -/
def upfTime (s : State) (r : Nat) (u : Upf) : List (Nat × Nat × Nat) :=
  match u.run with
  | none => []
  | some x =>
    let more := decide (x.done < x.descs.length)
    [(pgUpf r, 0, b2n (x.pass != 1)), (pgUpf r, 1, b2n (x.pass == 0)), (pgUpf r, 3, b2n (x.pass == 1)),
     (pgUpf r, 2, b2n (x.pass == 2 && (more || (!x.noticed && decide (64 ≤ s.notices.length)))))]

/-- Time of the slow-tier update engine (Table 9-13). -/
def upsTime (s : State) : List (Nat × Nat × Nat) :=
  let started := (s.notices.head?.map (·.started)).getD false
  [(pgUps, 0, b2n started), (pgUps, 1, b2n (!s.notices.isEmpty && !started && s.tierDown)),
   (pgUps, 2, b2n (decide (64 ≤ s.notices.length)))]

/-- Time of the exchange: an entry of the forecast is missing, or a store slot for a request (Table 10-7). -/
def gxeTime (s : State) : List (Nat × Nat × Nat) :=
  [(pgGxe, 2, b2n (s.gxes.any (fun e => !(fcstWait s e.1).isEmpty ||
    e.2.shards.any (fun x => x.slot == 0 && x.contribs.any (fun c => !c.granted)))))]

/-- A DATA frame waits for a credit of its pool, or for replay room (R368). -/
def frameWaits (s : State) (dir : Nat) (l : Lnk) : Bool :=
  !l.outQ.isEmpty && (!replayRoom l || l.outQ.any (fun f => creditsOf s dir (poolOf f) == 0))

/-- Time of a direction (Table 12-7). -/
def lnkTime (s : State) (dir : Nat) (l : Lnk) : List (Nat × Nat × Nat) :=
  [(pgLnk dir, 0, b2n (l.st == 2)), (pgLnk dir, 1, b2n (l.st == 3 || l.st == 4)), (pgLnk dir, 13, b2n (frameWaits s dir l))]

/-- Time of the power manager (Table 15-9): the granted level, and the caps below REQ. -/
def pwrTime (s : State) : List (Nat × Nat × Nat) :=
  let q := pwrReq s
  [(pgPwr, min 4 (pwrG s), 1), (pgPwr, 5, b2n (decide (q < powerCap s))),
   (pgPwr, 6, b2n (decide (q < thermalCap s) || decide (q < shedCapOf (shedRows s))))]

/-- What one nanosecond adds, by page and counter. -/
def timeOf (s : State) : List (Nat × Nat × Nat) :=
  s.engs.flatMap (fun e => engTime s e.1 e.2) ++ onceEach (s.ctxs.flatMap (fun e => ctxTime s e.1 e.2)) ++
    s.saves.map (fun e => (pgJob (e.1 / 2048), 1, 1)) ++ s.pses.flatMap (fun e => pseTime s e.1 e.2) ++
    s.upfs.flatMap (fun e => upfTime s e.1 e.2) ++ upsTime s ++
    s.digs.map (fun e => (pgDig e.1, 0, b2n (!e.2.firstAt.isEmpty))) ++ gxeTime s ++
    [(pgCxl, 0, b2n s.cxlUp), (pgTor, 5, b2n s.reshard.isSome)] ++
    s.lnks.flatMap (fun e => lnkTime s e.1 e.2) ++ pwrTime s ++
    (upTo 256).map (fun n => (pgTgc (n / 8) (n % 8), 0, b2n (regF s (pgTgc (n / 8) (n % 8)) 0x120 0 2 == 1)))

/-- Utilisation counters whose condition lies in the timing that the model leaves out (how long a bank, a channel, a port or
a requester is busy or waits), with the most that one nanosecond adds: bank conflicts of a core's six requesters (R80),
weights and sectors awaited by started commands, cluster-cache banks and serialised locations, channels and their refresh,
GDDR7 ports, the exchange's reduction and its wait for frames (Tables 3-9, 4-14, 10-7, 11-5, 11-7 to 11-9). -/
def unseenTime (s : State) : List (Nat × Nat × Nat) :=
  let busy := s.engs.filter (fun e => !(atWork e.2).isEmpty)
  if 2 ≤ s.pstate then []
  else
    busy.flatMap (fun e =>
      match pageBlk (e.1 / 2) with
      | some (.gmv, r) => [(pgGmv r, 1, 1)]
      | some (.drz, r) => [(pgDrz r, 1, 1)]
      | some (.cor, k) | some (.mxa, k) | some (.ven, k) | some (.chn, k) => [(pgCor k, 5, 6)]
      | _ => []) ++
    (if s.gxes.any (fun e => !e.2.ready.isEmpty) then [(pgGxe, 0, 1)] else []) ++
    (if s.gxes.any (fun e => !e.2.shards.isEmpty) then [(pgGxe, 1, 1)] else []) ++
    (upTo 256).flatMap (fun k => [(pgClu k, 0, 16), (pgClu k, 1, 1)]) ++
    (upTo 256).flatMap (fun n => [(pgMem (n / 8) (n % 8), 0, 1), (pgMem (n / 8) (n % 8), 1, 1)]) ++
    (upTo 16).map (fun p => (pgGdr p, 0, 1))

/-- The channel units whose slots hold waiting sends. -/
def sendCores (s : State) : List Nat :=
  s.engs.filterMap (fun e =>
    match pageBlk (e.1 / 2) with
    | some (.chn, k) => if e.2.aside.isEmpty then none else some k
    | _ => none)

/-- A counter advances by a free amount up to the most that a nanosecond adds. -/
def bumpFree (s : State) (t : Nat × Nat × Nat) : State :=
  bumpNs { s with free := s.free + 1 } t.1 t.2.1 (Config.freeNat s.free % (t.2.2 + 1))

/-- One nanosecond passes; none of HUB_TIME while the time clock is stopped, but the moment of an entry into S3 is over. -/
def tick (s : State) : State :=
  if s.timeRuns then
    (sendCores s).foldl sendTick <| (unseenTime s).foldl bumpFree
      ((timeOf s).foldl (fun s t => if t.2.2 = 0 then s else bumpNs s t.1 t.2.1 t.2.2) { s with time := s.time + 1 })
  else { s with pwr := { s.pwr with offNow := false } }

end Sys2Proof.Machine
end

