-- ==== Sys2Proof/WellFormed.lean ====
section
/-! DEFINITION. Well-formed commands: every operand that numbers a part of the device is in that part's range. -/
namespace Sys2Proof

/-- A number below a bound. -/
def lt (a b : Nat) : Bool := decide (a < b)

/-- The words of one frame come on the 36 lanes of a way (R355, R357). -/
def wordsWf (ws : List LaneWord) : Bool := decide (ws.length ≤ 32) && ws.all (fun w => lt w.lane 36 && w.bytes.length == 8)

/-- Fields of an exchange packet fit Table 10-3. -/
def pktWf (p : GxePkt) : Bool :=
  lt p.blocks 256 && lt p.job 16 && lt p.bucket 65536 && lt p.src 64 && lt p.shard 64 && lt p.stepLo 4294967296 &&
    lt p.chunk 65536 && lt p.nonfinite (2 ^ 64) && lt p.check (2 ^ 61)

/-- Operands of a put request name a job, a core and a sync counter. -/
def putWf (r : PutReq) : Bool := lt r.job 16 && lt r.core 2048 && lt r.ctx 4 && lt r.ctr 16 && lt r.reqEpoch 256

/-- What start-up found names stack channels, ports and bundles of the device. -/
def startWf (u : StartUp) : Bool :=
  u.badChannels.all (fun n => lt n 256) && u.failedPorts.all (fun p => lt p 16) && u.badLanes.all (fun x => lt x.1 56 && lt x.2 68)

/-- Freed memory names a unit of a region, a core or a region. -/
def freedWf : Freed → Bool
  | .unit r u => lt r 32 && lt u 16
  | .slow g => lt g 128
  | .coreWin c => lt c 2048
  | .regionClu r => lt r 32

/-- A part of the zeroing after thaw names a unit of a region. -/
def partWf : ThawPart → Bool
  | .unit r u => lt r 32 && lt u 16
  | .slowTier => true

/-- A command is well formed. -/
def Instr.wf : Instr → Bool
  | .registerWrite fn bar off _ _ => lt fn 16 && (bar == 0 || bar == 2) && lt off 134217728
  | .errStatusClear fn page _ => lt fn 16 && lt page 32768
  | .jobQueueRangeWrite fn f _ => lt fn 16 && lt f 16
  | .jobEvtHeadWrite fn f _ => lt fn 16 && lt f 16
  | .queueEnable fn q => lt fn 16 && lt q 4096
  | .queueDisable fn q => lt fn 16 && lt q 4096
  | .qreset fn q => lt fn 16 && lt q 4096
  | .queueDrainDone q => lt q 4096
  | .doorbellSqTail fn slot _ => lt fn 16 && lt slot 256
  | .doorbellCqHead fn slot _ => lt fn 16 && lt slot 256
  | .commandDispatch q _ => lt q 4096
  | .ringAccessFailed q => lt q.queue 4096
  | .coalTimeExpiry q => lt q 4096
  | .engineCommandStart eng => lt eng.eng 65536
  | .engineCommandComplete eng _ => lt eng 65536
  | .loadImem core _ => lt core 2048
  | .startContext core => lt core 2048
  | .stopContext core => lt core 2048
  | .syncSet core => lt core 2048
  | .tileMove core => lt core 2048
  | .halt core ctx => lt core 2048 && lt ctx 4
  | .nop core ctx => lt core 2048 && lt ctx 4
  | .readtime core ctx rd => lt core 2048 && lt ctx 4 && lt rd 32
  | .readctx core ctx rd => lt core 2048 && lt ctx 4 && lt rd 32
  | .integerRForm core ctx _ rd ra rb => lt core 2048 && lt ctx 4 && lt rd 32 && lt ra 32 && lt rb 32
  | .integerIForm core ctx _ rd ra _ => lt core 2048 && lt ctx 4 && lt rd 32 && lt ra 32
  | .scratchLoad core ctx log2 rd ra _ => lt core 2048 && lt ctx 4 && lt log2 4 && lt rd 32 && lt ra 32
  | .scratchStore core ctx log2 rs ra _ => lt core 2048 && lt ctx 4 && lt log2 4 && lt rs 32 && lt ra 32
  | .atomicLoad core ctx _ rd ra => lt core 2048 && lt ctx 4 && lt rd 32 && lt ra 32
  | .atomicStore core ctx _ ra rb => lt core 2048 && lt ctx 4 && lt ra 32 && lt rb 32
  | .addI core ctx _ rd ra rb => lt core 2048 && lt ctx 4 && lt rd 32 && lt ra 32 && lt rb 32
  | .addF32 core ctx rd ra rb => lt core 2048 && lt ctx 4 && lt rd 32 && lt ra 32 && lt rb 32
  | .atomicMin core ctx _ rd ra rb => lt core 2048 && lt ctx 4 && lt rd 32 && lt ra 32 && lt rb 32
  | .atomicMax core ctx _ rd ra rb => lt core 2048 && lt ctx 4 && lt rd 32 && lt ra 32 && lt rb 32
  | .cas core ctx _ rd ra rb => lt core 2048 && lt ctx 4 && lt rd 32 && lt ra 32 && lt rb 32
  | .branch core ctx _ ra rb _ => lt core 2048 && lt ctx 4 && lt ra 32 && lt rb 32
  | .jump core ctx _ => lt core 2048 && lt ctx 4
  | .branchAndLink core ctx _ => lt core 2048 && lt ctx 4
  | .jumpRegister core ctx ra => lt core 2048 && lt ctx 4 && lt ra 32
  | .issue core ctx engine op ra => lt core 2048 && lt ctx 4 && lt engine 256 && lt op 256 && lt ra 32
  | .issueStallRelease core ctx => lt core 2048 && lt ctx 4
  | .syncwait core ctx ra imm => lt core 2048 && lt ctx 4 && lt ra 32 && lt imm 65536
  | .syncwaitRelease core ctx => lt core 2048 && lt ctx 4
  | .syncpost core ctx ra imm => lt core 2048 && lt ctx 4 && lt ra 32 && lt imm 65536
  | .reservedOpcode core ctx => lt core 2048 && lt ctx 4
  | .scratchScrub core _ _ => lt core 2048
  | .mxaMatmul core _ => lt core 2048
  | .mxaPass core _ => lt core 2048
  | .mxaDrain core => lt core 2048
  | .mxaRelease core => lt core 2048
  | .spillContributionResume eng _ => lt eng 65536
  | .finishedTileRoom core => lt core 2048
  | .mxaInject fn core count => lt fn 16 && lt core 2048 && lt count 4
  | .gmvMatvec region => lt region 32
  | .venMap core => lt core 2048
  | .venReduce core => lt core 2048
  | .venShuffle core => lt core 2048
  | .venHistFlush core => lt core 2048
  | .venRelease core => lt core 2048
  | .atnScores core => lt core 2048
  | .atnAccum core => lt core 2048
  | .atnFinish core => lt core 2048
  | .atnKvLoad core => lt core 2048
  | .atnKvFlush core => lt core 2048
  | .chnSend core => lt core 2048
  | .chnRelease core => lt core 2048
  | .channelMessageArrival core ch => lt core 2048 && lt ch 16
  | .channelSendAck core ch => lt core 2048 && lt ch 16
  | .channelCreditReturn core ch => lt core 2048 && lt ch 16
  | .sendTimeout core _ => lt core 2048
  | .chnOutCfgWrite fn core ch _ => lt fn 16 && lt core 2048 && lt ch 16
  | .chnInCfgWrite fn core ch _ _ => lt fn 16 && lt core 2048 && lt ch 16
  | .pseStep region => lt region 32
  | .pseStepAdmit region => lt region 32
  | .pseDone region => lt region 32
  | .pseDrain region => lt region 32
  | .pseResume region => lt region 32
  | .pseAbort region => lt region 32
  | .pseVersionOpen region => lt region 32
  | .pseVersionPublish region => lt region 32
  | .pseVersionExtend region => lt region 32
  | .psePhaseDispatch region => lt region 32
  | .pseTransferArrival region _ mb vs bytes data => lt region 32 && lt mb 4096 && lt vs 4 && (data.length == bytes)
  | .pseArrivalReport region _ mb vs => lt region 32 && lt mb 4096 && lt vs 4
  | .pseCreditReturn region _ => lt region 32
  | .pseTransferFailed region _ _ _ => lt region 32
  | .pseStageCfgWrite fn region _ => lt fn 16 && lt region 32
  | .updRun region => lt region 32
  | .updRunInit region => lt region 32
  | .landingComplete region _ => lt region 32
  | .upsNoticeStart => true
  | .upsNoticeDone => true
  | .upfPublish region => lt region 32
  | .digestReport region _ _ _ => lt region 32
  | .comparerWaitExpiry region => lt region 32
  | .comparisonReport region _ _ => lt region 32
  | .replicaRepaired region _ _ _ => lt region 32
  | .digestLate region => lt region 32
  | .gxeBucketReady _ => true
  | .gxeAbort => true
  | .contrib p => pktWf p
  | .hist p => pktWf p
  | .grantReq p => pktWf p
  | .grant p => pktWf p
  | .close p => pktWf p
  | .result p => pktWf p
  | .chunkResendRequest job _ _ _ _ _ => lt job 16
  | .stragglerWindowExpiry job _ _ => lt job 16
  | .drzGather region => lt region 32
  | .drzScatter region => lt region 32
  | .cxlMemRead _ _ => true
  | .cxlMemWrite _ _ _ => true
  | .cxlMemBaseWrite fn _ => lt fn 16
  | .memIlvWrite fn region ch _ => lt fn 16 && lt region 32 && lt ch 8
  | .fence fn region ch => lt fn 16 && lt region 32 && lt ch 8
  | .stackScrub _ _ => true
  | .stackHot stack => lt stack 8
  | .cluWindowWrite fn cluster w _ => lt fn 16 && lt cluster 256 && lt w 8
  | .retrain fn port => lt fn 16 && lt port 16
  | .tierTraining fn port => lt fn 16 && lt port 16
  | .gdrTrainingDone port _ _ => lt port 16
  | .wckTracking port => lt port 16
  | .gdrCrcError port _ => lt port 16
  | .tgcStart fn region ch => lt fn 16 && lt region 32 && lt ch 8
  | .tgcStop fn region ch => lt fn 16 && lt region 32 && lt ch 8
  | .tgcRunDone region ch _ _ _ => lt region 32 && lt ch 8
  | .dataFrameSend dir => lt dir 8
  | .dataFrameReceive dir ws => lt dir 8 && wordsWf ws
  | .idleFrameReceive dir ws => lt dir 8 && wordsWf ws
  | .hello dir epoch coord _ => lt dir 8 && lt epoch 256 && lt coord 16777216
  | .resync dir epoch partnerEpoch rxExpected _ =>
    lt dir 8 && lt epoch 256 && lt partnerEpoch 256 && lt rxExpected 1048576
  | .laneMap dir way _ _ => lt dir 8 && lt way 2
  | .down dir cause => lt dir 8 && lt cause 8
  | .linkFrameRepeat dir => lt dir 8
  | .replayTimeout dir => lt dir 8
  | .nakRequeue dir seq => lt dir 8 && lt seq 1048576
  | .squall dir way lane => lt dir 8 && lt way 2 && lt lane.lane 36
  | .spareLaneTest dir way lane _ => lt dir 8 && lt way 2 && lt lane 36
  | .lossOfLight dir => lt dir 8
  | .noValidFrame dir => lt dir 8
  | .retrainOverrun dir => lt dir 8
  | .laneMapTimeout dir => lt dir 8
  | .linkLost dir => lt dir 8
  | .trainingDone dir ok _ _ => lt dir 8 && lt ok.way 2
  | .bringupRetry dir => lt dir 8
  | .lnkEnable fn dir => lt fn 16 && lt dir 8
  | .lnkRetrain fn dir => lt fn 16 && lt dir 8
  | .forceDown fn dir => lt fn 16 && lt dir 8
  | .laserLoss oe fibre => lt oe 4 && lt fibre 18
  | .torPut _ => true
  | .putRequestArrival r => putWf r
  | .putReply _ _ => true
  | .putTimeout _ => true
  | .torReshard => true
  | .reshardCopyDone _ => true
  | .torCoordWrite fn _ => lt fn 16
  | .torJboxWrite fn j _ => lt fn 16 && lt j 16
  | .torAbsentWrite fn k _ => lt fn 16 && lt k 8
  | .jobPreempt f => lt f 16
  | .jobResume f => lt f 16
  | .rgnTask region => lt region 32
  | .rgnTaskDispatch region _ => lt region 32
  | .jobEnable fn f _ => lt fn 16 && lt f 16
  | .jobCoresWrite fn f n _ => lt fn 16 && lt f 16 && lt n 32
  | .jobRegionsWrite fn f _ => lt fn 16 && lt f 16
  | .jobMemWrite fn f n _ => lt fn 16 && lt f 16 && lt n 8
  | .jobSlowWrite fn f _ => lt fn 16 && lt f 16
  | .allocationZeroed z => freedWf z
  | .plevelRequest fn level => lt fn 16 && lt level 8
  | .powerAverageSample _ => true
  | .levelStepDone => true
  | .thermalSample _ => true
  | .thermalTrip _ => true
  | .requestS0 fn => lt fn 16
  | .requestS1 fn => lt fn 16
  | .requestS2 fn => lt fn 16
  | .requestS3 fn => lt fn 16
  | .wakeMatch _ _ u => startWf u
  | .lowPowerBrownout => true
  | .vinCoreSample _ => true
  | .shedUndo => true
  | .refclkLoss => true
  | .refclkLock => true
  | .vinIoUndervoltage => true
  | .coldReset u => startWf u
  | .warm fn u => lt fn 16 && startWf u
  | .cxlResetN _ u => startWf u
  | .functionLevelReset f => lt f 16
  | .flrWipeDone f => lt f 16
  | .linkReset fn dir => lt fn 16 && lt dir 8
  | .fabricOpen fn => lt fn 16
  | .bridgeUnitCrcFail bridge bundle => lt bridge 7 && lt bundle.bundle 16 && lt bundle.lane 68
  | .bridgeLaneFail bridge bundle lane => lt bridge 7 && lt bundle 16 && lt lane 68
  | .readReg _ => true
  | .readLog _ => true
  | .warmReset u => startWf u
  | .resetWaitExpiry u => startWf u
  | .powerOff => true
  | .traceFreeze => true
  | .traceDump _ => true
  | .traceRelease u => startWf u
  | .sidebandBadOp op _ => lt op 256
  | .rcvWrite _ => true
  | .rcvActivate => true
  | .transferFw _ _ => true
  | .activateFw => true
  | .getFwInfo => true
  | .recoveryOwnerTimeout => true
  | .getVersion => true
  | .getCapabilities => true
  | .negotiateAlgorithms => true
  | .getDigests => true
  | .getCertificate slot _ _ => lt slot 8
  | .challenge slot _ => lt slot 8
  | .getMeasurements _ _ => true
  | .lifecycleRequest fn _ u => lt fn 16 && startWf u
  | .svnCommit fn => lt fn 16
  | .revoke fn bits => lt fn 16 && lt bits 8
  | .cntClear fn page index => lt fn 16 && lt page 32768 && lt index 65536
  | .cntClearAll fn page => lt fn 16 && lt page 32768
  | .freeze fn => lt fn 16
  | .release fn => lt fn 16
  | .traceDrain cluster => lt cluster 256
  | .violatingRead fn bar _ _ => lt fn 16 && (bar == 0 || bar == 2)
  | .cxlLinkDown => true
  | .cxlLinkUp => true
  | .cxlPortRelease => true
  | .stackHotEnd stack => lt stack 8
  | .clusterCacheScrub cluster _ _ => lt cluster 256
  | .thawZeroingDone p => partWf p
  | .vaonLoss => true
  | .jtagInstruction _ => true
  | .repairRequest region group => lt region 32 && lt group.dst 64

end Sys2Proof
end

