-- ==== Sys2Proof/Safety.lean ====
section
/-! DEFINITION. What claims call a sound state and a state in which a command has its own effect. -/
namespace Sys2Proof.Machine

/-- Between commands no engine acts; outside the halt of R445, in S0 or S1, the fabric has its power (R434, R445). -/
abbrev FabricOn (s : State) : Prop := s.halted = false ∧ s.pstate < 2 ∧ s.actDie = 0

/-- The context executes an instruction that its word spells (`p`): it is its turn (R416), the PC lies in its window (R77),
the word can be read. -/
abbrev Executes (s : State) (core x : Nat) (p : Nat → Bool) : Prop :=
  nextCtx s core = some x ∧ (ctxOf s core x).pc < winSize s core x ∧
    badIn s (spImem core + winBase s core x + (ctxOf s core x).pc) 4 = none ∧ s.actDie = 0 ∧ p (fetched s core x) = true

/-- Registers hold no entry equal to their reset value, and their keys rise. -/
def regsWf (m : SMap W64) : Bool := keysRise m && m.all (fun e => decide (e.2 ≠ regReset e.1))

/-- Numbers strictly rising. -/
def rising : List Nat → Bool
  | [] => true
  | [_] => true
  | a :: b :: t => decide (a < b) && rising (b :: t)

/-- The state is in its canonical form, so that equal machines are equal data: memory and registers without a redundant
entry, failing granules in rising order; and no engine is acting. -/
abbrev Canonical (s : State) : Prop :=
  mapWf 0 s.mem = true ∧ regsWf s.regs = true ∧ rising s.bad = true ∧ s.actDie = 0

/-- What fuses hold only grows (R485, R491): the life-cycle state, the fused SVN, and the revoked key slots. -/
def FusesKeep (a b : Fuses) : Prop :=
  a.lcs ≤ b.lcs ∧ a.svn ≤ b.svn ∧ ∀ k, a.revoked.testBit k = true → b.revoked.testBit k = true

end Sys2Proof.Machine
end

