-- ==== Sys2Proof/Certificates/Slice0/Obligations.lean ====
section
/-! DEFINITION. The statements for the provers: what the rules of the spec say that commands and the machine do. -/
namespace Sys2Proof.Stated
open Sys2Proof.Machine

/-- The result of an integer operation on two 64-bit values where Table 3-2 states it; none where the spec states no
result: a shift by 64 or more, a zero divisor, the most negative number by -1, and the rounding of signed division. -/
def intStated (o : IntOp) (a b : W64) : Option W64 :=
  match o with
  | .add => some (a + b)
  | .sub => some (a - b)
  | .and => some (a &&& b)
  | .or => some (a ||| b)
  | .xor => some (a ^^^ b)
  | .shl => if b.toNat < 64 then some (a <<< b.toNat) else none
  | .shr => if b.toNat < 64 then some (a >>> b.toNat) else none
  | .sar => if b.toNat < 64 then some (a.sshiftRight b.toNat) else none
  | .setEq => some (if a = b then 1 else 0)
  | .setNe => some (if a = b then 0 else 1)
  | .setLt => some (if a.toInt < b.toInt then 1 else 0)
  | .setLtu => some (if a.toNat < b.toNat then 1 else 0)
  | .mul => some (a * b)
  | .divu => if b = 0 then none else some (a / b)
  | .remu => if b = 0 then none else some (a % b)
  | .div | .rem => none

/-- The scratch address of a load or a store. -/
def scratchEa (s : State) (core x ra : Nat) (imm : BitVec 16) : Nat :=
  mod64 (getReg (ctxOf s core x) ra + imm64 imm)

/-- The word that a cluster-cache atomic acts on, at the address in ra (R339). -/
def atomicEa (s : State) (core x ra : Nat) : Nat :=
  spClu (core / 8) + (getReg (ctxOf s core x) ra - 0x1000000)

/-- Bytes of an atomic's word. -/
def atomicBytes (wide : Bool) : Nat := if wide then 8 else 4

/-- The context goes on as `c`, and the next issue of the core looks at the context after it first (R416). -/
def ranTo (s : State) (core x : Nat) (c : Ctx) : State := tookTurn (setCtx s core x c) core x

/-- An atomic that its word (`p`) spells executes normally: aligned, in the CLU window of the job, its word readable
(R339, R338). -/
abbrev AtomicOk (s : State) (core x ra : Nat) (wide : Bool) (p : Nat → Bool) : Prop :=
  Executes s core x p ∧ getReg (ctxOf s core x) ra % atomicBytes wide = 0 ∧
    0x1000000 ≤ getReg (ctxOf s core x) ra ∧ getReg (ctxOf s core x) ra < 0x1800000 ∧
    cluOk s (core / 8) (ctxJob s core x) (getReg (ctxOf s core x) ra - 0x1000000) (atomicBytes wide) = true ∧
    badIn s (atomicEa s core x ra) (atomicBytes wide) = none

/-- The old value of an atomic's word. -/
def atomicOld (s : State) (core x ra : Nat) (wide : Bool) : Nat := rdNum s (atomicEa s core x ra) (atomicBytes wide)

/-- The state after an atomic: the word takes `v`, rd the old value, the context goes on. -/
def atomicNext (s : State) (core x ra rd : Nat) (wide : Bool) (v : Nat) : State :=
  ranTo (wrNum s (atomicEa s core x ra) (atomicBytes wide) v) core x
    (nextPc (putReg (ctxOf s core x) rd (atomicOld s core x ra wide)))

/-- A context waits: stalled at an ISSUE or in a SYNCWAIT, not suspended, outside the halt of R445, in S0. -/
abbrev WaitingOn (s : State) (core x : Nat) : Prop :=
  (ctxOf s core x).st = 2 ∧ suspended s core (ctxJob s core x) = false ∧ s.halted = false ∧ s.pstate = 0 ∧ s.actDie = 0

/-- The command that an ISSUE sends: the 48 bytes at the address in ra, for the context's job (R70, R76). -/
def issued (s : State) (core x engine op ra : Nat) : QCmd :=
  { id := s.nextId, page := (issuePage core engine).getD 10, op := op
    body := rdMem s (spScratch core + getReg (ctxOf s core x) ra) 48
    src := .ctx, fn := ctxJob s core x, job := ctxJob s core x, core := core, ctx := x }

/-- The state as an engine of die `d` sees it. -/
def onDie (s : State) (d : Nat) : State := setDie s (d + 1)

/-- An effect computed on die `d`, and no engine acting afterwards. -/
def atDie (d : Nat) (f : State → State) (s : State) : State := setDie (f (onDie s d)) 0

/-- The end of a command of an engine: the started command whose number is `id` has its effect complete with a status.
-/
def ended (t : State) (e id status : Nat) : Prop :=
  ∃ r ∈ (engOf t e).running, r.cmd.id = id ∧ ∃ res, r.fin = some (status, res)

/-- Commands of the fabric are served and no engine acts, for a core that exists. -/
abbrev CoreOn (s : State) (core : Nat) : Prop := FabricOn s ∧ core < 2048

/-- Commands of the fabric are served and no engine acts, for a region that exists. -/
abbrev RegionOn (s : State) (r : Nat) : Prop := FabricOn s ∧ r < 32

/-- No other started command of an engine carries the number of this one. -/
abbrev Alone (s : State) (e : Nat) (x : RCmd) : Prop := (engOf s e).running.filter (fun y => y.cmd.id == x.cmd.id) = [x]

/-- A register access of function 0 reaches a page: the CXL link is up, the page exists and is served (R30, R326,
R495). -/
abbrev HostReach (s : State) (page : Nat) : Prop :=
  s.cxlUp = true ∧ pageBlk page ≠ none ∧ pageServed s page = true

/-- A BAR0 offset of a register. -/
def bar0 (page off : Nat) : Nat := page * 4096 + off

/-- Only reports follow: no register changes but ERR_STATUS, ERR_ADDR, ERR_INFO, EVT_STATUS and JOB_EVT_STATUS, no
queue, engine, context or free value does. -/
def OnlyReported (s t : State) : Prop :=
  (∀ p o, o < 4096 → ¬ (o / 8 ∈ [4, 6, 7, 9, 36]) → reg t p o = reg s p o) ∧ t.hqs = s.hqs ∧ t.engs = s.engs ∧
    t.ctxs = s.ctxs ∧ t.cntIdx = s.cntIdx ∧ t.msixTable = s.msixTable ∧ t.free = s.free ∧ t.pending = s.pending

/-- The queue of a doorbell slot is RUNNING, and the slot is the function's (R46). -/
abbrev BellReach (s : State) (fn slot : Nat) : Prop :=
  s.cxlUp = true ∧ fn < 16 ∧ (fn = 0 ∨ s.fabricOpen = true) ∧ slot < slotsOf s fn ∧ s.pstate = 0


/-- A stage runs a step that neither ends nor fails by itself: RUNNING, not failed, its records not all closed. -/
abbrev StageRuns (s : State) (r : Nat) (c : PStep) : Prop :=
  (pseOf s r).cur = some c ∧ (pseOf s r).st = 1 ∧ (pseOf s r).failed = false ∧ (pseOf s r).aborting = false ∧
    c.closed ≠ c.nmb * pseV s r

/-- A packet of another replica that the engine takes (R299). -/
abbrev PktTaken (s : State) (p : GxePkt) : Prop := pktBad s p = false ∧ p.src ≠ jOwn s p.job

/-- The fabric has power (S0 or S1), and no engine acts. -/
abbrev Powered (s : State) : Prop := s.pstate < 2 ∧ s.actDie = 0

/-- Place, in the core's scratch, of entry `i` of a DRZ command's index list. -/
def drzIdx (c : QCmd) (i : Nat) : Nat := spScratch c.core + (drzOf c).idx + 4 * i

/-- The row of the table that entry `i` names, and that row's fabric address. -/
def drzRowNo (s : State) (c : QCmd) (i : Nat) : Nat := rdNum s (drzIdx c i) 4
def drzPlace (s : State) (c : QCmd) (i : Nat) : Nat := (drzOf c).table + drzRowNo s c i * (drzOf c).stride

/-- The index list of a DRZ command does not overlap its data. -/
abbrev drzApart (x : Drz) : Prop := x.idx + 4 * x.count ≤ x.data ∨ x.data + x.count * x.rb ≤ x.idx

/-- The words of a frame on the lanes of a direction's transmit way (R355, R357). -/
def onLanes (l : Lnk) (w : Frame) : List (Nat × List Byte) := dealWords l.txMap l.txPos l.txStop (frameBytes w)

/-- Host commands have a function, the CXL link up, and a page of RST, PWR or another that is served; no reset waits
for a trace freeze. -/
def Rebooted (s t : State) (last : Nat) : Prop :=
  t.time = s.time ∧ regF t pgRst 0x108 0 2 = last ∧ t.fuses = s.fuses ∧ t.ctxs = [] ∧ t.engs = [] ∧ t.hqs = [] ∧
    t.pstate = 0 ∧
    t.fabricOpen = false

/-- The package is in S3 with a cause in PWR_LOG, and holds no context, command or queue any more. -/
def PoweredOff (s t : State) (cause : Nat) : Prop :=
  t.pstate = 3 ∧ t.timeRuns = false ∧ regF t pgPwr 0x148 0 3 = cause ∧ t.fuses = s.fuses ∧ t.ctxs = [] ∧
    t.engs = [] ∧ t.hqs = []
end Sys2Proof.Stated

open Sys2Proof Sys2Proof.Machine Sys2Proof.Stated

/-! ### Instructions of a control core -/

/-- INTEGER_R_FORM, INTEGER_I_FORM. Every integer instruction completes: it writes rd (g0 discards), goes on to the next
instruction and changes nothing else; the value is the one that Table 3-2 states, where it states one. -/
def Obligations.IntegerInstructionsWriteRd : Prop :=
  ∀ (s : State) (core x rd ra rb : Nat) (o : IntOp) (imm : BitVec 16),
    (Executes s core x (rWord 1 7 rd ra rb) → ∃ v : W64, exec (.integerRForm core x o rd ra rb) s =
        .next (ranTo s core x (nextPc (putReg (ctxOf s core x) rd v.toNat))) ∧
      ∀ w, intStated o (BitVec.ofNat 64 (getReg (ctxOf s core x) ra)) (BitVec.ofNat 64 (getReg (ctxOf s core x) rb))
        = some w →
        v = w) ∧
    (Executes s core x (iWord 8 15 rd ra imm.toNat) → ∃ v : W64, exec (.integerIForm core x (.op o) rd ra imm) s =
        .next (ranTo s core x (nextPc (putReg (ctxOf s core x) rd v.toNat))) ∧
      ∀ w, intStated o (BitVec.ofNat 64 (getReg (ctxOf s core x) ra)) (imm.signExtend 64) = some w → v = w) ∧
    (Executes s core x (iWord 8 15 rd ra imm.toNat) → ∃ v : W64, exec (.integerIForm core x .lui rd ra imm) s =
        .next (ranTo s core x (nextPc (putReg (ctxOf s core x) rd v.toNat))))

/-- NOP, READTIME, READCTX. NOP only goes on; READTIME puts HUB_TIME into rd; READCTX writes rd alone (what it reads
is the model's free value: the spec does not lay the value out). Nothing else changes. -/
def Obligations.NopReadtimeReadctxGoOn : Prop :=
  ∀ (s : State) (core x rd : Nat),
    (Executes s core x sysWord → exec (.nop core x) s =
      .next (ranTo s core x { ctxOf s core x with pc := ((ctxOf s core x).pc + 4) % 65536 })) ∧
    (Executes s core x (fun w => sysWord w && fieldA w == rd % 32) →
      exec (.readtime core x rd) s = .next (ranTo s core x (nextPc (putReg (ctxOf s core x) rd (s.time % 2 ^ 64)))) ∧
      ∃ v : W64, exec (.readctx core x rd) s = .next (ranTo s core x (nextPc (putReg (ctxOf s core x) rd v.toNat))))

/-- HALT, RESERVED_OPCODE. HALT halts its context with OK, a reserved opcode with BAD_COMMAND; its PC and its
registers stay, and so do the other contexts of the core and every host queue. -/
def Obligations.HaltAndReservedOpcodeHalt : Prop :=
  ∀ (s : State) (core x : Nat),
    (Executes s core x sysWord → ∃ t, exec (.halt core x) s = .next t ∧ (ctxOf t core x).st = 3 ∧
      (ctxOf t core x).haltStatus = stOK ∧
      (ctxOf t core x).pc = (ctxOf s core x).pc ∧ (ctxOf t core x).g = (ctxOf s core x).g ∧
      t.hqs = s.hqs ∧ (∀ x', x' ≠ x → x' < 4 → ctxOf t core x' = ctxOf s core x')) ∧
    (Executes s core x reservedWord → ∃ t, exec (.reservedOpcode core x) s = .next t ∧ (ctxOf t core x).st = 3 ∧
      (ctxOf t core x).haltStatus = stBadCommand ∧
      (ctxOf t core x).pc = (ctxOf s core x).pc ∧ (ctxOf t core x).g = (ctxOf s core x).g ∧
      t.hqs = s.hqs ∧ (∀ x', x' ≠ x → x' < 4 → ctxOf t core x' = ctxOf s core x'))

/-- SCRATCH_LOAD, SCRATCH_STORE. An aligned access of 1, 2, 4 or 8 bytes inside the context's window to readable
bytes: a load fills rd with the bytes, little-endian, in its low end, and changes no memory; a store writes the low
bytes of rs. -/
def Obligations.ScratchLoadAndStoreMoveBytes : Prop :=
  ∀ (s : State) (core x log2 rd ra : Nat) (imm : BitVec 16),
    Executes s core x (iWord 16 23 rd ra imm.toNat) → log2 < 4 →
    scratchEa s core x ra imm % 2 ^ log2 = 0 → scratchOk s core x (scratchEa s core x ra imm) (2 ^ log2) = true →
    badIn s (spScratch core + scratchEa s core x ra imm) (2 ^ log2) = none →
    (∃ v, exec (.scratchLoad core x log2 rd ra imm) s = .next (ranTo s core x (nextPc (putReg (ctxOf s core x) rd v))) ∧
      v % 2 ^ (8 * 2 ^ log2) = rdNum s (spScratch core + scratchEa s core x ra imm) (2 ^ log2) ∧
      (log2 = 3 → v = rdNum s (spScratch core + scratchEa s core x ra imm) 8)) ∧
    (∃ t, exec (.scratchStore core x log2 rd ra imm) s = .next t ∧
      ctxOf t core x = nextPc (ctxOf s core x) ∧ t.regs = s.regs ∧ t.engs = s.engs ∧
      (∀ i, i < 2 ^ log2 → rdByte t (spScratch core + scratchEa s core x ra imm + i) =
        BitVec.ofNat 8 (getReg (ctxOf s core x) rd / 256 ^ i)) ∧
      (∀ a, a < spScratch core + scratchEa s core x ra imm ∨ spScratch core + scratchEa s core x ra imm + 2 ^ log2 ≤ a →
        rdByte t a = rdByte s a))

/-- ATOMIC_LOAD, ATOMIC_STORE, ADD_I, ADD_F32, CAS: the word at ra takes its new value, rd the old one (a store returns
none), and the context goes on; nothing else changes. -/
def Obligations.AtomicsReplaceOneWord : Prop :=
  ∀ (s : State) (core x rd ra rb : Nat) (wide : Bool),
    (AtomicOk s core x ra wide (atomWord (if wide then 2 else 1) ra (some rd) none) →
      exec (.atomicLoad core x wide rd ra) s = .next (atomicNext s core x ra rd wide (atomicOld s core x ra wide))) ∧
    (AtomicOk s core x ra wide (atomWord (if wide then 4 else 3) ra none (some rb)) →
      exec (.atomicStore core x wide ra rb) s =
        .next (ranTo (wrNum s (atomicEa s core x ra) (atomicBytes wide) (getReg (ctxOf s core x) rb)) core x
          (nextPc (ctxOf s core x)))) ∧
    (AtomicOk s core x ra wide (atomWord (if wide then 0x11 else 0x10) ra (some rd) (some rb)) →
      exec (.addI core x wide rd ra rb) s =
        .next (atomicNext s core x ra rd wide (atomicOld s core x ra wide + getReg (ctxOf s core x) rb))) ∧
    (AtomicOk s core x ra false (atomWord 0x12 ra (some rd) (some rb)) →
      exec (.addF32 core x rd ra rb) s =
        .next (atomicNext s core x ra rd false
          (add32 (atomicOld s core x ra false) (getReg (ctxOf s core x) rb % 2 ^ 32)))) ∧
    (AtomicOk s core x ra wide (atomWord (if wide then 0x31 else 0x30) ra (some rd) (some rb)) →
      exec (.cas core x wide rd ra rb) s =
        .next (atomicNext s core x ra rd wide
          (if atomicOld s core x ra wide = getReg (ctxOf s core x) rd % 2 ^ (8 * atomicBytes wide)
            then getReg (ctxOf s core x) rb else atomicOld s core x ra wide)))

/-- ATOMIC_MIN, ATOMIC_MAX: the word takes the smaller, or the larger, of itself and rb, as the width and sign of the
form order them; the FP32 forms follow MIN and MAX of Table 6-2. -/
def Obligations.AtomicMinAndMaxOrderTheirOperands : Prop :=
  ∀ (s : State) (core x rd ra rb : Nat),
    (∀ k,
      (AtomicOk s core x ra (mmWide k) (atomWord (0x20 + mmCode k) ra (some rd) (some rb)) → ∃ v,
        exec (.atomicMin core x k rd ra rb) s = .next (atomicNext s core x ra rd (mmWide k) v) ∧
        (k = .s32 → sgn 32 v = min (sgn 32 (atomicOld s core x ra false)) (sgn 32 (getReg (ctxOf s core x) rb))) ∧
        (k = .s64 → sgn 64 v = min (sgn 64 (atomicOld s core x ra true)) (sgn 64 (getReg (ctxOf s core x) rb))) ∧
        (k = .u32 → v % 2 ^ 32 = min (atomicOld s core x ra false) (getReg (ctxOf s core x) rb % 2 ^ 32)) ∧
        (k = .u64 → v = min (atomicOld s core x ra true) (getReg (ctxOf s core x) rb)) ∧
        (k = .f32 → v = min32 (atomicOld s core x ra false) (getReg (ctxOf s core x) rb % 2 ^ 32))) ∧
      (AtomicOk s core x ra (mmWide k) (atomWord (0x28 + mmCode k) ra (some rd) (some rb)) → ∃ v,
        exec (.atomicMax core x k rd ra rb) s = .next (atomicNext s core x ra rd (mmWide k) v) ∧
        (k = .s32 → sgn 32 v = max (sgn 32 (atomicOld s core x ra false)) (sgn 32 (getReg (ctxOf s core x) rb))) ∧
        (k = .s64 → sgn 64 v = max (sgn 64 (atomicOld s core x ra true)) (sgn 64 (getReg (ctxOf s core x) rb))) ∧
        (k = .u32 → v % 2 ^ 32 = max (atomicOld s core x ra false) (getReg (ctxOf s core x) rb % 2 ^ 32)) ∧
        (k = .u64 → v = max (atomicOld s core x ra true) (getReg (ctxOf s core x) rb)) ∧
        (k = .f32 → v = max32 (atomicOld s core x ra false) (getReg (ctxOf s core x) rb % 2 ^ 32))))

/-- BRANCH, JUMP, BRANCH_AND_LINK, JUMP_REGISTER. A taken branch goes to its target, another to the next instruction;
branch and link puts the address of the next instruction into g31; a target outside the window halts with BAD_COMMAND.
The registers stay as they are otherwise, and in a context that is not traced nothing else changes. -/
def Obligations.BranchesGoToTheirTargets : Prop :=
  ∀ (s : State) (core x ra rb : Nat) (k : Cond) (off : BitVec 16),
    let c := ctxOf s core x
    let far (t : Nat) : Prop := ¬ (t < winSize s core x ∧ t % 4 = 0)
    let halts (i : Instr) : Prop := ∃ t, exec i s = .next t ∧ (ctxOf t core x).st = 3 ∧
      (ctxOf t core x).haltStatus = stBadCommand
    (Executes s core x (iWord 0x20 0x27 ra rb off.toNat) →
      (condHolds k (getReg c ra) (getReg c rb) = false →
        ∃ t, exec (.branch core x k ra rb off) s = .next t ∧ (ctxOf t core x).pc = (c.pc + 4) % 65536 ∧
          (ctxOf t core x).g = c.g ∧ (traced s core x = false → t = ranTo s core x (nextPc c))) ∧
      (condHolds k (getReg c ra) (getReg c rb) = true →
        (¬ far (target c off) →
          ∃ t, exec (.branch core x k ra rb off) s = .next t ∧ (ctxOf t core x).pc = target c off ∧
            (ctxOf t core x).g = c.g ∧ (traced s core x = false → t = ranTo s core x { c with pc := target c off })) ∧
        (far (target c off) → halts (.branch core x k ra rb off)))) ∧
    (Executes s core x (jWord off.toNat) →
      (¬ far (target c off) →
        exec (.jump core x off) s = .next (ranTo s core x { c with pc := target c off }) ∧
        exec (.branchAndLink core x off) s =
          .next (ranTo s core x { putReg c 31 (c.pc + 4) with pc := target c off })) ∧
      (far (target c off) → halts (.jump core x off) ∧ halts (.branchAndLink core x off))) ∧
    (Executes s core x (fun w => within (opcode w) 0x20 0x27 && fieldA w == ra % 32) →
      (¬ far (getReg c ra) →
        ∃ t, exec (.jumpRegister core x ra) s = .next t ∧ (ctxOf t core x).pc = getReg c ra ∧
          (ctxOf t core x).g = c.g ∧ (traced s core x = false → t = ranTo s core x { c with pc := getReg c ra })) ∧
      (far (getReg c ra) → halts (.jumpRegister core x ra)))

/-- R72. g0 reads as zero and discards writes; g1 to g31 hold 64 bits each; BRANCH_AND_LINK writes its return address
to g31; a context that START_CONTEXT starts has its four values in g1 to g4 and zero in g5 to g31. -/
def Obligations.GeneralRegistersOfAContext : Prop :=
  (∀ (c : Ctx) (v : Nat), getReg c 0 = 0 ∧ putReg c 0 v = c) ∧
  (∀ (c : Ctx) (r k v : Nat), 1 ≤ r → r < 32 → k < 32 →
    getReg (putReg c r v) k = if k = r then v % 2 ^ 64 else getReg c k) ∧
  (∀ (s : State) (core x : Nat) (off : BitVec 16), Executes s core x (jWord off.toNat) →
    target (ctxOf s core x) off < winSize s core x → target (ctxOf s core x) off % 4 = 0 →
    ∃ t, exec (.branchAndLink core x off) s = .next t ∧
      getReg (ctxOf t core x) 31 = ((ctxOf s core x).pc + 4) % 2 ^ 64 ∧
      (∀ k, k < 31 → getReg (ctxOf t core x) k = getReg (ctxOf s core x) k)) ∧
  (∀ (s : State) (core : Nat) (r : RCmd), CoreOn s core →
    engRun s (pgCor core * 2 + 1) (fun r => r.cmd.op == 2 && r.prog == 0) = some r →
    let c := r.cmd
    let x := corCtx c
    c.op = 2 → ctxBound s core x = true → jobEnabled s (ctxJob s core x) = true →
    (ctxOf s core x).st = 0 ∨ (ctxOf s core x).st = 3 → bf c 18 2 < winSize s core x → bf c 18 2 % 4 = 0 →
    ∃ t, exec (.startContext core) s = .next t ∧ (ctxOf t core x).st = 1 ∧ getReg (ctxOf t core x) 1 = bf c 24 8 ∧
      getReg (ctxOf t core x) 2 = bf c 32 8 ∧ getReg (ctxOf t core x) 3 = bf c 40 8 ∧
        getReg (ctxOf t core x) 4 = bf c 48 8 ∧
      (∀ k, 5 ≤ k → k < 32 → getReg (ctxOf t core x) k = 0))

/-- ISSUE, ISSUE_STALL_RELEASE. An ISSUE of a command that passes its checks puts it at the end of its engine's queue
and goes on, or, where the queue is full, stalls with the PC on itself until ISSUE_STALL_RELEASE finds room; where the
core has been fenced meanwhile its context halts with CHECK_FAIL_FENCED instead. -/
def Obligations.IssueQueuesItsCommand : Prop :=
  (∀ (s : State) (core x engine op ra : Nat), Executes s core x (issueWord engine op ra) →
    getReg (ctxOf s core x) ra % 64 = 0 →
    scratchOk s core x (getReg (ctxOf s core x) ra) 48 = true →
    badIn s (spScratch core + getReg (ctxOf s core x) ra) 48 = none →
    chkIssue (onDie s (core / 1024)) engine op (issued s core x engine op ra) = none →
    bit (reg s (pgTrc core) 0x100) 1 = false →
    (queueFull s (issued s core x engine op ra) = false →
      exec (.issue core x engine op ra) s =
        .next (ranTo (enqueue { s with nextId := s.nextId + 1 } (issued s core x engine op ra)) core x
          (nextPc (ctxOf s core x)))) ∧
    (queueFull s (issued s core x engine op ra) = true →
      exec (.issue core x engine op ra) s =
        .next (ranTo { s with nextId := s.nextId + 1 } core x
          { ctxOf s core x with st := 2, stall := some (issued s core x engine op ra) }))) ∧
  (∀ (s : State) (core x : Nat) (q : QCmd), WaitingOn s core x → (ctxOf s core x).stall = some q →
    queueFull s q = false →
    (onFenced s q = false →
      exec (.issueStallRelease core x) s =
        .next (setCtx (enqueue s q) core x
          { ctxOf s core x with st := 1, stall := none, pc := ((ctxOf s core x).pc + 4) % 65536 })) ∧
    (onFenced s q = true → ∃ t, exec (.issueStallRelease core x) s = .next t ∧ (ctxOf t core x).st = 3 ∧
      (ctxOf t core x).haltStatus = stCheckFenced))

/-- SYNCWAIT, SYNCWAIT_RELEASE, SYNCPOST. A wait whose counter has reached the value, (counter - value) mod 2^16 below
2^15, goes on; any other waits at its PC until the counter reaches the value. SYNCPOST adds ra to a counter, modulo
2^16. -/
def Obligations.SyncInstructionsWaitAndPost : Prop :=
  (∀ (s : State) (core x ra imm : Nat), imm % 32 < 16 →
    let c := ctxOf s core x
    let v := getReg c ra % 65536
    (Executes s core x (syncInstr 0x29 ra imm) →
      ((syncCtr s core x (imm % 32) + 65536 - v) % 65536 < 32768 →
        exec (.syncwait core x ra imm) s = .next (ranTo s core x (nextPc c))) ∧
      (32768 ≤ (syncCtr s core x (imm % 32) + 65536 - v) % 65536 →
        exec (.syncwait core x ra imm) s = .next (ranTo s core x { c with st := 2, wait := some (imm % 32, v) }))) ∧
    (Executes s core x (syncInstr 0x2A ra imm) → ∃ t, exec (.syncpost core x ra imm) s = .next t ∧
      syncCtr t core x (imm % 32) = (syncCtr s core x (imm % 32) + getReg c ra) % 65536 ∧
      (∀ n, n ≠ imm % 32 → syncCtr t core x n = syncCtr s core x n) ∧ (ctxOf t core x).pc = (c.pc + 4) % 65536 ∧
      (ctxOf t core x).g = c.g ∧ t.mem = s.mem ∧ t.regs = s.regs ∧ t.engs = s.engs)) ∧
  (∀ (s : State) (core x n v : Nat), WaitingOn s core x → (ctxOf s core x).wait = some (n, v) →
    (syncCtr s core x n + 65536 - v % 65536) % 65536 < 32768 →
    exec (.syncwaitRelease core x) s =
      .next (setCtx s core x { ctxOf s core x with st := 1, wait := none, pc := ((ctxOf s core x).pc + 4) % 65536 }))

/-- LOAD_IMEM, START_CONTEXT, STOP_CONTEXT, SYNC_SET (R78, R91). LOAD_IMEM whose range lies in the window and meets no
live context puts its bytes into instruction memory; START_CONTEXT starts an EMPTY or HALTED context at ENTRY with g1
to g4; STOP_CONTEXT halts a live context with PREEMPTED and completes; SYNC_SET sets a counter of a context that is
not live. -/
def Obligations.ControlQueueCommandsActOnContexts : Prop :=
  ∀ (s : State) (core : Nat) (r : RCmd), CoreOn s core →
    let c := r.cmd
    let x := corCtx c
    let lo := winBase s core x + bf c 24 2
    (∀ host, runOp s (pgCor core) 1 = some r → bf c 24 2 + 4 * bf c 26 2 ≤ winSize s core x →
      imemIdle s core lo (4 * bf c 26 2) = true →
      (bit (bf c 28 1) 0 = false → host.length = 4 * bf c 26 2 →
        exec (.loadImem core host) s = .next (finish (wrMem s (spImem core + lo) host) r stOK [])) ∧
      (bit (bf c 28 1) 0 = true → fabBad (onDie s (core / 1024)) (bf c 16 8) (4 * bf c 26 2) = none →
        exec (.loadImem core host) s =
          .next (finish (wrMem s (spImem core + lo) (rdMem s (bf c 16 8) (4 * bf c 26 2))) r stOK []))) ∧
    (engRun s (pgCor core * 2 + 1) (fun r => r.cmd.op == 2 && r.prog == 0) = some r → c.op = 2 →
      ctxBound s core x = true →
      regF s (pgJob (ctxJob s core x)) 0x140 0 1 = 1 → (ctxOf s core x).st = 0 ∨ (ctxOf s core x).st = 3 →
      bf c 18 2 < winSize s core x → bf c 18 2 % 4 = 0 →
      ∃ t, exec (.startContext core) s = .next t ∧ (ctxOf t core x).st = 1 ∧ (ctxOf t core x).pc = bf c 18 2 ∧
        (∀ k, k < 32 → getReg (ctxOf t core x) k =
          (if k = 1 then bf c 24 8 else if k = 2 then bf c 32 8 else if k = 3 then bf c 40 8
            else if k = 4 then bf c 48 8 else 0)) ∧
        (ctxOf t core x).starter = some c ∧ (∀ x', x' ≠ x → x' < 4 → ctxOf t core x' = ctxOf s core x')) ∧
    (runOp s (pgCor core) 3 = some r →
      ((ctxOf s core x).st = 1 ∨ (ctxOf s core x).st = 2 →
        ∃ t, exec (.stopContext core) s = .next t ∧ (ctxOf t core x).st = 3 ∧
          (ctxOf t core x).haltStatus = stPreempted ∧
          (∀ x', x' ≠ x → x' < 4 → ctxOf t core x' = ctxOf s core x')) ∧
      ((ctxOf s core x).st = 0 ∨ (ctxOf s core x).st = 3 → exec (.stopContext core) s = .next (finish s r stOK []))) ∧
    (runOp s (pgCor core) 5 = some r → (ctxOf s core x).st = 0 ∨ (ctxOf s core x).st = 3 →
      exec (.syncSet core) s = .next (finish (setSync s core x (bf c 17 1 % 16) (bf c 18 2)) r stOK []))

/-! ### Registers, violations, host queues -/

/-- REGISTER_WRITE. A write of function 0 to ERR_MASK, EVT_ENABLE or CNT_INDEX stores what the register implements,
and a write to a register of an UPF page takes the writable bits of the value and keeps the others; nothing else
changes. -/
def Obligations.RegisterWriteStoresWritableBits : Prop :=
  ∀ (s : State) (page : Nat) (b : Blk) (i : Nat) (v : W64), HostReach s page → pageBlk page = some (b, i) →
    exec (.registerWrite 0 0 (bar0 page 0x28) 8 v) s = .next (setReg s page 0x28 (v.toNat &&& errMaskOf b)) ∧
    exec (.registerWrite 0 0 (bar0 page 0x40) 8 v) s = .next (setReg s page 0x40 (v.toNat &&& evtMaskOf b)) ∧
    exec (.registerWrite 0 0 (bar0 page 0x50) 8 v) s =
      .next { s with cntIdx := mapPut 0 s.cntIdx (page * 16) (v.toNat % 65536) } ∧
    (b = .upf → ∀ off w, 0x100 ≤ off → off < 0x1000 → off % 8 = 0 → regRow .upf off = some w →
      ∃ t, exec (.registerWrite 0 0 (bar0 page off) 8 v) s = .next t ∧
        (∀ k, k < 64 → bit (reg t page off) k = if bit w.rw k then v.getLsbD k else bit (reg s page off) k) ∧
        (∀ p o, regKey p o ≠ regKey page off → reg t p o = reg s p o) ∧ t.mem = s.mem ∧ t.engs = s.engs)

/-- ERR_STATUS_CLEAR. Every ERR_STATUS bit written 1 clears, every other stays, and nothing else changes (R39). -/
def Obligations.ErrStatusClearsTheWrittenOnes : Prop :=
  ∀ (s : State) (page : Nat) (v : W64), HostReach s page →
    exec (.errStatusClear 0 page v) s =
      .next (setReg s page 0x20 (BitVec.ofNat 64 (reg s page 0x20) &&& ~~~v).toNat)

/-- REGISTER_WRITE and VIOLATING_READ that break the size rule or the ownership rule (R41 to R43): the write changes
no register but what it logs, the read is answered with a Completer Abort and no data, and the page reached sets bit 0
for the size rule, bit 1 for the ownership rule, logging the access if no error is logged yet. -/
def Obligations.ViolationsAreLoggedAndHaveNoEffect : Prop :=
  ∀ (s : State) (fn off len b : Nat) (v : W64), s.cxlUp = true → fn < 16 → pageBlk (off / 4096) ≠ none →
    (broken s fn 0 off len true = some b →
      ∃ t, exec (.registerWrite fn 0 off len v) s = .next t ∧ bit (reg t (off / 4096) 0x20) b = true ∧
        OnlyReported s t) ∧
    (broken s fn 0 off len false = some b →
      ∃ t, exec (.violatingRead fn 0 off len) s = .next t ∧ bit (reg t (off / 4096) 0x20) b = true ∧
        OnlyReported s t ∧ t.reply = { abort := true, status := stAccess, data := [], poison := false }) ∧
    (len ≠ 8 ∨ off % 8 ≠ 0 → ∀ w, broken s fn 0 off len w = some 0) ∧
    (len = 8 → off % 8 = 0 → fn ≠ 0 → s.fabricOpen = false → ∀ w, broken s fn 0 off len w = some 1)

/-- JOB_QUEUE_RANGE_WRITE, JOB_EVT_HEAD_WRITE (R46). A range of at most 16 groups inside the 256 that meets no other
function's range, while every queue of the old range is DISABLED, is taken; any other is refused with RANGE_REJECTED
and changes no range; a write by a job function is an owner violation. Doorbell slot i of the function is queue 16 *
BASE_GROUP + i. A new head of the event ring is stored, and where no record was dropped nothing else changes. -/
def Obligations.QueueRangeAndEventHeadWrites : Prop :=
  ∀ (s : State) (f : Nat) (v : W64), HostReach s (pgJob f) → f < 16 →
    let meets := (upTo 16).any (fun g => g != f &&
      rangesMeet (v.toNat % 256) (v.toNat / 65536 % 32) (regF s (pgJob g) 0x100 0 8) (regF s (pgJob g) 0x100 16 5))
    let busy := (upTo (16 * regF s (pgJob f) 0x100 16 5)).any
      (fun i => (hqOf s (16 * regF s (pgJob f) 0x100 0 8 + i)).st != 0)
    (v.toNat / 65536 % 32 ≤ 16 ∧ v.toNat % 256 + v.toNat / 65536 % 32 ≤ 256 ∧ meets = false ∧ busy = false →
      exec (.jobQueueRangeWrite 0 f v) s = .next (setReg s (pgJob f) 0x100 (v.toNat &&& 0x1F00FF))) ∧
    (16 < v.toNat / 65536 % 32 ∨ 256 < v.toNat % 256 + v.toNat / 65536 % 32 ∨ meets = true ∨ busy = true →
      ∃ t, exec (.jobQueueRangeWrite 0 f v) s = .next t ∧ bit (reg t (pgJob f) 0x20) 8 = true ∧ OnlyReported s t) ∧
    (∀ g, 1 ≤ g → g < 16 → ∃ t, exec (.jobQueueRangeWrite g f v) s = .next t ∧ bit (reg t (pgJob f) 0x20) 1 = true ∧
      OnlyReported s t) ∧
    (∀ i, i < 16 * regF s (pgJob f) 0x100 16 5 → slotQueue s f i = 16 * regF s (pgJob f) 0x100 0 8 + i) ∧
    (∃ t, exec (.jobEvtHeadWrite 0 f v) s = .next t ∧ reg t (pgJob f) 0x118 = v.toNat % 4096 ∧
      (regF s (pgJob f) 0x120 32 32 = 0 → t = setReg s (pgJob f) 0x118 (v.toNat % 4096)))

/-- QUEUE_ENABLE, QUEUE_DISABLE, QRESET, QUEUE_DRAIN_DONE (R47, R48). HQU_SQ_BASE, HQU_CQ_BASE and HQU_Q_CFG ignore
writes while the queue is not DISABLED. A DISABLED queue whose sizes are legal becomes RUNNING with zero indices and
PHASE 1, with illegal sizes it stops with cause 5; clearing ENABLE makes a RUNNING queue DRAINING, QRESET resets a
DISABLED queue at once and drains any other; a draining queue with nothing outstanding becomes DISABLED. -/
def Obligations.HostQueueControl : Prop :=
  ∀ (s : State) (q : Nat), HostReach s (pgHqu q) → q < 4096 → (hqOf s q).qreset = false →
    let cfg := reg s (pgHqu q) (hqOff q + 0x10)
    let ctrl (v : Nat) : State := setReg s (pgHqu q) (hqOff q + 0x18) v
    ((hqOf s q).st = 0 → 4 ≤ cfg % 32 ∧ cfg % 32 ≤ 16 → 4 ≤ cfg / 256 % 32 ∧ cfg / 256 % 32 ≤ 16 →
      exec (.queueEnable 0 q) s = .next (setHq (ctrl 1) q
        { st := 1, cause := 0, phase := true, outstanding := 0, sqHead := 0, sqTail := 0, cqTail := 0, cqHead := 0
          qreset := false, unsig := 0, coalAt := 0, hold := false })) ∧
    ((hqOf s q).st ≠ 0 → ∀ off v, off = 0 ∨ off = 8 ∨ off = 16 →
      exec (.registerWrite 0 0 (bar0 (pgHqu q) (hqOff q + off)) 8 v) s = .next s) ∧
    ((hqOf s q).st = 0 → cfg % 32 < 4 ∨ 16 < cfg % 32 ∨ cfg / 256 % 32 < 4 ∨ 16 < cfg / 256 % 32 →
      ∃ t, exec (.queueEnable 0 q) s = .next t ∧ (hqOf t q).st = 2 ∧ (hqOf t q).cause = 5 ∧
        (∀ q', q' ≠ q → hqOf t q' = hqOf s q')) ∧
    ((hqOf s q).st = 1 → exec (.queueDisable 0 q) s = .next (setHq (ctrl 0) q { hqOf s q with st := 3 })) ∧
    ((hqOf s q).st ≠ 0 → exec (.qreset 0 q) s = .next
      (setHq s q { hqOf s q with st := 3, cause := 0, qreset := true })) ∧
    ((hqOf s q).st = 0 → ∃ t, exec (.qreset 0 q) s = .next t ∧ hqOf t q = {} ∧
      bit (reg t (pgHqu q) (hqOff q + 0x18)) 0 = false) ∧
    ((hqOf s q).st = 3 → (hqOf s q).outstanding = 0 → s.pstate < 2 →
      exec (.queueDrainDone q) s = .next (setHq s q { hqOf s q with st := 0 }))

/-- DOORBELL_SQ_TAIL, DOORBELL_CQ_HEAD (R49, R50). A legal value for a RUNNING queue is taken and nothing else
changes; an SQ_TAIL not below the queue's size stops the queue with cause 1; a doorbell of a queue that is not RUNNING
is dropped and its HQU page sets DOORBELL_DROPPED. -/
def Obligations.DoorbellsMoveTheRingIndices : Prop :=
  ∀ (s : State) (fn slot : Nat) (v : W64), BellReach s fn slot →
    let q := slotQueue s fn slot
    let h := hqOf s q
    let n := 2 ^ regF s (pgHqu q) (hqOff q + 0x10) 8 5
    (h.st = 1 → v.toNat % 65536 < 2 ^ regF s (pgHqu q) (hqOff q + 0x10) 0 5 →
      exec (.doorbellSqTail fn slot v) s = .next (setHq s q { h with sqTail := v.toNat % 65536 })) ∧
    (h.st = 1 → 2 ^ regF s (pgHqu q) (hqOff q + 0x10) 0 5 ≤ v.toNat % 65536 →
      ∃ t, exec (.doorbellSqTail fn slot v) s = .next t ∧ (hqOf t q).st = 2 ∧ (hqOf t q).cause = 1) ∧
    (h.st = 1 → v.toNat % 65536 < n → (v.toNat % 65536 + n - h.cqHead) % n ≤ (h.cqTail + n - h.cqHead) % n →
      exec (.doorbellCqHead fn slot v) s = .next (setHq s q { h with cqHead := v.toNat % 65536 })) ∧
    (h.st ≠ 1 →
      (∃ t, exec (.doorbellSqTail fn slot v) s = .next t ∧ bit (reg t (pgHqu q) 0x20) 8 = true ∧ OnlyReported s t) ∧
      (∃ t, exec (.doorbellCqHead fn slot v) s = .next t ∧ bit (reg t (pgHqu q) 0x20) 8 = true ∧ OnlyReported s t))

/-- COMMAND_DISPATCH, RING_ACCESS_FAILED, COAL_TIME_EXPIRY. A command that passes R57 enters its engine's queue, and
its host queue's head and OUTSTANDING advance; while the engine's queue is full nothing happens. A failed ring access
stops a RUNNING queue with cause 3. At COAL_TIME the unsignalled completions are signalled. -/
def Obligations.HostQueueEvents : Prop :=
  (∀ (s : State) (q : Nat) (bytes : List Byte) (c : QCmd), s.pstate < 2 → bytes.length = 64 →
    mayDispatch s q (bit (num bytes 2 1) 0) = true →
    chkHost s bytes
      { id := s.nextId, page := num bytes 4 2 % 2 ^ 15, op := num bytes 0 1, body := bytes.drop 16
        src := .host q (hqOf s q).sqHead (num bytes 8 8) (bit (num bytes 2 1) 1) (bit (num bytes 2 1) 2)
        fn := fnOfQueue s q } = (c, none) →
    (queueFull s c = true → exec (.commandDispatch q bytes) s = .next s) ∧
    (queueFull s c = false →
      ∃ t, exec (.commandDispatch q bytes) s = .next t ∧
        engOf t (cmdKey c) = { engOf s (cmdKey c) with queue := (engOf s (cmdKey c)).queue ++ [c] } ∧
        hqOf t q = { hqOf s q with
          sqHead := ((hqOf s q).sqHead + 1) % 2 ^ regF s (pgHqu q) (hqOff q + 0x10) 0 5
          outstanding := (hqOf s q).outstanding + 1, hold := bit (num bytes 2 1) 2 } ∧
        t.mem = s.mem ∧ t.regs = s.regs ∧ t.ctxs = s.ctxs ∧ t.nextId = s.nextId + 1)) ∧
  (∀ (s : State) (q : Nat) (completion : Bool), s.pstate < 2 → (hqOf s q).st = 1 →
    ∃ t, exec (.ringAccessFailed ⟨q, completion⟩) s = .next t ∧ (hqOf t q).st = 2 ∧ (hqOf t q).cause = 3 ∧
      bit (reg t (pgHqu q) 0x20) 9 = true ∧ (∀ q', q' ≠ q → hqOf t q' = hqOf s q')) ∧
  (∀ (s : State) (q : Nat), s.pstate < 2 → (hqOf s q).unsig ≠ 0 → (hqOf s q).coalAt ≠ 0 → (hqOf s q).coalAt ≤ s.time →
    bit (reg s (pgHqu q) (hqOff q + 0x10)) 32 = true →
    ∃ t, exec (.coalTimeExpiry q) s = .next t ∧ hqOf t q = { hqOf s q with unsig := 0, coalAt := 0 } ∧
      t.mem = s.mem ∧ t.regs = s.regs ∧ t.engs = s.engs ∧ (t.msixPend ≠ s.msixPend ∨ t.msixSent ≠ s.msixSent ∨
        mapGet 0 s.msixPend (fnOfQueue s q * 512 + (2 + (q - 16 * regF s (pgJob (fnOfQueue s q)) 0x100 0 8))) = 1))

/-- ENGINE_COMMAND_START, ENGINE_COMMAND_COMPLETE. The one startable command that heads its job's commands starts,
leaves the queue, and joins the commands that the engine works on, with the time; no other engine, queue or context
changes, and where no check code corrects a word as it starts no register or byte does either. One for a core that is
fenced ends with CHECK_FAIL_FENCED (R92). A command whose effect is complete leaves its engine; on OK the counter that
its sync word posts goes up by 1 modulo 2^16 (R69); a host-queue command makes OUTSTANDING of its queue one less;
another status halts the context that issued the command. -/
def Obligations.EngineCommandsStartAndComplete : Prop :=
  (∀ (s : State) (e : Nat) (met : Decay) (c : QCmd), FabricOn s →
    (queueHeads (engOf s e)).filter (startable s e) = [c] →
    ∃ t, exec (.engineCommandStart ⟨e, met⟩) s = .next t ∧
      (∃ r, (engOf t e).running = (engOf s e).running ++ [r] ∧ r.cmd = c ∧
        (onFenced s c = true → r.fin = some (stCheckFenced, [])) ∧
        (onFenced s c = false → r.since = s.time ∧ r.began = true ∧
          (¬ (cmdBlk c = some .mxa ∧ c.op = 1 ∧ (mxaOf s c.core).shadow.st ≠ 0) → r.fin = none))) ∧
      (engOf t e).queue = (engOf s e).queue.filter (fun y => y.id != c.id) ∧ (engOf t e).lastJob = c.job ∧
      (∀ e', e' ≠ e → engOf t e' = engOf s e') ∧ t.hqs = s.hqs ∧ t.ctxs = s.ctxs ∧
      (met.soft = [] → t.mem = s.mem ∧ t.regs = s.regs)) ∧
  (∀ (s : State) (e id : Nat) (r : RCmd) (st : Nat) (res : List Byte), s.pstate < 2 →
    ((engOf s e).running ++ (engOf s e).aside).find? (fun r => r.cmd.id == id && r.fin.isSome) = some r →
    r.fin = some (st, res) →
    ∃ t, exec (.engineCommandComplete e id) s = .next t ∧
      (∀ q i tag si so, r.cmd.src = .host q i tag si so →
        (engOf t e).running = (engOf s e).running.filter (fun y => y.cmd.id != id) ∧
        (hqOf t q).outstanding = (hqOf s q).outstanding - 1 ∧
        (st = stOK → hasSync r.cmd = true → bit (syncWord r.cmd) 28 = true →
          syncCtr t r.cmd.core r.cmd.ctx (bits (syncWord r.cmd) 24 4) =
            (syncCtr s r.cmd.core r.cmd.ctx (bits (syncWord r.cmd) 24 4) + 1) % 65536)) ∧
      (r.cmd.src = .ctx → st = stOK →
        (engOf t e).running = (engOf s e).running.filter (fun y => y.cmd.id != id) ∧ t.hqs = s.hqs) ∧
      (r.cmd.src = .ctx → st ≠ stOK →
        (ctxOf s r.cmd.core r.cmd.ctx).st = 1 ∨ (ctxOf s r.cmd.core r.cmd.ctx).st = 2 →
        (ctxOf t r.cmd.core r.cmd.ctx).st = 3 ∧ (ctxOf t r.cmd.core r.cmd.ctx).haltStatus = st))

/-! ### Arrays and vector engines -/

/-- TILE_MOVE (R82 to R85). A move whose source can be read and whose destination can be written puts the rows of its
tile into the destination, or loads the shadow set, which is then FULL for its job, and completes; and a move of one
row of bytes that does not transpose copies exactly those bytes, changing no other byte. -/
def Obligations.TileMoveStoresOrLoadsItsTile : Prop :=
  ∀ (s : State) (core : Nat) (r : RCmd), CoreOn s core → runOp s (pgCor core) 4 = some r →
    let x := tileOf r.cmd
    let u := onDie s (core / 1024)
    operandBad u (tileBase core x.sp x.src) x.ss x.fmt x.rows x.cols = none →
    (x.dp = 3 →
      exec (.tileMove core) s = .next (atDie (core / 1024) (fun u => finish (tileLoad u core r.cmd.job x) r stOK [])
        s) ∧
      ((mxaOf s core).shadow.drop = false →
        ∃ t, exec (.tileMove core) s = .next t ∧ (mxaOf t core).shadow.st = 2 ∧ (mxaOf t core).shadow.job = r.cmd.job ∧
          (mxaOf t core).shadow.fmt = x.fmt ∧ t.mem = s.mem ∧ t.regs = s.regs)) ∧
    (x.dp ≠ 3 → tileDstBad u core x = none →
      exec (.tileMove core) s = .next (atDie (core / 1024) (fun u => finish (tileStore u core x) r stOK []) s) ∧
      (x.rows = 1 → x.tr = false → x.fmt ≠ 5 →
        ∃ t, exec (.tileMove core) s = .next t ∧
          rdMem t (tileBase core x.dp x.dst) (rowBytes x.fmt x.cols) = rdMem s (tileBase core x.sp x.src)
            (rowBytes x.fmt x.cols) ∧
          (∀ a, a < tileBase core x.dp x.dst ∨ tileBase core x.dp x.dst + rowBytes x.fmt x.cols ≤ a →
            rdByte t a = rdByte s a) ∧
          t.regs = s.regs ∧ t.ctxs = s.ctxs))

/-- MXA_MATMUL. A started product begins when its checks hold and its operands can be read, with the shadow set
LOADING for its job; a product under way goes on with its next row tile. One of a single row tile and pass, into the
finished-tile queue, with the check column off, puts an entry of its M rows of sums at the end of the queue (R97,
R114, R165), leaves the sets empty and its buffer free, and ends. -/
def Obligations.MatmulBeginsGoesOnAndPushesItsRows : Prop :=
  (∀ (s : State) (core : Nat) (faults : List CheckFault) (r : RCmd), CoreOn s core → runOp s (pgMxa core) 1 = some r →
    let x := matmulOf r.cmd
    let m := mxaOf s core
    let u := onDie s (core / 1024)
    (r.prog = 0 → ¬ (m.buf0.st = 1 ∧ m.buf0.job = r.cmd.job) → ¬ (m.buf1.st = 1 ∧ m.buf1.job = r.cmd.job) →
      (x.dest = 2 → slotNext s (spClu (core / 8) + x.out) ≤ x.seq) →
      operandBad u (spScratch core + x.a) x.as x.af x.m x.k = none →
      operandBad u (spScratch core + x.b) x.bs x.bfmt (bRows x) (bCols x) = none →
      exec (.mxaMatmul core faults) s = .next (atDie (core / 1024) (fun u => mmGo faults mmFuel
        (setMxa u core { m with
          shadow := { st := 1, job := r.cmd.job, fmt := x.bfmt, shape := mmShape x }, active := {}, held := false })
        core r) s)) ∧
    (r.prog ≠ 0 → exec (.mxaMatmul core faults) s =
      .next (atDie (core / 1024) (fun u => mmGo faults mmFuel u core r) s))) ∧
  (∀ (s : State) (core kp np i : Nat) (r : RCmd), CoreOn s core → runOp s (pgMxa core) 1 = some r →
    let x := matmulOf r.cmd
    let m := mxaOf s core
    let u := onDie s (core / 1024)
    r.prog = 0 → r.outs = [] → r.sets = true → r.onSib = false → r.passes = 0 → r.blocks = 0 → m.buf0.st = 0 →
      m.buf1.st = 0 →
    x.dest = 0 → x.m410 = false → bit (reg s (pgMxa core) 0x100) 0 = false →
    shapeDW x.bfmt (mmShape x) = some (kp, np) → 0 < x.m → x.m ≤ 64 → x.m ≤ bufRows np → 0 < x.n → x.n ≤ np →
      0 < x.k → x.k ≤ kp →
    ftqFree (venOf s core) = some i →
    operandBad u (spScratch core + x.a) x.as x.af x.m x.k = none →
    operandBad u (spScratch core + x.b) x.bs x.bfmt (bRows x) (bCols x) = none →
    ∃ t, exec (.mxaMatmul core []) s = .next t ∧ ended t (pgMxa core * 2) r.cmd.id stOK ∧
      (venOf t core).ftq = (venOf s core).ftq ++
        [{ slot := i, job := r.cmd.job, rows := x.m, width := np, int := x.bfmt == 2 }] ∧
      (mxaOf t core).buf0 = {} ∧ (mxaOf t core).buf1 = m.buf1 ∧ (mxaOf t core).shadow = {} ∧
        (mxaOf t core).active = {} ∧
      t.regs = s.regs ∧
      (∀ j n, j < x.m → n < np → rdNum t (spFtq core i + 4 * (j * np + n)) 4 =
        (passRow (x.bfmt == 2) false (tileSet s core r.cmd.job x np 0 0 x.k) np
          (rowAt s (spScratch core + x.a) x.as x.af x.m x.k j 0 x.k) (List.replicate np 0)).getD n 0 % 2 ^ 32))

/-- MXA_PASS (R104, R115). A pass whose set, rows and buffer fit, with the check column off, adds its row sums to the
rows of its buffer, or starts them from zero, and completes. -/
def Obligations.PassAddsItsRowsToTheBuffer : Prop :=
  ∀ (s : State) (core dp w : Nat) (faults : List CheckFault) (r : RCmd), CoreOn s core →
    runOp s (pgMxa core) 2 = some r →
    let c := r.cmd
    let f := bf c 29 1
    let m := mxaOf s core
    let set := if bit f 0 then m.shadow else m.active
    let b := bits f 3 1
    let buf := bufOf m b
    let n := bf c 24 2
    set.st = 2 → set.job = c.job → shapeDW set.fmt set.shape = some (dp, w) → pairOk set.fmt (bf c 28 1) = true →
    (bit f 4 = true → set.fmt = 3 ∧ set.shape = 0) → bf c 26 2 + n ≤ bufRows w → bf c 20 4 % 32 = 0 →
    rowBytes (bf c 28 1) dp ≤ bf c 20 4 → (buf.st = 0 ∨ (buf.job = c.job ∧ buf.width = w ∧ buf.int = (set.fmt == 2))) →
    scratchOk s core c.ctx (bf c 16 4) (operandBytes (bf c 28 1) n dp (bf c 20 4)) = true →
    operandBad (onDie s (core / 1024)) (spScratch core + bf c 16 4) (bf c 20 4) (bf c 28 1) n dp = none →
    (exec (.mxaPass core faults) s = .next (atDie (core / 1024) (fun u => passGo u core r faults set dp w) s)) ∧
    (bit (reg s (pgMxa core) 0x100) 0 = false → r.onSib = false →
      ∃ t, exec (.mxaPass core faults) s = .next t ∧ ended t (pgMxa core * 2) c.id stOK ∧
        (bufOf (mxaOf t core) b).st ≠ 0 ∧ (buf.st = 0 → (bufOf (mxaOf t core) b).width = w) ∧ t.regs = s.regs ∧
        (∀ i, i < n → accRow t core b w (bf c 26 2 + i) =
          (passRow (set.fmt == 2) (bit f 4) set w (rowAt s (spScratch core + bf c 16 4) (bf c 20 4) (bf c 28 1)
            n dp i 0 dp)
            (if bit f 2 then List.replicate w 0 else accRow s core b w (bf c 26 2 + i))).map (· % 2 ^ 32)))

/-- MXA_DRAIN, FINISHED_TILE_ROOM, SPILL_CONTRIBUTION_RESUME (R108, R109, R111, R165). A drain of at most 64 rows into
the finished-tile queue with room puts one entry there, frees its buffer and completes; one without room keeps its row
block, and FINISHED_TILE_ROOM lets it go on. A drain set aside with its last row block, whose turn has come, adds it
to its slot: the slot's NEXT_SEQ becomes SEQ + 1, its DONE zero, and the command ends. -/
def Obligations.DrainsFillTheQueueOrTheirSlot : Prop :=
  (∀ (s : State) (core i : Nat) (r : RCmd), CoreOn s core → runOp s (pgMxa core) 3 = some r →
    let c := r.cmd
    let bi := bits (bf c 16 1) 0 1
    let b := bufOf (mxaOf s core) bi
    let rows := bf c 18 2
    r.outs = [] → r.prog = 0 → b.st = 1 → b.job = c.job → b.m410 = false → 0 < rows → rows ≤ 64 →
      rows ≤ bufRows b.width →
    bits (bf c 17 1) 0 2 = 0 → badIn s (accAddr core bi b.width 0 0) (4 * rows * b.width) = none →
    ftqFree (venOf s core) = some i →
    ∃ t, exec (.mxaDrain core) s = .next t ∧ ended t (pgMxa core * 2) c.id stOK ∧
      (venOf t core).ftq =
        (venOf s core).ftq ++ [{ slot := i, job := c.job, rows := rows, width := b.width, int := b.int }] ∧
      bufOf (mxaOf t core) bi = {} ∧ t.regs = s.regs ∧ t.ctxs = s.ctxs ∧
      (∀ m n, m < rows → n < b.width →
        rdNum t (spFtq core i + 4 * (m * b.width + n)) 4 = rdNum s (accAddr core bi b.width m n) 4)) ∧
  (∀ (s : State) (core i : Nat) (r : RCmd) (o : OutBlk), CoreOn s core →
    engRun s (pgMxa core * 2) (fun r => !r.outs.isEmpty) = some r → r.cmd.op = 3 → cmdKey r.cmd = pgMxa core * 2 →
      r.outs = [o] → r.prog = 0 →
    o.bufLast = true → blkBad s core o = none → bits (bf r.cmd 17 1) 0 2 = 0 →
      (bufOf (mxaOf s core) (bits (bf r.cmd 16 1) 0 1)).m410 = false →
    ftqFree (venOf s core) = some i → 0 < o.vals.length →
    ∃ t, exec (.finishedTileRoom core) s = .next t ∧ ended t (pgMxa core * 2) r.cmd.id stOK ∧
      (venOf t core).ftq = (venOf s core).ftq ++ [{ slot := i, job := r.cmd.job, rows := o.vals.length
                                                    width := (o.vals.headD []).length
                                                    int := (bufOf (mxaOf s core) (bits (bf r.cmd 16 1) 0 1)).int }] ∧
      bufOf (mxaOf t core) o.buf = {} ∧ t.regs = s.regs ∧ t.ctxs = s.ctxs) ∧
  (∀ (s : State) (core id : Nat) (r : RCmd) (o : OutBlk), CoreOn s core →
    (engOf s (pgMxa core * 2)).aside.find? (fun r => r.cmd.id == id && r.fin.isNone) = some r →
    (∀ y ∈ (engOf s (pgMxa core * 2)).running, y.cmd.id ≠ id) →
    (engOf s (pgMxa core * 2)).running.any (fun y => y.began && y.fin.isNone) = false →
    r.cmd.page = pgMxa core → r.cmd.op = 3 → r.outs = [o] → r.prog = 0 → blkBad s core o = none → o.last = true →
      o.bufLast = true → o.idx = 0 →
    let b := bufOf (mxaOf s core) (bits (bf r.cmd 16 1) 0 1)
    let x := drainOut r.cmd b
    let slot := spClu (core / 8) + x.out
    let a := slot + 64 + o.row * x.os + 4 * o.col
    x.dest = 2 → 0 < x.seq → slotNext s slot = x.seq → slotDone s slot = 0 → badIn s slot 16 = none →
    slotBad s a x.os o.vals.length (4 * (o.vals.headD []).length) = none →
    ∃ t, exec (.spillContributionResume (pgMxa core * 2) id) s = .next t ∧ slotNext t slot = x.seq + 1 ∧
      slotDone t slot = 0 ∧ bufOf (mxaOf t core) o.buf = {} ∧
      (∃ y ∈ (engOf t (pgMxa core * 2)).aside, y.cmd.id = id ∧ y.fin = some (stOK, [])) ∧
      (∀ v, o.vals = [v] → ∀ n, n < v.length → rdNum t (a + 4 * n) 4 =
        accAdd b.int (rdNum s (a + 4 * n) 4) (if b.m410 then ftz32 (v.getD n 0) else v.getD n 0) % 2 ^ 32))

/-- MXA_RELEASE, MXA_INJECT, VEN_HIST_FLUSH, VEN_RELEASE (R106, R168, R176). MXA_RELEASE empties the sets of its job
and frees the buffers FILLING for it, leaving those of other jobs (a set that a started load still fills is emptied
when that ends); a write of MXA_INJECT sets the number of passes to perturb; a flush that overwrites writes the slot's
67 counters and its SATURATED word and empties the slot; VEN_RELEASE makes the masked buffers of its job unoccupied,
and no others. -/
def Obligations.ReleasesGiveUpWhatTheirJobHolds : Prop :=
  (∀ (s : State) (core : Nat) (r : RCmd), CoreOn s core → runOp s (pgMxa core) 4 = some r →
    Alone s (pgMxa core * 2) r → (engOf s (pgMxa core * 2)).running.filter (fun y => y.fin.isNone &&
      y.cmd.job == r.cmd.job) = [r] →
    let m := mxaOf s core
    ∃ t, exec (.mxaRelease core) s = .next t ∧ ended t (pgMxa core * 2) r.cmd.id stOK ∧
      (mxaOf t core).shadow = (if m.shadow.st ≠ 0 ∧ m.shadow.job = r.cmd.job then
        (if loadBusy s core r.cmd.job then { m.shadow with drop := true } else {}) else m.shadow) ∧
      (mxaOf t core).active = (if m.active.st ≠ 0 ∧ m.active.job = r.cmd.job then {} else m.active) ∧
      (mxaOf t core).buf0 = (if m.buf0.st = 1 ∧ m.buf0.job = r.cmd.job then {} else m.buf0) ∧
      (mxaOf t core).buf1 = (if m.buf1.st = 1 ∧ m.buf1.job = r.cmd.job then {} else m.buf1) ∧
      t.mem = s.mem ∧ t.regs = s.regs ∧ t.vens = s.vens) ∧
  (∀ (s : State) (core count : Nat), HostReach s (pgMxa core) → core < 2048 → count < 4 →
    exec (.mxaInject 0 core count) s = .next (setMxa s core { mxaOf s core with inject := count })) ∧
  (∀ (s : State) (core : Nat) (r : RCmd), CoreOn s core →
    let f := bf r.cmd 16 1
    let a := spScratch core + bf r.cmd 20 4
    (runOp s (pgVen core) 4 = some r → bit f 2 = true → writeBad (onDie s (core / 1024)) a 272 = none →
      ∃ t, exec (.venHistFlush core) s = .next t ∧ ended t (pgVen core * 2) r.cmd.id stOK ∧
        mapGet {} (venOf t core).hs (bits f 0 2) = {} ∧
        (∀ k, k < 67 → rdNum t (a + 4 * k) 4 = min (mapGet 0 (mapGet {} (venOf s core).hs (bits f 0 2)).ctr k)
          0xFFFFFFFF) ∧
        rdNum t (a + 268) 4 = b2n (mapGet {} (venOf s core).hs (bits f 0 2)).sat ∧
        (∀ b, b < a ∨ a + 272 ≤ b → rdByte t b = rdByte s b)) ∧
    (runOp s (pgVen core) 5 = some r →
      ∃ t, exec (.venRelease core) s = .next t ∧ ended t (pgVen core * 2) r.cmd.id stOK ∧
        (∀ b, b < 6 → tbOcc (venOf t core) b =
          (if bit f b && tbOcc (venOf s core) b == r.cmd.job + 1 then 0 else tbOcc (venOf s core) b)) ∧
        (venOf t core).ftq = (venOf s core).ftq ∧ t.mem = s.mem ∧ t.regs = s.regs))

/-- GMV_MATVEC (R111, R125 to R128). A product whose operands and vector buffer can be read puts its V rows into Y,
element by element, and completes; into a slot it goes on block by block, as a MATMUL drains, and one of a single
column tile whose turn has come adds its rows to the slot and completes. -/
def Obligations.MatvecWritesItsOutput : Prop :=
  ∀ (s : State) (g : Nat) (rc : RCmd), RegionOn s g → runOp s (pgGmv g) 1 = some rc →
    let x := matvecOf rc.cmd
    let u := onDie s (g / 16)
    let xa := spClu (8 * g + x.xc) + x.x
    let ya := spClu (8 * g + x.yc) + x.y
    let vb := up64 (x.v * mvXs x)
    let y (v n : Nat) : Nat := mvElem s g x (mvShape x).1 v n
    operandBad u x.w x.ws x.wf (mvRows x) (mvCols x) = none → operandBad u xa (mvXs x) x.xf x.v x.k = none →
    badIn s (spVec g) vb = none →
    (x.dest = 0 → rowsPartial u x.v ya (up64 (2 * x.n)) (2 * x.n) = none →
      ∃ t, exec (.gmvMatvec g) s = .next t ∧ ended t (pgGmv g * 2) rc.cmd.id stOK ∧ t.regs = s.regs ∧ t.mxas = s.mxas ∧
        (∀ v n, v < x.v → n < x.n →
          rdNum t (ya + v * up64 (2 * x.n) + 2 * n) 2 = encBf (dec32 (y v n)) % 65536) ∧
        (∀ a, (∀ v, v < x.v → a < ya + v * up64 (2 * x.n) ∨ ya + v * up64 (2 * x.n) + 2 * x.n ≤ a) →
          a < spVec g ∨ spVec g + vb ≤ a → rdByte t a = rdByte s a)) ∧
    (x.dest ≠ 0 → (x.dest = 1 → slotNext s ya ≤ x.seq) →
      exec (.gmvMatvec g) s = .next (atDie (g / 16) (fun u =>
        mvFlush (wrMem u (spVec g) (padTo vb (mvVec u g x))) g rc x (mvBlocks u g x)) s)) ∧
    (x.dest ≠ 0 → (x.dest = 1 → 0 < x.seq ∧ slotNext s ya = x.seq ∧ slotDone s ya = 0) → 0 < x.n → x.n ≤ (mvShape x).2 →
      0 < x.v → badIn s ya 16 = none → slotBad s (ya + 64) (up64 (4 * x.n)) x.v (4 * x.n) = none →
      ∃ t, exec (.gmvMatvec g) s = .next t ∧ ended t (pgGmv g * 2) rc.cmd.id stOK ∧ t.regs = s.regs ∧ t.mxas = s.mxas ∧
        (x.dest = 1 → slotNext t ya = x.seq + 1 ∧ slotDone t ya = 0) ∧
        (x.v = 1 → ∀ n, n < x.n → rdNum t (ya + 64 + 4 * n) 4 =
          accAdd false (rdNum s (ya + 64 + 4 * n) 4) (y 0 n) % 2 ^ 32))

/-- VEN_MAP, VEN_REDUCE, VEN_SHUFFLE (R162 to R174). Where its sources can be read and its destinations written, each
writes its results, removes the finished-tile entry if POP says so, and completes; into a tile buffer, one row of a
map with B immediate starts with the function of its first element (R169, R171), of a reduction with what its
operation gives (R172), of a reversal with the last element of the source, bit for bit where the formats agree (R173).
-/
def Obligations.VectorCommandsWriteTheirResults : Prop :=
  ∀ (s : State) (core op : Nat) (r : RCmd), CoreOn s core → runOp s (pgVen core) op = some r →
    let x := venCmdOf r.cmd
    let e := venEntry s r.cmd
    let u := onDie s (core / 1024)
    entryOk e (vSources op x) = true → opsBad u core e.slot (vSources op x) = none →
      opsPartial u core (vDests op x) = none →
    (op = 1 → exec (.venMap core) s = .next (atDie (core / 1024)
      (fun u => finish (venPop (mapEff u r x e) r.cmd x) r stOK []) s)) ∧
    (op = 1 → r.cmd.core = core → x.d.space = 1 → vRows x = 1 → 0 < x.l → x.func ≠ 0x3F → x.func ≠ 4 → x.bMode = 3 →
      ∃ t, exec (.venMap core) s = .next t ∧ rdNum t (spTbuf core + x.d.off) 4 =
        enc32 (dec32 (mapFn x.func (((opPats s core e ⟨x.a, x.sa, 1, x.l⟩).headD []).headD 0) x.imm1 0 x.imm0 x.imm1)) %
          2 ^ 32) ∧
    (op = 2 → exec (.venReduce core) s =
      .next (atDie (core / 1024) (fun u => finish (venPop (reduceEff u r x e) r.cmd x) r stOK []) s)) ∧
    (op = 2 → r.cmd.core = core → x.d.space = 1 → vRows x = 1 →
      ∃ t, exec (.venReduce core) s = .next t ∧ rdNum t (spTbuf core + x.d.off) 4 =
        enc32 (dec32 (reduceRow x.func ((opPats s core e ⟨x.a, x.sa, 1, x.l⟩).headD []))) % 2 ^ 32) ∧
    (op = 3 → exec (.venShuffle core) s =
      .next (atDie (core / 1024) (fun u => finish (venPop (shuffleEff u r x e) r.cmd x) r stOK []) s)) ∧
    (op = 3 → r.cmd.core = core → x.d.space = 1 → vRows x = 1 → 0 < x.l → x.func = 1 → sameFmt x e = true →
      ∃ t, exec (.venShuffle core) s = .next t ∧ rdMem t (spTbuf core + x.d.off) 4 =
        ((opRaw s core e.slot ⟨x.a, x.sa, 1, x.l⟩).headD []).getD (x.l - 1) [])

/-- ATN_SCORES, ATN_ACCUM, ATN_FINISH (R178 to R181). Where their operands can be read and written, each completes.
ATN_ACCUM puts the entries' elements into O with FIRST, and without it O times c plus the element, one rounding each;
it takes the entries off the queue. ATN_FINISH writes O divided by l, zero where l is zero, and LSE_OUT m + ln l,
0xFF80 where l is zero. ATN_SCORES writes its probabilities and, without LSE, each row's new m, l and c. -/
def Obligations.AttentionCommandsComplete : Prop :=
  (∀ (s : State) (core : Nat) (r : RCmd) (es : List FtqEntry), CoreOn s core → runOp s (pgAtn core) 2 = some r →
    let c := r.cmd
    let o := bf c 16 4
    let cc := bf c 20 4 + 512
    let rows := bf c 24 2
    let dv := bf c 26 2
    takeEntries (jobEntries s core c.job) dv = some es → entriesFit es rows dv = true → entriesBad s core es = none →
    (bit (bf c 28 1) 0 = false →
      badIn s (spTbuf core + o) (4 * rows * dv) = none ∧ badIn s (spTbuf core + cc) (4 * rows) = none) →
    ∃ t, exec (.atnAccum core) s = .next t ∧ ended t (pgVen core * 2) c.id stOK ∧
      (∀ e ∈ es, ∀ x ∈ (venOf t core).ftq, x.slot ≠ e.slot) ∧ t.regs = s.regs ∧
      (∀ i n, i < rows → n < dv →
        rdNum t (spTbuf core + o + 4 * (i * dv + n)) 4 =
          (if bit (bf c 28 1) 0 then enc32 (dec32 (entriesElem s core es i n))
           else fma32 (tbWord s core (o + 4 * (i * dv + n))) (tbWord s core (cc + 4 * i)) (entriesElem s core es i n)) %
            2 ^ 32)) ∧
  (∀ (s : State) (core : Nat) (r : RCmd), CoreOn s core → runOp s (pgAtn core) 3 = some r →
    let c := r.cmd
    let o := bf c 16 4
    let st := bf c 20 4
    let d := descOf (bf c 24 4)
    let rows := bf c 32 2
    let dv := bf c 34 2
    let l (i : Nat) : Nat := tbWord s core (st + 256 + 4 * i)
    badIn s (spTbuf core + o) (4 * rows * dv) = none → badIn s (spTbuf core + st) (256 + 4 * rows) = none →
    dPartial (onDie s (core / 1024)) core d (bf c 36 2) rows dv = none →
    (bit (bf c 38 1) 0 = true → writeBad (onDie s (core / 1024)) (spScratch core + bf c 28 4) (2 * rows) = none) →
    rows ≤ 64 →
    ∃ t, exec (.atnFinish core) s = .next t ∧ ended t (pgVen core * 2) c.id stOK ∧ t.regs = s.regs ∧ t.mxas = s.mxas ∧
      (bit (bf c 38 1) 0 = false → d.space = 0 → rows = 1 →
        let row := encRow (dFmt d) ((upTo dv).map (fun n => if vIsZero (dec32 (l 0)) then vZero
          else dec32 (enc32 (vDiv (dec32 (tbWord s core (o + 4 * n))) (dec32 (l 0))))))
        rdMem t (spScratch core + d.off) row.length = row) ∧
      (bit (bf c 38 1) 0 = true → ∀ i, i < rows → rdNum t (spScratch core + bf c 28 4 + 2 * i) 2 =
        (if vIsZero (dec32 (l i)) then 0xFF80
         else encBf (vAdd (dec32 (tbWord s core (st + 4 * i))) (lnVal (l i)))) % 65536)) ∧
  (∀ (s : State) (core : Nat) (r : RCmd) (es : List FtqEntry), CoreOn s core → runOp s (pgAtn core) 1 = some r →
    let x := scoresOf r.cmd
    let u := onDie s (core / 1024)
    let sc := spScratch core
    takeEntries (jobEntries s core r.cmd.job) x.kcols = some es → entriesFit es x.rows x.kcols = true → x.rows ≤ 64 →
    (x.segEn = true ∨ x.lse = true → readBad u (sc + x.segq) (2 * x.rows) = none) →
    (x.segEn = true → readBad u (sc + x.segk) (2 * x.kcols) = none) →
    (x.bias = 1 → readBad u (sc + x.table) 512 = none) → entriesBad s core es = none →
    (x.lse = false → x.first = false → badIn s (spTbuf core + x.state) 512 = none) →
    dPartial u core x.p x.ps x.rows x.kcols = none →
    ∃ t, exec (.atnScores core) s = .next t ∧ ended t (pgVen core * 2) r.cmd.id stOK ∧ t.mxas = s.mxas ∧
      t.ctxs = s.ctxs ∧
      t.regs = s.regs ∧ (∀ e ∈ es, ∀ y ∈ (venOf t core).ftq, y.slot ≠ e.slot) ∧
      (x.p.space = 0 → x.rows = 1 →
        let row := encRow (dFmt x.p) ((scoreRow s core x es 0).ps.map dec32)
        rdMem t (sc + x.p.off) row.length = row) ∧
      (x.lse = false → ∀ i, i < x.rows →
        let w := spTbuf core + x.state + 4 * i
        let q := scoreRow s core x es i
        rdNum t w 4 = q.m % 2 ^ 32 ∧ rdNum t (w + 256) 4 = q.l % 2 ^ 32 ∧ rdNum t (w + 512) 4 = q.c % 2 ^ 32))

/-- ATN_KV_LOAD, ATN_KV_FLUSH (R184 to R186). With a readable page table whose entries pass R186's checks, rows move
one by one, and a load or a flush of one readable row moves it, in the format of where it goes, and completes. -/
def Obligations.KvCommandsMoveTokenRows : Prop :=
  ∀ (s : State) (core op : Nat) (r : RCmd), CoreOn s core → runOp s (pgAtn core) op = some r →
    let x := kvOf r.cmd
    let u := onDie s (core / 1024)
    let b := spScratch core + x.st.off
    let p := kvAddr s core x x.t0
    readBad u (spScratch core + x.table + 8 * kvPage0 x) (8 * kvPages x) = none →
    (x.expand = true → readBad u (spScratch core + x.up) (2 * x.rank * x.dout) = none) → kvCheck s core r.cmd.job x =
      none →
    (op = 4 → exec (.atnKvLoad core) s = .next (atDie (core / 1024) (fun u => kvLoadGo u core r x x.tokens 0) s)) ∧
    (op = 5 → exec (.atnKvFlush core) s = .next (atDie (core / 1024) (fun u => kvFlushGo u core r x x.tokens 0) s)) ∧
    (op = 4 → x.tokens = 1 → fabBad u p (kvRow x) = none → writeBad u b (rowBytes x.st.fmt (kvCols x)) = none →
      ∃ t, exec (.atnKvLoad core) s = .next t ∧ ended t (pgVen core * 2) r.cmd.id stOK ∧ t.regs = s.regs ∧
        (let row := encRow x.st.fmt (kvStaged s core x p)
         rdMem t b row.length = row ∧ ∀ a, a < b ∨ b + row.length ≤ a → rdByte t a = rdByte s a)) ∧
    (op = 5 → x.tokens = 1 → readBad u b (rowBytes x.st.fmt x.width) = none →
      writeBad u p (x.width * elemBytes x.pfmt) = none →
      ∃ t, exec (.atnKvFlush core) s = .next t ∧ ended t (pgVen core * 2) r.cmd.id stOK ∧ t.regs = s.regs ∧
        (let row := (upTo x.width).flatMap (fun j =>
           encPlain x.pfmt (elemAt s b (dStride x.st x.ss x.width) x.st.fmt 1 x.width 0 j))
         rdMem t p row.length = row ∧ ∀ a, a < p ∨ p + row.length ≤ a → rdByte t a = rdByte s a))

/-! ### Channels -/

/-- CHN_SEND, CHN_RELEASE, CHANNEL_MESSAGE_ARRIVAL, CHANNEL_SEND_ACK, CHANNEL_CREDIT_RETURN, SEND_TIMEOUT (R195 to
R208). A send to a reel inside the receiver's window that nothing holds back sends its payload with the channel's next
sequence number; another waits in a slot. A message that arrives is written behind its header; the acknowledgement
ends the send with SEQ and offset; a release frees records and returns the head, which the sender's credits then
count; a wait past the timeout ends with CHAN_TIMEOUT. -/
def Obligations.MessagesAreSentStoredAndReleased : Prop :=
  (∀ (s : State) (core : Nat) (r : RCmd), CoreOn s core →
    engRun s (pgChn core * 2) (fun r => r.cmd.op == 1 && r.prog == 0) = some r →
    let c := r.cmd
    let o := bits (bf c 24 1) 0 4
    let len := bf c 20 4
    let want := bit (bf c 25 1) 0
    let dc := outDst s core o
    let di := outDstIn s core o
    let room := sendRoom s core o len
    let x := outOf s core o
    let g := engOf s (pgChn core * 2)
    outBound s core o c.job = true → sendForm s core o len want = true → reelOk s core o = true → fenced s dc = false →
    sendCut s core o = false →
    ¬ (bit (outCfg s core o) 1 = true ∧ (inOf s core (outPair s core o)).res = 0) →
    (sendReady s core r g.aside = true → badIn s (spScratch core + bf c 16 4) len = none →
      ∃ t, exec (.chnSend core) s = .next t ∧ (outOf t core o).seq = (x.seq + 1) % 2 ^ 32 ∧
        (inOf t dc di).flight = (inOf s dc di).flight ++
          [{ pad := room.pad, off := if room.pad = 0 then x.tail else 0, len := room.len, isPad := false
             flags := b2n want + 2 * b2n (bit (outCfg s core o) 1), seq := x.seq, tag := bf c 28 4
             payload := rdMem s (spScratch core + bf c 16 4) len, sender := core * 16 + o, id := c.id }] ∧
        t.mem = s.mem ∧ t.regs = s.regs ∧ t.ctxs = s.ctxs) ∧
    (sendReady s core r g.aside = false →
      exec (.chnSend core) s = .next (setEng s (pgChn core * 2) { g with
        running := g.running.filter (fun y => y.cmd.id != c.id)
        aside := g.aside ++ [{ r with since := s.time }] }))) ∧
  (∀ (s : State) (core : Nat) (r : RCmd) (b : Nat) (rest : List (Nat × Bool)), CoreOn s core →
    runOp s (pgChn core) 2 = some r →
    let i := bits (bf r.cmd 16 1) 0 4
    let ic := inOf s core i
    let head := if ic.head + b < reelSize s core i then ic.head + b else ic.head + b - reelSize s core i
    bit (inCfg s core i) 0 = true → bits (inCfg s core i) 4 4 = r.cmd.job →
      takeRecs (bf r.cmd 18 2) ic.recs 0 = some (b, rest) →
    ∃ t, exec (.chnRelease core) s = .next t ∧ (inOf t core i).head = head ∧ (inOf t core i).used = ic.used - b ∧
      (inOf t core i).recs = rest ∧
      (ic.peer ≠ 0 → (outOf t ((ic.peer - 1) / 16) ((ic.peer - 1) % 16)).returns =
        (outOf s ((ic.peer - 1) / 16) ((ic.peer - 1) % 16)).returns ++ [head]) ∧
      (∃ y ∈ (engOf t (pgChn core * 2)).running, y.cmd.id = r.cmd.id ∧
        y.fin = some (stOK, leBytes 4 head ++ leBytes 4 b)) ∧
      t.mem = s.mem ∧ t.regs = s.regs ∧ t.ctxs = s.ctxs) ∧
  (∀ (s : State) (core i : Nat) (m : Msg) (ms : List Msg), CoreOn s core → i < 16 → (inOf s core i).flight = m :: ms →
    m.isPad = false → 16 + m.payload.length ≤ m.len →
    scratchSaved s core (bits (inReel s core i) 0 9 * 4096) (reelSize s core i) = false →
    let a := spScratch core + bits (inReel s core i) 0 9 * 4096 + m.off
    ∃ t, exec (.channelMessageArrival core i) s = .next t ∧ (inOf t core i).flight = ms ∧
      (inOf t core i).seq = (m.seq + 1) % 2 ^ 32 ∧ (inOf t core i).used = (inOf s core i).used + m.pad + m.len ∧
      rdMem t a 16 = msgHeader m.payload.length 1 m.flags m.seq m.tag ∧ rdMem t (a + 16) m.payload.length = m.payload ∧
      (outOf t (m.sender / 16) (m.sender % 16)).acks =
        (outOf s (m.sender / 16) (m.sender % 16)).acks ++ [(m.id, m.seq, m.off)] ∧
      t.regs = s.regs ∧ t.engs = s.engs) ∧
  (∀ (s : State) (core o id seq off : Nat) (as : List (Nat × Nat × Nat)) (r : RCmd), CoreOn s core →
    (outOf s core o).acks = (id, seq, off) :: as →
    engRun s (pgChn core * 2) (fun r => r.cmd.id == id && r.prog == 1) = some r → cmdKey r.cmd = pgChn core * 2 →
    ∃ t, exec (.channelSendAck core o) s = .next t ∧ (outOf t core o).acks = as ∧
      (∃ y ∈ (engOf t (pgChn core * 2)).running, y.cmd.id = id ∧ y.fin = some (stOK, leBytes 4 seq ++ leBytes 4 off)) ∧
      t.mem = s.mem ∧ t.regs = s.regs ∧ t.ctxs = s.ctxs) ∧
  (∀ (s : State) (core o h : Nat) (hs : List Nat), CoreOn s core → (outOf s core o).returns = h :: hs →
    (engOf s (pgChn core * 2)).aside = [] →
    let x := outOf s core o
    let size := reelSize s (outDst s core o) (outDstIn s core o)
    exec (.channelCreditReturn core o) s = .next (setOut s core o { x with
      returns := hs, head := h, used := x.used - (if x.head < h then h - x.head else size - x.head + h) })) ∧
  (∀ (s : State) (core id : Nat) (r : RCmd), CoreOn s core →
    (engOf s (pgChn core * 2)).aside.find? (fun r => r.cmd.id == id) = some r →
    fenced s (outDst s core (bits (bf r.cmd 24 1) 0 4)) = false →
      r.since + 1000 * regF s (pgChn core) 0x500 0 32 ≤ s.time →
    ∃ t, exec (.sendTimeout core id) s = .next t ∧ bit (reg t (pgChn core) 0x20) 8 = true ∧
      (∃ y ∈ (engOf t (pgChn core * 2)).running, y.cmd.id = id ∧ y.fin = some (stChanTimeout, [])) ∧ t.ctxs = s.ctxs)

/-- CHN_OUT_CFG_WRITE, CHN_IN_CFG_WRITE (R192). Binding an outbound channel that is not in use to a matching inbound
channel that no other channel holds starts both from zero; a configuration of an inbound channel that is not in use is
stored; a reel with an illegal size is ignored, which is the model's choice (log 107). A channel in use keeps its
binding, and BIND_REJECTED is set. -/
def Obligations.ChannelBindingTakesUnusedChannels : Prop :=
  ∀ (s : State) (core n : Nat) (v : W64), HostReach s (pgChn core) → core < 2048 → n < 16 →
    let dc := bits v.toNat 16 11
    let di := bits v.toNat 28 4
    (outBusy s core n = false → bit v.toNat 0 = true → targetMatches s (v.toNat &&& 0xFF7FF003F) = true →
      (inOf s dc di).peer = 0 →
      ∃ t, exec (.chnOutCfgWrite 0 core n v) s = .next t ∧ outCfg t core n = v.toNat &&& 0xFF7FF003F ∧
        outOf t core n = { acks := (outOf s core n).acks } ∧ inOf t dc di = { peer := core * 16 + n + 1 } ∧
          t.mem = s.mem ∧ t.engs = s.engs) ∧
    (outBusy s core n = true →
      ∃ t, exec (.chnOutCfgWrite 0 core n v) s = .next t ∧ bit (reg t (pgChn core) 0x20) 9 = true ∧
        outCfg t core n = outCfg s core n ∧ t.outChs = s.outChs ∧ t.inChs = s.inChs) ∧
    (inBusy s core n = false →
      exec (.chnInCfgWrite 0 core n false v) s = .next (setReg s (pgChn core) (0x300 + 0x20 * n) (v.toNat &&& 0xF3FF)) ∧
      (reelLegal v.toNat = true → exec (.chnInCfgWrite 0 core n true v) s =
        .next (setReg s (pgChn core) (0x308 + 0x20 * n) (v.toNat &&& 0x7FF01FF01FF))) ∧
      (reelLegal v.toNat = false → exec (.chnInCfgWrite 0 core n true v) s = .next s)) ∧
    (inBusy s core n = true → ∀ reel,
      ∃ t, exec (.chnInCfgWrite 0 core n reel v) s = .next t ∧ bit (reg t (pgChn core) 0x20) 9 = true ∧
        inCfg t core n = inCfg s core n ∧ t.outChs = s.outChs ∧ t.inChs = s.inChs)

/-! ### Pipeline engine -/

/-- PSE_STEP, PSE_STEP_ADMIT, PSE_DRAIN, PSE_RESUME, PSE_ABORT, PSE_STAGE_CFG_WRITE (R217, R241 to R243). A step is
admitted by an IDLE engine, else it waits and is admitted once no step runs; a drain of an IDLE or DRAINED stage
completes, one of a RUNNING stage makes it DRAINING; a resume goes back to RUNNING, or to IDLE without a step; an
abort leaves the engine IDLE with nothing; a binding is written while the engine is IDLE and gives it fresh state, in
which an abort still waits. -/
def Obligations.StageStepsDrainsResumesAndAborts : Prop :=
  (∀ (s : State) (r : Nat) (x : RCmd), RegionOn s r →
    engRun s (pgPse r * 2) (fun x => x.cmd.op == 1 && x.prog == 0) = some x →
    stepForm s r x.cmd = true → stepAccess s r x.cmd = true →
    ∃ t, exec (.pseStep r) s = .next t ∧ (pseOf t r).lastNum = some (bf x.cmd 16 8) ∧
      ((pseOf s r).st = 0 → (pseOf s r).cur = none → (pseOf s r).failed = false →
        (pseOf t r).st = 1 ∧ ∃ c, (pseOf t r).cur = some c ∧ c.num = bf x.cmd 16 8 ∧ c.nmb = bf x.cmd 24 2 ∧
          c.lag = bf x.cmd 26 1 ∧ c.id = x.cmd.id ∧ c.closed = 0 ∧ c.t0 = s.time) ∧
      ((pseOf s r).st ≠ 0 →
        (pseOf t r).st = (pseOf s r).st ∧ (pseOf t r).cur = (pseOf s r).cur ∧
          (pseOf t r).inflight = (pseOf s r).inflight ∧
          ∃ c, (pseOf t r).wait = some c ∧ c.num = bf x.cmd 16 8 ∧ c.id = x.cmd.id)) ∧
  (∀ (s : State) (r : Nat) (c : PStep), RegionOn s r → (pseOf s r).wait = some c → (pseOf s r).cur = none →
    (pseOf s r).st ≤ 1 →
    (pseOf s r).failed = false → readsBelow (pseOf s r) c.num c.lag = false →
    ∃ t, exec (.pseStepAdmit r) s = .next t ∧ (pseOf t r).st = 1 ∧ (pseOf t r).wait = none ∧
      ∃ d, (pseOf t r).cur = some d ∧ d.num = c.num ∧ d.nmb = c.nmb ∧ d.id = c.id ∧ d.t0 = s.time) ∧
  (∀ (s : State) (r : Nat) (x : RCmd), RegionOn s r →
    engRun s (pgPse r * 2) (fun x => x.cmd.op == 3 && x.prog == 0) = some x →
    ((pseOf s r).st = 0 ∨ (pseOf s r).st = 3 → exec (.pseDrain r) s = .next (finish s x stOK [])) ∧
    (∀ c, StageRuns s r c → (pseOf s r).inflight ≠ [] →
      exec (.pseDrain r) s =
        .next (setPse (setRun s (pgPse r * 2) { x with prog := 1 }) r { pseOf s r with st := 2 }))) ∧
  (∀ (s : State) (r : Nat) (x : RCmd), RegionOn s r → runOp s (pgPse r) 4 = some x → (pseOf s r).st = 3 →
    (pseOf s r).failed = false →
    ((pseOf s r).cur ≠ none →
      exec (.pseResume r) s = .next (setPse (finish s x stOK []) r { pseOf s r with st := 1 })) ∧
    ((pseOf s r).cur = none → (pseOf s r).wait = none →
      exec (.pseResume r) s = .next (setPse (finish s x stOK []) r { pseOf s r with st := 0 }))) ∧
  (∀ (s : State) (r : Nat) (x : RCmd), RegionOn s r →
    engRun s (pgPse r * 2) (fun x => x.cmd.op == 5 && x.prog == 0) = some x → cmdKey x.cmd = pgPse r * 2 →
    Alone s (pgPse r * 2) x →
    ∃ t, exec (.pseAbort r) s = .next t ∧ (pseOf t r).st = 0 ∧ (pseOf t r).cur = none ∧ (pseOf t r).wait = none ∧
      (pseOf t r).inflight = [] ∧ (pseOf t r).recs = [] ∧ (pseOf t r).held = [] ∧ (pseOf t r).failed = false ∧
      (upfQuiet s r = true → (pseOf t r).slots = [] ∧ ended t (pgPse r * 2) x.cmd.id stOK)) ∧
  (∀ (s : State) (r : Nat) (v : W64), HostReach s (pgPse r) → r < 32 →
    ((pseOf s r).st ≠ 0 → exec (.pseStageCfgWrite 0 r v) s = .next s) ∧
    ((pseOf s r).st = 0 → 1 ≤ bits v.toNat 29 7 → bits v.toNat 29 7 ≤ 64 →
      ∃ t, exec (.pseStageCfgWrite 0 r v) s = .next t ∧ pseCfg t r = v.toNat &&& 0xFFFFFFFFF ∧
        t.mem = s.mem ∧
        ((pseOf s r).aborting = false → (bit v.toNat 0 ≠ bit (pseCfg s r) 0 → pseOf t r = {}) ∧ t.engs = s.engs) ∧
        ((pseOf s r).aborting = true → upfQuiet s r = false → bit v.toNat 0 ≠ bit (pseCfg s r) 0 →
          pseOf t r = { aborting := true } ∧ t.engs = s.engs)))

/-- PSE_PHASE_DISPATCH, PSE_DONE, PSE_VERSION_OPEN, PSE_VERSION_PUBLISH, PSE_VERSION_EXTEND (R226, R229, R235). A
ready phase gets the next WORK_ID, its entry goes into the work ring, the ring's sync counter advances; a done F phase
of the last stage leaves the phases in flight; a phase that ends with another status fails the step; an OPEN takes the
free slot for its tag, a PUBLISH publishes the FILLING slot of its tag, an EXTEND raises the newest slot's last tag.
-/
def Obligations.PhasesAreDispatchedAndVersionsOpened : Prop :=
  (∀ (s : State) (r ph mb v : Nat) (c : PStep), RegionOn s r → nextPhase s r = some (ph, mb, v) →
    (pseOf s r).cur = some c → c.seg = 0 →
    let p := pseOf s r
    let cfg := pseCfg s r
    let leader := 64 * r + bits cfg 8 6
    let a := spScratch leader + bits cfg 20 9 * 4096 + 64 * (p.wid % 64)
    scratchSaved s leader (bits cfg 20 9 * 4096) 4096 = false →
    ∃ t, exec (.psePhaseDispatch r) s = .next t ∧ (pseOf t r).wid = (p.wid + 1) % 2 ^ 32 ∧
      (∃ b, (pseOf t r).inflight = p.inflight ++ [{ wid := p.wid, ph := ph, mb := mb, v := v, buf := b }]) ∧
      rdMem t a 2 = leBytes 2 mb ∧ rdMem t (a + 4) 4 = leBytes 4 p.wid ∧ rdMem t (a + 8) 8 = leBytes 8 c.num ∧
      (∀ b, b < a ∨ a + 64 ≤ b → rdByte t b = rdByte s b) ∧
      syncCtr t leader (bits cfg 14 2) (bits cfg 16 4) =
        (syncCtr s leader (bits cfg 14 2) (bits cfg 16 4) + 1) % 65536 ∧ t.regs = s.regs ∧ t.engs = s.engs) ∧
  (∀ (s : State) (r : Nat) (x : RCmd) (f : PFlight), RegionOn s r → runOp s (pgPse r) 2 = some x →
    (pseOf s r).inflight.find? (fun f => f.wid == bf x.cmd 16 4) = some f →
    (f.buf ≠ 0 → bf x.cmd 20 4 ≤ poolSize s r (if f.ph = 0 then 2 else 3)) →
    (bf x.cmd 24 1 = stOK → f.ph = 0 → pseL s r f.v + 1 = pseNL s r → ∀ c, StageRuns s r c →
      ∃ t, exec (.pseDone r) s = .next t ∧ ended t (pgPse r * 2) x.cmd.id stOK ∧
        (recOf (pseOf t r) f.mb f.v).f = 2 ∧ (pseOf t r).cur = some { c with fd := c.fd + 1 } ∧
        (pseOf t r).inflight = (pseOf s r).inflight.filter (fun g => g.wid != bf x.cmd 16 4) ∧
        t.mem = s.mem ∧ t.regs = s.regs ∧ t.ctxs = s.ctxs) ∧
    (bf x.cmd 24 1 ≠ stOK → (pseOf s r).cur ≠ none →
      ∃ t, exec (.pseDone r) s = .next t ∧ (pseOf t r).failed = true ∧ bit (reg t (pgPse r) 0x20) 9 = true)) ∧
  (∀ (s : State) (r : Nat) (x : RCmd), RegionOn s r →
    let p := pseOf s r
    let tag := bf x.cmd 16 8
    (∀ n, (pseCmds s r 6).head? = some x → vslotFree p = some n → openJudge p tag = true →
      stackedOk s (pseJob s r) (vslotAddr s r n) 64 = true →
      exec (.pseVersionOpen r) s =
        .next (finish (setPse s r (openTake p n tag)) x stOK (leBytes 8 n ++ leBytes 8 (vslotAddr s r n))) ∧
      slotAt (openTake p n tag) n = { st := 1, ref := 0, first := tag, last := tag }) ∧
    ((pseCmds s r 6).head? = some x → vslotFree p = none →
      exec (.pseVersionOpen r) s = .next (setRun s (pgPse r * 2) { x with prog := 1 })) ∧
    (∀ n, ((pseCmds s r 7).filter (fun y => !(bit (bf y.cmd 24 1) 0))).find?
        (fun y => (fillingOf p (bf y.cmd 16 8)).isSome || !(openWaits s r (bf y.cmd 16 8))) = some x →
      fillingOf p tag = some n →
      exec (.pseVersionPublish r) s = .next (finish (setPse s r (publishTake p n)) x stOK [])) ∧
    (∀ n, (pseCmds s r 7).find? (fun y => bit (bf y.cmd 24 1) 0) = some x → newestSlot p = some n →
      (slotAt p n).st = 2 →
      tag = (slotAt p n).last + 1 →
      exec (.pseVersionExtend r) s = .next (finish (setPse s r (extendTake p n tag)) x stOK [])))

/-- PSE_TRANSFER_ARRIVAL, PSE_ARRIVAL_REPORT, PSE_CREDIT_RETURN, PSE_TRANSFER_FAILED (R220 to R224). Activations that
arrive over a P link take the lowest free ACT_IN buffer for their record; a report frees the send buffer of its
transfer; a sender keeps the last credit count; a lost link ends its transfers, sets ERR_STATUS bit 8 and FAILED,
whether or not a step is admitted. -/
def Obligations.StageTransfersMoveBuffers : Prop :=
  (∀ (s : State) (r mb vs bytes b : Nat) (data : List Byte) (c : PStep), RegionOn s r → pseValid s r = true →
    linkKind (pseLink s r false) = 2 ∨ linkKind (pseLink s r false) = 3 → freeBufOf s r (pseOf s r) 0 = some b →
    fabBadW (onDie s (r / 16)) (bufAddr s r 0 b) bytes = none → StageRuns s r c → c.ended = false → mb < c.nmb →
      mb < 4096 →
    vs < pseV s r → (recOf (pseOf s r) mb vs).f = 0 → (recOf (pseOf s r) mb vs).act = 0 →
    ∃ t, exec (.pseTransferArrival r false mb vs bytes data) s = .next t ∧
      (recOf (pseOf t r) mb vs).act = b + 1 ∧ isHeld (pseOf t r) 0 b = true ∧
      rdMem t (bufAddr s r 0 b) bytes = padTo bytes (data.take bytes) ∧
      (∀ a, a < bufAddr s r 0 b ∨ bufAddr s r 0 b + bytes ≤ a → rdByte t a = rdByte s a)) ∧
  (∀ (s : State) (r mb vs : Nat) (back : Bool) (x : Xfer), RegionOn s r →
    (if back then (pseOf s r).outB else (pseOf s r).outF).find? (fun x => x.mb == mb && x.dv == vs &&
      (x.arrived || !(linkKind (pseLink s r (!back)) == 1))) = some x → linkCut s r (!back) = false →
    ∃ t, exec (.pseArrivalReport r back mb vs) s = .next t ∧ isHeld (pseOf t r) (if back then 3 else 2) x.buf = false ∧
      (if back then (pseOf t r).outB else (pseOf t r).outF) =
        (if back then (pseOf s r).outB else (pseOf s r).outF).filter (fun y => !(y.mb == mb && y.dv == vs)) ∧
      t.mem = s.mem ∧ t.regs = s.regs ∧ t.engs = s.engs) ∧
  (∀ (s : State) (r count : Nat), RegionOn s r → pseValid s r = true →
    linkKind (pseLink s r true) = 2 ∨ linkKind (pseLink s r true) = 3 → (pseOf s r).fwdWait = [] →
    exec (.pseCreditReturn r count) s = .next (setPse s r { pseOf s r with rxTotal := count })) ∧
  (∀ (s : State) (r addr : Nat) (down : Bool), RegionOn s r →
    linkKind (pseLink s r down) = 2 ∨ linkKind (pseLink s r down) = 3 →
    (if down then (pseOf s r).outF else (pseOf s r).outB) ≠ [] →
    ∃ t, exec (.pseTransferFailed r down true addr) s = .next t ∧ bit (reg t (pgPse r) 0x20) 8 = true ∧
      (if down then (pseOf t r).outF else (pseOf t r).outB) = [] ∧
      (pseOf t r).failed = true)

/-! ### Update engines and digests -/

/-- UPD_RUN, UPD_RUN_INIT, LANDING_COMPLETE, UPS_NOTICE_START, UPS_NOTICE_DONE, UPF_PUBLISH (R259 to R272). A run that
passes R260's checks takes its snapshot, raises the newest step and goes on; one that fails them completes with their
status; a landing report lets the norm pass go on; a notice is applied while no repair of its groups is open and the
slow tier is up and not held, leaves the queue, frees the mailbox slots of its updated groups and no others, and lets
its publication go; a publication that waits for nothing publishes the FILLING slot of its tag, another waits. -/
def Obligations.UpdateRunsNoticesAndPublications : Prop :=
  (∀ (s : State) (r : Nat) (init : Bool) (y : RCmd), RegionOn s r →
    engRun s (pgUpf r * 2) (fun y => bit (bf y.cmd 44 1) 1 == init) = some y → y.prog = 0 →
      (upfOf s r).pubs.length < 3 →
    let u := upfOf s r
    let x := runOf s r y.cmd
    let c : Instr := if init then .updRunInit r else .updRun r
    (runCheck (onDie s (r / 16)) r y.cmd x = none →
      ∃ t, exec c s = .next t ∧ (upfOf t r).lastStep = x.step ∧
        (upfOf t r).newest = some (match u.newest with | none => x.step | some k => max k x.step) ∧
        (init = false → 1 ≤ bf y.cmd 42 2 → u.landed.contains (x.first, x.step) = false → x.init = false →
          (upfOf t r).run = some { x with pass := 0 } ∧ t.mem = s.mem ∧ t.regs = s.regs ∧ t.pses = s.pses)) ∧
    (∀ st, runCheck (onDie s (r / 16)) r y.cmd x = some (st, none) → exec c s = .next (finish s y st []))) ∧
  (∀ (s : State) (r group : Nat) (l : Nat × Nat × Nat), RegionOn s r →
    s.landReports.find? (fun l => l.1 == r && l.2.1 == group) = some l →
    let landed (s : State) : State := setUpf { s with landReports := s.landReports.filter (fun y => y != l) } r
      { upfOf s r with landed := (upfOf s r).landed ++ [(group, l.2.2)] }
    exec (.landingComplete r group) s = .next (atDie (r / 16) (fun u => upfGo (landed u) r) s) ∧
    ((upfOf s r).run = none → exec (.landingComplete r group) s = .next (landed s))) ∧
  (∀ (s : State) (n : Notice) (ns : List Notice), FabricOn s → s.notices = n :: ns →
    (n.started = false → s.tierDown = false → s.tierTraining = false → tierHolds s = false →
      repairOpen s n.region n.step = false →
      (∃ t n', exec .upsNoticeStart s = .next t ∧ t.notices = n' :: ns ∧ n'.started = true ∧ n'.groups = n.groups) ∧
      (∀ g p, n.groups = [g] → g.dec = 2 → n.prevAddr = some p →
        fabBad s (p + (gdescOf g.desc).sq8) (sq8Bytes (gdescOf g.desc)) = none →
        fabBadW s (n.slotAddr + (gdescOf g.desc).sq8) (sq8Bytes (gdescOf g.desc)) = none →
        exec .upsNoticeStart s = .next (keepDigest
          (copyTiles { s with notices := { n with started := true } :: ns } (gdescOf g.desc) p n.slotAddr)
          n.region g.idx n.step))) ∧
    (n.started = true →
      ∃ t, exec .upsNoticeDone s = .next t ∧ t.notices = ns ∧
        (∀ g ∈ n.groups, g.dec = 0 →
          (gdescOf g.desc).mbox + n.step % (n.d + 1) * mboxBytes (gdescOf g.desc) ∉ t.mboxHeld) ∧
        (∀ a ∈ s.mboxHeld, (∀ g ∈ n.groups, g.dec = 0 →
          a ≠ (gdescOf g.desc).mbox + n.step % (n.d + 1) * mboxBytes (gdescOf g.desc)) → a ∈ t.mboxHeld) ∧
        (∀ p ∈ (upfOf t n.region).pubs, p.step = n.step → p.notice = 0))) ∧
  (∀ (s : State) (r : Nat) (p : PubRun) (ps : List PubRun), RegionOn s r → (upfOf s r).pubs = p :: ps →
    (p.notice = 0 → p.cmp = 0 ∨ p.cmp = 2 → p.repairs = [] → ∀ n, fillingOf (pseOf s r) p.step = some n →
      (∃ t, exec (.upfPublish r) s = .next t ∧ (upfOf t r).pubs = ps) ∧
      exec (.upfPublish r) s = .next (atDie (r / 16)
        (fun u => pseSettle (setPse (setUpf u r { upfOf u r with pubs := ps }) r
        (publishTake (pseOf u r) n)) r) s)) ∧
    (p.notice ≠ 0 ∨ p.cmp = 1 ∨ p.cmp = 3 ∨ p.repairs ≠ [] → exec (.upfPublish r) s = .next s))

/-- DIGEST_REPORT, COMPARER_WAIT_EXPIRY, COMPARISON_REPORT, REPLICA_REPAIRED, DIGEST_LATE, REPAIR_REQUEST (R275 to
R281). The comparer keeps each replica's first report of a step and decides once all have reported or its wait has
passed; a decision settles the step at the replica: CLEAN, REPAIRED or SPLIT in DIG_STATUS; a repair that makes the
digest the majority's ends the group's wait; a step whose answer is late counts as compared; a source sends master and
moments of a group to the replica that asked, and one that cannot read them reports that. -/
def Obligations.DigestsAreComparedAndRepaired : Prop :=
  (∀ (s : State) (r d step : Nat) (groups : List (Nat × Nat)), RegionOn s r → isComparer s r = true →
    let g := digOf s r
    let reps := g.reports.filter (fun t => t.1 == step) ++ [(step, d, groups)]
    let dlen := jobDLen s (pseJob s r)
    (d ≠ ownD s ∨ ∃ w, g.sent.find? (fun t => t.step == step) = some w ∧ groups = ownDigests s r w.groups) →
    g.reports.any (fun t => t.1 == step && t.2.1 == d) = false → g.decided.any (fun t => t.1 == step) = false →
    ∃ t, exec (.digestReport r d step groups) s = .next t ∧ t.mem = s.mem ∧
      (reps.length < dlen → (digOf t r).reports = g.reports ++ [(step, d, groups)] ∧ (digOf t r).decided = g.decided) ∧
      (dlen ≤ reps.length → (digOf t r).decided = g.decided ++ [(step, decide276 dlen reps)] ∧
        (digOf t r).reports = g.reports.filter (fun t => t.1 != step))) ∧
  (∀ (s : State) (r : Nat) (e : Nat × Nat), RegionOn s r →
    (digOf s r).firstAt.find? (fun e => decide (e.2 - 1 + 1000 * regF s (pgDig r) 0x100 24 16 ≤ s.time)) = some e →
    ∃ t, exec (.comparerWaitExpiry r) s = .next t ∧
      (digOf t r).decided = (digOf s r).decided ++ [(e.1, decide276 (jobDLen s (pseJob s r))
        ((digOf s r).reports.filter (fun t => t.1 == e.1)))]) ∧
  (∀ (s : State) (r step : Nat) (rep : DigReport), RegionOn s r → step < 2 ^ 64 →
    isComparer s r = false ∨ (digOf s r).decided.contains (step, rep) = true →
    (digOf s r).sent.any (fun t => t.step == step) = true →
    ∃ t, exec (.comparisonReport r step rep) s = .next t ∧
      (digOf t r).sent = (digOf s r).sent.filter (fun t => t.step != step) ∧
      (rep = .agreed → reg t (pgDig r) 0x110 = step ∧ reg t (pgDig r) 0x118 = 1 ∧
        (∀ p ∈ (upfOf t r).pubs, p.step = step → p.cmp = 2)) ∧
      (∀ fixes, rep = .repaired fixes →
        let own := fixes.filter (fun f => f.2.1 == ownD s)
        reg t (pgDig r) 0x118 = 2 + 65536 * (((fixes.map (·.1)).foldl (fun a j => setAdd a j) []).length % 65536) ∧
        (∀ p ∈ (upfOf t r).pubs, p.step = step →
          p.cmp = 2 ∧ p.source = (own.map (·.2.2)).headD 0 ∧ ∀ f ∈ own, f.1 ∈ p.repairs)) ∧
      (∀ j k n gs, rep = .split j k n gs → pseValid s r = true → bit (reg t (pgDig r) 0x20) 8 = true ∧
        (∀ p ∈ (upfOf t r).pubs, p.step = step → p.cmp = 3))) ∧
  (∀ (s : State) (r group maj : Nat) (data : List Byte) (p : PubRun), RegionOn s r → (upfOf s r).run = none →
    mapGet 0 s.ctrs (ctrKey (pgDig r) 1) < 0xFFFFFFFE →
      (upfOf s r).pubs.find? (fun p => p.repairs.contains group) = some p →
    let slot := match fillingOf (pseOf s r) p.step with | some n => vslotAddr s r n | none => 0
    let w := writeRepair s r group p.step slot (pseJob s r) (gdescOf (descOfGroup p.descs group)) data
    ∃ t, exec (.replicaRepaired r group maj data) s = .next t ∧
      (∀ q ∈ (upfOf t r).pubs, q.step = p.step → group ∉ q.repairs) ∧
      (p.repairs = [group] → rdNum w (digEntry s r group) 8 = maj → bit (reg t (pgDig r) 0x48) 0 = true) ∧
      (rdNum w (digEntry s r group) 8 ≠ maj → bit (reg t (pgDig r) 0x20) 8 = true)) ∧
  (∀ (s : State) (r : Nat) (w : DigSent), RegionOn s r →
    (digOf s r).sent.find? (fun t => decide (t.at_ + 2000 * regF s (pgDig r) 0x100 24 16 ≤ s.time)) = some w →
    ∃ t, exec (.digestLate r) s = .next t ∧ (digOf t r).sent = (digOf s r).sent.filter (fun y => y.step != w.step) ∧
      reg t (pgDig r) 0x118 = 4 ∧ bit (reg t (pgDig r) 0x20) 9 = true ∧
      (∀ p ∈ (upfOf t r).pubs, p.step = w.step → p.cmp = 2)) ∧
  (∀ (s : State) (r group dst : Nat) (b : List Byte), RegionOn s r →
    (upfOf s r).lastDescs.find? (fun e => e.1 == group) = some (group, b) →
    let d := gdescOf b
    (stateBad s d = none →
      ∃ l, exec (.repairRequest r ⟨group, dst⟩) s = .next { s with
        repairOut := s.repairOut ++ [(r, group,
          rdMem s d.w (2 * gdElems d) ++ rdMem s d.m1 (2 * gdElems d) ++ rdMem s d.m2 (2 * gdElems d))]
        lnks := l } ∧ (dst = ownD s → l = s.lnks)) ∧
    (stateBad s d ≠ none →
      ∃ t, exec (.repairRequest r ⟨group, dst⟩) s = .next t ∧ t.repairOut = s.repairOut ∧
        bit (reg t (if d.isG then pgUps else pgUpf r) 0x20) 8 = true))

/-! ### Gradient exchange -/

/-- GXE_BUCKET_READY, GXE_ABORT, CONTRIB, HIST, GRANT_REQ, STRAGGLER_WINDOW_EXPIRY and discarded packets (R294 to
R301, R314, R317). A readied bucket is quantised and sent; an abort discards what its job has open and completes; an
owner takes requests, histogram records and the chunks of granted contributions, defers a request that comes after the
close (R302), and closes a shard at the end of its window; a packet with a field outside the job's set is discarded
and counted. A bucket whose forecast entry is of an earlier step waits for it, or takes the values that this package
holds; with a D direction ABSENT that a shard needs it ends with LINK_LOST (R313). -/
def Obligations.ExchangeCommandsAndOwnerPackets : Prop :=
  (∀ (s : State) (id : Nat) (y : RCmd), FabricOn s →
    engRun s (pgGxe * 2) (fun y => y.cmd.id == id && y.cmd.op == 1 && y.prog ≤ 1) = some y → y.prog = 0 →
    let j := y.cmd.job
    let step := bf y.cmd 16 8
    let b := bf y.cmd 24 2
    let u := onDie s 2
    let held := (gxeOf s j).vals.find? (fun v => v.1 == b && v.2.1 == step)
    (readyForm u j step b = false → exec (.gxeBucketReady id) s = .next (finish s y stFormat [])) ∧
    (readyForm u j step b = true → readyAccess u j b = true → readyBad u j b = none →
      (dAbsent s j = true → exec (.gxeBucketReady id) s = .next (atDie 2
        (fun u => raiseErr (finish u y stLinkLost []) pgGxe 10 { status := stLinkLost, fn := j } [] []) s)) ∧
      (dAbsent s j = false → fcstStep s j b = step ∨ fcstStep s j b = 2 ^ 64 - 1 → held = none →
        exec (.gxeBucketReady id) s = .next (atDie 2
          (fun u => readyGo (setRun u (pgGxe * 2) { y with prog := 2 }) j y b step) s) ∧
        ∃ t, exec (.gxeBucketReady id) s = .next t ∧ (gxeOf t j).stepHi = max (gxeOf s j).stepHi step ∧
          (b, step, fcstTable s j b) ∈ (gxeOf t j).used) ∧
      (dAbsent s j = false → fcstStep s j b < step → held = none →
        exec (.gxeBucketReady id) s = .next (setRun s (pgGxe * 2) { y with prog := 1 })) ∧
      (∀ v, dAbsent s j = false → fcstStep s j b < step → held = some v →
        fcstStep (writeFcst u j b step v.2.2) j b = step →
        exec (.gxeBucketReady id) s = .next (atDie 2
          (fun u => readyGo (setRun (writeFcst u j b step v.2.2) (pgGxe * 2) { y with prog := 2 }) j y b step) s)))) ∧
  (∀ (s : State) (y : RCmd), FabricOn s → engRun s (pgGxe * 2) (fun y => y.cmd.op == 2) = some y →
    cmdKey y.cmd = pgGxe * 2 → Alone s (pgGxe * 2) y →
    ∃ t, exec .gxeAbort s = .next t ∧ ended t (pgGxe * 2) y.cmd.id stOK ∧ (gxeOf t y.cmd.job).ready = [] ∧
      (gxeOf t y.cmd.job).shards = [] ∧ (gxeOf t y.cmd.job).lands = [] ∧ (gxeOf t y.cmd.job).self = [] ∧
      t.mem = s.mem ∧ t.regs = s.regs) ∧
  (∀ (s : State) (p : GxePkt), FabricOn s → pktBad s p = true →
    exec (.contrib p) s = .next (bump s pgGxe 12 1) ∧ exec (.hist p) s = .next (bump s pgGxe 12 1) ∧
    exec (.grantReq p) s = .next (bump s pgGxe 12 1) ∧ exec (.grant p) s = .next (bump s pgGxe 12 1) ∧
    exec (.close p) s = .next (bump s pgGxe 12 1) ∧ exec (.result p) s = .next (bump s pgGxe 12 1)) ∧
  (∀ (s : State) (p : GxePkt), FabricOn s → PktTaken s p →
    let j := p.job
    let g := gxeOf s j
    let step := fullStep g p.stepLo
    (jOwn s j = 0 → isClosed g p.bucket step = false →
      exec (.hist p) s = .next (setGxe s j (setShard g { shardOf g p.bucket step with
        hists := (shardOf g p.bucket step).hists.filter (fun h => h.1 != p.src) ++ [(p.src, p.payload)] }))) ∧
    (p.shard = jOwn s j → g.shards.any (windowOver s) = false → isClosed g p.bucket step = false →
      let x := shardOf g p.bucket step
      x.contribs.any (fun c => !c.deferred && c.src == p.src) = false →
      (x.contribs.filter (fun c => !c.deferred)).length + 1 < jLen s j →
      ∃ t, exec (.grantReq p) s = .next t ∧ isClosed (gxeOf t j) p.bucket step = false ∧
        ∃ y ∈ (gxeOf t j).shards, shardKey p.bucket step y = true ∧ y.firstAt ≠ 0 ∧
          ∃ c ∈ y.contribs, c.src = p.src ∧ c.deferred = false) ∧
    (p.shard = jOwn s j → g.shards.any (windowOver s) = false → isClosed g p.bucket step = true →
      (bucketOf s j p.bucket).drop = false → isClosed g p.bucket (step + 1) = false →
      (shardOf g p.bucket (step + 1)).contribs.any (fun c => c.deferred && c.src == p.src) = false →
      ∃ t, exec (.grantReq p) s = .next t ∧ bit (reg t pgGxe 0x48) 0 = true ∧
        ∃ y ∈ (gxeOf t j).shards, shardKey p.bucket (step + 1) y = true ∧
          ∃ c ∈ y.contribs, c.src = p.src ∧ c.deferred = true) ∧
    (∀ x c, p.shard = jOwn s j →
      g.shards.find? (fun x => shardKey p.bucket step x &&
        x.contribs.any (fun c => c.src == p.src && c.deferred == false && c.granted)) = some x → x.closedAt = 0 →
      c ∈ x.contribs → c.src = p.src → c.deferred = false → c.chunks.any (fun q => q.chunk == p.chunk) = false →
      ∃ t, exec (.contrib p) s = .next t ∧
        (c.chunks.length + 1 ≠ shardChunks (jLen s j) (bucketN (extsOf s (bucketOf s j p.bucket)) / 32) (jOwn s j) →
          t.regs = s.regs ∧ t.mem = s.mem) ∧
        ∃ y ∈ (gxeOf t j).shards, shardKey p.bucket step y = true ∧
          { c with chunks := c.chunks ++ [p] } ∈ y.contribs)) ∧
  (∀ (s : State) (j b : Nat) (x : GShard), FabricOn s →
    (gxeOf s j).shards.find? (fun x => x.bucket == b && windowOver s x) = some x →
    ∃ t, exec (.stragglerWindowExpiry j b (jOwn s j)) s = .next t ∧ isClosed (gxeOf t j) b x.step = true)

/-- GRANT, CLOSE, RESULT, CHUNK_RESEND_REQUEST (R305 to R311). A grant makes a replica send its chunks of the shard; a
CLOSE and checked RESULT chunks are kept until the shard has landed, each block's 32 bytes and its scale at their
place in the group's landing area, and forwarded to the next replica on the owner's way round (R305); a chunk that
fails its check lands nothing and its owner is asked for it again; an owner sends a chunk anew. -/
def Obligations.GrantedChunksLandAtTheReplicas : Prop :=
  (∀ (s : State) (p : GxePkt), FabricOn s → PktTaken s p →
    let j := p.job
    let g := gxeOf s j
    let step := fullStep g p.stepLo
    (∀ r, g.ready.find? (fun r => r.bucket == p.bucket && r.step == step &&
      r.chunksOf.any (fun t => t.1 == p.shard)) = some r →
      ∃ t, exec (.grant p) s = .next t ∧ (∀ q ∈ (gxeOf t j).ready, q.id = r.id → ∀ c ∈ q.chunksOf, c.1 ≠ p.shard) ∧
        mapGet 0 t.ctrs (ctrKey pgGxe 3) = (mapGet 0 s.ctrs (ctrKey pgGxe 3) +
          ((r.chunksOf.filter (fun t => t.1 == p.shard)).flatMap (·.2)).length) % 2 ^ 48) ∧
    (let st := num p.payload 24 8
     let x := landOf g p.bucket p.shard st
     x.got.length < shardChunks (jLen s j) (bucketN (extsOf s (bucketOf s j p.bucket)) / 32) p.shard →
      (p.shard = 0 → g.used.any (fun v => v.1 == p.bucket && v.2.1 == st) = false) →
      g.shards.find? (shardKey p.bucket (st + 1)) = none →
      exec (.close p) s = .next (setGxe (forwardResult s j 3 p)
        j { setLand g { x with close := padTo 64 p.payload } with
        stepHi := max g.stepHi st
        vals := if p.shard = 0 then
          g.vals ++ [(p.bucket, st + 1, (upTo 16).map (fun i => num p.payload (32 + 2 * i) 2))] else g.vals })) ∧
    (let x := landOf g p.bucket p.shard step
     let d := bucketOf s j p.bucket
     let xs := extsOf s d
     let lo := shardLo (jLen s j) (bucketN xs / 32) p.shard
     let chk := (checkOf (32 * (lo + 64 * p.chunk)) (chunkInts false p.blocks p.payload) +
       checkOf (bucketN xs + lo + 64 * p.chunk)
         ((upTo p.blocks).map (fun i => ((num p.payload (32 * p.blocks + i) 1 : Nat) : Int)))) % p61
     p.shard < jLen s j → x.failed = false → x.got.contains p.chunk = false → x.asked.contains p.chunk = false →
      g.landed.any (fun l => l.1 == p.bucket && l.2.1 == p.shard && l.2.2.1 == step) = false →
      (chk = p.check → x.close = [] →
        ∃ t, exec (.result p) s = .next t ∧ (landOf (gxeOf t j) p.bucket p.shard step).got = x.got ++ [p.chunk] ∧
          (∀ k e i, p.blocks = 1 → blockExt xs 0 (lo + 64 * p.chunk) = some (k, e, i) →
            e.e0 + 32 * i + 32 ≤ gdElems (extGroup s d e) →
            fabBadW (onDie s 2) ((extGroup s d e).grad + (e.e0 + 32 * i)) 32 = none →
            fabBadW (onDie s 2) ((extGroup s d e).grad + gdElems (extGroup s d e) + (e.e0 + 32 * i) / 32) 1 = none →
            t.regs = (forwardResult s j 4 p).regs ∧
            rdMem t ((extGroup s d e).grad + (e.e0 + 32 * i)) 32 = padTo 32 p.payload ∧
            rdNum t ((extGroup s d e).grad + gdElems (extGroup s d e) + (e.e0 + 32 * i) / 32) 1 = num p.payload 32 1)) ∧
      (chk ≠ p.check →
        ∃ t, exec (.result p) s = .next t ∧ (landOf (gxeOf t j) p.bucket p.shard step).asked = x.asked ++ [p.chunk] ∧
          (landOf (gxeOf t j) p.bucket p.shard step).got = x.got ∧ t.mem = s.mem ∧ t.regs = s.regs ∧
          (p.shard ≠ jOwn s j → t = atDie 2 (fun u => sendMsgTo (setGxe (forwardResult u j 4 p) j
            (setLand (gxeOf (forwardResult u j 4 p) j) { x with asked := x.asked ++ [p.chunk] }))
            3 (replicaCoord s j p.shard) (resendHead s j p step) []) s)))) ∧
  (∀ (s : State) (j b step chunk dst : Nat) (r : Nat × Nat × List GxePkt) (p : GxePkt), FabricOn s →
    (gxeOf s j).results.find? (fun r => r.1 == b && r.2.1 == step) = some r →
      r.2.2.find? (fun p => p.chunk == chunk) = some p →
    exec (.chunkResendRequest j b (jOwn s j) step chunk dst) s = .next (sendPkt s j dst 4 p))

/-! ### Memory outside the cores -/

/-- DRZ_GATHER, DRZ_SCATTER, CXL_MEM_READ, CXL_MEM_WRITE (R333 to R336, R471, R472). A gather copies each row of its
list out of the table, a scatter into it; an index past the table is counted, a gather fills zeros for it. A read of
the window answers with the bytes, or with zeros and poison where they cannot be read; a write stores them, poisoned
ones unreadable. -/
def Obligations.DrizzleAndTheCxlWindowMoveBytes : Prop :=
  (∀ (s : State) (r : Nat) (rc : RCmd), RegionOn s r →
    let x := drzOf rc.cmd
    let ia := spScratch rc.cmd.core + x.idx
    let da := spScratch rc.cmd.core + x.data
    let k := rdNum s ia 4
    let ta := x.table + k * x.stride
    let u := onDie s (r / 16)
    let ok (out : Nat) : List Byte := leBytes 4 out ++ leBytes 4 0 ++ leBytes 4 0xFFFFFFFF
    (runOp s (pgDrz r) 1 = some rc →
      (∃ t, exec (.drzGather r) s = .next t ∧ t.ctxs = s.ctxs ∧
        (ended t (pgDrz r * 2) rc.cmd.id stOK ∨ ended t (pgDrz r * 2) rc.cmd.id stUncorr)) ∧
      (rc.cmd.core < 2048 → (∀ i, i < x.count → badIn s (drzIdx rc.cmd i) 4 = none) → drzApart x →
        (∀ i, i < x.count → drzRowNo s rc.cmd i < x.rows →
          drzPlace s rc.cmd i + x.rb ≤ stackedEnd ∧ fabBad u (drzPlace s rc.cmd i) x.rb = none) →
        ∃ t, exec (.drzGather r) s = .next t ∧ ended t (pgDrz r * 2) rc.cmd.id stOK ∧
          (∀ i, i < x.count → rdMem t (da + i * x.rb) x.rb =
            if drzRowNo s rc.cmd i < x.rows then rdMem s (drzPlace s rc.cmd i) x.rb else List.replicate x.rb 0) ∧
          ((∀ i, i < x.count → drzRowNo s rc.cmd i < x.rows) → t.regs = s.regs ∧ t.ctrs = s.ctrs ∧
            ∀ a, a < da ∨ da + x.count * x.rb ≤ a → rdByte t a = rdByte s a)) ∧
      (x.count = 1 → badIn s ia 4 = none → k < x.rows → fabBad u ta x.rb = none →
        exec (.drzGather r) s = .next (finish (wrMem s da (rdMem s ta x.rb)) rc stOK (ok 0))) ∧
      (x.count = 1 → badIn s ia 4 = none → x.rows ≤ k →
        exec (.drzGather r) s =
          .next (finish (bump (wrMem s da (List.replicate x.rb 0)) (pgDrz r) 2 1) rc stOK (ok 1)))) ∧
    (runOp s (pgDrz r) 2 = some rc →
      (∃ t, exec (.drzScatter r) s = .next t ∧ t.ctxs = s.ctxs ∧
        (ended t (pgDrz r * 2) rc.cmd.id stOK ∨ ended t (pgDrz r * 2) rc.cmd.id stUncorr)) ∧
      ((∀ i, i < x.count → badIn s (drzIdx rc.cmd i) 4 = none ∧ drzRowNo s rc.cmd i < x.rows ∧
          drzPlace s rc.cmd i + x.rb ≤ stackedEnd ∧ badIn s (da + i * x.rb) x.rb = none ∧
          fabBadW u (drzPlace s rc.cmd i) x.rb = none) →
        (∀ i i', i < i' → i' < x.count → drzRowNo s rc.cmd i ≠ drzRowNo s rc.cmd i') → x.rb ≤ x.stride →
        ∃ t, exec (.drzScatter r) s = .next t ∧ ended t (pgDrz r * 2) rc.cmd.id stOK ∧ t.regs = s.regs ∧
          (∀ i, i < x.count → rdMem t (drzPlace s rc.cmd i) x.rb = rdMem s (da + i * x.rb) x.rb) ∧
          (∀ a, (∀ i, i < x.count → a < drzPlace s rc.cmd i ∨ drzPlace s rc.cmd i + x.rb ≤ a) → rdByte t a =
            rdByte s a)) ∧
      (x.count = 1 → badIn s ia 4 = none → k < x.rows → badIn s da x.rb = none → fabBadW u ta x.rb = none →
        exec (.drzScatter r) s = .next (finish (wrMem s ta (rdMem s da x.rb)) rc stOK (ok 0))) ∧
      (x.count = 1 → badIn s ia 4 = none → x.rows ≤ k →
        exec (.drzScatter r) s = .next (finish (bump s (pgDrz r) 2 1) rc stOK (ok 1))))) ∧
  (∀ (s : State) (off len : Nat), Powered s → s.cxlUp = true → off + len ≤ windowBytes →
    (fabBad s (windowAddr s off) len = none →
      exec (.cxlMemRead off len) s = .next { s with
        hdm := true
        reply := { abort := false, status := 0, data := rdMem s (windowAddr s off) len, poison := false } }) ∧
    (fabBad s (windowAddr s off) len ≠ none →
      ∃ t, exec (.cxlMemRead off len) s = .next t ∧ bit (reg t pgCxl 0x20) 8 = true ∧
        t.reply = { abort := false, status := 0, data := List.replicate len 0, poison := true })) ∧
  (∀ (s : State) (off : Nat) (data : List Byte), Powered s → s.cxlUp = true → data ≠ [] →
    off + data.length ≤ windowBytes →
    fabBadW s (windowAddr s off) data.length = none →
    exec (.cxlMemWrite off data false) s = .next { wrMem s (windowAddr s off) data with hdm := true } ∧
    ∃ t, exec (.cxlMemWrite off data true) s = .next t ∧ t.hdm = true ∧ t.regs = s.regs ∧
      badIn t (windowAddr s off) data.length ≠ none ∧ rdMem t (windowAddr s off) data.length = data)

/-- CXL_MEM_BASE_WRITE, MEM_ILV_WRITE, FENCE, CLU_WINDOW_WRITE (R323, R325, R331, R338). The window's base moves only
while the decoder is not committed and to a value of its ranges; a region's interleave changes only while nothing uses
the region; FENCE fences the channel with its cause; a window of a cluster cache is taken unless it meets another
job's. -/
def Obligations.MemoryRegistersTakeLegalValues : Prop :=
  (∀ (s : State) (v : W64), HostReach s pgCxl →
    let b := v.toNat / 2 ^ 34 % 32
    (s.hdm = false → b ≤ 12 ∨ (16 ≤ b ∧ b ≤ 28) →
      exec (.cxlMemBaseWrite 0 ⟨v, false⟩) s = .next (setReg s pgCxl 0x100 (2 ^ 34 * b))) ∧
    (s.hdm = true ∨ (12 < b ∧ b < 16) ∨ 28 < b → exec (.cxlMemBaseWrite 0 ⟨v, false⟩) s = .next s) ∧
    exec (.cxlMemBaseWrite 0 ⟨v, true⟩) s = .next { s with hdm := true }) ∧
  (∀ (s : State) (r ch : Nat) (v : W64), HostReach s (pgMem r ch) → r < 32 → ch < 8 →
    (v.toNat % 4 = 3 ∨ regionHasMem s r = true ∨ windowCovers s r = true →
      ∃ t, exec (.memIlvWrite 0 r ch v) s = .next t ∧ bit (reg t (pgMem r ch) 0x20) 11 = true ∧ OnlyReported s t) ∧
    (v.toNat % 4 ≠ 3 → regionHasMem s r = false → windowCovers s r = false →
      ∃ t, exec (.memIlvWrite 0 r ch v) s = .next t ∧ reg t (pgMem r 0) 0x100 = v.toNat % 4 ∧ t.engs = s.engs ∧
        t.ctxs = s.ctxs ∧
        (Canonical s → (∀ c ∈ s.mem, fabRegion c.1 ≠ r ∨ stackedEnd ≤ c.1) → t.mem = s.mem))) ∧
  (∀ (s : State) (r ch : Nat), HostReach s (pgMem r ch) → r < 32 → ch < 8 → chFenced s r ch = false →
    ∃ t, exec (.fence 0 r ch) s = .next t ∧ regF t (pgMem r ch) 0x110 0 3 = 7 ∧
      bit (reg t (pgMem r ch) 0x108) 16 = true ∧ bit (reg t (pgMem r ch) 0x20) 10 = true ∧
      t.engs = s.engs ∧ t.ctxs = s.ctxs) ∧
  (∀ (s : State) (k w : Nat) (v : W64), HostReach s (pgClu k) → k < 256 → w < 8 →
    let v' := v.toNat &&& 0xFF7F001F
    let base := bits v' 16 7
    let size := bits v' 24 8
    let clash := (upTo 8).any (fun i =>
      let x := reg s (pgClu k) (0x100 + 8 * i)
      i != w && bit x 0 && bits x 1 4 != bits v' 1 4 && decide (base < bits x 16 7 + bits x 24 8) &&
        decide (bits x 16 7 < base + size))
    (bit v' 0 = false ∨ (clash = false ∧ 0 < size ∧ base + size ≤ 128) →
      exec (.cluWindowWrite 0 k w v) s = .next (setReg s (pgClu k) (0x100 + 8 * w) v')) ∧
    (bit v' 0 = true → clash = true ∨ size = 0 ∨ 128 < base + size →
      ∃ t, exec (.cluWindowWrite 0 k w v) s = .next t ∧ bit (reg t (pgClu k) 0x20) 10 = true ∧ OnlyReported s t))

/-- SCRATCH_SCRUB, STACK_SCRUB, CLUSTER_CACHE_SCRUB, STACK_HOT, STACK_HOT_END (R328, R329, R337). A scrub that
corrects a word counts it, one that cannot leaves it unreadable and sets the page's uncorrectable bit; a hot stack
sets HOT of its 32 channels, its end clears them, and no other register changes. -/
def Obligations.ScrubsAndHotStacks : Prop :=
  (∀ (s : State) (core a : Nat), Powered s → core < 2048 → a < scratchBytes →
    (s.bad.contains (spScratch core + (a - a % 8)) = false →
      exec (.scratchScrub core a .corrected) s = .next (corrected s (pgCor core) 7 10 (a - a % 8)) ∧
      exec (.scratchScrub core a .clean) s = .next s) ∧
    ∃ t, exec (.scratchScrub core a .uncorrectable) s = .next t ∧ bit (reg t (pgCor core) 0x20) 9 = true ∧
      t.bad.contains (spScratch core + (a - a % 8)) = true ∧ t.engs = s.engs ∧ t.ctxs = s.ctxs) ∧
  (∀ (s : State) (addr : Nat), Powered s → addr < stackedEnd →
    let a := addr - addr % 32
    let p := memPageOf s a
    regF s p 0x108 0 8 ≠ 0 → chFenced s (fabRegion a) (chanOf s a) = false →
    (s.bad.contains a = false →
      exec (.stackScrub addr .corrected) s = .next (corrected (bump s p 4 1) p 2 9 a) ∧
      exec (.stackScrub addr .clean) s = .next s) ∧
    ∃ t, exec (.stackScrub addr .uncorrectable) s = .next t ∧ bit (reg t p 0x20) 8 = true ∧ t.bad.contains a = true ∧
      t.engs = s.engs ∧ t.ctxs = s.ctxs) ∧
  (∀ (s : State) (k off : Nat), Powered s → k < 256 → off < cluBytes →
    (s.bad.contains (spClu k + (off - off % 8)) = false →
      exec (.clusterCacheScrub k off .corrected) s = .next (corrected s (pgClu k) 3 9 (off - off % 8)) ∧
      exec (.clusterCacheScrub k off .clean) s = .next s) ∧
    ∃ t, exec (.clusterCacheScrub k off .uncorrectable) s = .next t ∧ bit (reg t (pgClu k) 0x20) 8 = true ∧
      t.bad.contains (spClu k + (off - off % 8)) = true ∧ t.engs = s.engs ∧ t.ctxs = s.ctxs) ∧
  (∀ (s : State) (stack : Nat), Powered s → stack < 8 →
    let page (i : Nat) : Nat := pgMem (16 * (stack / 4) + 4 * (stack % 4) + i / 8) (i % 8)
    (∃ t, exec (.stackHot stack) s = .next t ∧ (∀ i, i < 32 → bit (reg t (page i) 0x110) 3 = true) ∧
      (∀ i k, i < 32 → k ≠ 3 → bit (reg t (page i) 0x110) k = bit (reg s (page i) 0x110) k) ∧
      (∀ p o, (∀ i, i < 32 → regKey p o ≠ regKey (page i) 0x110) → reg t p o = reg s p o) ∧ t.mem = s.mem ∧
        t.engs = s.engs) ∧
    (∃ t, exec (.stackHotEnd stack) s = .next t ∧ (∀ i, i < 32 → bit (reg t (page i) 0x110) 3 = false) ∧
      (∀ i k, i < 32 → k ≠ 3 → bit (reg t (page i) 0x110) k = bit (reg s (page i) 0x110) k) ∧
      (∀ p o, (∀ i, i < 32 → regKey p o ≠ regKey (page i) 0x110) → reg t p o = reg s p o) ∧ t.mem = s.mem ∧
        t.engs = s.engs))

/-- RETRAIN, TIER_TRAINING, GDR_TRAINING_DONE, WCK_TRACKING, GDR_CRC_ERROR, TGC_START, TGC_STOP, TGC_RUN_DONE (R342 to
R348). A TRAINED port retrains alone, otherwise every enabled port trains with the tier down; a port ends TRAINED or
DOWN; CRC errors count their tries, and a failed retraining takes the port down; a traffic run goes on where nothing
uses its region. -/
def Obligations.SlowTierPortsAndTrafficGenerators : Prop :=
  (∀ (s : State) (port : Nat), HostReach s (pgGdr port) → port < 16 → anyTraining s = false →
    (gdrState s port = 2 →
      ∃ t, exec (.retrain 0 port) s = .next t ∧ gdrState t port = 1 ∧ bit (reg t (pgGdr port) 0x100) 5 = true ∧
        (∀ p o, p ≠ pgGdr port → o < 4096 → reg t p o = reg s p o) ∧ t.mem = s.mem ∧ t.tierDown = s.tierDown) ∧
    (gdrState s port ≠ 2 → slowHeld s = false → gdrLegal s = true →
      ∃ t, exec (.tierTraining 0 port) s = .next t ∧ t.tierTraining = true ∧ t.tierDown = s.tierDown ∧
        t.tierPorts = gdrCount s ∧
        t.tierGib = gdrSize s ∧ (∀ p, p < 16 → gdrEnabled s p = true → gdrState t p = 1) ∧ t.mem = s.mem) ∧
    (gdrState s port ≠ 2 → slowHeld s = false → gdrLegal s = false →
      ∃ t, exec (.tierTraining 0 port) s = .next t ∧ bit (reg t (pgGdr port) 0x20) 12 = true ∧ t.tierDown = true ∧
        t.tierPorts = 0 ∧ (∀ p, p < 16 → gdrState t p = gdrState s p)) ∧
    (gdrState s port ≠ 2 → slowHeld s = true →
      exec (.tierTraining 0 port) s = .next (setReg s (pgGdr port) 0x100 (reg s (pgGdr port) 0x100 &&& 0x1F)))) ∧
  (∀ (s : State) (port us : Nat), Powered s → port < 16 → gdrState s port = 1 →
    (∃ t, exec (.gdrTrainingDone port true us) s = .next t ∧ gdrState t port = 2 ∧
      regF t (pgGdr port) 0x108 8 16 = min us 65535) ∧
    (∃ t, exec (.gdrTrainingDone port false us) s = .next t ∧ gdrState t port = 3 ∧
      bit (reg t (pgGdr port) 0x20) 11 = true ∧
      (gdrEnabled s port = true → t.tierDown = true))) ∧
  (∀ (s : State) (port : Nat), Powered s → port < 16 → gdrState s port = 2 →
    (∃ n, n ≤ 200 ∧ exec (.wckTracking port) s = .next (bumpNs { s with free := s.free + 1 } (pgGdr port) 1 n)) ∧
    (∀ n, exec (.gdrCrcError port (.retryOk n)) s = .next (bump s (pgGdr port) 2 (max 1 (min n 3)))) ∧
    (∀ a, exec (.gdrCrcError port (.eccCorrected a)) s = .next (corrected s (pgGdr port) 3 9 a)) ∧
    (∃ n, n ≤ 16100000 ∧ exec (.gdrCrcError port .retrainOk) s =
      .next (setRegF (bumpNs (bump { s with free := s.free + 1 } (pgGdr port) 2 3) (pgGdr port) 1 n) (pgGdr port)
        0x108 8 16
        (n / 1000))) ∧
    (∃ t, exec (.gdrCrcError port .retrainFail) s = .next t ∧ gdrState t port = 3 ∧ t.tierDown = true ∧
      bit (reg t (pgGdr port) 0x20) 10 = true) ∧
    (∀ a, a < 2 ^ 30 * s.tierGib → s.notices.find? (·.started) = none →
      ∃ t, exec (.gdrCrcError port (.eccUncorrectable a)) s = .next t ∧
      bit (reg t (pgGdr (portOf s (a - a % 32))) 0x20) 8 = true ∧ t.bad.contains (slowBase + (a - a % 32)) = true)) ∧
  (∀ (s : State) (r ch : Nat), HostReach s (pgTgc r ch) → r < 32 → ch < 8 →
    (regF s (pgTgc r ch) 0x120 0 2 ≠ 1 → regionHasMem s r = false → windowCovers s r = false → chFenced s r ch = false →
      ∃ t, exec (.tgcStart 0 r ch) s = .next t ∧ reg t (pgTgc r ch) 0x120 = 1 ∧ t.mem = s.mem ∧ t.engs = s.engs) ∧
    (regF s (pgTgc r ch) 0x120 0 2 ≠ 1 → regionHasMem s r = true ∨ windowCovers s r = true ∨ chFenced s r ch = true →
      ∃ t, exec (.tgcStart 0 r ch) s = .next t ∧ regF t (pgTgc r ch) 0x120 0 2 = 3 ∧ t.mem = s.mem ∧ t.engs = s.engs) ∧
    (regF s (pgTgc r ch) 0x120 0 2 = 1 →
      exec (.tgcStop 0 r ch) s = .next (setRegF s (pgTgc r ch) 0x100 9 1 1))) ∧
  (∀ (s : State) (r ch lo hi : Nat) (fails : List Nat), Powered s → r < 32 → ch < 8 →
    regF s (pgTgc r ch) 0x120 0 2 = 1 →
    tgcPasses s r ch ≠ 0 ∨ tgcStopped s r ch = true →
    ∃ t, exec (.tgcRunDone r ch fails lo hi) s = .next t ∧
      reg t (pgTgc r ch) 0x128 = lo % 2 ^ 32 + 2 ^ 32 * (hi % 2 ^ 32) ∧ t.engs = s.engs ∧ t.ctxs = s.ctxs ∧
      regF t (pgTgc r ch) 0x100 8 2 = 0 ∧ (∀ n, tgcCounts s r ch = some n →
        mapGet 0 t.ctrs (ctrKey (pgTgc r ch) 1) = (mapGet 0 s.ctrs (ctrKey (pgTgc r ch) 1) + n.1) % 2 ^ 48 ∧
        mapGet 0 t.ctrs (ctrKey (pgTgc r ch) 2) = (mapGet 0 s.ctrs (ctrKey (pgTgc r ch) 2) + n.2) % 2 ^ 48) ∧
      (fails = [] → reg t (pgTgc r ch) 0x120 = 2) ∧ (∀ f fs, fails = f :: fs →
        reg t (pgTgc r ch) 0x120 = 2 + 4 + f % 2 ^ 31 * 2 ^ 8 ∧ bit (reg t (pgTgc r ch) 0x20) 8 = true))

/-! ### Merrak Link -/

/-- DATA_FRAME_SEND, DATA_FRAME_RECEIVE, IDLE_FRAME_RECEIVE, LINK_FRAME_REPEAT, REPLAY_TIMEOUT, NAK_REQUEUE (R361 to
R372). A direction that is UP resends first, then sends its first frame with a credit under the next SEQ, else IDLE,
with the words of its 256 bytes dealt over the lanes of its map; the words that arrive on the lanes give a frame, or
one that is dropped and counted; the DATA frame that is next in order is delivered; an acknowledged frame leaves the
replay buffer; a LINK frame that has gone unanswered for 1 µs is repeated. -/
def Obligations.LinkFramesAreSentReceivedAndReplayed : Prop :=
  (∀ (s : State) (dir : Nat), Powered s → dir < 8 →
    let l := lnkOf s dir
    (txUp l = true →
      (∀ f rest, l.resend = [] → replayRoom l = true → pickFrame s dir l.outQ = some (f, rest) →
        ∃ t w, exec (.dataFrameSend dir) s = .next t ∧ (lnkOf t dir).outQ = rest ∧
          (lnkOf t dir).replay = l.replay ++ [{ f with seq := l.txNext, inDir := 0 }] ∧
          (lnkOf t dir).txNext = (l.txNext + 1) % 2 ^ 20 ∧ (lnkOf t dir).wire = onLanes l w ∧ w.ty = 1 ∧
            w.seq = l.txNext ∧
          w.len = f.payload.length ∧ w.payload.take f.payload.length = f.payload ∧ w.dest = f.dest ∧
            w.linkEpoch = l.epoch ∧
          w.resend = false ∧ w.ackSeq = (l.rxNext + 2 ^ 20 - 1) % 2 ^ 20 ∧ w.ackValid = l.delivered) ∧
      (∀ n rest f, l.resend = n :: rest → l.replay.find? (fun f => f.seq == n) = some f →
        ∃ t w, exec (.dataFrameSend dir) s = .next t ∧ (lnkOf t dir).resend = rest ∧ (lnkOf t dir).replay = l.replay ∧
          (lnkOf t dir).wire = onLanes l w ∧ w.ty = 1 ∧ w.seq = f.seq ∧ w.payload.take f.payload.length = f.payload ∧
          w.resend = true) ∧
      (l.resend = [] → replayRoom l = false ∨ pickFrame s dir l.outQ = none →
        ∃ t w, exec (.dataFrameSend dir) s = .next t ∧ (lnkOf t dir).wire = onLanes l w ∧ w.ty = 2 ∧
          (lnkOf t dir).replay = l.replay ∧ (lnkOf t dir).txNext = l.txNext ∧ t.mem = s.mem ∧ t.regs = s.regs)) ∧
    (∀ ws : List LaneWord, l.st = 2 → l.rxMap ≠ [] →
      let l' := { l with rxPos := (l.rxPos + 32) % l.rxMap.length }
      let u := setLnk s dir { l' with validAt := s.time }
      (rxFrame l.rxMap l.rxPos ws = none →
        exec (.dataFrameReceive dir ws) s = .next (bump (setLnk s dir l') (pgLnk dir) 5 1) ∧
        exec (.idleFrameReceive dir ws) s = .next (bump (setLnk s dir l') (pgLnk dir) 5 1)) ∧
      (∀ f, rxFrame l.rxMap l.rxPos ws = some f →
        (f.ty = 2 → exec (.idleFrameReceive dir ws) s = .next (takeTrailer u dir f) ∧
          (f.ackValid = true → f.nakValid = false → f.credValid = false → (lnkOf (takeTrailer u dir f) dir).replay =
            l.replay.filter (fun q => !(q.seq == f.ackSeq || precedes q.seq f.ackSeq)))) ∧
        (f.ty = 3 → exec (.dataFrameReceive dir ws) s = .next (takeLink (takeTrailer u dir f) dir f.payload)) ∧
        (f.ty = 1 → f.linkEpoch ≠ l.pEpoch → exec (.dataFrameReceive dir ws) s = .next (bump u (pgLnk dir) 11 1)) ∧
        (f.ty = 1 → f.linkEpoch = l.pEpoch → f.seq = l.rxNext → l.heldF = [] → routeDir s (ownCoord s) f.dest = none →
          f.vc ≠ 1 →
          ∃ t, exec (.dataFrameReceive dir ws) s = .next t ∧ (lnkOf t dir).rxNext = (l.rxNext + 1) % 2 ^ 20 ∧
            (lnkOf t dir).delivered = true ∧ t.pstate = 0 ∧
            mapGet [] t.rxStreams (4 * f.src + f.vc) =
              mapGet [] s.rxStreams (4 * f.src + f.vc) ++ f.payload.take f.len))) ∧
    (∀ op, l.linkOut.find? (fun o => passed s (mapGet 0 l.linkAt o + 1000)) = some op →
      ∃ t w, exec (.linkFrameRepeat dir) s = .next t ∧
        (lnkOf t dir).linkOut = l.linkOut.filter (fun o => o != op) ++ [op] ∧
        mapGet 0 (lnkOf t dir).linkAt op = s.time ∧ (lnkOf t dir).wire = onLanes l w ∧ w.ty = 3 ∧ t.mem = s.mem ∧
        t.regs = s.regs) ∧
    (l.linkOut.find? (fun o => passed s (mapGet 0 l.linkAt o + 1000)) = none →
      exec (.linkFrameRepeat dir) s = .next s) ∧
    (∀ o os, l.replay = o :: os → l.st = 2 ∨ l.st = 3 → l.ackAt + replayNs s dir ≤ s.time →
      exec (.replayTimeout dir) s = .next (bump (setLnk s dir { l with
        resend := if l.resend.contains o.seq then l.resend else o.seq :: l.resend, ackAt := s.time }) (pgLnk dir)
          12 1)) ∧
    (∀ n, l.heldF.any (fun h => h.1 == n) = false →
      l.heldF.any (fun h => decide (seqDist l.rxNext n < seqDist l.rxNext h.1)) = true → l.naks.length < 4096 →
      mapGet 0 l.nakAt n = 0 ∨ mapGet 0 l.nakAt n - 1 + replayNs s dir ≤ s.time →
      exec (.nakRequeue dir n) s = .next (setLnk s dir { l with
        naks := l.naks ++ [n], nakAt := mapPut 0 l.nakAt n (s.time + 1) })))

/-- SQUALL, SPARE_LANE_TEST, LANE_MAP, LOSS_OF_LIGHT, NO_VALID_FRAME, RETRAIN_OVERRUN, LANE_MAP_TIMEOUT, DOWN,
FORCE_DOWN, RETRAIN of LNK_CFG, LINK_LOST (R373 to R380). A lane that the detector finds squalling, without lock or
without light, is replaced by a good spare, or its way narrows, or the direction goes down; the partner's lane map is
taken; what takes a direction down puts it into HOLD with its cause and sets EVT_STATUS bit 2; after the lull a
direction in HOLD becomes ABSENT with its replay buffer empty and its EPOCH one higher. -/
def Obligations.LanesAreReplacedAndDirectionsGoDown : Prop :=
  ∀ (s : State) (dir : Nat), Powered s → dir < 8 →
    let l := lnkOf s dir
    let held (t : State) (cause at_ : Nat) : Prop := (lnkOf t dir).st = 4 ∧ (lnkOf t dir).cause = cause ∧
      (lnkOf t dir).lullAt = at_ ∧ bit (reg t (pgLnk dir) 0x48) 2 = true
    let found (lane : Nat) (r : LaneReport) : Prop := lane < 36 ∧ bit l.rxActive lane = true ∧
      (r = .noLock ∨ r = .noLight ∨ ∃ errs, r = .codewords errs ∧
        squalls (noteCodewords s dir lane errs) dir lane = true)
    let retrains (t : State) (map : List Nat) (lane : Nat) : Prop := (lnkOf t dir).st = 3 ∧
      (lnkOf t dir).rxRetrain = true ∧
      (lnkOf t dir).rxMap = map ∧ (lnkOf t dir).rxActive = laneMask map ∧ (lnkOf t dir).rxWidth = map.length ∧
      (lnkOf t dir).rxBad = l.rxBad ||| 2 ^ lane ∧ 3 ∈ (lnkOf t dir).linkOut
    (∀ lane r, l.st = 2 → found lane r →
      (∀ act w sp, replaceLane s dir l lane = some (act, w, some sp) →
        ∃ t, exec (.squall dir 0 ⟨lane, r⟩) s = .next t ∧ bit (reg t (pgLnk dir) 0x48) 0 = true ∧
          retrains t (l.rxMap.map (fun p => if p = lane then sp else p)) lane) ∧
      (∀ act w, replaceLane s dir l lane = some (act, w, none) →
        ∃ t, exec (.squall dir 0 ⟨lane, r⟩) s = .next t ∧ bit (reg t (pgLnk dir) 0x48) 1 = true ∧
          retrains t (setIdx 36 0 act) lane) ∧
      (replaceLane s dir l lane = none → ∃ t, exec (.squall dir 0 ⟨lane, r⟩) s = .next t ∧ held t 1 s.time)) ∧
    (∀ lane errs, l.st = 2 → lane < 36 → bit l.rxActive lane = true →
      squalls (noteCodewords s dir lane errs) dir lane = false →
      exec (.squall dir 0 ⟨lane, .codewords errs⟩) s = .next (noteCodewords s dir lane errs)) ∧
    (∀ lane, lane < 36 → bit l.rxActive lane = false → l.st ≠ 0 →
      exec (.spareLaneTest dir 0 lane true) s = .next (setLnk s dir { l with rxBad := l.rxBad ||| 2 ^ lane }) ∧
      exec (.spareLaneTest dir 0 lane false) s = .next s) ∧
    (l.linkOut.contains 3 = true →
      exec (.laneMap dir 0 l.rxActive l.rxWidth) s =
        .next (setLnk s dir { l with linkOut := l.linkOut.filter (fun o => o != 3) })) ∧
    (∀ active width, l.linkOut.contains 3 = false → l.st = 2 → [32, 28, 24, 16].contains width = true →
      popCount 36 active = width → ¬ (active = l.txActive ∧ width = l.txWidth) →
      ∃ t w, exec (.laneMap dir 0 active width) s = .next t ∧ (lnkOf t dir).st = 3 ∧ (lnkOf t dir).txRetrain = true ∧
        (lnkOf t dir).txMap = mapFor l.txMap active width ∧
          (lnkOf t dir).txActive = laneMask (mapFor l.txMap active width) ∧
        (lnkOf t dir).wire = onLanes { l with txMap := mapFor l.txMap active width } w ∧ w.ty = 3) ∧
    (l.st = 2 ∨ l.st = 3 →
      (∃ t, exec (.lossOfLight dir) s = .next t ∧ held t 0 s.time ∧
        regF t (pgOpt (dir / 2)) 0x108 (9 * (dir % 2)) 9 = 0) ∧
      (∀ c, ∃ t, exec (.down dir c) s = .next t ∧ held t 4 s.time) ∧
      (HostReach s (pgLnk dir) → bit (reg s (pgLnk dir) 0x100) 0 = true →
        ∃ t w, exec (.forceDown 0 dir) s = .next t ∧ held t 5 s.time ∧ (lnkOf t dir).wire = onLanes l w ∧ w.ty = 3)) ∧
    (l.st = 2 → l.validAt + 2000 ≤ s.time → ∃ t, exec (.noValidFrame dir) s = .next t ∧ held t 2 s.time) ∧
    (l.st = 2 → HostReach s (pgLnk dir) → bit (reg s (pgLnk dir) 0x100) 0 = true →
      bit (reg s (pgLnk dir) 0x100) 5 = false →
      ∃ t, exec (.lnkRetrain 0 dir) s = .next t ∧ held t 5 s.time ∧ (lnkOf t dir).trainReq = true) ∧
    (l.st = 3 → l.rxRetrain = true → l.rtAt + 30000 ≤ s.time →
      ∃ t, exec (.retrainOverrun dir) s = .next t ∧ held t 3 l.rtAt) ∧
    (l.st = 3 → l.linkOut.contains 3 = true → l.lmAt + 2000 ≤ s.time →
      ∃ t, exec (.laneMapTimeout dir) s = .next t ∧ held t 3 s.time) ∧
    (l.st = 4 → l.lullAt + lullNs s dir ≤ s.time →
      ∃ t, exec (.linkLost dir) s = .next t ∧ (lnkOf t dir).st = 5 ∧ (lnkOf t dir).epoch = (l.epoch + 1) % 256 ∧
        (lnkOf t dir).replay = [] ∧ bit (reg t (pgLnk dir) 0x20) 8 = true)

/-- HELLO, RESYNC, TRAINING_DONE, ENABLE of LNK_CFG, BRINGUP_RETRY, LINK of RST_CTRL, LASER_LOSS (R377 to R392).
ENABLE, a retry and a link reset start bring-up; trained lanes and the expected coordinate make the direction UP,
another coordinate fails the attempt; a RESYNC in HOLD with both EPOCHs makes it UP with every frame left to resend,
one in RETRAIN ends it for the way that has trained; a lost laser input is logged, and its lanes stop. -/
def Obligations.DirectionsComeUp : Prop :=
  ∀ (s : State) (dir : Nat), Powered s → dir < 8 →
    let l := lnkOf s dir
    (HostReach s (pgLnk dir) → l.st = 0 → axisLen s (dir / 2) ≠ 1 → optWidth s dir ≠ 0 →
      ∃ t, exec (.lnkEnable 0 dir) s = .next t ∧ (lnkOf t dir).st = 1 ∧ (lnkOf t dir).rxBad = 0 ∧
        (lnkOf t dir).txBad = 0 ∧
        bit (reg t (pgLnk dir) 0x100) 0 = true ∧ t.mem = s.mem) ∧
    (l.st = 5 → l.failedAt + 1000000 ≤ s.time → optWidth s dir ≠ 0 →
      exec (.bringupRetry dir) s = .next (setLnk s dir { l with
        st := 1, pValid := false, trained := false, failed := false, linkOut := [], linkReset := false })) ∧
    (HostReach s pgRst → l.st = 1 ∨ l.st = 5 → optWidth s dir ≠ 0 →
      ∃ t, exec (.linkReset 0 dir) s = .next t ∧ (lnkOf t dir).st = 1 ∧ (lnkOf t dir).rxBad = 0 ∧
        (lnkOf t dir).fails = 0) ∧
    (∀ way rb tb r w, l.st = 1 → l.failed = false → l.pValid = false →
      bringupLanes s dir ((l.rxBad ||| rb) &&& lanes36) = some r →
        bringupLanes s dir ((l.txBad ||| tb) &&& lanes36) = some w →
      ∃ t, exec (.trainingDone dir ⟨way, true⟩ rb tb) s = .next t ∧ (lnkOf t dir).trained = true ∧ (lnkOf t dir).st = 1 ∧
        (lnkOf t dir).rxMap = setIdx 36 0 r.1 ∧ (lnkOf t dir).rxActive = laneMask (setIdx 36 0 r.1) ∧
        (lnkOf t dir).txMap = setIdx 36 0 w.1 ∧ (lnkOf t dir).txActive = laneMask (setIdx 36 0 w.1) ∧
        (lnkOf t dir).rxWidth = (setIdx 36 0 r.1).length ∧ (lnkOf t dir).txWidth = (setIdx 36 0 w.1).length ∧
          1 ∈ (lnkOf t dir).linkOut ∧ 3 ∈ (lnkOf t dir).linkOut ∧ t.mem = s.mem) ∧
    (∀ rb tb, l.st = 3 →
      (l.rxRetrain = true →
        exec (.trainingDone dir ⟨0, true⟩ rb tb) s = .next (askLink (setLnk s dir { l with rxTrained := true }) dir 2)) ∧
      (l.txRetrain = true →
        exec (.trainingDone dir ⟨1, true⟩ rb tb) s = .next (askLink (setLnk s dir { l with txTrained := true }) dir 2))) ∧
    (∀ way rb tb, l.st = 1 → l.failed = false →
      ∃ t, exec (.trainingDone dir ⟨way, false⟩ rb tb) s = .next t ∧ (lnkOf t dir).failed = true ∧
        (lnkOf t dir).fails = l.fails + 1) ∧
    (∀ epoch coord fresh, l.st = 1 → l.failed = false →
      (coord % 2 ^ 24 = neighbour s (ownCoord s) dir → l.trained = true →
        ∃ t, exec (.hello dir epoch coord fresh) s = .next t ∧ (lnkOf t dir).st = 2 ∧
          (lnkOf t dir).pEpoch = epoch % 256 ∧
          (lnkOf t dir).pCoord = coord % 2 ^ 24 ∧ bit (reg t pgTor 0x108) dir = true ∧
          bit (reg t pgTor 0x108) (8 + dir) = false ∧ t.mem = s.mem) ∧
      (coord % 2 ^ 24 ≠ neighbour s (ownCoord s) dir →
        ∃ t, exec (.hello dir epoch coord fresh) s = .next t ∧ (lnkOf t dir).failed = true ∧
          bit (reg t pgTor 0x20) 8 = true ∧ bit (reg t pgTor 0x108) (8 + dir) = true)) ∧
    (∀ epoch pEpoch rx credits, l.st = 4 → epoch % 256 = l.pEpoch → pEpoch % 256 = l.epoch →
      s.time < l.lullAt + lullNs s dir →
      ∃ t, exec (.resync dir epoch pEpoch rx credits) s = .next t ∧ (lnkOf t dir).st = 2 ∧
        (lnkOf t dir).resend = (lnkOf t dir).replay.map (·.seq) ∧ t.mem = s.mem ∧ t.regs = s.regs) ∧
    (∀ epoch pEpoch rx credits, l.st = 3 → epoch % 256 = l.pEpoch → pEpoch % 256 = l.epoch → l.rxRetrain = true →
      l.txRetrain = false → l.rxTrained = true → l.linkOut.contains 3 = false →
      ∃ t, exec (.resync dir epoch pEpoch rx credits) s = .next t ∧ (lnkOf t dir).st = 2 ∧
        (lnkOf t dir).rxRetrain = false ∧
        t.mem = s.mem ∧ t.regs = s.regs) ∧
    (∀ oe fibre, oe < 4 → fibre < 18 → bit (reg s (pgOpt oe) 0x100) (fibre / 9) = true →
      ∃ t, exec (.laserLoss oe fibre) s = .next t ∧ bit (reg t (pgOpt oe) 0x20) 8 = true ∧
        bit (reg t (pgOpt oe) 0x108) (32 + fibre) = false ∧ (lnkOf t (2 * oe + fibre / 9)).txStop =
          (lnkOf s (2 * oe + fibre / 9)).txStop ||| 0xF * 2 ^ (4 * (fibre % 9)))

/-! ### Torus -/

/-- TOR_PUT, PUT_REQUEST_ARRIVAL, PUT_REPLY, PUT_TIMEOUT (R396 to R400). A put whose route is present and whose source
can be read is outstanding until its reply; its destination stores the data for a job whose box holds the sender,
posts the counter it names, and otherwise stores nothing; a reply ends the put, a late one is counted; a put without a
reply ends in time. -/
def Obligations.PutsStoreTheirDataAndEnd : Prop :=
  (∀ (s : State) (id dir : Nat) (r : RCmd), FabricOn s →
    engRun s (pgTor * 2) (fun r => r.cmd.id == id && r.cmd.op == 1 && r.prog == 0) = some r →
    routeDir s (ownCoord s) (putDest r.cmd) = some dir →
    ((lnkOf s dir).st = 5 → exec (.torPut id) s = .next (finish s r stLinkLost [])) ∧
    ((lnkOf s dir).st ≠ 5 → routeAbsent s (putDest r.cmd) = true →
      exec (.torPut id) s = .next (bump (finish s r stLinkLost []) pgTor 3 1)) ∧
    ((lnkOf s dir).st ≠ 5 → routeAbsent s (putDest r.cmd) = false → readBad s (putSrc r.cmd) (putLen r.cmd) = none →
      ∃ t p, exec (.torPut id) s = .next t ∧ t.puts = s.puts ++ [p] ∧ p.id = id ∧ p.job = r.cmd.job ∧
        p.dest = putDest r.cmd ∧ p.dir = dir ∧ p.sentAt = s.time ∧ t.mem = s.mem ∧ t.regs = s.regs ∧ t.ctxs = s.ctxs)) ∧
  (∀ (s : State) (q : PutReq), FabricOn s → s.reshard = none → q.job < 16 → q.core < 2048 → q.ctx < 4 → q.ctr < 16 →
    let b := jboxOf s q.job
    let ok := bit b 48 && inBox b q.src && stackedOk s q.job q.dst q.data.length &&
      (!q.post || (ctxBound s q.core q.ctx && ctxJob s q.core q.ctx == q.job))
    (ok = true → fabBadW s q.dst q.data.length = none →
      ∃ t, exec (.putRequestArrival q) s = .next t ∧ rdMem t q.dst q.data.length = q.data ∧
        (∀ a, a < q.dst ∨ q.dst + q.data.length ≤ a → rdByte t a = rdByte s a) ∧ t.regs = s.regs ∧
        (q.post = true → syncCtr t q.core q.ctx q.ctr = (syncCtr s q.core q.ctx q.ctr + 1) % 65536) ∧
        (q.post = false → t.ctxs = s.ctxs)) ∧
    (ok = false → ∃ t, exec (.putRequestArrival q) s = .next t ∧ t.mem = s.mem ∧ t.regs = s.regs ∧ t.ctxs = s.ctxs)) ∧
  (∀ (s : State) (id status : Nat), FabricOn s →
    (s.puts.any (fun p => p.id == id) = true →
      ∃ t, exec (.putReply id status) s = .next t ∧ t.puts = s.puts.filter (fun p => p.id != id) ∧ t.mem = s.mem ∧
        t.regs = s.regs ∧
        (∀ r, engRun s (pgTor * 2) (fun r => r.cmd.id == id) = some r → cmdKey r.cmd = pgTor * 2 →
          ended t (pgTor * 2) id (status % 64))) ∧
    (s.puts.any (fun p => p.id == id) = false → exec (.putReply id status) s = .next (bump s pgTor 4 1))) ∧
  (∀ (s : State) (id : Nat) (p : PutOut), FabricOn s → s.puts.find? (fun p => p.id == id) = some p → p.left = 0 →
    p.sentAt + 1000 * regF s pgTor 0x190 0 32 ≤ s.time →
    ∃ t, exec (.putTimeout id) s = .next t ∧ t.puts = s.puts.filter (fun p => p.id != id) ∧
      bit (reg t pgTor 0x20) 10 = true ∧ t.ctxs = s.ctxs)

/-- TOR_RESHARD, RESHARD_COPY_DONE, TOR_COORD_WRITE, TOR_JBOX_WRITE, TOR_ABSENT_WRITE (R389 to R407). A re-shard that
nothing bars writes its marker and starts its cycles, a barred one changes no block; each copy moves one whole block;
a legal coordinate is taken while every direction is OFF, and the directions that are enabled begin their bring-up; a
box that breaks R391 is not VALID; an absence ends the puts it meets. -/
def Obligations.ReshardsAndTorusRegisters : Prop :=
  (∀ (s : State) (r : RCmd), FabricOn s → s.reshard = none →
    engRun s (pgTor * 2) (fun r => r.cmd.op == 2 && r.prog == 0) = some r →
    readBad s (rsPerm r.cmd) (4 * rsN r.cmd) = none → readBad s (rsBlocks r.cmd) (8 * rsN r.cmd) = none →
    let x := startCycles (rsBufs r.cmd)
      { id := r.cmd.id, job := rsJob r.cmd, perm := rsPermOf s r.cmd, blocks := rsBlocksOf s r.cmd, size := rsSize r.cmd
        stage := rsStage r.cmd, bufs := rsBufs r.cmd, t0 := s.time }
    (∀ st, rsRefuse s r.cmd = some st → exec .torReshard s = .next (finish s r st [])) ∧
    (rsRefuse s r.cmd = none → x.active ≠ [] →
      ∃ t, exec .torReshard s = .next t ∧ t.reshard = some x ∧ reg t pgTor 0x1D8 = 2 * rsJob r.cmd ∧ t.mem = s.mem ∧
        t.ctxs = s.ctxs)) ∧
  (∀ (s : State) (buf : Nat) (x : Reshard) (a : Nat × Nat × Nat × Nat), FabricOn s → s.reshard = some x →
    s.putWait = [] →
    x.active.find? (fun a => a.2.2.2 == buf) = some a → fabBad s (rsCopy x a).1 x.size = none →
    fabBadW s (rsCopy x a).2 x.size = none →
    ∃ t, exec (.reshardCopyDone buf) s = .next t ∧ rdMem t (rsCopy x a).2 x.size = rdMem s (rsCopy x a).1 x.size ∧
      (∀ b, b < (rsCopy x a).2 ∨ (rsCopy x a).2 + x.size ≤ b → rdByte t b = rdByte s b) ∧ t.ctxs = s.ctxs) ∧
  (∀ (s : State) (v : W64), HostReach s pgTor →
    let c := bits v.toNat 0 24
    let len (ax : Nat) : Nat := bits v.toNat (24 + 6 * ax) 6 + 1
    let legal := len 0 * len 1 * len 2 * len 3 ≤ 4096 ∧
      [0, 1, 2, 3].all (fun ax => decide (coordC c ax < len ax)) = true ∧
      (upTo 8).all (fun d => (lnkOf s d).st == 0) = true
    (legal → ∃ t, exec (.torCoordWrite 0 v) s = .next t ∧ reg t pgTor 0x100 = v.toNat % 2 ^ 48 ∧
      regF t pgTor 0x108 0 8 = 0 ∧ bit (reg t pgTor 0x108) 24 = false ∧ t.mem = s.mem ∧ t.engs = s.engs ∧
      (∀ d, d < 8 → bit (reg s (pgLnk d) 0x100) 0 = true → len (d / 2) ≠ 1 → optWidth s d ≠ 0 → (lnkOf t d).st = 1)) ∧
    (¬ legal → exec (.torCoordWrite 0 v) s = .next s)) ∧
  (∀ (s : State) (j : Nat) (v : W64), HostReach s pgTor → j < 16 →
    let b := v.toNat &&& 0x1FFFFFFFFFFFF
    (bit b 48 = false ∨ boxLegal s j b = true →
      exec (.torJboxWrite 0 j v) s = .next (setReg s pgTor (0x110 + 8 * j) b)) ∧
    (bit b 48 = true → boxLegal s j b = false →
      ∃ t, exec (.torJboxWrite 0 j v) s = .next t ∧ bit (jboxOf t j) 48 = false ∧ t.mem = s.mem ∧ t.engs = s.engs)) ∧
  (∀ (s : State) (k : Nat) (v : W64), HostReach s pgTor → k < 8 →
    (bit v.toNat 24 = false →
      exec (.torAbsentWrite 0 k v) s = .next (setReg s pgTor (0x198 + 8 * k) (v.toNat &&& 0x1FFFFFF))) ∧
    (bit v.toNat 24 = true →
      ∃ t, exec (.torAbsentWrite 0 k v) s = .next t ∧ reg t pgTor (0x198 + 8 * k) = v.toNat &&& 0x1FFFFFF ∧
        (∀ p ∈ t.puts, routeMeets s p.dest (v.toNat % 2 ^ 24) = false) ∧ t.ctxs = s.ctxs))

/-! ### Job sharing -/

/-- JOB_CORES_WRITE, JOB_REGIONS_WRITE, JOB_MEM_WRITE, JOB_SLOW_WRITE, ALLOCATION_ZEROED, JOB_ENABLE (R411 to R415). A
grant that nobody else holds is taken, and what a disabled job gives up is zeroed before it may be granted again; any
other write sets ALLOC_REJECTED and changes no allocation; ENABLE is refused while the shed refuses new jobs or the
function's wipe runs. -/
def Obligations.AllocationsAreExclusive : Prop :=
  ∀ (s : State) (f : Nat) (v : W64), HostReach s (pgJob f) → 1 ≤ f → f < 16 →
    let rejected (t : State) : Prop := bit (reg t (pgJob f) 0x20) 9 = true ∧ OnlyReported s t
    (∀ n, n < 32 →
      let old := reg s (pgJob f) (0x200 + 8 * n)
      let taken := (setIdx 64 0 (clearBits v.toNat old)).any (fun b =>
        jobs15.any (fun j => j != f && coreTo s j (64 * n + b)) || s.zeroing.contains (.coreWin (64 * n + b))
          || s.zeroing.contains (.regionClu n))
      (taken = true ∨ (clearBits old v.toNat ≠ 0 ∧ jobEnabled s f = true) →
        ∃ t, exec (.jobCoresWrite 0 f n v) s = .next t ∧ rejected t) ∧
      (taken = false → clearBits old v.toNat = 0 →
        exec (.jobCoresWrite 0 f n v) s = .next (setReg s (pgJob f) (0x200 + 8 * n) v.toNat)) ∧
      (taken = false → jobEnabled s f = false →
        ∃ t, exec (.jobCoresWrite 0 f n v) s = .next t ∧ reg t (pgJob f) (0x200 + 8 * n) = v.toNat ∧
          (∀ b, b < 64 → bit (clearBits old v.toNat) b = true → Freed.coreWin (64 * n + b) ∈ t.zeroing))) ∧
    (let old := reg s (pgJob f) 0x148
     let w := v.toNat % 2 ^ 32
     let taken := (setIdx 32 0 (clearBits w old)).any (regionTaken s f)
     (taken = true ∨ (clearBits old w ≠ 0 ∧ jobEnabled s f = true) →
        ∃ t, exec (.jobRegionsWrite 0 f v) s = .next t ∧ rejected t) ∧
      (taken = false → clearBits old w = 0 → exec (.jobRegionsWrite 0 f v) s = .next (setReg s (pgJob f) 0x148 w)) ∧
      (taken = false → jobEnabled s f = false →
        ∃ t, exec (.jobRegionsWrite 0 f v) s = .next t ∧ reg t (pgJob f) 0x148 = w ∧
          (∀ r, r < 32 → bit (clearBits old w) r = true → Freed.regionClu r ∈ t.zeroing))) ∧
    (∀ n, n < 8 →
      let old := reg s (pgJob f) (0x300 + 8 * n)
      let taken := (setIdx 64 0 (clearBits v.toNat old)).any (fun b => unitTaken s f (4 * n + b / 16) (b % 16))
      (taken = true ∨ (clearBits old v.toNat ≠ 0 ∧ jobEnabled s f = true) →
        ∃ t, exec (.jobMemWrite 0 f n v) s = .next t ∧ rejected t) ∧
      (taken = false → clearBits old v.toNat = 0 →
        exec (.jobMemWrite 0 f n v) s = .next (setReg s (pgJob f) (0x300 + 8 * n) v.toNat)) ∧
      (taken = false → jobEnabled s f = false →
        ∃ t, exec (.jobMemWrite 0 f n v) s = .next t ∧ reg t (pgJob f) (0x300 + 8 * n) = v.toNat ∧
          (∀ b, b < 64 → bit (clearBits old v.toNat) b = true → Freed.unit (4 * n + b / 16) (b % 16) ∈ t.zeroing ∧
            ∀ a, a / 2 ^ 30 = 16 * (4 * n + b / 16) + b % 16 → rdByte t a = 0))) ∧
    (let old := reg s (pgJob f) 0x158
     let w := v.toNat % 65536
     let inside (x g : Nat) : Bool := decide (x % 256 ≤ g) && decide (g < x % 256 + x / 256 % 256)
     let held (g : Nat) : Bool := jobs15.any (fun j => j != f &&
       decide (regF s (pgJob j) 0x158 0 8 ≤ g) && decide (g < regF s (pgJob j) 0x158 0 8 + regF s (pgJob j) 0x158 8 8))
     let barred (g : Nat) : Bool := held g || decide (slowAvail s ≤ g) || s.zeroing.contains (.slow g)
     ((∀ g, g < 512 → inside w g = true → inside old g = false → barred g = false) →
       (∀ g, g < 512 → inside old g = true → inside w g = true) →
        exec (.jobSlowWrite 0 f v) s = .next (setReg s (pgJob f) 0x158 w)) ∧
      ((∃ g, g < 512 ∧ inside w g = true ∧ inside old g = false ∧ barred g = true) →
        ∃ t, exec (.jobSlowWrite 0 f v) s = .next t ∧ rejected t)) ∧
    (∀ z, Powered s → exec (.allocationZeroed z) s = .next { s with zeroing := s.zeroing.filter (fun y => y != z) }) ∧
    (bit v.toNat 0 = true → jobEnabled s f = false →
      (3 ≤ shedRows s ∨ bit (reg s pgRst 0x110) f = true →
        ∃ t, exec (.jobEnable 0 f v) s = .next t ∧ bit (reg t (pgJob f) 0x140) 1 = true ∧ jobEnabled t f = false) ∧
      (shedRows s < 3 → bit (reg s pgRst 0x110) f = false →
        ∃ t, exec (.jobEnable 0 f v) s = .next t ∧ jobEnabled t f = true ∧ bit (reg t (pgJob f) 0x140) 1 = false ∧
          (v.toNat / 256 % 16 ≠ 0 → regF t (pgJob f) 0x140 8 4 = v.toNat / 256 % 16) ∧ t.mem = s.mem ∧
            t.engs = s.engs)) ∧
    (bit v.toNat 0 = false → ∃ t, exec (.jobEnable 0 f v) s = .next t ∧ jobEnabled t f = false ∧ t.mem = s.mem ∧
      t.ctxs = s.ctxs)

/-- JOB_PREEMPT, JOB_RESUME, RGN_TASK, RGN_TASK_DISPATCH (R419 to R425). A pre-emption whose save entries are the
job's own suspends it on every named core where it is bound and completes; a resume puts its state back once the cores
have room, and waits until then; a task starts its context on the core that R419 chooses, and waits while there is
none. -/
def Obligations.JobsArePreemptedAndTasksStarted : Prop :=
  (∀ (s : State) (f : Nat) (r : RCmd), FabricOn s → 1 ≤ f → f < 16 → runOp s (pgJob f) 1 = some r →
    (∀ c ∈ preCores r.cmd, boundOn s f c = true → suspended s c f = false →
      stackedOk s f (saveAddr s f c) (2 ^ 21) = true) →
    ∃ t, exec (.jobPreempt f) s = .next t ∧ (∃ y ∈ (engOf t (pgJob f * 2)).running, y.cmd.id = r.cmd.id ∧
      ∃ ns bytes, y.fin = some (stOK, switchResult
        ((preCores r.cmd).filter (fun c => boundOn s f c && !suspended s c f)).length ns bytes)) ∧
          (∀ c ∈ preCores r.cmd, boundOn s f c = true → suspended t c f = true)) ∧
  (∀ (s : State) (f : Nat) (r : RCmd), FabricOn s → 1 ≤ f → f < 16 → runOp s (pgJob f) 2 = some r →
    let ready := ((preCores r.cmd).filter (fun c => suspended s c f)).all
      (fun c => canRestore s c (mapGet {} s.saves (saveKey c f)))
    (ready = true → ∃ t, exec (.jobResume f) s = .next t ∧ ended t (pgJob f * 2) r.cmd.id stOK ∧
      (∀ c ∈ preCores r.cmd, suspended t c f = false)) ∧
    (ready = false → exec (.jobResume f) s = .next s)) ∧
  (∀ (s : State) (r i : Nat) (y : RCmd), RegionOn s r →
    let c := y.cmd
    let core := 64 * r + i
    let x := bits (bf c 26 1) 0 2
    let started (t : State) : Prop := (ctxOf t core x).st = 1 ∧ (ctxOf t core x).pc = bf c 24 2 ∧
      getReg (ctxOf t core x) 1 = bf c 32 8 ∧ getReg (ctxOf t core x) 2 = bf c 40 8 ∧
        (ctxOf t core x).starter = some c ∧
      regF t (pgRgn r) 0x100 8 6 = i
    (engRun s (pgRgn r * 2) (fun t => t.prog == 0) = some y → taskWaits s r c.job = true →
      exec (.rgnTask r) s = .next (setRun s (cmdKey c) { y with prog := 1, since := s.time })) ∧
    (engRun s (pgRgn r * 2) (fun t => t.prog == 0) = some y → taskWaits s r c.job = false →
      (chooseCore s r c = none →
        exec (.rgnTask r) s = .next (setRun s (cmdKey c) { y with prog := 1, since := s.time })) ∧
      (chooseCore s r c = some i → jobEnabled s c.job = true → bf c 24 2 < winSize s core x → bf c 24 2 % 4 = 0 →
        ∃ t, exec (.rgnTask r) s = .next t ∧ started t)) ∧
    (engRun s (pgRgn r * 2) (fun t => t.prog == 1 && t.cmd.id == c.id) = some y →
      engRun s (pgRgn r * 2) (fun t => t.prog == 1 && t.cmd.job == c.job) = some y → chooseCore s r c = some i →
      jobEnabled s c.job = true → bf c 24 2 < winSize s core x → bf c 24 2 % 4 = 0 →
      ∃ t, exec (.rgnTaskDispatch r c.id) s = .next t ∧ started t))

/-! ### Power, clocks and resets -/

/-- PLEVEL_REQUEST, POWER_AVERAGE_SAMPLE, LEVEL_STEP_DONE, THERMAL_SAMPLE, THERMAL_TRIP, REQUEST_S0 to REQUEST_S3
(R429 to R440). The granted level is the highest number of the level asked for and the three caps; a sample over its
limit lowers a cap, no more than once each 1 ms, and a cap of P0 or P1 falls to P2 at the limit itself; 10 ms of
recovery raises it; a step moves the rail or the ceiling by one; a trip and S3 power the fabric off, and a trip at the
moment of a POWER_OFF takes its cause's place (R478); S1 and S2 are refused while work is left. -/
def Obligations.LevelsCapsAndPowerStates : Prop :=
  (∀ (s : State), HostReach s pgPwr →
    (∀ level, level ≤ 4 → ∃ t, exec (.plevelRequest 0 level) s = .next t ∧ pwrReq t = level ∧
      pwrG t = max level (max (powerCap s) (max (thermalCap s) (shedCapOf (shedRows s)))) ∧ t.engs = s.engs ∧
        t.ctxs = s.ctxs) ∧
    (∀ level, 4 < level → level < 8 → exec (.plevelRequest 0 level) s = .next s) ∧
    (s.pstate = 1 → ∃ t, exec (.requestS0 0) s = .next t ∧ t.pstate = 0 ∧ t.mem = s.mem ∧ t.engs = s.engs) ∧
    (s.pstate = 0 → s1Ready s = true → ∃ t, exec (.requestS1 0) s = .next t ∧ t.pstate = 1 ∧
      bit (reg t pgPwr 0x118) 4 = false ∧ t.mem = s.mem) ∧
    (s.pstate = 1 → ∃ t, exec (.requestS1 0) s = .next t ∧ t.pstate = 1 ∧ bit (reg t pgPwr 0x118) 4 = false ∧
      t.mem = s.mem) ∧
    (s.pstate = 0 → s1Ready s = false → ∃ t, exec (.requestS1 0) s = .next t ∧ t.pstate = 0 ∧
      bit (reg t pgPwr 0x118) 4 = true ∧ t.mem = s.mem) ∧
    (s.pstate = 1 → s1Ready s = true → loadEstimate s ≤ 2700 → ∃ t, exec (.requestS2 0) s = .next t ∧ t.pstate = 2 ∧
      t.cxlUp = false ∧ t.timeRuns = false ∧ t.mem = s.mem ∧ t.fuses = s.fuses) ∧
    (s.pstate = 1 → s1Ready s = true → 2700 < loadEstimate s → ∃ t, exec (.requestS2 0) s = .next t ∧ t.pstate = 1 ∧
      bit (reg t pgPwr 0x118) 4 = true ∧ bit (reg t pgPwr 0x20) 9 = true) ∧
    (s.pstate < 2 → s.pstate ≠ 1 ∨ s1Ready s = false → ∃ t, exec (.requestS2 0) s = .next t ∧ t.pstate = s.pstate ∧
      bit (reg t pgPwr 0x118) 4 = true ∧ t.mem = s.mem) ∧
    (∃ t, exec (.requestS3 0) s = .next t ∧ PoweredOff s t 1)) ∧
  (∀ (s : State) (watts : Nat), Powered s →
    let lim := regF s pgPwr 0x100 0 11
    (lim < watts → pwrG s = 4 → ∃ t, exec (.powerAverageSample watts) s = .next t ∧ bit (reg t pgPwr 0x20) 8 = true ∧
      powerCap t = if powerCap s ≤ 1 then 2 else powerCap s) ∧
    (∀ c, pwrG s ≠ 4 → (lim ≤ watts ∧ powerCap s ≤ 1 ∧ c = 2) ∨ (lim < watts ∧ 2 ≤ powerCap s ∧
      c = min 4 (powerCap s + 1) ∧
        (s.pwr.capAt = 0 ∨ s.pwr.capAt - 1 + 1000000 ≤ s.time)) →
      ∃ t, exec (.powerAverageSample watts) s = .next t ∧ powerCap t = c ∧ regF t pgPwr 0x110 0 11 = min watts 2047 ∧
        pwrG t = max (pwrReq s) (max c (max (thermalCap s) (shedCapOf (shedRows s))))) ∧
    (100 * watts < 95 * lim → powerCap s ≠ 0 → s.pwr.lowSince ≠ 0 → s.pwr.lowSince - 1 + 10000000 ≤ s.time →
      ∃ t, exec (.powerAverageSample watts) s = .next t ∧ powerCap t = powerCap s - 1 ∧
        pwrG t = max (pwrReq s) (max (powerCap s - 1) (max (thermalCap s) (shedCapOf (shedRows s)))))) ∧
  (∀ (s : State), Powered s →
    let p := s.pwr
    let g := pwrG s
    (g < p.ceil → p.rail < p.ceil → exec .levelStepDone s = .next { s with pwr := { p with ceil := p.ceil - 1 } }) ∧
    (g < p.ceil → p.ceil ≤ p.rail → exec .levelStepDone s = .next { s with pwr := { p with rail := p.rail - 1 } }) ∧
    (p.ceil ≤ g → p.rail < p.ceil → exec .levelStepDone s = .next { s with pwr := { p with rail := p.rail + 1 } }) ∧
    (p.ceil < g → p.ceil ≤ p.rail → exec .levelStepDone s = .next { s with pwr := { p with ceil := p.ceil + 1 } })) ∧
  (∀ (s : State) (tj : Nat), Powered s →
    (95 < tj → tj < 110 → ∃ t, exec (.thermalSample tj) s = .next t ∧ thermalCap t =
        (if s.pwr.hotAt = 0 ∨ s.pwr.hotAt - 1 + 1000000 ≤ s.time then min 4 (thermalCap s + 1) else thermalCap s) ∧
      regF t pgPwr 0x110 16 8 = tj ∧ t.engs = s.engs ∧ t.ctxs = s.ctxs) ∧
    (tj ≤ 90 → s.pwr.coolSince ≠ 0 → s.pwr.coolSince - 1 + 10000000 ≤ s.time → thermalCap s ≠ 0 →
      ∃ t, exec (.thermalSample tj) s = .next t ∧ thermalCap t = thermalCap s - 1) ∧
    (110 ≤ tj → (∃ t, exec (.thermalSample tj) s = .next t ∧ PoweredOff s t 4) ∧
      ∃ t, exec (.thermalTrip tj) s = .next t ∧ PoweredOff s t 4 ∧ t.pwr.thermTrip = true)) ∧
  (∀ (s : State) (tj : Nat), s.pstate = 3 → s.pwr.offNow = true → regF s pgPwr 0x148 0 3 = 5 → 110 ≤ tj →
    ∃ t, exec (.thermalTrip tj) s = .next t ∧ regF t pgPwr 0x148 0 3 = 4 ∧ t.pwr.thermTrip = true ∧ t.pstate = 3)

/-- WAKE_MATCH, LOW_POWER_BROWNOUT, VIN_CORE_SAMPLE, SHED_UNDO, REFCLK_LOSS, REFCLK_LOCK, VIN_IO_UNDERVOLTAGE,
THAW_ZEROING_DONE, VAON_LOSS, CXL_LINK_DOWN, CXL_LINK_UP, CXL_PORT_RELEASE (R438 to R448, R529, R530). A wake thaws S2
into S1 and starts S3 anew; each row of the shed order is applied as the supply falls and undone after it has
recovered; a lost reference clock stops HUB_TIME and takes every direction down; a lost supply powers off. -/
def Obligations.SuppliesClocksAndWakes : Prop :=
  (∀ (s : State) (addr : Nat) (u : StartUp),
    exec (.wakeMatch addr false u) s = .next s ∧
    (s.vaon = true → addr = regF s pgPwr 0x140 8 7 →
      (s.pstate = 2 → s.sec.meas.getD 1 [] = s.aolMeas → ∃ t, exec (.wakeMatch addr true u) s = .next t ∧ t.pstate = 1 ∧
        t.portReleased = true ∧ t.thawing = thawList s ∧
          (∀ c, (mxaOf t c).shadow = {} ∧ (mxaOf t c).active = {} ∧ (mxaOf t c).buf0 = {} ∧ (mxaOf t c).buf1 = {} ∧
          (mxaOf t c).inject = (mxaOf s c).inject) ∧ t.vens = [] ∧
          t.fuses = s.fuses) ∧
      (s.pstate = 3 → exec (.wakeMatch addr true u) s = exec (.coldReset u) s))) ∧
  (∀ (s : State), 2 ≤ s.pstate → ∃ t, exec .lowPowerBrownout s = .next t ∧ PoweredOff s t 3 ∧
    bit (reg t pgPwr 0x148) 3 = true) ∧
  (∀ (s : State) (mv : Nat), Powered s →
    (1700 ≤ mv → mv < 1740 → shedRows s = 0 → ∃ t, exec (.vinCoreSample mv) s = .next t ∧ shedRows t = 1 ∧
      regF t pgPwr 0x110 32 12 = mv ∧ 2 ≤ pwrG t ∧ t.halted = s.halted ∧ t.engs = s.engs) ∧
    (1550 ≤ mv → mv < 1580 → shedRows s < 5 → ∃ t, exec (.vinCoreSample mv) s = .next t ∧ shedRows t = 5 ∧
      t.halted = true) ∧
    (mv < 1550 → shedRows s < 6 → ∃ t, exec (.vinCoreSample mv) s = .next t ∧ PoweredOff s t 2)) ∧
  (∀ (s : State), Powered s → 1 ≤ shedRows s → shedRows s ≤ 5 → mapGet 0 s.pwr.above (shedRows s) ≠ 0 →
    mapGet 0 s.pwr.above (shedRows s) - 1 + 10000000 ≤ s.time →
    ∃ t, exec .shedUndo s = .next t ∧ shedRows t = shedRows s - 1 ∧
      (shedRows s = 5 → t.halted = false) ∧ t.engs = s.engs ∧
      t.ctxs = s.ctxs) ∧
  (∀ (s : State), Powered s →
    (s.timeRuns = true → ∃ t, exec .refclkLoss s = .next t ∧ t.timeRuns = false ∧ reg t pgClk 0x108 = 0 ∧
      bit (reg t pgClk 0x20) 8 = true ∧ t.time = s.time ∧
      (∀ d, d < 8 → (lnkOf s d).st = 2 → (lnkOf t d).st = 4 ∧ (lnkOf t d).cause = 2)) ∧
    exec .refclkLock s = .next (setReg { s with timeRuns := true } pgClk 0x108 0x3F) ∧
    exec .cxlLinkDown s = .next { s with cxlUp := false } ∧
    (s.portReleased = true → exec .cxlLinkUp s = .next { s with cxlUp := true }) ∧
    (s.portReleased = false → exec .cxlLinkUp s = .next s) ∧
    exec .cxlPortRelease s = .next { s with portReleased := true } ∧
    (∀ p, exec (.thawZeroingDone p) s = .next { s with thawing := s.thawing.filter (fun q => q != p) })) ∧
  (∀ (s : State), (s.pstate ≠ 3 → ∃ t, exec .vinIoUndervoltage s = .next t ∧ PoweredOff s t 6) ∧
    (s.pstate = 3 → s.pwr.offNow = true → regF s pgPwr 0x148 0 3 = 2 →
      exec .vinIoUndervoltage s = .next (setRegF s pgPwr 0x148 0 3 6)) ∧
    (s.pstate = 3 → s.pwr.offNow = false → exec .vinIoUndervoltage s = .next s)) ∧
  (∀ (s : State), ∃ t, exec .vaonLoss s = .next t ∧ t.vaon = false ∧ t.pstate = 3 ∧ t.timeRuns = false ∧
    t.fuses = s.fuses ∧
    t.ctxs = [] ∧ t.engs = [] ∧ t.aolMeas = [])

/-- COLD_RESET, WARM, CXL_RESET_N, WARM_RESET, RESET_WAIT_EXPIRY, FUNCTION_LEVEL_RESET, FLR_WIPE_DONE, FABRIC_OPEN,
BRIDGE_UNIT_CRC_FAIL, BRIDGE_LANE_FAIL (R449 to R465, R486, R520). A cold reset starts HUB_TIME at 0 and boots the
flash image that passes its checks, or enters recovery; a warm reset leaves HUB_TIME and the fuses, or waits for the
end of a trace freeze; a function's reset clears its ENABLE; the fabric opens where each bridge has its bundles; a
lane with 16 failing units within 1 µs fails, a failing lane takes a spare, and without one its bundle has failed. -/
def Obligations.ResetsAndBridges : Prop :=
  (∀ (s : State) (u : StartUp), ∃ t, exec (.coldReset u) s = .next t ∧ t.time = 0 ∧ t.timeRuns = true ∧ t.pstate = 0 ∧
    t.fuses = s.fuses ∧ t.ctxs = [] ∧ t.engs = [] ∧ t.hqs = [] ∧ t.fabricOpen = false ∧ t.cxlUp = false ∧
      t.portReleased = true ∧
    regF t pgRst 0x108 0 2 = 0 ∧ reg t pgClk 0x108 = 0x3F ∧
    (s.fuses.lcs = 4 → t.sec.st = 3) ∧
    (s.fuses.lcs ≠ 4 → u.flashAnswers = false → t.sec.st = 2 ∧ t.sec.cause = 1) ∧
    (s.fuses.lcs ≠ 4 → u.flashAnswers = true → let x := checkImage s u.image;
      if x.1 = 0 then t.sec.st = 1 ∧ t.sec.slot = x.2 else t.sec.st = 2 ∧ t.sec.cause = x.1)) ∧
  (∀ (s : State) (u : StartUp),
    (HostReach s pgRst → s.traceFrozen = false → ∃ t, exec (.warm 0 u) s = .next t ∧ Rebooted s t 1) ∧
    (HostReach s pgRst → s.traceFrozen = true → s.resetWait = none →
      exec (.warm 0 u) s = .next { s with resetWait := some (1, s.time, u) }) ∧
    (Powered s → s.traceFrozen = false → ∃ t, exec (.warmReset u) s = .next t ∧ Rebooted s t 2 ∧
      t.reply.status = stOK) ∧
    (∀ ns, 1000 ≤ ns → Powered s → s.traceFrozen = false → ∃ t, exec (.cxlResetN ns u) s = .next t ∧ Rebooted s t 3 ∧
      t.cxlUp = false ∧
      t.portReleased = false) ∧
    (∀ ns, ns < 1000 ∨ 2 ≤ s.pstate → exec (.cxlResetN ns u) s = .next s) ∧
    (∀ last t0 v, Powered s → last < 4 → s.resetWait = some (last, t0, v) → t0 + 10000000000 ≤ s.time →
      ∃ t, exec (.resetWaitExpiry u) s = .next t ∧ Rebooted s t last)) ∧
  (∀ (s : State) (f : Nat), s.cxlUp = true → 1 ≤ f → f ≤ 15 →
    (bit (reg s pgRst 0x110) f = false → ∃ t, exec (.functionLevelReset f) s = .next t ∧
      bit (reg t pgRst 0x110) f = true ∧
      jobEnabled t f = false ∧ t.fuses = s.fuses) ∧
    (bit (reg s pgRst 0x110) f = true → exec (.functionLevelReset f) s = .next s) ∧
    (Powered s → exec (.flrWipeDone f) s = .next (setRegF s pgRst 0x110 f 1 0))) ∧
  (∀ (s : State), HostReach s pgRst → s.fabricOpen = false →
    let good := reg s pgDtd 0x110
    (4 ≤ popCount 16 (bits good 0 16) → bits good 16 4 ≠ 0 → bits good 20 4 ≠ 0 →
      ∃ t, exec (.fabricOpen 0) s = .next t ∧ t.fabricOpen = true ∧
        (∀ p o, p ≠ pgDtd → o < 4096 → reg t p o = reg s p o) ∧
        t.mem = s.mem ∧ t.engs = s.engs) ∧
    (popCount 16 (bits good 0 16) < 4 ∨ bits good 16 4 = 0 ∨ bits good 20 4 = 0 →
      ∃ t, exec (.fabricOpen 0) s = .next t ∧ t.fabricOpen = false ∧ bit (reg t pgDtd 0x20) 9 = true)) ∧
  (∀ (s : State) (bridge bundle lane : Nat), Powered s →
    (laneBundle s bridge bundle lane = none → exec (.bridgeUnitCrcFail bridge ⟨bundle, lane⟩) s = .next s ∧
      exec (.bridgeLaneFail bridge bundle lane) s = .next s) ∧
    (∀ b, laneBundle s bridge bundle lane = some b →
      let x := mapGet {} s.bundles b
      let times := (mapGet [] x.crc lane).filter (fun t => decide (s.time ≤ t + 1000)) ++ [s.time]
      let u := { s with bundles := mapPut {} s.bundles b { x with crc := mapPut [] x.crc lane times } }
      (times.length < 16 → exec (.bridgeUnitCrcFail bridge ⟨bundle, lane⟩) s = .next u) ∧
      (16 ≤ times.length → exec (.bridgeUnitCrcFail bridge ⟨bundle, lane⟩) s =
        exec (.bridgeLaneFail bridge bundle lane) u) ∧
      (∀ p ps, x.spares = p :: ps → exec (.bridgeLaneFail bridge bundle lane) s = .next { s with
        bundles := mapPut {} s.bundles b { spares := ps, bad := x.bad ++ [lane], crc := mapDel x.crc lane } }) ∧
      (x.spares = [] → ∃ t, exec (.bridgeLaneFail bridge bundle lane) s = .next t ∧ bit (reg t pgDtd 0x110) b = false ∧
        bit (reg t pgDtd 0x20) 8 = true)))

/-! ### Sideband, trace, identity and counters -/

/-- READ_REG, READ_LOG, POWER_OFF, TRACE_FREEZE, TRACE_DUMP, TRACE_RELEASE, SIDEBAND_BAD_OP, JTAG_INSTRUCTION,
TRACE_DRAIN, FREEZE, RELEASE, CNT_CLEAR, CNT_CLEAR_ALL (R477, R504, R508, R512, R513, R523). A sideband operation
counts and answers; a frozen trace buffer can be read; a release unfreezes trace; a clear zeroes error counters only;
a drain copies the undrained packets. -/
def Obligations.SidebandTraceAndCounters : Prop :=
  (∀ (s : State) (args : List Byte), Powered s →
    let b := bump s pgHub 1 1
    (let a := num args 0 4
     args.length = 4 → a % 8 = 0 → a < 0x8000000 → pageBlk (a / 4096) ≠ none →
      exec (.readReg args) s = .next (answer (readReg b 0 (a / 4096) (a % 4096)).2 stOK
        (leBytes 8 (readReg b 0 (a / 4096) (a % 4096)).1))) ∧
    (args.length = 2 → num args 0 2 < 1024 →
      exec (.readLog args) s = .next (answer b stOK (rdMem s (spAol + 32 * num args 0 2) 32))) ∧
    (args.length = 4 → s.traceFrozen = true → num args 0 2 < 256 → num args 2 2 < 4096 →
      exec (.traceDump args) s = .next (answer b stOK (rdMem s (spTrace (num args 0 2) + 64 * num args 2 2) 64))) ∧
    (∃ t, exec .traceFreeze s = .next t ∧ t.traceFrozen = true ∧ t.reply.status = stOK ∧ t.engs = s.engs ∧
      t.ctxs = s.ctxs) ∧
    (∀ u, s.resetWait = none → s.traceFrozen = true → exec (.traceRelease u) s =
      .next (answer (setRegF { b with traceFrozen := false } pgCnt 0x108 1 1 0) stOK [])) ∧
    (∀ u, s.traceFrozen = false → exec (.traceRelease u) s = .next (answer b stOK [])) ∧
    (∃ t, exec .powerOff s = .next t ∧ PoweredOff s t 5 ∧ t.reply.status = stOK) ∧
    (∀ op, sideOps.contains op = false → exec (.sidebandBadOp op args) s = .next (answer b stBadCommand [])) ∧
    exec (.jtagInstruction Config.jtagIdcode) s = .next (answer s stOK (leBytes 4 0x20720E4F))) ∧
  (∀ (s : State) (k : Nat), FabricOn s → k < 256 → s.traceFrozen = false → regF s (pgTrc (8 * k)) 0x108 0 2 = 2 →
    (traceOf s k).dropPend = 0 →
    let ring := bits (reg s (pgTrc (8 * k)) 0x110) 12 52 * 4096
    let size := 2 ^ regF s (pgTrc (8 * k)) 0x118 0 5
    (∀ a, ring ≤ a → a < ring + size → fabBadW s a 8 = none) →
    ∃ t, exec (.traceDrain k) s = .next t ∧ (traceOf t k).pend = (traceOf s k).pend % 8 ∧
      (traceOf t k).drained = (traceOf s k).drained + (traceOf s k).pend / 8 * 8 ∧ t.regs = s.regs ∧ t.ctxs = s.ctxs ∧
      ((traceOf s k).pend = 8 → inStacked (ring + (traceOf s k).drained % size) 8 = true →
        rdMem t (ring + (traceOf s k).drained % size) 8 =
          rdMem s (spTrace k + ((traceOf s k).write + trcBytes - 8) % trcBytes) 8)) ∧
  (∀ (s : State) (page i : Nat) (b : Blk) (n : Nat), HostReach s pgCnt → page < 2 ^ 15 →
    pageBlk page = some (b, n) → i < 64 →
    ((errCounters b).contains i = true →
      exec (.cntClear 0 page i) s = .next { s with ctrs := mapPut 0 s.ctrs (ctrKey page i) 0 }) ∧
    ((errCounters b).contains i = false → exec (.cntClear 0 page i) s = .next s) ∧
    ∃ t, exec (.cntClearAll 0 page) s = .next t ∧ t.regs = s.regs ∧ t.mem = s.mem ∧
      (∀ j, mapGet 0 t.ctrs (ctrKey page j) =
        if j < 64 ∧ (errCounters b).contains j = true then 0 else mapGet 0 s.ctrs (ctrKey page j))) ∧
  (∀ (s : State), HostReach s pgCnt →
    (bit (reg s pgCnt 0x108) 2 = false → ∃ t, exec (.freeze 0) s = .next t ∧ t.traceFrozen = true ∧ t.engs = s.engs) ∧
    (s.resetWait = none → ∃ t, exec (.release 0) s = .next t ∧ t.traceFrozen = false ∧ t.engs = s.engs))

/-- RCV_WRITE, RCV_ACTIVATE, Transfer FW, Activate FW, Get FW Info, RECOVERY_OWNER_TIMEOUT, GET_VERSION to
GET_MEASUREMENTS, LIFECYCLE_REQUEST, SVN_COMMIT, REVOKE (R490 to R498). In recovery either path fills the buffer it
owns, and an image that passes its checks runs; SPDM requests count and are answered where there is an identity; a
life-cycle request that passes its checks burns its target and resets; SVN_COMMIT and REVOKE burn their fuses where
they may, else SEC_CTRL_REJECTED is set. -/
def Obligations.RecoveryAttestationAndFuses : Prop :=
  (∀ (s : State) (off : Nat) (args data : List Byte), s.sec.st = 2 →
    (Powered s → ownerOk s 2 = true → 5 ≤ args.length → args.length ≤ 260 →
      num args 0 4 + (args.length - 4) ≤ imageMax →
      ∃ t, exec (.rcvWrite args) s = .next t ∧ rdMem t (spRcv + num args 0 4) (args.length - 4) = args.drop 4 ∧
        t.sec.owner = 2 ∧ t.reply.status = stOK ∧ t.regs = s.regs) ∧
    (s.cxlUp = true → ownerOk s 1 = true → data.length ≤ 65536 → off + data.length ≤ imageMax →
      ∃ t, exec (.transferFw off data) s = .next t ∧ rdMem t (spRcv + off) data.length = data ∧ t.sec.owner = 1 ∧
        t.regs = s.regs) ∧
    (let x := checkImage s (rcvImage s);
      (Powered s → ownerOk s 2 = true → ∃ t, exec .rcvActivate s = .next t ∧
        if x.1 = 0 then t.sec.st = 1 ∧ t.sec.slot = x.2 ∧ t.sec.source = 2 ∧ t.reply.status = stOK
        else t.sec.st = 2 ∧ t.sec.cause = x.1 ∧ t.sec.owner = 0 ∧ t.reply.status = stFormat) ∧
      (s.cxlUp = true → ownerOk s 1 = true → ∃ t, exec .activateFw s = .next t ∧
        if x.1 = 0 then t.sec.st = 1 ∧ t.sec.slot = x.2 ∧ t.sec.source = 1
        else t.sec.st = 2 ∧ t.sec.cause = x.1 ∧ t.sec.owner = 0)) ∧
    (Powered s → s.sec.owner ≠ 0 → s.sec.ownAt + 60000000000 ≤ s.time →
      exec .recoveryOwnerTimeout s = .next { s with sec := { s.sec with owner := 0 } })) ∧
  (∀ (s : State), s.cxlUp = true →
    let b := bump s pgSec 1 1
    let c := bump { s with free := s.free + 1 } pgSec 1 1
    exec .getFwInfo s = .next (answer s (Config.mboxCode 0) (Config.fwInfo s.sec.st ++ leBytes 8 s.sec.build)) ∧
    exec .getVersion s = .next (answer b 0 (Config.spdmData 0)) ∧
    exec .getCapabilities s = .next (answer b 0 (Config.spdmData 1)) ∧
    exec .negotiateAlgorithms s = .next (answer b 0 (Config.spdmData 2)) ∧
    (attests s = true →
      (∃ data, exec .getDigests s = .next (answer b 0 data)) ∧
      (∀ off len, exec (.getCertificate 0 off len) s =
        .next (answer b 0 (sub (Config.certChain s.fuses.identity (measAll s)) off len))) ∧
      (∀ slot nonce, ∃ data, exec (.challenge slot nonce) s = .next (answer c 0 data)) ∧
      (∀ i nonce, 1 ≤ i → i ≤ 3 → ∃ sig, exec (.getMeasurements i nonce) s =
        .next (answer c 0 (measOf s (i - 1) ++ sig)))) ∧
    (attests s = false → exec .getDigests s = .next (answer b Config.spdmUnsupported []))) ∧
  (∀ (s : State) (req : List Byte) (u : StartUp), s.cxlUp = true →
    let ctl := reg s pgLcs 0x130
    let st := lcsStatus s (bits ctl 0 3) (bits ctl 8 8) req
    ∃ t, exec (.lifecycleRequest 0 req u) s = .next t ∧ t.nonceNo = s.nonceNo + (if st = stOK then 2 else 1) ∧
      if st = stOK then t.fuses = programState s.fuses (bits ctl 0 3) req ∧ t.time = s.time ∧ t.ctxs = [] ∧
        t.engs = [] ∧
        t.pstate = 0
      else t.fuses = s.fuses ∧ reg t pgLcs 0x100 = st * 256 + 65536 * bits ctl 0 3 ∧ t.ctxs = s.ctxs ∧
        t.engs = s.engs) ∧
  (∀ (s : State), HostReach s pgSec →
    (s.sec.st = 1 → s.fuses.lcs = 1 ∨ s.fuses.lcs = 2 → s.sec.debug = false →
      exec (.svnCommit 0) s = .next (setRegF
        { s with fuses := { s.fuses with svn := max s.fuses.svn (s.sec.svn % 64) } } pgSec 0x110 0 1 1)) ∧
    (s.sec.st ≠ 1 ∨ (s.fuses.lcs ≠ 1 ∧ s.fuses.lcs ≠ 2) ∨ s.sec.debug = true →
      ∃ t, exec (.svnCommit 0) s = .next t ∧ bit (reg t pgSec 0x20) 9 = true ∧ t.fuses = s.fuses ∧ OnlyReported s t) ∧
    (∀ k, k < 3 →
      (revokeBarred s k = false → exec (.revoke 0 (2 ^ k)) s =
        .next (setRegF { s with fuses := { s.fuses with revoked := s.fuses.revoked ||| 2 ^ k } } pgSec 0x110 (k + 1)
          1 1)) ∧
      (revokeBarred s k = true →
        ∃ t, exec (.revoke 0 (2 ^ k)) s = .next t ∧ bit (reg t pgSec 0x20) 9 = true ∧ t.fuses = s.fuses ∧
          OnlyReported s t)))

/-! ### The queue, reset, and what every step keeps -/

/-- A step takes the command at the front of the queue: it is that command's effect on the state with the queue's
rest. -/
def Obligations.StepRunsTheFrontCommand : Prop :=
  ∀ (s : State) (c : Instr) (rest : List Instr), step (setPending s (c :: rest)) = exec c (setPending s rest)

/-- Every command, whatever its operands and the state, has its effect: exec answers a next state, in which the queue of
waiting commands is the same. -/
def Obligations.EveryCommandCompletesAndKeepsTheQueue : Prop :=
  ∀ (c : Instr) (s : State), ∃ t, exec c s = .next t ∧ t.pending = s.pending

/-- With no command waiting one nanosecond of HUB_TIME passes while the time clock runs (R448; that an idle step is
one nanosecond is the model's choice, log entry 2): HUB_TIME and counters advance, and no command of an engine
changes, but for the timer of a send that waits while pre-emption has saved its reel. -/
def Obligations.IdleStepCountsHubTime : Prop :=
  ∀ (s : State), s.pending = [] →
    (s.timeRuns = false → step s = .next { s with pwr := { s.pwr with offNow := false } }) ∧
    (s.timeRuns = true → ∃ cs n es, step s = .next { s with time := s.time + 1, ctrs := cs, free := n, engs := es } ∧
      ∀ e, (mapGet {} es e).queue = (engOf s e).queue ∧ (mapGet {} es e).running = (engOf s e).running ∧
        (mapGet {} es e).aside.map (·.cmd) = (engOf s e).aside.map (·.cmd))

/-- Right after reset HUB_TIME is 0, the package is in S0 with the fabric closed and nothing waiting, every host queue
is DISABLED, every context EMPTY, every Merrak Link direction OFF, every byte reads zero, PWR_LIMIT holds 1,200 W, the
bridge has 8 memory and 8 message bundles, and a register reads the reset value of its table. -/
def Obligations.ResetHoldsTheStatedValues : Prop :=
  State.reset.time = 0 ∧ State.reset.pstate = 0 ∧ State.reset.fabricOpen = false ∧ State.reset.pending = [] ∧
    (∀ q, (hqOf State.reset q).st = 0) ∧ (∀ c x, (ctxOf State.reset c x).st = 0) ∧ (∀ d, (lnkOf State.reset d).st = 0) ∧
    (∀ a, rdByte State.reset a = 0) ∧ regF State.reset pgPwr 0x100 0 11 = 1200 ∧ regF State.reset pgDtd 0x108 0 5 = 8 ∧
    (∀ f, f < 16 → regF State.reset (pgJob f) 0x110 0 4 = 6) ∧ (∀ p o, reg State.reset p o =
      (regReset (regKey p o)).toNat)

/-- The state after reset is in its canonical form. -/
def Obligations.ResetIsCanonical : Prop := Canonical State.reset ∧ State.reset.fuses.lcs ≤ 4

/-- Every step keeps the canonical form: memory and registers stay without redundant entries, the failing granules in
rising order, and no engine is left acting. -/
def Obligations.EveryStepKeepsTheCanonicalForm : Prop :=
  ∀ (s t : State), Canonical s → step s = .next t → Canonical t

/-- Fuses only grow (R485, R491): no step takes back a revocation, lowers the fused SVN, or moves the life-cycle state
back; and the life-cycle state stays one of its five codes. -/
def Obligations.EveryStepOnlyProgramsFuses : Prop :=
  ∀ (s t : State), s.fuses.lcs ≤ 4 → step s = .next t → FusesKeep s.fuses t.fuses ∧ t.fuses.lcs ≤ 4
end

