-- ==== Sys2Proof/Laws/Map.lean ====
section
/-! SUPPORT. Laws of the sparse maps: a read after a write, and the canonical form, which every operation keeps. -/
namespace Sys2Proof.Laws
open Sys2Proof.Machine

variable {α : Type}

/-- Every key of a rising map lies above a bound. -/
def above (k : Nat) (m : SMap α) : Prop := ∀ e ∈ m, k < e.1

theorem above_mono {j k : Nat} {m : SMap α} (h : j ≤ k) (hm : above k m) : above j m :=
  fun e he => Nat.lt_of_le_of_lt h (hm e he)

theorem keysRise_cons {a : Nat × α} {m : SMap α} :
    keysRise (a :: m) = true ↔ above a.1 m ∧ keysRise m = true := by
  induction m generalizing a with
  | nil => simp [keysRise, above]
  | cons b t ih =>
    rw [keysRise, Bool.and_eq_true, decide_eq_true_eq, ih]
    refine ⟨fun ⟨h, hb, ht⟩ => ⟨?_, hb, ht⟩, fun ⟨h, hb, ht⟩ => ⟨h b (List.mem_cons_self ..), hb, ht⟩⟩
    intro e he
    rcases List.mem_cons.1 he with rfl | he
    · exact h
    · exact Nat.lt_trans h (hb e he)

theorem above_filter {k : Nat} {m : SMap α} (p : Nat × α → Bool) (h : above k m) : above k (m.filter p) :=
  fun e he => h e (List.mem_filter.1 he).1

theorem keysRise_filter (p : Nat × α → Bool) : ∀ {m : SMap α}, keysRise m = true → keysRise (m.filter p) = true
  | [], _ => rfl
  | a :: t, h => by
    rw [keysRise_cons] at h
    rw [List.filter_cons]
    split
    · exact keysRise_cons.2 ⟨above_filter p h.1, keysRise_filter p h.2⟩
    · exact keysRise_filter p h.2

variable [DecidableEq α] {d : α}

theorem mapWf_filter (p : Nat × α → Bool) {m : SMap α} (h : mapWf d m = true) : mapWf d (m.filter p) = true := by
  simp only [mapWf, Bool.and_eq_true, List.all_eq_true] at h ⊢
  exact ⟨keysRise_filter p h.1, fun e he => h.2 e (List.mem_filter.1 he).1⟩

theorem mapWf_cons {a : Nat × α} {m : SMap α} :
    mapWf d (a :: m) = true ↔ above a.1 m ∧ a.2 ≠ d ∧ mapWf d m = true := by
  simp only [mapWf, Bool.and_eq_true, keysRise_cons, List.all_cons, decide_eq_true_eq]
  constructor
  · exact fun ⟨⟨a, b⟩, c, e⟩ => ⟨a, c, b, e⟩
  · exact fun ⟨a, c, b, e⟩ => ⟨⟨a, b⟩, c, e⟩

theorem above_mapPut {k i : Nat} {v : α} : ∀ {m : SMap α}, above k m → k < i → above k (mapPut d m i v)
  | [], _, hi => by
    unfold mapPut
    split
    · intro e he; cases he
    · intro e he; rw [List.mem_singleton] at he; subst he; exact hi
  | (j, w) :: t, h, hi => by
    have ht : above k t := fun e he => h e (List.mem_cons_of_mem _ he)
    unfold mapPut
    split
    · intro e he
      rcases List.mem_cons.1 he with rfl | he
      · exact h _ (List.mem_cons_self ..)
      · exact above_mapPut ht hi e he
    · split
      · exact above_filter _ h
      · intro e he
        rcases List.mem_cons.1 he with rfl | he
        · exact hi
        · exact above_filter _ h e he

/-- Writing keeps the canonical form. -/
theorem mapWf_mapPut {i : Nat} {v : α} : ∀ {m : SMap α}, mapWf d m = true → mapWf d (mapPut d m i v) = true
  | [], _ => by
    unfold mapPut
    split
    · rfl
    · rename_i h; simp [mapWf, keysRise, h]
  | (k, w) :: t, h => by
    have h' := mapWf_cons.1 h
    unfold mapPut
    split
    · rename_i hk
      exact mapWf_cons.2 ⟨above_mapPut h'.1 hk, h'.2.1, mapWf_mapPut h'.2.2⟩
    · rename_i hk
      split
      · exact mapWf_filter _ h
      · rename_i hv
        refine mapWf_cons.2 ⟨?_, hv, mapWf_filter _ h⟩
        intro e he
        obtain ⟨he, hne⟩ := List.mem_filter.1 he
        simp only [decide_eq_true_eq] at hne
        rcases List.mem_cons.1 he with rfl | he
        · show i < k; have : k ≠ i := hne; omega
        · have := h'.1 e he; simp only at this ⊢; omega

theorem mapWf_mapKeep {m : SMap α} (p : Nat → Bool) (h : mapWf d m = true) : mapWf d (mapKeep m p) = true :=
  mapWf_filter _ h

theorem mapWf_mapClear {m : SMap α} {lo hi : Nat} (h : mapWf d m = true) : mapWf d (mapClear m lo hi) = true :=
  mapWf_filter _ h

omit [DecidableEq α] in
theorem mapGet_filter_of_ne {i : Nat} (p : Nat × α → Bool) (hp : ∀ v, p (i, v) = true) :
    ∀ m : SMap α, mapGet d (m.filter p) i = mapGet d m i
  | [] => rfl
  | (k, v) :: t => by
    rw [List.filter_cons]
    by_cases hk : k = i
    · subst hk; simp [hp, mapGet]
    · by_cases hv : p (k, v) = true
      · simp [hv, mapGet, hk, mapGet_filter_of_ne p hp t]
      · simp [hv, mapGet, hk, mapGet_filter_of_ne p hp t]

omit [DecidableEq α] in
theorem mapGet_filter_of_eq {i : Nat} (p : Nat × α → Bool) (hp : ∀ v, p (i, v) = false) :
    ∀ m : SMap α, mapGet d (m.filter p) i = d
  | [] => rfl
  | (k, v) :: t => by
    rw [List.filter_cons]
    by_cases hk : k = i
    · subst hk; simp [hp, mapGet_filter_of_eq p hp t]
    · by_cases hv : p (k, v) = true
      · simp [hv, mapGet, hk, mapGet_filter_of_eq p hp t]
      · simp [hv, mapGet_filter_of_eq p hp t]

/-- A read after a write of the same key. -/
@[simp] theorem mapGet_mapPut_same {i : Nat} {v : α} : ∀ m : SMap α, mapGet d (mapPut d m i v) i = v
  | [] => by unfold mapPut; split <;> simp_all [mapGet]
  | (k, w) :: t => by
    unfold mapPut
    split
    · rename_i hk
      have : k ≠ i := by omega
      simp [mapGet, this, mapGet_mapPut_same t]
    · split
      · rename_i hv; rw [hv]; exact mapGet_filter_of_eq _ (by simp) _
      · simp [mapGet]

/-- A write of one key leaves every other. -/
theorem mapGet_mapPut_other {e : α} {i j : Nat} {v : α} (h : j ≠ i) :
    ∀ m : SMap α, mapGet e (mapPut d m i v) j = mapGet e m j
  | [] => by unfold mapPut; split <;> simp_all [mapGet, Ne.symm h]
  | (k, w) :: t => by
    unfold mapPut
    split
    · simp only [mapGet, mapGet_mapPut_other h t]
    · split
      · exact mapGet_filter_of_ne _ (by simp [h]) _
      · rw [mapGet, if_neg (Ne.symm h)]; exact mapGet_filter_of_ne _ (by simp [h]) _

theorem mapGet_mapPut {i j : Nat} {v : α} (m : SMap α) :
    mapGet d (mapPut d m i v) j = if j = i then v else mapGet d m j := by
  split
  · rename_i h; rw [h, mapGet_mapPut_same]
  · rename_i h; exact mapGet_mapPut_other h m

end Sys2Proof.Laws
end

