-- ==== Sys2Proof/Laws/State.lean ====
section
/-! SUPPORT. What each named update of the state leaves: every other field, and every read of another group of records;
and what it makes of its own. -/
namespace Sys2Proof.Laws
open Sys2Proof.Machine

@[simp] theorem setDie_fields (s : State) (d : Nat) :
    (setDie s d).pending = s.pending ∧ (setDie s d).free = s.free ∧ (setDie s d).time = s.time ∧
    (setDie s d).timeRuns = s.timeRuns ∧ (setDie s d).mem = s.mem ∧ (setDie s d).bad = s.bad ∧
    (setDie s d).regs = s.regs ∧ (setDie s d).cntIdx = s.cntIdx ∧ (setDie s d).ctrs = s.ctrs ∧
    (setDie s d).msixTable = s.msixTable ∧ (setDie s d).msixPend = s.msixPend ∧
    (setDie s d).msixSent = s.msixSent ∧ (setDie s d).nextId = s.nextId ∧ (setDie s d).hqs = s.hqs ∧
    (setDie s d).engs = s.engs ∧ (setDie s d).ctxs = s.ctxs ∧ (setDie s d).turn = s.turn ∧
    (setDie s d).traces = s.traces ∧ (setDie s d).traceFrozen = s.traceFrozen ∧
    (setDie s d).tracePkts = s.tracePkts ∧ (setDie s d).reply = s.reply ∧ (setDie s d).saves = s.saves ∧
    (setDie s d).aolWritten = s.aolWritten ∧ (setDie s d).cxlUp = s.cxlUp ∧
    (setDie s d).portReleased = s.portReleased ∧ (setDie s d).fabricOpen = s.fabricOpen ∧
    (setDie s d).pstate = s.pstate ∧ (setDie s d).halted = s.halted ∧ (setDie s d).tierPorts = s.tierPorts ∧
    (setDie s d).tierGib = s.tierGib ∧ (setDie s d).tierDown = s.tierDown ∧
    (setDie s d).tierTraining = s.tierTraining ∧ (setDie s d).mxas = s.mxas ∧ (setDie s d).vens = s.vens ∧
    (setDie s d).outChs = s.outChs ∧ (setDie s d).inChs = s.inChs ∧ (setDie s d).pses = s.pses ∧
    (setDie s d).upfs = s.upfs ∧ (setDie s d).digs = s.digs ∧ (setDie s d).notices = s.notices ∧
    (setDie s d).mboxHeld = s.mboxHeld ∧ (setDie s d).landReports = s.landReports ∧
    (setDie s d).repairOut = s.repairOut ∧ (setDie s d).lnks = s.lnks ∧ (setDie s d).rxStreams = s.rxStreams ∧
    (setDie s d).puts = s.puts ∧ (setDie s d).putWait = s.putWait ∧ (setDie s d).reshard = s.reshard ∧
    (setDie s d).gxes = s.gxes ∧ (setDie s d).hdm = s.hdm ∧ (setDie s d).zeroing = s.zeroing ∧
    (setDie s d).thawing = s.thawing ∧ (setDie s d).pwr = s.pwr ∧ (setDie s d).sec = s.sec ∧
    (setDie s d).fuses = s.fuses ∧ (setDie s d).nonceNo = s.nonceNo ∧ (setDie s d).vaon = s.vaon ∧
    (setDie s d).aolMeas = s.aolMeas ∧ (setDie s d).owed = s.owed ∧ (setDie s d).resetWait = s.resetWait ∧
    (setDie s d).bundles = s.bundles ∧ (setDie s d).cutRoles = s.cutRoles ∧
    (setDie s d).cxlRef = s.cxlRef := by
  refine ⟨rfl, rfl, rfl, rfl, rfl, rfl, rfl, rfl, rfl, rfl, rfl, rfl, rfl, rfl, rfl, rfl, rfl, rfl, rfl, rfl, rfl, rfl, rfl, rfl, rfl, rfl, rfl, rfl, rfl, rfl, rfl, rfl, rfl, rfl, rfl, rfl, rfl, rfl, rfl, rfl, rfl, rfl, rfl, rfl, rfl, rfl, rfl, rfl, rfl, rfl, rfl, rfl, rfl, rfl, rfl, rfl, rfl, rfl, rfl, rfl, rfl, rfl, rfl⟩

@[simp] theorem setDie_reads (s : State) (d : Nat) :
    (∀ n y, reg (setDie s d) n y = reg s n y) ∧ (∀ n, hqOf (setDie s d) n = hqOf s n) ∧
    (∀ n, engOf (setDie s d) n = engOf s n) ∧ (∀ n y, ctxOf (setDie s d) n y = ctxOf s n y) ∧
    (∀ n, mxaOf (setDie s d) n = mxaOf s n) ∧ (∀ n, venOf (setDie s d) n = venOf s n) ∧
    (∀ n, traceOf (setDie s d) n = traceOf s n) ∧ (∀ n y, outOf (setDie s d) n y = outOf s n y) ∧
    (∀ n y, inOf (setDie s d) n y = inOf s n y) ∧ (∀ n, pseOf (setDie s d) n = pseOf s n) ∧
    (∀ n, upfOf (setDie s d) n = upfOf s n) ∧ (∀ n, digOf (setDie s d) n = digOf s n) ∧
    (∀ n, lnkOf (setDie s d) n = lnkOf s n) ∧ (∀ n, gxeOf (setDie s d) n = gxeOf s n) ∧
    (∀ n, rdByte (setDie s d) n = rdByte s n) := by
  refine ⟨fun _ _ => rfl, fun _ => rfl, fun _ => rfl, fun _ _ => rfl, fun _ => rfl, fun _ => rfl, fun _ => rfl, fun _ _ => rfl, fun _ _ => rfl, fun _ => rfl, fun _ => rfl, fun _ => rfl, fun _ => rfl, fun _ => rfl, fun _ => rfl⟩

@[simp] theorem tookTurn_fields (s : State) (core x : Nat) :
    (tookTurn s core x).pending = s.pending ∧ (tookTurn s core x).free = s.free ∧ (tookTurn s core x).time = s.time ∧
    (tookTurn s core x).timeRuns = s.timeRuns ∧ (tookTurn s core x).mem = s.mem ∧ (tookTurn s core x).bad = s.bad ∧
    (tookTurn s core x).regs = s.regs ∧ (tookTurn s core x).cntIdx = s.cntIdx ∧ (tookTurn s core x).ctrs = s.ctrs ∧
    (tookTurn s core x).msixTable = s.msixTable ∧ (tookTurn s core x).msixPend = s.msixPend ∧
    (tookTurn s core x).msixSent = s.msixSent ∧ (tookTurn s core x).nextId = s.nextId ∧ (tookTurn s core x).hqs = s.hqs ∧
    (tookTurn s core x).engs = s.engs ∧ (tookTurn s core x).ctxs = s.ctxs ∧ (tookTurn s core x).actDie = s.actDie ∧
    (tookTurn s core x).traces = s.traces ∧ (tookTurn s core x).traceFrozen = s.traceFrozen ∧
    (tookTurn s core x).tracePkts = s.tracePkts ∧ (tookTurn s core x).reply = s.reply ∧ (tookTurn s core x).saves = s.saves ∧
    (tookTurn s core x).aolWritten = s.aolWritten ∧ (tookTurn s core x).cxlUp = s.cxlUp ∧
    (tookTurn s core x).portReleased = s.portReleased ∧ (tookTurn s core x).fabricOpen = s.fabricOpen ∧
    (tookTurn s core x).pstate = s.pstate ∧ (tookTurn s core x).halted = s.halted ∧ (tookTurn s core x).tierPorts = s.tierPorts ∧
    (tookTurn s core x).tierGib = s.tierGib ∧ (tookTurn s core x).tierDown = s.tierDown ∧
    (tookTurn s core x).tierTraining = s.tierTraining ∧ (tookTurn s core x).mxas = s.mxas ∧ (tookTurn s core x).vens = s.vens ∧
    (tookTurn s core x).outChs = s.outChs ∧ (tookTurn s core x).inChs = s.inChs ∧ (tookTurn s core x).pses = s.pses ∧
    (tookTurn s core x).upfs = s.upfs ∧ (tookTurn s core x).digs = s.digs ∧ (tookTurn s core x).notices = s.notices ∧
    (tookTurn s core x).mboxHeld = s.mboxHeld ∧ (tookTurn s core x).landReports = s.landReports ∧
    (tookTurn s core x).repairOut = s.repairOut ∧ (tookTurn s core x).lnks = s.lnks ∧ (tookTurn s core x).rxStreams = s.rxStreams ∧
    (tookTurn s core x).puts = s.puts ∧ (tookTurn s core x).putWait = s.putWait ∧ (tookTurn s core x).reshard = s.reshard ∧
    (tookTurn s core x).gxes = s.gxes ∧ (tookTurn s core x).hdm = s.hdm ∧ (tookTurn s core x).zeroing = s.zeroing ∧
    (tookTurn s core x).thawing = s.thawing ∧ (tookTurn s core x).pwr = s.pwr ∧ (tookTurn s core x).sec = s.sec ∧
    (tookTurn s core x).fuses = s.fuses ∧ (tookTurn s core x).nonceNo = s.nonceNo ∧ (tookTurn s core x).vaon = s.vaon ∧
    (tookTurn s core x).aolMeas = s.aolMeas ∧ (tookTurn s core x).owed = s.owed ∧ (tookTurn s core x).resetWait = s.resetWait ∧
    (tookTurn s core x).bundles = s.bundles ∧ (tookTurn s core x).cutRoles = s.cutRoles ∧
    (tookTurn s core x).cxlRef = s.cxlRef := by
  refine ⟨rfl, rfl, rfl, rfl, rfl, rfl, rfl, rfl, rfl, rfl, rfl, rfl, rfl, rfl, rfl, rfl, rfl, rfl, rfl, rfl, rfl, rfl, rfl, rfl, rfl, rfl, rfl, rfl, rfl, rfl, rfl, rfl, rfl, rfl, rfl, rfl, rfl, rfl, rfl, rfl, rfl, rfl, rfl, rfl, rfl, rfl, rfl, rfl, rfl, rfl, rfl, rfl, rfl, rfl, rfl, rfl, rfl, rfl, rfl, rfl, rfl, rfl, rfl⟩

@[simp] theorem tookTurn_reads (s : State) (core x : Nat) :
    (∀ n y, reg (tookTurn s core x) n y = reg s n y) ∧ (∀ n, hqOf (tookTurn s core x) n = hqOf s n) ∧
    (∀ n, engOf (tookTurn s core x) n = engOf s n) ∧ (∀ n y, ctxOf (tookTurn s core x) n y = ctxOf s n y) ∧
    (∀ n, mxaOf (tookTurn s core x) n = mxaOf s n) ∧ (∀ n, venOf (tookTurn s core x) n = venOf s n) ∧
    (∀ n, traceOf (tookTurn s core x) n = traceOf s n) ∧ (∀ n y, outOf (tookTurn s core x) n y = outOf s n y) ∧
    (∀ n y, inOf (tookTurn s core x) n y = inOf s n y) ∧ (∀ n, pseOf (tookTurn s core x) n = pseOf s n) ∧
    (∀ n, upfOf (tookTurn s core x) n = upfOf s n) ∧ (∀ n, digOf (tookTurn s core x) n = digOf s n) ∧
    (∀ n, lnkOf (tookTurn s core x) n = lnkOf s n) ∧ (∀ n, gxeOf (tookTurn s core x) n = gxeOf s n) ∧
    (∀ n, rdByte (tookTurn s core x) n = rdByte s n) := by
  refine ⟨fun _ _ => rfl, fun _ => rfl, fun _ => rfl, fun _ _ => rfl, fun _ => rfl, fun _ => rfl, fun _ => rfl, fun _ _ => rfl, fun _ _ => rfl, fun _ => rfl, fun _ => rfl, fun _ => rfl, fun _ => rfl, fun _ => rfl, fun _ => rfl⟩

@[simp] theorem setPending_fields (s : State) (q : List Instr) :
    (setPending s q).free = s.free ∧ (setPending s q).time = s.time ∧ (setPending s q).timeRuns = s.timeRuns ∧
    (setPending s q).mem = s.mem ∧ (setPending s q).bad = s.bad ∧ (setPending s q).regs = s.regs ∧
    (setPending s q).cntIdx = s.cntIdx ∧ (setPending s q).ctrs = s.ctrs ∧
    (setPending s q).msixTable = s.msixTable ∧ (setPending s q).msixPend = s.msixPend ∧
    (setPending s q).msixSent = s.msixSent ∧ (setPending s q).nextId = s.nextId ∧ (setPending s q).hqs = s.hqs ∧
    (setPending s q).engs = s.engs ∧ (setPending s q).ctxs = s.ctxs ∧ (setPending s q).turn = s.turn ∧
    (setPending s q).traces = s.traces ∧ (setPending s q).traceFrozen = s.traceFrozen ∧
    (setPending s q).tracePkts = s.tracePkts ∧ (setPending s q).reply = s.reply ∧
    (setPending s q).saves = s.saves ∧ (setPending s q).aolWritten = s.aolWritten ∧
    (setPending s q).cxlUp = s.cxlUp ∧ (setPending s q).portReleased = s.portReleased ∧
    (setPending s q).fabricOpen = s.fabricOpen ∧ (setPending s q).pstate = s.pstate ∧
    (setPending s q).halted = s.halted ∧ (setPending s q).tierPorts = s.tierPorts ∧
    (setPending s q).tierGib = s.tierGib ∧ (setPending s q).tierDown = s.tierDown ∧
    (setPending s q).tierTraining = s.tierTraining ∧ (setPending s q).mxas = s.mxas ∧
    (setPending s q).vens = s.vens ∧ (setPending s q).outChs = s.outChs ∧ (setPending s q).inChs = s.inChs ∧
    (setPending s q).pses = s.pses ∧ (setPending s q).upfs = s.upfs ∧ (setPending s q).digs = s.digs ∧
    (setPending s q).notices = s.notices ∧ (setPending s q).mboxHeld = s.mboxHeld ∧
    (setPending s q).landReports = s.landReports ∧ (setPending s q).repairOut = s.repairOut ∧
    (setPending s q).lnks = s.lnks ∧ (setPending s q).rxStreams = s.rxStreams ∧ (setPending s q).puts = s.puts ∧
    (setPending s q).putWait = s.putWait ∧ (setPending s q).reshard = s.reshard ∧ (setPending s q).gxes = s.gxes ∧
    (setPending s q).hdm = s.hdm ∧ (setPending s q).zeroing = s.zeroing ∧ (setPending s q).thawing = s.thawing ∧
    (setPending s q).pwr = s.pwr ∧ (setPending s q).sec = s.sec ∧ (setPending s q).fuses = s.fuses ∧
    (setPending s q).nonceNo = s.nonceNo ∧ (setPending s q).vaon = s.vaon ∧ (setPending s q).aolMeas = s.aolMeas ∧
    (setPending s q).owed = s.owed ∧ (setPending s q).resetWait = s.resetWait ∧
    (setPending s q).bundles = s.bundles ∧ (setPending s q).cutRoles = s.cutRoles ∧
    (setPending s q).cxlRef = s.cxlRef ∧
    (setPending s q).actDie = s.actDie := by
  refine ⟨rfl, rfl, rfl, rfl, rfl, rfl, rfl, rfl, rfl, rfl, rfl, rfl, rfl, rfl, rfl, rfl, rfl, rfl, rfl, rfl, rfl, rfl, rfl, rfl, rfl, rfl, rfl, rfl, rfl, rfl, rfl, rfl, rfl, rfl, rfl, rfl, rfl, rfl, rfl, rfl, rfl, rfl, rfl, rfl, rfl, rfl, rfl, rfl, rfl, rfl, rfl, rfl, rfl, rfl, rfl, rfl, rfl, rfl, rfl, rfl, rfl, rfl, rfl⟩

@[simp] theorem setPending_reads (s : State) (q : List Instr) :
    (∀ n y, reg (setPending s q) n y = reg s n y) ∧ (∀ n, hqOf (setPending s q) n = hqOf s n) ∧
    (∀ n, engOf (setPending s q) n = engOf s n) ∧ (∀ n y, ctxOf (setPending s q) n y = ctxOf s n y) ∧
    (∀ n, mxaOf (setPending s q) n = mxaOf s n) ∧ (∀ n, venOf (setPending s q) n = venOf s n) ∧
    (∀ n, traceOf (setPending s q) n = traceOf s n) ∧ (∀ n y, outOf (setPending s q) n y = outOf s n y) ∧
    (∀ n y, inOf (setPending s q) n y = inOf s n y) ∧ (∀ n, pseOf (setPending s q) n = pseOf s n) ∧
    (∀ n, upfOf (setPending s q) n = upfOf s n) ∧ (∀ n, digOf (setPending s q) n = digOf s n) ∧
    (∀ n, lnkOf (setPending s q) n = lnkOf s n) ∧ (∀ n, gxeOf (setPending s q) n = gxeOf s n) ∧
    (∀ n, rdByte (setPending s q) n = rdByte s n) := by
  refine ⟨fun _ _ => rfl, fun _ => rfl, fun _ => rfl, fun _ _ => rfl, fun _ => rfl, fun _ => rfl, fun _ => rfl, fun _ _ => rfl, fun _ _ => rfl, fun _ => rfl, fun _ => rfl, fun _ => rfl, fun _ => rfl, fun _ => rfl, fun _ => rfl⟩

@[simp] theorem setReg_fields (s : State) (page off v : Nat) :
    (setReg s page off v).pending = s.pending ∧ (setReg s page off v).free = s.free ∧
    (setReg s page off v).time = s.time ∧ (setReg s page off v).timeRuns = s.timeRuns ∧
    (setReg s page off v).mem = s.mem ∧ (setReg s page off v).bad = s.bad ∧
    (setReg s page off v).cntIdx = s.cntIdx ∧ (setReg s page off v).ctrs = s.ctrs ∧
    (setReg s page off v).msixTable = s.msixTable ∧ (setReg s page off v).msixPend = s.msixPend ∧
    (setReg s page off v).msixSent = s.msixSent ∧ (setReg s page off v).nextId = s.nextId ∧
    (setReg s page off v).hqs = s.hqs ∧ (setReg s page off v).engs = s.engs ∧ (setReg s page off v).ctxs = s.ctxs ∧
    (setReg s page off v).turn = s.turn ∧ (setReg s page off v).traces = s.traces ∧
    (setReg s page off v).traceFrozen = s.traceFrozen ∧ (setReg s page off v).tracePkts = s.tracePkts ∧
    (setReg s page off v).reply = s.reply ∧ (setReg s page off v).saves = s.saves ∧
    (setReg s page off v).aolWritten = s.aolWritten ∧ (setReg s page off v).cxlUp = s.cxlUp ∧
    (setReg s page off v).portReleased = s.portReleased ∧ (setReg s page off v).fabricOpen = s.fabricOpen ∧
    (setReg s page off v).pstate = s.pstate ∧ (setReg s page off v).halted = s.halted ∧
    (setReg s page off v).tierPorts = s.tierPorts ∧ (setReg s page off v).tierGib = s.tierGib ∧
    (setReg s page off v).tierDown = s.tierDown ∧ (setReg s page off v).tierTraining = s.tierTraining ∧
    (setReg s page off v).mxas = s.mxas ∧ (setReg s page off v).vens = s.vens ∧
    (setReg s page off v).outChs = s.outChs ∧ (setReg s page off v).inChs = s.inChs ∧
    (setReg s page off v).pses = s.pses ∧ (setReg s page off v).upfs = s.upfs ∧
    (setReg s page off v).digs = s.digs ∧ (setReg s page off v).notices = s.notices ∧
    (setReg s page off v).mboxHeld = s.mboxHeld ∧ (setReg s page off v).landReports = s.landReports ∧
    (setReg s page off v).repairOut = s.repairOut ∧ (setReg s page off v).lnks = s.lnks ∧
    (setReg s page off v).rxStreams = s.rxStreams ∧ (setReg s page off v).puts = s.puts ∧
    (setReg s page off v).putWait = s.putWait ∧ (setReg s page off v).reshard = s.reshard ∧
    (setReg s page off v).gxes = s.gxes ∧ (setReg s page off v).hdm = s.hdm ∧
    (setReg s page off v).zeroing = s.zeroing ∧ (setReg s page off v).thawing = s.thawing ∧
    (setReg s page off v).pwr = s.pwr ∧ (setReg s page off v).sec = s.sec ∧ (setReg s page off v).fuses = s.fuses ∧
    (setReg s page off v).nonceNo = s.nonceNo ∧ (setReg s page off v).vaon = s.vaon ∧
    (setReg s page off v).aolMeas = s.aolMeas ∧ (setReg s page off v).owed = s.owed ∧
    (setReg s page off v).resetWait = s.resetWait ∧ (setReg s page off v).bundles = s.bundles ∧
    (setReg s page off v).cutRoles = s.cutRoles ∧
    (setReg s page off v).cxlRef = s.cxlRef ∧ (setReg s page off v).actDie = s.actDie := by
  refine ⟨rfl, rfl, rfl, rfl, rfl, rfl, rfl, rfl, rfl, rfl, rfl, rfl, rfl, rfl, rfl, rfl, rfl, rfl, rfl, rfl, rfl, rfl, rfl, rfl, rfl, rfl, rfl, rfl, rfl, rfl, rfl, rfl, rfl, rfl, rfl, rfl, rfl, rfl, rfl, rfl, rfl, rfl, rfl, rfl, rfl, rfl, rfl, rfl, rfl, rfl, rfl, rfl, rfl, rfl, rfl, rfl, rfl, rfl, rfl, rfl, rfl, rfl, rfl⟩

@[simp] theorem setReg_reads (s : State) (page off v : Nat) :
    (∀ n, hqOf (setReg s page off v) n = hqOf s n) ∧ (∀ n, engOf (setReg s page off v) n = engOf s n) ∧
    (∀ n y, ctxOf (setReg s page off v) n y = ctxOf s n y) ∧ (∀ n, mxaOf (setReg s page off v) n = mxaOf s n) ∧
    (∀ n, venOf (setReg s page off v) n = venOf s n) ∧ (∀ n, traceOf (setReg s page off v) n = traceOf s n) ∧
    (∀ n y, outOf (setReg s page off v) n y = outOf s n y) ∧ (∀ n y, inOf (setReg s page off v) n y = inOf s n y) ∧
    (∀ n, pseOf (setReg s page off v) n = pseOf s n) ∧ (∀ n, upfOf (setReg s page off v) n = upfOf s n) ∧
    (∀ n, digOf (setReg s page off v) n = digOf s n) ∧ (∀ n, lnkOf (setReg s page off v) n = lnkOf s n) ∧
    (∀ n, gxeOf (setReg s page off v) n = gxeOf s n) ∧ (∀ n, rdByte (setReg s page off v) n = rdByte s n) := by
  refine ⟨fun _ => rfl, fun _ => rfl, fun _ _ => rfl, fun _ => rfl, fun _ => rfl, fun _ => rfl, fun _ _ => rfl, fun _ _ => rfl, fun _ => rfl, fun _ => rfl, fun _ => rfl, fun _ => rfl, fun _ => rfl, fun _ => rfl⟩

@[simp] theorem setHq_fields (s : State) (q : Nat) (h : HQueue) :
    (setHq s q h).pending = s.pending ∧ (setHq s q h).free = s.free ∧ (setHq s q h).time = s.time ∧
    (setHq s q h).timeRuns = s.timeRuns ∧ (setHq s q h).mem = s.mem ∧ (setHq s q h).bad = s.bad ∧
    (setHq s q h).regs = s.regs ∧ (setHq s q h).cntIdx = s.cntIdx ∧ (setHq s q h).ctrs = s.ctrs ∧
    (setHq s q h).msixTable = s.msixTable ∧ (setHq s q h).msixPend = s.msixPend ∧
    (setHq s q h).msixSent = s.msixSent ∧ (setHq s q h).nextId = s.nextId ∧ (setHq s q h).engs = s.engs ∧
    (setHq s q h).ctxs = s.ctxs ∧ (setHq s q h).turn = s.turn ∧ (setHq s q h).traces = s.traces ∧
    (setHq s q h).traceFrozen = s.traceFrozen ∧ (setHq s q h).tracePkts = s.tracePkts ∧
    (setHq s q h).reply = s.reply ∧ (setHq s q h).saves = s.saves ∧ (setHq s q h).aolWritten = s.aolWritten ∧
    (setHq s q h).cxlUp = s.cxlUp ∧ (setHq s q h).portReleased = s.portReleased ∧
    (setHq s q h).fabricOpen = s.fabricOpen ∧ (setHq s q h).pstate = s.pstate ∧ (setHq s q h).halted = s.halted ∧
    (setHq s q h).tierPorts = s.tierPorts ∧ (setHq s q h).tierGib = s.tierGib ∧
    (setHq s q h).tierDown = s.tierDown ∧ (setHq s q h).tierTraining = s.tierTraining ∧
    (setHq s q h).mxas = s.mxas ∧ (setHq s q h).vens = s.vens ∧ (setHq s q h).outChs = s.outChs ∧
    (setHq s q h).inChs = s.inChs ∧ (setHq s q h).pses = s.pses ∧ (setHq s q h).upfs = s.upfs ∧
    (setHq s q h).digs = s.digs ∧ (setHq s q h).notices = s.notices ∧ (setHq s q h).mboxHeld = s.mboxHeld ∧
    (setHq s q h).landReports = s.landReports ∧ (setHq s q h).repairOut = s.repairOut ∧
    (setHq s q h).lnks = s.lnks ∧ (setHq s q h).rxStreams = s.rxStreams ∧ (setHq s q h).puts = s.puts ∧
    (setHq s q h).putWait = s.putWait ∧ (setHq s q h).reshard = s.reshard ∧ (setHq s q h).gxes = s.gxes ∧
    (setHq s q h).hdm = s.hdm ∧ (setHq s q h).zeroing = s.zeroing ∧ (setHq s q h).thawing = s.thawing ∧
    (setHq s q h).pwr = s.pwr ∧ (setHq s q h).sec = s.sec ∧ (setHq s q h).fuses = s.fuses ∧
    (setHq s q h).nonceNo = s.nonceNo ∧ (setHq s q h).vaon = s.vaon ∧ (setHq s q h).aolMeas = s.aolMeas ∧
    (setHq s q h).owed = s.owed ∧ (setHq s q h).resetWait = s.resetWait ∧ (setHq s q h).bundles = s.bundles ∧
    (setHq s q h).cutRoles = s.cutRoles ∧
    (setHq s q h).cxlRef = s.cxlRef ∧ (setHq s q h).actDie = s.actDie := by
  refine ⟨rfl, rfl, rfl, rfl, rfl, rfl, rfl, rfl, rfl, rfl, rfl, rfl, rfl, rfl, rfl, rfl, rfl, rfl, rfl, rfl, rfl, rfl, rfl, rfl, rfl, rfl, rfl, rfl, rfl, rfl, rfl, rfl, rfl, rfl, rfl, rfl, rfl, rfl, rfl, rfl, rfl, rfl, rfl, rfl, rfl, rfl, rfl, rfl, rfl, rfl, rfl, rfl, rfl, rfl, rfl, rfl, rfl, rfl, rfl, rfl, rfl, rfl, rfl⟩

@[simp] theorem setHq_reads (s : State) (q : Nat) (h : HQueue) :
    (∀ n y, reg (setHq s q h) n y = reg s n y) ∧ (∀ n, engOf (setHq s q h) n = engOf s n) ∧
    (∀ n y, ctxOf (setHq s q h) n y = ctxOf s n y) ∧ (∀ n, mxaOf (setHq s q h) n = mxaOf s n) ∧
    (∀ n, venOf (setHq s q h) n = venOf s n) ∧ (∀ n, traceOf (setHq s q h) n = traceOf s n) ∧
    (∀ n y, outOf (setHq s q h) n y = outOf s n y) ∧ (∀ n y, inOf (setHq s q h) n y = inOf s n y) ∧
    (∀ n, pseOf (setHq s q h) n = pseOf s n) ∧ (∀ n, upfOf (setHq s q h) n = upfOf s n) ∧
    (∀ n, digOf (setHq s q h) n = digOf s n) ∧ (∀ n, lnkOf (setHq s q h) n = lnkOf s n) ∧
    (∀ n, gxeOf (setHq s q h) n = gxeOf s n) ∧ (∀ n, rdByte (setHq s q h) n = rdByte s n) := by
  refine ⟨fun _ _ => rfl, fun _ => rfl, fun _ _ => rfl, fun _ => rfl, fun _ => rfl, fun _ => rfl, fun _ _ => rfl, fun _ _ => rfl, fun _ => rfl, fun _ => rfl, fun _ => rfl, fun _ => rfl, fun _ => rfl, fun _ => rfl⟩

@[simp] theorem setEng_fields (s : State) (e : Nat) (x : Engine) :
    (setEng s e x).pending = s.pending ∧ (setEng s e x).free = s.free ∧ (setEng s e x).time = s.time ∧
    (setEng s e x).timeRuns = s.timeRuns ∧ (setEng s e x).mem = s.mem ∧ (setEng s e x).bad = s.bad ∧
    (setEng s e x).regs = s.regs ∧ (setEng s e x).cntIdx = s.cntIdx ∧ (setEng s e x).ctrs = s.ctrs ∧
    (setEng s e x).msixTable = s.msixTable ∧ (setEng s e x).msixPend = s.msixPend ∧
    (setEng s e x).msixSent = s.msixSent ∧ (setEng s e x).nextId = s.nextId ∧ (setEng s e x).hqs = s.hqs ∧
    (setEng s e x).ctxs = s.ctxs ∧ (setEng s e x).turn = s.turn ∧ (setEng s e x).traces = s.traces ∧
    (setEng s e x).traceFrozen = s.traceFrozen ∧ (setEng s e x).tracePkts = s.tracePkts ∧
    (setEng s e x).reply = s.reply ∧ (setEng s e x).saves = s.saves ∧ (setEng s e x).aolWritten = s.aolWritten ∧
    (setEng s e x).cxlUp = s.cxlUp ∧ (setEng s e x).portReleased = s.portReleased ∧
    (setEng s e x).fabricOpen = s.fabricOpen ∧ (setEng s e x).pstate = s.pstate ∧
    (setEng s e x).halted = s.halted ∧ (setEng s e x).tierPorts = s.tierPorts ∧
    (setEng s e x).tierGib = s.tierGib ∧ (setEng s e x).tierDown = s.tierDown ∧
    (setEng s e x).tierTraining = s.tierTraining ∧ (setEng s e x).mxas = s.mxas ∧ (setEng s e x).vens = s.vens ∧
    (setEng s e x).outChs = s.outChs ∧ (setEng s e x).inChs = s.inChs ∧ (setEng s e x).pses = s.pses ∧
    (setEng s e x).upfs = s.upfs ∧ (setEng s e x).digs = s.digs ∧ (setEng s e x).notices = s.notices ∧
    (setEng s e x).mboxHeld = s.mboxHeld ∧ (setEng s e x).landReports = s.landReports ∧
    (setEng s e x).repairOut = s.repairOut ∧ (setEng s e x).lnks = s.lnks ∧
    (setEng s e x).rxStreams = s.rxStreams ∧ (setEng s e x).puts = s.puts ∧ (setEng s e x).putWait = s.putWait ∧
    (setEng s e x).reshard = s.reshard ∧ (setEng s e x).gxes = s.gxes ∧ (setEng s e x).hdm = s.hdm ∧
    (setEng s e x).zeroing = s.zeroing ∧ (setEng s e x).thawing = s.thawing ∧ (setEng s e x).pwr = s.pwr ∧
    (setEng s e x).sec = s.sec ∧ (setEng s e x).fuses = s.fuses ∧ (setEng s e x).nonceNo = s.nonceNo ∧
    (setEng s e x).vaon = s.vaon ∧ (setEng s e x).aolMeas = s.aolMeas ∧ (setEng s e x).owed = s.owed ∧
    (setEng s e x).resetWait = s.resetWait ∧ (setEng s e x).bundles = s.bundles ∧
    (setEng s e x).cutRoles = s.cutRoles ∧
    (setEng s e x).cxlRef = s.cxlRef ∧ (setEng s e x).actDie = s.actDie := by
  refine ⟨rfl, rfl, rfl, rfl, rfl, rfl, rfl, rfl, rfl, rfl, rfl, rfl, rfl, rfl, rfl, rfl, rfl, rfl, rfl, rfl, rfl, rfl, rfl, rfl, rfl, rfl, rfl, rfl, rfl, rfl, rfl, rfl, rfl, rfl, rfl, rfl, rfl, rfl, rfl, rfl, rfl, rfl, rfl, rfl, rfl, rfl, rfl, rfl, rfl, rfl, rfl, rfl, rfl, rfl, rfl, rfl, rfl, rfl, rfl, rfl, rfl, rfl, rfl⟩

@[simp] theorem setEng_reads (s : State) (e : Nat) (x : Engine) :
    (∀ n y, reg (setEng s e x) n y = reg s n y) ∧ (∀ n, hqOf (setEng s e x) n = hqOf s n) ∧
    (∀ n y, ctxOf (setEng s e x) n y = ctxOf s n y) ∧ (∀ n, mxaOf (setEng s e x) n = mxaOf s n) ∧
    (∀ n, venOf (setEng s e x) n = venOf s n) ∧ (∀ n, traceOf (setEng s e x) n = traceOf s n) ∧
    (∀ n y, outOf (setEng s e x) n y = outOf s n y) ∧ (∀ n y, inOf (setEng s e x) n y = inOf s n y) ∧
    (∀ n, pseOf (setEng s e x) n = pseOf s n) ∧ (∀ n, upfOf (setEng s e x) n = upfOf s n) ∧
    (∀ n, digOf (setEng s e x) n = digOf s n) ∧ (∀ n, lnkOf (setEng s e x) n = lnkOf s n) ∧
    (∀ n, gxeOf (setEng s e x) n = gxeOf s n) ∧ (∀ n, rdByte (setEng s e x) n = rdByte s n) := by
  refine ⟨fun _ _ => rfl, fun _ => rfl, fun _ _ => rfl, fun _ => rfl, fun _ => rfl, fun _ => rfl, fun _ _ => rfl, fun _ _ => rfl, fun _ => rfl, fun _ => rfl, fun _ => rfl, fun _ => rfl, fun _ => rfl, fun _ => rfl⟩

@[simp] theorem setCtx_fields (s : State) (core x : Nat) (c : Ctx) :
    (setCtx s core x c).pending = s.pending ∧ (setCtx s core x c).free = s.free ∧
    (setCtx s core x c).time = s.time ∧ (setCtx s core x c).timeRuns = s.timeRuns ∧
    (setCtx s core x c).mem = s.mem ∧ (setCtx s core x c).bad = s.bad ∧ (setCtx s core x c).regs = s.regs ∧
    (setCtx s core x c).cntIdx = s.cntIdx ∧ (setCtx s core x c).ctrs = s.ctrs ∧
    (setCtx s core x c).msixTable = s.msixTable ∧ (setCtx s core x c).msixPend = s.msixPend ∧
    (setCtx s core x c).msixSent = s.msixSent ∧ (setCtx s core x c).nextId = s.nextId ∧
    (setCtx s core x c).hqs = s.hqs ∧ (setCtx s core x c).engs = s.engs ∧ (setCtx s core x c).turn = s.turn ∧
    (setCtx s core x c).traces = s.traces ∧ (setCtx s core x c).traceFrozen = s.traceFrozen ∧
    (setCtx s core x c).tracePkts = s.tracePkts ∧ (setCtx s core x c).reply = s.reply ∧
    (setCtx s core x c).saves = s.saves ∧ (setCtx s core x c).aolWritten = s.aolWritten ∧
    (setCtx s core x c).cxlUp = s.cxlUp ∧ (setCtx s core x c).portReleased = s.portReleased ∧
    (setCtx s core x c).fabricOpen = s.fabricOpen ∧ (setCtx s core x c).pstate = s.pstate ∧
    (setCtx s core x c).halted = s.halted ∧ (setCtx s core x c).tierPorts = s.tierPorts ∧
    (setCtx s core x c).tierGib = s.tierGib ∧ (setCtx s core x c).tierDown = s.tierDown ∧
    (setCtx s core x c).tierTraining = s.tierTraining ∧ (setCtx s core x c).mxas = s.mxas ∧
    (setCtx s core x c).vens = s.vens ∧ (setCtx s core x c).outChs = s.outChs ∧
    (setCtx s core x c).inChs = s.inChs ∧ (setCtx s core x c).pses = s.pses ∧ (setCtx s core x c).upfs = s.upfs ∧
    (setCtx s core x c).digs = s.digs ∧ (setCtx s core x c).notices = s.notices ∧
    (setCtx s core x c).mboxHeld = s.mboxHeld ∧ (setCtx s core x c).landReports = s.landReports ∧
    (setCtx s core x c).repairOut = s.repairOut ∧ (setCtx s core x c).lnks = s.lnks ∧
    (setCtx s core x c).rxStreams = s.rxStreams ∧ (setCtx s core x c).puts = s.puts ∧
    (setCtx s core x c).putWait = s.putWait ∧ (setCtx s core x c).reshard = s.reshard ∧
    (setCtx s core x c).gxes = s.gxes ∧ (setCtx s core x c).hdm = s.hdm ∧ (setCtx s core x c).zeroing = s.zeroing ∧
    (setCtx s core x c).thawing = s.thawing ∧ (setCtx s core x c).pwr = s.pwr ∧ (setCtx s core x c).sec = s.sec ∧
    (setCtx s core x c).fuses = s.fuses ∧ (setCtx s core x c).nonceNo = s.nonceNo ∧
    (setCtx s core x c).vaon = s.vaon ∧ (setCtx s core x c).aolMeas = s.aolMeas ∧
    (setCtx s core x c).owed = s.owed ∧ (setCtx s core x c).resetWait = s.resetWait ∧
    (setCtx s core x c).bundles = s.bundles ∧ (setCtx s core x c).cutRoles = s.cutRoles ∧
    (setCtx s core x c).cxlRef = s.cxlRef ∧
    (setCtx s core x c).actDie = s.actDie := by
  refine ⟨rfl, rfl, rfl, rfl, rfl, rfl, rfl, rfl, rfl, rfl, rfl, rfl, rfl, rfl, rfl, rfl, rfl, rfl, rfl, rfl, rfl, rfl, rfl, rfl, rfl, rfl, rfl, rfl, rfl, rfl, rfl, rfl, rfl, rfl, rfl, rfl, rfl, rfl, rfl, rfl, rfl, rfl, rfl, rfl, rfl, rfl, rfl, rfl, rfl, rfl, rfl, rfl, rfl, rfl, rfl, rfl, rfl, rfl, rfl, rfl, rfl, rfl, rfl⟩

@[simp] theorem setCtx_reads (s : State) (core x : Nat) (c : Ctx) :
    (∀ n y, reg (setCtx s core x c) n y = reg s n y) ∧ (∀ n, hqOf (setCtx s core x c) n = hqOf s n) ∧
    (∀ n, engOf (setCtx s core x c) n = engOf s n) ∧ (∀ n, mxaOf (setCtx s core x c) n = mxaOf s n) ∧
    (∀ n, venOf (setCtx s core x c) n = venOf s n) ∧ (∀ n, traceOf (setCtx s core x c) n = traceOf s n) ∧
    (∀ n y, outOf (setCtx s core x c) n y = outOf s n y) ∧ (∀ n y, inOf (setCtx s core x c) n y = inOf s n y) ∧
    (∀ n, pseOf (setCtx s core x c) n = pseOf s n) ∧ (∀ n, upfOf (setCtx s core x c) n = upfOf s n) ∧
    (∀ n, digOf (setCtx s core x c) n = digOf s n) ∧ (∀ n, lnkOf (setCtx s core x c) n = lnkOf s n) ∧
    (∀ n, gxeOf (setCtx s core x c) n = gxeOf s n) ∧ (∀ n, rdByte (setCtx s core x c) n = rdByte s n) := by
  refine ⟨fun _ _ => rfl, fun _ => rfl, fun _ => rfl, fun _ => rfl, fun _ => rfl, fun _ => rfl, fun _ _ => rfl, fun _ _ => rfl, fun _ => rfl, fun _ => rfl, fun _ => rfl, fun _ => rfl, fun _ => rfl, fun _ => rfl⟩

@[simp] theorem setMxa_fields (s : State) (core : Nat) (m : Mxa) :
    (setMxa s core m).pending = s.pending ∧ (setMxa s core m).free = s.free ∧ (setMxa s core m).time = s.time ∧
    (setMxa s core m).timeRuns = s.timeRuns ∧ (setMxa s core m).mem = s.mem ∧ (setMxa s core m).bad = s.bad ∧
    (setMxa s core m).regs = s.regs ∧ (setMxa s core m).cntIdx = s.cntIdx ∧ (setMxa s core m).ctrs = s.ctrs ∧
    (setMxa s core m).msixTable = s.msixTable ∧ (setMxa s core m).msixPend = s.msixPend ∧
    (setMxa s core m).msixSent = s.msixSent ∧ (setMxa s core m).nextId = s.nextId ∧ (setMxa s core m).hqs = s.hqs ∧
    (setMxa s core m).engs = s.engs ∧ (setMxa s core m).ctxs = s.ctxs ∧ (setMxa s core m).turn = s.turn ∧
    (setMxa s core m).traces = s.traces ∧ (setMxa s core m).traceFrozen = s.traceFrozen ∧
    (setMxa s core m).tracePkts = s.tracePkts ∧ (setMxa s core m).reply = s.reply ∧
    (setMxa s core m).saves = s.saves ∧ (setMxa s core m).aolWritten = s.aolWritten ∧
    (setMxa s core m).cxlUp = s.cxlUp ∧ (setMxa s core m).portReleased = s.portReleased ∧
    (setMxa s core m).fabricOpen = s.fabricOpen ∧ (setMxa s core m).pstate = s.pstate ∧
    (setMxa s core m).halted = s.halted ∧ (setMxa s core m).tierPorts = s.tierPorts ∧
    (setMxa s core m).tierGib = s.tierGib ∧ (setMxa s core m).tierDown = s.tierDown ∧
    (setMxa s core m).tierTraining = s.tierTraining ∧ (setMxa s core m).vens = s.vens ∧
    (setMxa s core m).outChs = s.outChs ∧ (setMxa s core m).inChs = s.inChs ∧ (setMxa s core m).pses = s.pses ∧
    (setMxa s core m).upfs = s.upfs ∧ (setMxa s core m).digs = s.digs ∧ (setMxa s core m).notices = s.notices ∧
    (setMxa s core m).mboxHeld = s.mboxHeld ∧ (setMxa s core m).landReports = s.landReports ∧
    (setMxa s core m).repairOut = s.repairOut ∧ (setMxa s core m).lnks = s.lnks ∧
    (setMxa s core m).rxStreams = s.rxStreams ∧ (setMxa s core m).puts = s.puts ∧
    (setMxa s core m).putWait = s.putWait ∧ (setMxa s core m).reshard = s.reshard ∧
    (setMxa s core m).gxes = s.gxes ∧ (setMxa s core m).hdm = s.hdm ∧ (setMxa s core m).zeroing = s.zeroing ∧
    (setMxa s core m).thawing = s.thawing ∧ (setMxa s core m).pwr = s.pwr ∧ (setMxa s core m).sec = s.sec ∧
    (setMxa s core m).fuses = s.fuses ∧ (setMxa s core m).nonceNo = s.nonceNo ∧ (setMxa s core m).vaon = s.vaon ∧
    (setMxa s core m).aolMeas = s.aolMeas ∧ (setMxa s core m).owed = s.owed ∧
    (setMxa s core m).resetWait = s.resetWait ∧ (setMxa s core m).bundles = s.bundles ∧
    (setMxa s core m).cutRoles = s.cutRoles ∧
    (setMxa s core m).cxlRef = s.cxlRef ∧ (setMxa s core m).actDie = s.actDie := by
  refine ⟨rfl, rfl, rfl, rfl, rfl, rfl, rfl, rfl, rfl, rfl, rfl, rfl, rfl, rfl, rfl, rfl, rfl, rfl, rfl, rfl, rfl, rfl, rfl, rfl, rfl, rfl, rfl, rfl, rfl, rfl, rfl, rfl, rfl, rfl, rfl, rfl, rfl, rfl, rfl, rfl, rfl, rfl, rfl, rfl, rfl, rfl, rfl, rfl, rfl, rfl, rfl, rfl, rfl, rfl, rfl, rfl, rfl, rfl, rfl, rfl, rfl, rfl, rfl⟩

@[simp] theorem setMxa_reads (s : State) (core : Nat) (m : Mxa) :
    (∀ n y, reg (setMxa s core m) n y = reg s n y) ∧ (∀ n, hqOf (setMxa s core m) n = hqOf s n) ∧
    (∀ n, engOf (setMxa s core m) n = engOf s n) ∧ (∀ n y, ctxOf (setMxa s core m) n y = ctxOf s n y) ∧
    (∀ n, venOf (setMxa s core m) n = venOf s n) ∧ (∀ n, traceOf (setMxa s core m) n = traceOf s n) ∧
    (∀ n y, outOf (setMxa s core m) n y = outOf s n y) ∧ (∀ n y, inOf (setMxa s core m) n y = inOf s n y) ∧
    (∀ n, pseOf (setMxa s core m) n = pseOf s n) ∧ (∀ n, upfOf (setMxa s core m) n = upfOf s n) ∧
    (∀ n, digOf (setMxa s core m) n = digOf s n) ∧ (∀ n, lnkOf (setMxa s core m) n = lnkOf s n) ∧
    (∀ n, gxeOf (setMxa s core m) n = gxeOf s n) ∧ (∀ n, rdByte (setMxa s core m) n = rdByte s n) := by
  refine ⟨fun _ _ => rfl, fun _ => rfl, fun _ => rfl, fun _ _ => rfl, fun _ => rfl, fun _ => rfl, fun _ _ => rfl, fun _ _ => rfl, fun _ => rfl, fun _ => rfl, fun _ => rfl, fun _ => rfl, fun _ => rfl, fun _ => rfl⟩

@[simp] theorem setVen_fields (s : State) (core : Nat) (v : Ven) :
    (setVen s core v).pending = s.pending ∧ (setVen s core v).free = s.free ∧ (setVen s core v).time = s.time ∧
    (setVen s core v).timeRuns = s.timeRuns ∧ (setVen s core v).mem = s.mem ∧ (setVen s core v).bad = s.bad ∧
    (setVen s core v).regs = s.regs ∧ (setVen s core v).cntIdx = s.cntIdx ∧ (setVen s core v).ctrs = s.ctrs ∧
    (setVen s core v).msixTable = s.msixTable ∧ (setVen s core v).msixPend = s.msixPend ∧
    (setVen s core v).msixSent = s.msixSent ∧ (setVen s core v).nextId = s.nextId ∧ (setVen s core v).hqs = s.hqs ∧
    (setVen s core v).engs = s.engs ∧ (setVen s core v).ctxs = s.ctxs ∧ (setVen s core v).turn = s.turn ∧
    (setVen s core v).traces = s.traces ∧ (setVen s core v).traceFrozen = s.traceFrozen ∧
    (setVen s core v).tracePkts = s.tracePkts ∧ (setVen s core v).reply = s.reply ∧
    (setVen s core v).saves = s.saves ∧ (setVen s core v).aolWritten = s.aolWritten ∧
    (setVen s core v).cxlUp = s.cxlUp ∧ (setVen s core v).portReleased = s.portReleased ∧
    (setVen s core v).fabricOpen = s.fabricOpen ∧ (setVen s core v).pstate = s.pstate ∧
    (setVen s core v).halted = s.halted ∧ (setVen s core v).tierPorts = s.tierPorts ∧
    (setVen s core v).tierGib = s.tierGib ∧ (setVen s core v).tierDown = s.tierDown ∧
    (setVen s core v).tierTraining = s.tierTraining ∧ (setVen s core v).mxas = s.mxas ∧
    (setVen s core v).outChs = s.outChs ∧ (setVen s core v).inChs = s.inChs ∧ (setVen s core v).pses = s.pses ∧
    (setVen s core v).upfs = s.upfs ∧ (setVen s core v).digs = s.digs ∧ (setVen s core v).notices = s.notices ∧
    (setVen s core v).mboxHeld = s.mboxHeld ∧ (setVen s core v).landReports = s.landReports ∧
    (setVen s core v).repairOut = s.repairOut ∧ (setVen s core v).lnks = s.lnks ∧
    (setVen s core v).rxStreams = s.rxStreams ∧ (setVen s core v).puts = s.puts ∧
    (setVen s core v).putWait = s.putWait ∧ (setVen s core v).reshard = s.reshard ∧
    (setVen s core v).gxes = s.gxes ∧ (setVen s core v).hdm = s.hdm ∧ (setVen s core v).zeroing = s.zeroing ∧
    (setVen s core v).thawing = s.thawing ∧ (setVen s core v).pwr = s.pwr ∧ (setVen s core v).sec = s.sec ∧
    (setVen s core v).fuses = s.fuses ∧ (setVen s core v).nonceNo = s.nonceNo ∧ (setVen s core v).vaon = s.vaon ∧
    (setVen s core v).aolMeas = s.aolMeas ∧ (setVen s core v).owed = s.owed ∧
    (setVen s core v).resetWait = s.resetWait ∧ (setVen s core v).bundles = s.bundles ∧
    (setVen s core v).cutRoles = s.cutRoles ∧
    (setVen s core v).cxlRef = s.cxlRef ∧ (setVen s core v).actDie = s.actDie := by
  refine ⟨rfl, rfl, rfl, rfl, rfl, rfl, rfl, rfl, rfl, rfl, rfl, rfl, rfl, rfl, rfl, rfl, rfl, rfl, rfl, rfl, rfl, rfl, rfl, rfl, rfl, rfl, rfl, rfl, rfl, rfl, rfl, rfl, rfl, rfl, rfl, rfl, rfl, rfl, rfl, rfl, rfl, rfl, rfl, rfl, rfl, rfl, rfl, rfl, rfl, rfl, rfl, rfl, rfl, rfl, rfl, rfl, rfl, rfl, rfl, rfl, rfl, rfl, rfl⟩

@[simp] theorem setVen_reads (s : State) (core : Nat) (v : Ven) :
    (∀ n y, reg (setVen s core v) n y = reg s n y) ∧ (∀ n, hqOf (setVen s core v) n = hqOf s n) ∧
    (∀ n, engOf (setVen s core v) n = engOf s n) ∧ (∀ n y, ctxOf (setVen s core v) n y = ctxOf s n y) ∧
    (∀ n, mxaOf (setVen s core v) n = mxaOf s n) ∧ (∀ n, traceOf (setVen s core v) n = traceOf s n) ∧
    (∀ n y, outOf (setVen s core v) n y = outOf s n y) ∧ (∀ n y, inOf (setVen s core v) n y = inOf s n y) ∧
    (∀ n, pseOf (setVen s core v) n = pseOf s n) ∧ (∀ n, upfOf (setVen s core v) n = upfOf s n) ∧
    (∀ n, digOf (setVen s core v) n = digOf s n) ∧ (∀ n, lnkOf (setVen s core v) n = lnkOf s n) ∧
    (∀ n, gxeOf (setVen s core v) n = gxeOf s n) ∧ (∀ n, rdByte (setVen s core v) n = rdByte s n) := by
  refine ⟨fun _ _ => rfl, fun _ => rfl, fun _ => rfl, fun _ _ => rfl, fun _ => rfl, fun _ => rfl, fun _ _ => rfl, fun _ _ => rfl, fun _ => rfl, fun _ => rfl, fun _ => rfl, fun _ => rfl, fun _ => rfl, fun _ => rfl⟩

@[simp] theorem setTrace_fields (s : State) (k : Nat) (t : TraceBuf) :
    (setTrace s k t).pending = s.pending ∧ (setTrace s k t).free = s.free ∧ (setTrace s k t).time = s.time ∧
    (setTrace s k t).timeRuns = s.timeRuns ∧ (setTrace s k t).mem = s.mem ∧ (setTrace s k t).bad = s.bad ∧
    (setTrace s k t).regs = s.regs ∧ (setTrace s k t).cntIdx = s.cntIdx ∧ (setTrace s k t).ctrs = s.ctrs ∧
    (setTrace s k t).msixTable = s.msixTable ∧ (setTrace s k t).msixPend = s.msixPend ∧
    (setTrace s k t).msixSent = s.msixSent ∧ (setTrace s k t).nextId = s.nextId ∧ (setTrace s k t).hqs = s.hqs ∧
    (setTrace s k t).engs = s.engs ∧ (setTrace s k t).ctxs = s.ctxs ∧ (setTrace s k t).turn = s.turn ∧
    (setTrace s k t).traceFrozen = s.traceFrozen ∧ (setTrace s k t).tracePkts = s.tracePkts ∧
    (setTrace s k t).reply = s.reply ∧ (setTrace s k t).saves = s.saves ∧
    (setTrace s k t).aolWritten = s.aolWritten ∧ (setTrace s k t).cxlUp = s.cxlUp ∧
    (setTrace s k t).portReleased = s.portReleased ∧ (setTrace s k t).fabricOpen = s.fabricOpen ∧
    (setTrace s k t).pstate = s.pstate ∧ (setTrace s k t).halted = s.halted ∧
    (setTrace s k t).tierPorts = s.tierPorts ∧ (setTrace s k t).tierGib = s.tierGib ∧
    (setTrace s k t).tierDown = s.tierDown ∧ (setTrace s k t).tierTraining = s.tierTraining ∧
    (setTrace s k t).mxas = s.mxas ∧ (setTrace s k t).vens = s.vens ∧ (setTrace s k t).outChs = s.outChs ∧
    (setTrace s k t).inChs = s.inChs ∧ (setTrace s k t).pses = s.pses ∧ (setTrace s k t).upfs = s.upfs ∧
    (setTrace s k t).digs = s.digs ∧ (setTrace s k t).notices = s.notices ∧
    (setTrace s k t).mboxHeld = s.mboxHeld ∧ (setTrace s k t).landReports = s.landReports ∧
    (setTrace s k t).repairOut = s.repairOut ∧ (setTrace s k t).lnks = s.lnks ∧
    (setTrace s k t).rxStreams = s.rxStreams ∧ (setTrace s k t).puts = s.puts ∧
    (setTrace s k t).putWait = s.putWait ∧ (setTrace s k t).reshard = s.reshard ∧ (setTrace s k t).gxes = s.gxes ∧
    (setTrace s k t).hdm = s.hdm ∧ (setTrace s k t).zeroing = s.zeroing ∧ (setTrace s k t).thawing = s.thawing ∧
    (setTrace s k t).pwr = s.pwr ∧ (setTrace s k t).sec = s.sec ∧ (setTrace s k t).fuses = s.fuses ∧
    (setTrace s k t).nonceNo = s.nonceNo ∧ (setTrace s k t).vaon = s.vaon ∧ (setTrace s k t).aolMeas = s.aolMeas ∧
    (setTrace s k t).owed = s.owed ∧ (setTrace s k t).resetWait = s.resetWait ∧
    (setTrace s k t).bundles = s.bundles ∧ (setTrace s k t).cutRoles = s.cutRoles ∧
    (setTrace s k t).cxlRef = s.cxlRef ∧
    (setTrace s k t).actDie = s.actDie := by
  refine ⟨rfl, rfl, rfl, rfl, rfl, rfl, rfl, rfl, rfl, rfl, rfl, rfl, rfl, rfl, rfl, rfl, rfl, rfl, rfl, rfl, rfl, rfl, rfl, rfl, rfl, rfl, rfl, rfl, rfl, rfl, rfl, rfl, rfl, rfl, rfl, rfl, rfl, rfl, rfl, rfl, rfl, rfl, rfl, rfl, rfl, rfl, rfl, rfl, rfl, rfl, rfl, rfl, rfl, rfl, rfl, rfl, rfl, rfl, rfl, rfl, rfl, rfl, rfl⟩

@[simp] theorem setTrace_reads (s : State) (k : Nat) (t : TraceBuf) :
    (∀ n y, reg (setTrace s k t) n y = reg s n y) ∧ (∀ n, hqOf (setTrace s k t) n = hqOf s n) ∧
    (∀ n, engOf (setTrace s k t) n = engOf s n) ∧ (∀ n y, ctxOf (setTrace s k t) n y = ctxOf s n y) ∧
    (∀ n, mxaOf (setTrace s k t) n = mxaOf s n) ∧ (∀ n, venOf (setTrace s k t) n = venOf s n) ∧
    (∀ n y, outOf (setTrace s k t) n y = outOf s n y) ∧ (∀ n y, inOf (setTrace s k t) n y = inOf s n y) ∧
    (∀ n, pseOf (setTrace s k t) n = pseOf s n) ∧ (∀ n, upfOf (setTrace s k t) n = upfOf s n) ∧
    (∀ n, digOf (setTrace s k t) n = digOf s n) ∧ (∀ n, lnkOf (setTrace s k t) n = lnkOf s n) ∧
    (∀ n, gxeOf (setTrace s k t) n = gxeOf s n) ∧ (∀ n, rdByte (setTrace s k t) n = rdByte s n) := by
  refine ⟨fun _ _ => rfl, fun _ => rfl, fun _ => rfl, fun _ _ => rfl, fun _ => rfl, fun _ => rfl, fun _ _ => rfl, fun _ _ => rfl, fun _ => rfl, fun _ => rfl, fun _ => rfl, fun _ => rfl, fun _ => rfl, fun _ => rfl⟩

@[simp] theorem setOut_fields (s : State) (core o : Nat) (x : OutCh) :
    (setOut s core o x).pending = s.pending ∧ (setOut s core o x).free = s.free ∧
    (setOut s core o x).time = s.time ∧ (setOut s core o x).timeRuns = s.timeRuns ∧
    (setOut s core o x).mem = s.mem ∧ (setOut s core o x).bad = s.bad ∧ (setOut s core o x).regs = s.regs ∧
    (setOut s core o x).cntIdx = s.cntIdx ∧ (setOut s core o x).ctrs = s.ctrs ∧
    (setOut s core o x).msixTable = s.msixTable ∧ (setOut s core o x).msixPend = s.msixPend ∧
    (setOut s core o x).msixSent = s.msixSent ∧ (setOut s core o x).nextId = s.nextId ∧
    (setOut s core o x).hqs = s.hqs ∧ (setOut s core o x).engs = s.engs ∧ (setOut s core o x).ctxs = s.ctxs ∧
    (setOut s core o x).turn = s.turn ∧ (setOut s core o x).traces = s.traces ∧
    (setOut s core o x).traceFrozen = s.traceFrozen ∧ (setOut s core o x).tracePkts = s.tracePkts ∧
    (setOut s core o x).reply = s.reply ∧ (setOut s core o x).saves = s.saves ∧
    (setOut s core o x).aolWritten = s.aolWritten ∧ (setOut s core o x).cxlUp = s.cxlUp ∧
    (setOut s core o x).portReleased = s.portReleased ∧ (setOut s core o x).fabricOpen = s.fabricOpen ∧
    (setOut s core o x).pstate = s.pstate ∧ (setOut s core o x).halted = s.halted ∧
    (setOut s core o x).tierPorts = s.tierPorts ∧ (setOut s core o x).tierGib = s.tierGib ∧
    (setOut s core o x).tierDown = s.tierDown ∧ (setOut s core o x).tierTraining = s.tierTraining ∧
    (setOut s core o x).mxas = s.mxas ∧ (setOut s core o x).vens = s.vens ∧ (setOut s core o x).inChs = s.inChs ∧
    (setOut s core o x).pses = s.pses ∧ (setOut s core o x).upfs = s.upfs ∧ (setOut s core o x).digs = s.digs ∧
    (setOut s core o x).notices = s.notices ∧ (setOut s core o x).mboxHeld = s.mboxHeld ∧
    (setOut s core o x).landReports = s.landReports ∧ (setOut s core o x).repairOut = s.repairOut ∧
    (setOut s core o x).lnks = s.lnks ∧ (setOut s core o x).rxStreams = s.rxStreams ∧
    (setOut s core o x).puts = s.puts ∧ (setOut s core o x).putWait = s.putWait ∧
    (setOut s core o x).reshard = s.reshard ∧ (setOut s core o x).gxes = s.gxes ∧ (setOut s core o x).hdm = s.hdm ∧
    (setOut s core o x).zeroing = s.zeroing ∧ (setOut s core o x).thawing = s.thawing ∧
    (setOut s core o x).pwr = s.pwr ∧ (setOut s core o x).sec = s.sec ∧ (setOut s core o x).fuses = s.fuses ∧
    (setOut s core o x).nonceNo = s.nonceNo ∧ (setOut s core o x).vaon = s.vaon ∧
    (setOut s core o x).aolMeas = s.aolMeas ∧ (setOut s core o x).owed = s.owed ∧
    (setOut s core o x).resetWait = s.resetWait ∧ (setOut s core o x).bundles = s.bundles ∧
    (setOut s core o x).cutRoles = s.cutRoles ∧
    (setOut s core o x).cxlRef = s.cxlRef ∧ (setOut s core o x).actDie = s.actDie := by
  refine ⟨rfl, rfl, rfl, rfl, rfl, rfl, rfl, rfl, rfl, rfl, rfl, rfl, rfl, rfl, rfl, rfl, rfl, rfl, rfl, rfl, rfl, rfl, rfl, rfl, rfl, rfl, rfl, rfl, rfl, rfl, rfl, rfl, rfl, rfl, rfl, rfl, rfl, rfl, rfl, rfl, rfl, rfl, rfl, rfl, rfl, rfl, rfl, rfl, rfl, rfl, rfl, rfl, rfl, rfl, rfl, rfl, rfl, rfl, rfl, rfl, rfl, rfl, rfl⟩

@[simp] theorem setOut_reads (s : State) (core o : Nat) (x : OutCh) :
    (∀ n y, reg (setOut s core o x) n y = reg s n y) ∧ (∀ n, hqOf (setOut s core o x) n = hqOf s n) ∧
    (∀ n, engOf (setOut s core o x) n = engOf s n) ∧ (∀ n y, ctxOf (setOut s core o x) n y = ctxOf s n y) ∧
    (∀ n, mxaOf (setOut s core o x) n = mxaOf s n) ∧ (∀ n, venOf (setOut s core o x) n = venOf s n) ∧
    (∀ n, traceOf (setOut s core o x) n = traceOf s n) ∧ (∀ n y, inOf (setOut s core o x) n y = inOf s n y) ∧
    (∀ n, pseOf (setOut s core o x) n = pseOf s n) ∧ (∀ n, upfOf (setOut s core o x) n = upfOf s n) ∧
    (∀ n, digOf (setOut s core o x) n = digOf s n) ∧ (∀ n, lnkOf (setOut s core o x) n = lnkOf s n) ∧
    (∀ n, gxeOf (setOut s core o x) n = gxeOf s n) ∧ (∀ n, rdByte (setOut s core o x) n = rdByte s n) := by
  refine ⟨fun _ _ => rfl, fun _ => rfl, fun _ => rfl, fun _ _ => rfl, fun _ => rfl, fun _ => rfl, fun _ => rfl, fun _ _ => rfl, fun _ => rfl, fun _ => rfl, fun _ => rfl, fun _ => rfl, fun _ => rfl, fun _ => rfl⟩

@[simp] theorem setIn_fields (s : State) (core i : Nat) (x : InCh) :
    (setIn s core i x).pending = s.pending ∧ (setIn s core i x).free = s.free ∧ (setIn s core i x).time = s.time ∧
    (setIn s core i x).timeRuns = s.timeRuns ∧ (setIn s core i x).mem = s.mem ∧ (setIn s core i x).bad = s.bad ∧
    (setIn s core i x).regs = s.regs ∧ (setIn s core i x).cntIdx = s.cntIdx ∧ (setIn s core i x).ctrs = s.ctrs ∧
    (setIn s core i x).msixTable = s.msixTable ∧ (setIn s core i x).msixPend = s.msixPend ∧
    (setIn s core i x).msixSent = s.msixSent ∧ (setIn s core i x).nextId = s.nextId ∧
    (setIn s core i x).hqs = s.hqs ∧ (setIn s core i x).engs = s.engs ∧ (setIn s core i x).ctxs = s.ctxs ∧
    (setIn s core i x).turn = s.turn ∧ (setIn s core i x).traces = s.traces ∧
    (setIn s core i x).traceFrozen = s.traceFrozen ∧ (setIn s core i x).tracePkts = s.tracePkts ∧
    (setIn s core i x).reply = s.reply ∧ (setIn s core i x).saves = s.saves ∧
    (setIn s core i x).aolWritten = s.aolWritten ∧ (setIn s core i x).cxlUp = s.cxlUp ∧
    (setIn s core i x).portReleased = s.portReleased ∧ (setIn s core i x).fabricOpen = s.fabricOpen ∧
    (setIn s core i x).pstate = s.pstate ∧ (setIn s core i x).halted = s.halted ∧
    (setIn s core i x).tierPorts = s.tierPorts ∧ (setIn s core i x).tierGib = s.tierGib ∧
    (setIn s core i x).tierDown = s.tierDown ∧ (setIn s core i x).tierTraining = s.tierTraining ∧
    (setIn s core i x).mxas = s.mxas ∧ (setIn s core i x).vens = s.vens ∧ (setIn s core i x).outChs = s.outChs ∧
    (setIn s core i x).pses = s.pses ∧ (setIn s core i x).upfs = s.upfs ∧ (setIn s core i x).digs = s.digs ∧
    (setIn s core i x).notices = s.notices ∧ (setIn s core i x).mboxHeld = s.mboxHeld ∧
    (setIn s core i x).landReports = s.landReports ∧ (setIn s core i x).repairOut = s.repairOut ∧
    (setIn s core i x).lnks = s.lnks ∧ (setIn s core i x).rxStreams = s.rxStreams ∧
    (setIn s core i x).puts = s.puts ∧ (setIn s core i x).putWait = s.putWait ∧
    (setIn s core i x).reshard = s.reshard ∧ (setIn s core i x).gxes = s.gxes ∧ (setIn s core i x).hdm = s.hdm ∧
    (setIn s core i x).zeroing = s.zeroing ∧ (setIn s core i x).thawing = s.thawing ∧
    (setIn s core i x).pwr = s.pwr ∧ (setIn s core i x).sec = s.sec ∧ (setIn s core i x).fuses = s.fuses ∧
    (setIn s core i x).nonceNo = s.nonceNo ∧ (setIn s core i x).vaon = s.vaon ∧
    (setIn s core i x).aolMeas = s.aolMeas ∧ (setIn s core i x).owed = s.owed ∧
    (setIn s core i x).resetWait = s.resetWait ∧ (setIn s core i x).bundles = s.bundles ∧
    (setIn s core i x).cutRoles = s.cutRoles ∧
    (setIn s core i x).cxlRef = s.cxlRef ∧ (setIn s core i x).actDie = s.actDie := by
  refine ⟨rfl, rfl, rfl, rfl, rfl, rfl, rfl, rfl, rfl, rfl, rfl, rfl, rfl, rfl, rfl, rfl, rfl, rfl, rfl, rfl, rfl, rfl, rfl, rfl, rfl, rfl, rfl, rfl, rfl, rfl, rfl, rfl, rfl, rfl, rfl, rfl, rfl, rfl, rfl, rfl, rfl, rfl, rfl, rfl, rfl, rfl, rfl, rfl, rfl, rfl, rfl, rfl, rfl, rfl, rfl, rfl, rfl, rfl, rfl, rfl, rfl, rfl, rfl⟩

@[simp] theorem setIn_reads (s : State) (core i : Nat) (x : InCh) :
    (∀ n y, reg (setIn s core i x) n y = reg s n y) ∧ (∀ n, hqOf (setIn s core i x) n = hqOf s n) ∧
    (∀ n, engOf (setIn s core i x) n = engOf s n) ∧ (∀ n y, ctxOf (setIn s core i x) n y = ctxOf s n y) ∧
    (∀ n, mxaOf (setIn s core i x) n = mxaOf s n) ∧ (∀ n, venOf (setIn s core i x) n = venOf s n) ∧
    (∀ n, traceOf (setIn s core i x) n = traceOf s n) ∧ (∀ n y, outOf (setIn s core i x) n y = outOf s n y) ∧
    (∀ n, pseOf (setIn s core i x) n = pseOf s n) ∧ (∀ n, upfOf (setIn s core i x) n = upfOf s n) ∧
    (∀ n, digOf (setIn s core i x) n = digOf s n) ∧ (∀ n, lnkOf (setIn s core i x) n = lnkOf s n) ∧
    (∀ n, gxeOf (setIn s core i x) n = gxeOf s n) ∧ (∀ n, rdByte (setIn s core i x) n = rdByte s n) := by
  refine ⟨fun _ _ => rfl, fun _ => rfl, fun _ => rfl, fun _ _ => rfl, fun _ => rfl, fun _ => rfl, fun _ => rfl, fun _ _ => rfl, fun _ => rfl, fun _ => rfl, fun _ => rfl, fun _ => rfl, fun _ => rfl, fun _ => rfl⟩

@[simp] theorem setPse_fields (s : State) (r : Nat) (p : Pse) :
    (setPse s r p).pending = s.pending ∧ (setPse s r p).free = s.free ∧ (setPse s r p).time = s.time ∧
    (setPse s r p).timeRuns = s.timeRuns ∧ (setPse s r p).mem = s.mem ∧ (setPse s r p).bad = s.bad ∧
    (setPse s r p).regs = s.regs ∧ (setPse s r p).cntIdx = s.cntIdx ∧ (setPse s r p).ctrs = s.ctrs ∧
    (setPse s r p).msixTable = s.msixTable ∧ (setPse s r p).msixPend = s.msixPend ∧
    (setPse s r p).msixSent = s.msixSent ∧ (setPse s r p).nextId = s.nextId ∧ (setPse s r p).hqs = s.hqs ∧
    (setPse s r p).engs = s.engs ∧ (setPse s r p).ctxs = s.ctxs ∧ (setPse s r p).turn = s.turn ∧
    (setPse s r p).traces = s.traces ∧ (setPse s r p).traceFrozen = s.traceFrozen ∧
    (setPse s r p).tracePkts = s.tracePkts ∧ (setPse s r p).reply = s.reply ∧ (setPse s r p).saves = s.saves ∧
    (setPse s r p).aolWritten = s.aolWritten ∧ (setPse s r p).cxlUp = s.cxlUp ∧
    (setPse s r p).portReleased = s.portReleased ∧ (setPse s r p).fabricOpen = s.fabricOpen ∧
    (setPse s r p).pstate = s.pstate ∧ (setPse s r p).halted = s.halted ∧ (setPse s r p).tierPorts = s.tierPorts ∧
    (setPse s r p).tierGib = s.tierGib ∧ (setPse s r p).tierDown = s.tierDown ∧
    (setPse s r p).tierTraining = s.tierTraining ∧ (setPse s r p).mxas = s.mxas ∧ (setPse s r p).vens = s.vens ∧
    (setPse s r p).outChs = s.outChs ∧ (setPse s r p).inChs = s.inChs ∧ (setPse s r p).upfs = s.upfs ∧
    (setPse s r p).digs = s.digs ∧ (setPse s r p).notices = s.notices ∧ (setPse s r p).mboxHeld = s.mboxHeld ∧
    (setPse s r p).landReports = s.landReports ∧ (setPse s r p).repairOut = s.repairOut ∧
    (setPse s r p).lnks = s.lnks ∧ (setPse s r p).rxStreams = s.rxStreams ∧ (setPse s r p).puts = s.puts ∧
    (setPse s r p).putWait = s.putWait ∧ (setPse s r p).reshard = s.reshard ∧ (setPse s r p).gxes = s.gxes ∧
    (setPse s r p).hdm = s.hdm ∧ (setPse s r p).zeroing = s.zeroing ∧ (setPse s r p).thawing = s.thawing ∧
    (setPse s r p).pwr = s.pwr ∧ (setPse s r p).sec = s.sec ∧ (setPse s r p).fuses = s.fuses ∧
    (setPse s r p).nonceNo = s.nonceNo ∧ (setPse s r p).vaon = s.vaon ∧ (setPse s r p).aolMeas = s.aolMeas ∧
    (setPse s r p).owed = s.owed ∧ (setPse s r p).resetWait = s.resetWait ∧ (setPse s r p).bundles = s.bundles ∧
    (setPse s r p).cutRoles = s.cutRoles ∧
    (setPse s r p).cxlRef = s.cxlRef ∧ (setPse s r p).actDie = s.actDie := by
  refine ⟨rfl, rfl, rfl, rfl, rfl, rfl, rfl, rfl, rfl, rfl, rfl, rfl, rfl, rfl, rfl, rfl, rfl, rfl, rfl, rfl, rfl, rfl, rfl, rfl, rfl, rfl, rfl, rfl, rfl, rfl, rfl, rfl, rfl, rfl, rfl, rfl, rfl, rfl, rfl, rfl, rfl, rfl, rfl, rfl, rfl, rfl, rfl, rfl, rfl, rfl, rfl, rfl, rfl, rfl, rfl, rfl, rfl, rfl, rfl, rfl, rfl, rfl, rfl⟩

@[simp] theorem setPse_reads (s : State) (r : Nat) (p : Pse) :
    (∀ n y, reg (setPse s r p) n y = reg s n y) ∧ (∀ n, hqOf (setPse s r p) n = hqOf s n) ∧
    (∀ n, engOf (setPse s r p) n = engOf s n) ∧ (∀ n y, ctxOf (setPse s r p) n y = ctxOf s n y) ∧
    (∀ n, mxaOf (setPse s r p) n = mxaOf s n) ∧ (∀ n, venOf (setPse s r p) n = venOf s n) ∧
    (∀ n, traceOf (setPse s r p) n = traceOf s n) ∧ (∀ n y, outOf (setPse s r p) n y = outOf s n y) ∧
    (∀ n y, inOf (setPse s r p) n y = inOf s n y) ∧ (∀ n, upfOf (setPse s r p) n = upfOf s n) ∧
    (∀ n, digOf (setPse s r p) n = digOf s n) ∧ (∀ n, lnkOf (setPse s r p) n = lnkOf s n) ∧
    (∀ n, gxeOf (setPse s r p) n = gxeOf s n) ∧ (∀ n, rdByte (setPse s r p) n = rdByte s n) := by
  refine ⟨fun _ _ => rfl, fun _ => rfl, fun _ => rfl, fun _ _ => rfl, fun _ => rfl, fun _ => rfl, fun _ => rfl, fun _ _ => rfl, fun _ _ => rfl, fun _ => rfl, fun _ => rfl, fun _ => rfl, fun _ => rfl, fun _ => rfl⟩

@[simp] theorem setUpf_fields (s : State) (r : Nat) (u : Upf) :
    (setUpf s r u).pending = s.pending ∧ (setUpf s r u).free = s.free ∧ (setUpf s r u).time = s.time ∧
    (setUpf s r u).timeRuns = s.timeRuns ∧ (setUpf s r u).mem = s.mem ∧ (setUpf s r u).bad = s.bad ∧
    (setUpf s r u).regs = s.regs ∧ (setUpf s r u).cntIdx = s.cntIdx ∧ (setUpf s r u).ctrs = s.ctrs ∧
    (setUpf s r u).msixTable = s.msixTable ∧ (setUpf s r u).msixPend = s.msixPend ∧
    (setUpf s r u).msixSent = s.msixSent ∧ (setUpf s r u).nextId = s.nextId ∧ (setUpf s r u).hqs = s.hqs ∧
    (setUpf s r u).engs = s.engs ∧ (setUpf s r u).ctxs = s.ctxs ∧ (setUpf s r u).turn = s.turn ∧
    (setUpf s r u).traces = s.traces ∧ (setUpf s r u).traceFrozen = s.traceFrozen ∧
    (setUpf s r u).tracePkts = s.tracePkts ∧ (setUpf s r u).reply = s.reply ∧ (setUpf s r u).saves = s.saves ∧
    (setUpf s r u).aolWritten = s.aolWritten ∧ (setUpf s r u).cxlUp = s.cxlUp ∧
    (setUpf s r u).portReleased = s.portReleased ∧ (setUpf s r u).fabricOpen = s.fabricOpen ∧
    (setUpf s r u).pstate = s.pstate ∧ (setUpf s r u).halted = s.halted ∧ (setUpf s r u).tierPorts = s.tierPorts ∧
    (setUpf s r u).tierGib = s.tierGib ∧ (setUpf s r u).tierDown = s.tierDown ∧
    (setUpf s r u).tierTraining = s.tierTraining ∧ (setUpf s r u).mxas = s.mxas ∧ (setUpf s r u).vens = s.vens ∧
    (setUpf s r u).outChs = s.outChs ∧ (setUpf s r u).inChs = s.inChs ∧ (setUpf s r u).pses = s.pses ∧
    (setUpf s r u).digs = s.digs ∧ (setUpf s r u).notices = s.notices ∧ (setUpf s r u).mboxHeld = s.mboxHeld ∧
    (setUpf s r u).landReports = s.landReports ∧ (setUpf s r u).repairOut = s.repairOut ∧
    (setUpf s r u).lnks = s.lnks ∧ (setUpf s r u).rxStreams = s.rxStreams ∧ (setUpf s r u).puts = s.puts ∧
    (setUpf s r u).putWait = s.putWait ∧ (setUpf s r u).reshard = s.reshard ∧ (setUpf s r u).gxes = s.gxes ∧
    (setUpf s r u).hdm = s.hdm ∧ (setUpf s r u).zeroing = s.zeroing ∧ (setUpf s r u).thawing = s.thawing ∧
    (setUpf s r u).pwr = s.pwr ∧ (setUpf s r u).sec = s.sec ∧ (setUpf s r u).fuses = s.fuses ∧
    (setUpf s r u).nonceNo = s.nonceNo ∧ (setUpf s r u).vaon = s.vaon ∧ (setUpf s r u).aolMeas = s.aolMeas ∧
    (setUpf s r u).owed = s.owed ∧ (setUpf s r u).resetWait = s.resetWait ∧ (setUpf s r u).bundles = s.bundles ∧
    (setUpf s r u).cutRoles = s.cutRoles ∧
    (setUpf s r u).cxlRef = s.cxlRef ∧ (setUpf s r u).actDie = s.actDie := by
  refine ⟨rfl, rfl, rfl, rfl, rfl, rfl, rfl, rfl, rfl, rfl, rfl, rfl, rfl, rfl, rfl, rfl, rfl, rfl, rfl, rfl, rfl, rfl, rfl, rfl, rfl, rfl, rfl, rfl, rfl, rfl, rfl, rfl, rfl, rfl, rfl, rfl, rfl, rfl, rfl, rfl, rfl, rfl, rfl, rfl, rfl, rfl, rfl, rfl, rfl, rfl, rfl, rfl, rfl, rfl, rfl, rfl, rfl, rfl, rfl, rfl, rfl, rfl, rfl⟩

@[simp] theorem setUpf_reads (s : State) (r : Nat) (u : Upf) :
    (∀ n y, reg (setUpf s r u) n y = reg s n y) ∧ (∀ n, hqOf (setUpf s r u) n = hqOf s n) ∧
    (∀ n, engOf (setUpf s r u) n = engOf s n) ∧ (∀ n y, ctxOf (setUpf s r u) n y = ctxOf s n y) ∧
    (∀ n, mxaOf (setUpf s r u) n = mxaOf s n) ∧ (∀ n, venOf (setUpf s r u) n = venOf s n) ∧
    (∀ n, traceOf (setUpf s r u) n = traceOf s n) ∧ (∀ n y, outOf (setUpf s r u) n y = outOf s n y) ∧
    (∀ n y, inOf (setUpf s r u) n y = inOf s n y) ∧ (∀ n, pseOf (setUpf s r u) n = pseOf s n) ∧
    (∀ n, digOf (setUpf s r u) n = digOf s n) ∧ (∀ n, lnkOf (setUpf s r u) n = lnkOf s n) ∧
    (∀ n, gxeOf (setUpf s r u) n = gxeOf s n) ∧ (∀ n, rdByte (setUpf s r u) n = rdByte s n) := by
  refine ⟨fun _ _ => rfl, fun _ => rfl, fun _ => rfl, fun _ _ => rfl, fun _ => rfl, fun _ => rfl, fun _ => rfl, fun _ _ => rfl, fun _ _ => rfl, fun _ => rfl, fun _ => rfl, fun _ => rfl, fun _ => rfl, fun _ => rfl⟩

@[simp] theorem setDig_fields (s : State) (r : Nat) (g : Dig) :
    (setDig s r g).pending = s.pending ∧ (setDig s r g).free = s.free ∧ (setDig s r g).time = s.time ∧
    (setDig s r g).timeRuns = s.timeRuns ∧ (setDig s r g).mem = s.mem ∧ (setDig s r g).bad = s.bad ∧
    (setDig s r g).regs = s.regs ∧ (setDig s r g).cntIdx = s.cntIdx ∧ (setDig s r g).ctrs = s.ctrs ∧
    (setDig s r g).msixTable = s.msixTable ∧ (setDig s r g).msixPend = s.msixPend ∧
    (setDig s r g).msixSent = s.msixSent ∧ (setDig s r g).nextId = s.nextId ∧ (setDig s r g).hqs = s.hqs ∧
    (setDig s r g).engs = s.engs ∧ (setDig s r g).ctxs = s.ctxs ∧ (setDig s r g).turn = s.turn ∧
    (setDig s r g).traces = s.traces ∧ (setDig s r g).traceFrozen = s.traceFrozen ∧
    (setDig s r g).tracePkts = s.tracePkts ∧ (setDig s r g).reply = s.reply ∧ (setDig s r g).saves = s.saves ∧
    (setDig s r g).aolWritten = s.aolWritten ∧ (setDig s r g).cxlUp = s.cxlUp ∧
    (setDig s r g).portReleased = s.portReleased ∧ (setDig s r g).fabricOpen = s.fabricOpen ∧
    (setDig s r g).pstate = s.pstate ∧ (setDig s r g).halted = s.halted ∧ (setDig s r g).tierPorts = s.tierPorts ∧
    (setDig s r g).tierGib = s.tierGib ∧ (setDig s r g).tierDown = s.tierDown ∧
    (setDig s r g).tierTraining = s.tierTraining ∧ (setDig s r g).mxas = s.mxas ∧ (setDig s r g).vens = s.vens ∧
    (setDig s r g).outChs = s.outChs ∧ (setDig s r g).inChs = s.inChs ∧ (setDig s r g).pses = s.pses ∧
    (setDig s r g).upfs = s.upfs ∧ (setDig s r g).notices = s.notices ∧ (setDig s r g).mboxHeld = s.mboxHeld ∧
    (setDig s r g).landReports = s.landReports ∧ (setDig s r g).repairOut = s.repairOut ∧
    (setDig s r g).lnks = s.lnks ∧ (setDig s r g).rxStreams = s.rxStreams ∧ (setDig s r g).puts = s.puts ∧
    (setDig s r g).putWait = s.putWait ∧ (setDig s r g).reshard = s.reshard ∧ (setDig s r g).gxes = s.gxes ∧
    (setDig s r g).hdm = s.hdm ∧ (setDig s r g).zeroing = s.zeroing ∧ (setDig s r g).thawing = s.thawing ∧
    (setDig s r g).pwr = s.pwr ∧ (setDig s r g).sec = s.sec ∧ (setDig s r g).fuses = s.fuses ∧
    (setDig s r g).nonceNo = s.nonceNo ∧ (setDig s r g).vaon = s.vaon ∧ (setDig s r g).aolMeas = s.aolMeas ∧
    (setDig s r g).owed = s.owed ∧ (setDig s r g).resetWait = s.resetWait ∧ (setDig s r g).bundles = s.bundles ∧
    (setDig s r g).cutRoles = s.cutRoles ∧
    (setDig s r g).cxlRef = s.cxlRef ∧ (setDig s r g).actDie = s.actDie := by
  refine ⟨rfl, rfl, rfl, rfl, rfl, rfl, rfl, rfl, rfl, rfl, rfl, rfl, rfl, rfl, rfl, rfl, rfl, rfl, rfl, rfl, rfl, rfl, rfl, rfl, rfl, rfl, rfl, rfl, rfl, rfl, rfl, rfl, rfl, rfl, rfl, rfl, rfl, rfl, rfl, rfl, rfl, rfl, rfl, rfl, rfl, rfl, rfl, rfl, rfl, rfl, rfl, rfl, rfl, rfl, rfl, rfl, rfl, rfl, rfl, rfl, rfl, rfl, rfl⟩

@[simp] theorem setDig_reads (s : State) (r : Nat) (g : Dig) :
    (∀ n y, reg (setDig s r g) n y = reg s n y) ∧ (∀ n, hqOf (setDig s r g) n = hqOf s n) ∧
    (∀ n, engOf (setDig s r g) n = engOf s n) ∧ (∀ n y, ctxOf (setDig s r g) n y = ctxOf s n y) ∧
    (∀ n, mxaOf (setDig s r g) n = mxaOf s n) ∧ (∀ n, venOf (setDig s r g) n = venOf s n) ∧
    (∀ n, traceOf (setDig s r g) n = traceOf s n) ∧ (∀ n y, outOf (setDig s r g) n y = outOf s n y) ∧
    (∀ n y, inOf (setDig s r g) n y = inOf s n y) ∧ (∀ n, pseOf (setDig s r g) n = pseOf s n) ∧
    (∀ n, upfOf (setDig s r g) n = upfOf s n) ∧ (∀ n, lnkOf (setDig s r g) n = lnkOf s n) ∧
    (∀ n, gxeOf (setDig s r g) n = gxeOf s n) ∧ (∀ n, rdByte (setDig s r g) n = rdByte s n) := by
  refine ⟨fun _ _ => rfl, fun _ => rfl, fun _ => rfl, fun _ _ => rfl, fun _ => rfl, fun _ => rfl, fun _ => rfl, fun _ _ => rfl, fun _ _ => rfl, fun _ => rfl, fun _ => rfl, fun _ => rfl, fun _ => rfl, fun _ => rfl⟩

@[simp] theorem setLnk_fields (s : State) (dir : Nat) (l : Lnk) :
    (setLnk s dir l).pending = s.pending ∧ (setLnk s dir l).free = s.free ∧ (setLnk s dir l).time = s.time ∧
    (setLnk s dir l).timeRuns = s.timeRuns ∧ (setLnk s dir l).mem = s.mem ∧ (setLnk s dir l).bad = s.bad ∧
    (setLnk s dir l).regs = s.regs ∧ (setLnk s dir l).cntIdx = s.cntIdx ∧ (setLnk s dir l).ctrs = s.ctrs ∧
    (setLnk s dir l).msixTable = s.msixTable ∧ (setLnk s dir l).msixPend = s.msixPend ∧
    (setLnk s dir l).msixSent = s.msixSent ∧ (setLnk s dir l).nextId = s.nextId ∧ (setLnk s dir l).hqs = s.hqs ∧
    (setLnk s dir l).engs = s.engs ∧ (setLnk s dir l).ctxs = s.ctxs ∧ (setLnk s dir l).turn = s.turn ∧
    (setLnk s dir l).traces = s.traces ∧ (setLnk s dir l).traceFrozen = s.traceFrozen ∧
    (setLnk s dir l).tracePkts = s.tracePkts ∧ (setLnk s dir l).reply = s.reply ∧
    (setLnk s dir l).saves = s.saves ∧ (setLnk s dir l).aolWritten = s.aolWritten ∧
    (setLnk s dir l).cxlUp = s.cxlUp ∧ (setLnk s dir l).portReleased = s.portReleased ∧
    (setLnk s dir l).fabricOpen = s.fabricOpen ∧ (setLnk s dir l).pstate = s.pstate ∧
    (setLnk s dir l).halted = s.halted ∧ (setLnk s dir l).tierPorts = s.tierPorts ∧
    (setLnk s dir l).tierGib = s.tierGib ∧ (setLnk s dir l).tierDown = s.tierDown ∧
    (setLnk s dir l).tierTraining = s.tierTraining ∧ (setLnk s dir l).mxas = s.mxas ∧
    (setLnk s dir l).vens = s.vens ∧ (setLnk s dir l).outChs = s.outChs ∧ (setLnk s dir l).inChs = s.inChs ∧
    (setLnk s dir l).pses = s.pses ∧ (setLnk s dir l).upfs = s.upfs ∧ (setLnk s dir l).digs = s.digs ∧
    (setLnk s dir l).notices = s.notices ∧ (setLnk s dir l).mboxHeld = s.mboxHeld ∧
    (setLnk s dir l).landReports = s.landReports ∧ (setLnk s dir l).repairOut = s.repairOut ∧
    (setLnk s dir l).rxStreams = s.rxStreams ∧ (setLnk s dir l).puts = s.puts ∧
    (setLnk s dir l).putWait = s.putWait ∧ (setLnk s dir l).reshard = s.reshard ∧ (setLnk s dir l).gxes = s.gxes ∧
    (setLnk s dir l).hdm = s.hdm ∧ (setLnk s dir l).zeroing = s.zeroing ∧ (setLnk s dir l).thawing = s.thawing ∧
    (setLnk s dir l).pwr = s.pwr ∧ (setLnk s dir l).sec = s.sec ∧ (setLnk s dir l).fuses = s.fuses ∧
    (setLnk s dir l).nonceNo = s.nonceNo ∧ (setLnk s dir l).vaon = s.vaon ∧ (setLnk s dir l).aolMeas = s.aolMeas ∧
    (setLnk s dir l).owed = s.owed ∧ (setLnk s dir l).resetWait = s.resetWait ∧
    (setLnk s dir l).bundles = s.bundles ∧ (setLnk s dir l).cutRoles = s.cutRoles ∧
    (setLnk s dir l).cxlRef = s.cxlRef ∧
    (setLnk s dir l).actDie = s.actDie := by
  refine ⟨rfl, rfl, rfl, rfl, rfl, rfl, rfl, rfl, rfl, rfl, rfl, rfl, rfl, rfl, rfl, rfl, rfl, rfl, rfl, rfl, rfl, rfl, rfl, rfl, rfl, rfl, rfl, rfl, rfl, rfl, rfl, rfl, rfl, rfl, rfl, rfl, rfl, rfl, rfl, rfl, rfl, rfl, rfl, rfl, rfl, rfl, rfl, rfl, rfl, rfl, rfl, rfl, rfl, rfl, rfl, rfl, rfl, rfl, rfl, rfl, rfl, rfl, rfl⟩

@[simp] theorem setLnk_reads (s : State) (dir : Nat) (l : Lnk) :
    (∀ n y, reg (setLnk s dir l) n y = reg s n y) ∧ (∀ n, hqOf (setLnk s dir l) n = hqOf s n) ∧
    (∀ n, engOf (setLnk s dir l) n = engOf s n) ∧ (∀ n y, ctxOf (setLnk s dir l) n y = ctxOf s n y) ∧
    (∀ n, mxaOf (setLnk s dir l) n = mxaOf s n) ∧ (∀ n, venOf (setLnk s dir l) n = venOf s n) ∧
    (∀ n, traceOf (setLnk s dir l) n = traceOf s n) ∧ (∀ n y, outOf (setLnk s dir l) n y = outOf s n y) ∧
    (∀ n y, inOf (setLnk s dir l) n y = inOf s n y) ∧ (∀ n, pseOf (setLnk s dir l) n = pseOf s n) ∧
    (∀ n, upfOf (setLnk s dir l) n = upfOf s n) ∧ (∀ n, digOf (setLnk s dir l) n = digOf s n) ∧
    (∀ n, gxeOf (setLnk s dir l) n = gxeOf s n) ∧ (∀ n, rdByte (setLnk s dir l) n = rdByte s n) := by
  refine ⟨fun _ _ => rfl, fun _ => rfl, fun _ => rfl, fun _ _ => rfl, fun _ => rfl, fun _ => rfl, fun _ => rfl, fun _ _ => rfl, fun _ _ => rfl, fun _ => rfl, fun _ => rfl, fun _ => rfl, fun _ => rfl, fun _ => rfl⟩

@[simp] theorem setGxe_fields (s : State) (j : Nat) (g : Gxe) :
    (setGxe s j g).pending = s.pending ∧ (setGxe s j g).free = s.free ∧ (setGxe s j g).time = s.time ∧
    (setGxe s j g).timeRuns = s.timeRuns ∧ (setGxe s j g).mem = s.mem ∧ (setGxe s j g).bad = s.bad ∧
    (setGxe s j g).regs = s.regs ∧ (setGxe s j g).cntIdx = s.cntIdx ∧ (setGxe s j g).ctrs = s.ctrs ∧
    (setGxe s j g).msixTable = s.msixTable ∧ (setGxe s j g).msixPend = s.msixPend ∧
    (setGxe s j g).msixSent = s.msixSent ∧ (setGxe s j g).nextId = s.nextId ∧ (setGxe s j g).hqs = s.hqs ∧
    (setGxe s j g).engs = s.engs ∧ (setGxe s j g).ctxs = s.ctxs ∧ (setGxe s j g).turn = s.turn ∧
    (setGxe s j g).traces = s.traces ∧ (setGxe s j g).traceFrozen = s.traceFrozen ∧
    (setGxe s j g).tracePkts = s.tracePkts ∧ (setGxe s j g).reply = s.reply ∧ (setGxe s j g).saves = s.saves ∧
    (setGxe s j g).aolWritten = s.aolWritten ∧ (setGxe s j g).cxlUp = s.cxlUp ∧
    (setGxe s j g).portReleased = s.portReleased ∧ (setGxe s j g).fabricOpen = s.fabricOpen ∧
    (setGxe s j g).pstate = s.pstate ∧ (setGxe s j g).halted = s.halted ∧ (setGxe s j g).tierPorts = s.tierPorts ∧
    (setGxe s j g).tierGib = s.tierGib ∧ (setGxe s j g).tierDown = s.tierDown ∧
    (setGxe s j g).tierTraining = s.tierTraining ∧ (setGxe s j g).mxas = s.mxas ∧ (setGxe s j g).vens = s.vens ∧
    (setGxe s j g).outChs = s.outChs ∧ (setGxe s j g).inChs = s.inChs ∧ (setGxe s j g).pses = s.pses ∧
    (setGxe s j g).upfs = s.upfs ∧ (setGxe s j g).digs = s.digs ∧ (setGxe s j g).notices = s.notices ∧
    (setGxe s j g).mboxHeld = s.mboxHeld ∧ (setGxe s j g).landReports = s.landReports ∧
    (setGxe s j g).repairOut = s.repairOut ∧ (setGxe s j g).lnks = s.lnks ∧
    (setGxe s j g).rxStreams = s.rxStreams ∧ (setGxe s j g).puts = s.puts ∧ (setGxe s j g).putWait = s.putWait ∧
    (setGxe s j g).reshard = s.reshard ∧ (setGxe s j g).hdm = s.hdm ∧ (setGxe s j g).zeroing = s.zeroing ∧
    (setGxe s j g).thawing = s.thawing ∧ (setGxe s j g).pwr = s.pwr ∧ (setGxe s j g).sec = s.sec ∧
    (setGxe s j g).fuses = s.fuses ∧ (setGxe s j g).nonceNo = s.nonceNo ∧ (setGxe s j g).vaon = s.vaon ∧
    (setGxe s j g).aolMeas = s.aolMeas ∧ (setGxe s j g).owed = s.owed ∧ (setGxe s j g).resetWait = s.resetWait ∧
    (setGxe s j g).bundles = s.bundles ∧ (setGxe s j g).cutRoles = s.cutRoles ∧
    (setGxe s j g).cxlRef = s.cxlRef ∧ (setGxe s j g).actDie = s.actDie := by
  refine ⟨rfl, rfl, rfl, rfl, rfl, rfl, rfl, rfl, rfl, rfl, rfl, rfl, rfl, rfl, rfl, rfl, rfl, rfl, rfl, rfl, rfl, rfl, rfl, rfl, rfl, rfl, rfl, rfl, rfl, rfl, rfl, rfl, rfl, rfl, rfl, rfl, rfl, rfl, rfl, rfl, rfl, rfl, rfl, rfl, rfl, rfl, rfl, rfl, rfl, rfl, rfl, rfl, rfl, rfl, rfl, rfl, rfl, rfl, rfl, rfl, rfl, rfl, rfl⟩

@[simp] theorem setGxe_reads (s : State) (j : Nat) (g : Gxe) :
    (∀ n y, reg (setGxe s j g) n y = reg s n y) ∧ (∀ n, hqOf (setGxe s j g) n = hqOf s n) ∧
    (∀ n, engOf (setGxe s j g) n = engOf s n) ∧ (∀ n y, ctxOf (setGxe s j g) n y = ctxOf s n y) ∧
    (∀ n, mxaOf (setGxe s j g) n = mxaOf s n) ∧ (∀ n, venOf (setGxe s j g) n = venOf s n) ∧
    (∀ n, traceOf (setGxe s j g) n = traceOf s n) ∧ (∀ n y, outOf (setGxe s j g) n y = outOf s n y) ∧
    (∀ n y, inOf (setGxe s j g) n y = inOf s n y) ∧ (∀ n, pseOf (setGxe s j g) n = pseOf s n) ∧
    (∀ n, upfOf (setGxe s j g) n = upfOf s n) ∧ (∀ n, digOf (setGxe s j g) n = digOf s n) ∧
    (∀ n, lnkOf (setGxe s j g) n = lnkOf s n) ∧ (∀ n, rdByte (setGxe s j g) n = rdByte s n) := by
  refine ⟨fun _ _ => rfl, fun _ => rfl, fun _ => rfl, fun _ _ => rfl, fun _ => rfl, fun _ => rfl, fun _ => rfl, fun _ _ => rfl, fun _ _ => rfl, fun _ => rfl, fun _ => rfl, fun _ => rfl, fun _ => rfl, fun _ => rfl⟩

@[simp] theorem wrMem_fields (s : State) (a : Nat) (bs : List Byte) :
    (wrMem s a bs).pending = s.pending ∧ (wrMem s a bs).free = s.free ∧ (wrMem s a bs).time = s.time ∧
    (wrMem s a bs).timeRuns = s.timeRuns ∧ (wrMem s a bs).regs = s.regs ∧ (wrMem s a bs).cntIdx = s.cntIdx ∧
    (wrMem s a bs).ctrs = s.ctrs ∧ (wrMem s a bs).msixTable = s.msixTable ∧ (wrMem s a bs).msixPend = s.msixPend ∧
    (wrMem s a bs).msixSent = s.msixSent ∧ (wrMem s a bs).nextId = s.nextId ∧ (wrMem s a bs).hqs = s.hqs ∧
    (wrMem s a bs).engs = s.engs ∧ (wrMem s a bs).ctxs = s.ctxs ∧ (wrMem s a bs).turn = s.turn ∧
    (wrMem s a bs).traces = s.traces ∧ (wrMem s a bs).traceFrozen = s.traceFrozen ∧
    (wrMem s a bs).tracePkts = s.tracePkts ∧ (wrMem s a bs).reply = s.reply ∧ (wrMem s a bs).saves = s.saves ∧
    (wrMem s a bs).aolWritten = s.aolWritten ∧ (wrMem s a bs).cxlUp = s.cxlUp ∧
    (wrMem s a bs).portReleased = s.portReleased ∧ (wrMem s a bs).fabricOpen = s.fabricOpen ∧
    (wrMem s a bs).pstate = s.pstate ∧ (wrMem s a bs).halted = s.halted ∧ (wrMem s a bs).tierPorts = s.tierPorts ∧
    (wrMem s a bs).tierGib = s.tierGib ∧ (wrMem s a bs).tierDown = s.tierDown ∧
    (wrMem s a bs).tierTraining = s.tierTraining ∧ (wrMem s a bs).mxas = s.mxas ∧ (wrMem s a bs).vens = s.vens ∧
    (wrMem s a bs).outChs = s.outChs ∧ (wrMem s a bs).inChs = s.inChs ∧ (wrMem s a bs).pses = s.pses ∧
    (wrMem s a bs).upfs = s.upfs ∧ (wrMem s a bs).digs = s.digs ∧ (wrMem s a bs).notices = s.notices ∧
    (wrMem s a bs).mboxHeld = s.mboxHeld ∧ (wrMem s a bs).landReports = s.landReports ∧
    (wrMem s a bs).repairOut = s.repairOut ∧ (wrMem s a bs).lnks = s.lnks ∧
    (wrMem s a bs).rxStreams = s.rxStreams ∧ (wrMem s a bs).puts = s.puts ∧ (wrMem s a bs).putWait = s.putWait ∧
    (wrMem s a bs).reshard = s.reshard ∧ (wrMem s a bs).gxes = s.gxes ∧ (wrMem s a bs).hdm = s.hdm ∧
    (wrMem s a bs).zeroing = s.zeroing ∧ (wrMem s a bs).thawing = s.thawing ∧ (wrMem s a bs).pwr = s.pwr ∧
    (wrMem s a bs).sec = s.sec ∧ (wrMem s a bs).fuses = s.fuses ∧ (wrMem s a bs).nonceNo = s.nonceNo ∧
    (wrMem s a bs).vaon = s.vaon ∧ (wrMem s a bs).aolMeas = s.aolMeas ∧ (wrMem s a bs).owed = s.owed ∧
    (wrMem s a bs).resetWait = s.resetWait ∧ (wrMem s a bs).bundles = s.bundles ∧
    (wrMem s a bs).cutRoles = s.cutRoles ∧
    (wrMem s a bs).cxlRef = s.cxlRef ∧ (wrMem s a bs).actDie = s.actDie := by
  refine ⟨rfl, rfl, rfl, rfl, rfl, rfl, rfl, rfl, rfl, rfl, rfl, rfl, rfl, rfl, rfl, rfl, rfl, rfl, rfl, rfl, rfl, rfl, rfl, rfl, rfl, rfl, rfl, rfl, rfl, rfl, rfl, rfl, rfl, rfl, rfl, rfl, rfl, rfl, rfl, rfl, rfl, rfl, rfl, rfl, rfl, rfl, rfl, rfl, rfl, rfl, rfl, rfl, rfl, rfl, rfl, rfl, rfl, rfl, rfl, rfl, rfl, rfl⟩

@[simp] theorem wrMem_reads (s : State) (a : Nat) (bs : List Byte) :
    (∀ n y, reg (wrMem s a bs) n y = reg s n y) ∧ (∀ n, hqOf (wrMem s a bs) n = hqOf s n) ∧
    (∀ n, engOf (wrMem s a bs) n = engOf s n) ∧ (∀ n y, ctxOf (wrMem s a bs) n y = ctxOf s n y) ∧
    (∀ n, mxaOf (wrMem s a bs) n = mxaOf s n) ∧ (∀ n, venOf (wrMem s a bs) n = venOf s n) ∧
    (∀ n, traceOf (wrMem s a bs) n = traceOf s n) ∧ (∀ n y, outOf (wrMem s a bs) n y = outOf s n y) ∧
    (∀ n y, inOf (wrMem s a bs) n y = inOf s n y) ∧ (∀ n, pseOf (wrMem s a bs) n = pseOf s n) ∧
    (∀ n, upfOf (wrMem s a bs) n = upfOf s n) ∧ (∀ n, digOf (wrMem s a bs) n = digOf s n) ∧
    (∀ n, lnkOf (wrMem s a bs) n = lnkOf s n) ∧ (∀ n, gxeOf (wrMem s a bs) n = gxeOf s n) := by
  refine ⟨fun _ _ => rfl, fun _ => rfl, fun _ => rfl, fun _ _ => rfl, fun _ => rfl, fun _ => rfl, fun _ => rfl, fun _ _ => rfl, fun _ _ => rfl, fun _ => rfl, fun _ => rfl, fun _ => rfl, fun _ => rfl, fun _ => rfl⟩

@[simp] theorem wipe_fields (s : State) (lo n : Nat) :
    (wipe s lo n).pending = s.pending ∧ (wipe s lo n).free = s.free ∧ (wipe s lo n).time = s.time ∧
    (wipe s lo n).timeRuns = s.timeRuns ∧ (wipe s lo n).regs = s.regs ∧ (wipe s lo n).cntIdx = s.cntIdx ∧
    (wipe s lo n).ctrs = s.ctrs ∧ (wipe s lo n).msixTable = s.msixTable ∧ (wipe s lo n).msixPend = s.msixPend ∧
    (wipe s lo n).msixSent = s.msixSent ∧ (wipe s lo n).nextId = s.nextId ∧ (wipe s lo n).hqs = s.hqs ∧
    (wipe s lo n).engs = s.engs ∧ (wipe s lo n).ctxs = s.ctxs ∧ (wipe s lo n).turn = s.turn ∧
    (wipe s lo n).traces = s.traces ∧ (wipe s lo n).traceFrozen = s.traceFrozen ∧
    (wipe s lo n).tracePkts = s.tracePkts ∧ (wipe s lo n).reply = s.reply ∧ (wipe s lo n).saves = s.saves ∧
    (wipe s lo n).aolWritten = s.aolWritten ∧ (wipe s lo n).cxlUp = s.cxlUp ∧
    (wipe s lo n).portReleased = s.portReleased ∧ (wipe s lo n).fabricOpen = s.fabricOpen ∧
    (wipe s lo n).pstate = s.pstate ∧ (wipe s lo n).halted = s.halted ∧ (wipe s lo n).tierPorts = s.tierPorts ∧
    (wipe s lo n).tierGib = s.tierGib ∧ (wipe s lo n).tierDown = s.tierDown ∧
    (wipe s lo n).tierTraining = s.tierTraining ∧ (wipe s lo n).mxas = s.mxas ∧ (wipe s lo n).vens = s.vens ∧
    (wipe s lo n).outChs = s.outChs ∧ (wipe s lo n).inChs = s.inChs ∧ (wipe s lo n).pses = s.pses ∧
    (wipe s lo n).upfs = s.upfs ∧ (wipe s lo n).digs = s.digs ∧ (wipe s lo n).notices = s.notices ∧
    (wipe s lo n).mboxHeld = s.mboxHeld ∧ (wipe s lo n).landReports = s.landReports ∧
    (wipe s lo n).repairOut = s.repairOut ∧ (wipe s lo n).lnks = s.lnks ∧ (wipe s lo n).rxStreams = s.rxStreams ∧
    (wipe s lo n).puts = s.puts ∧ (wipe s lo n).putWait = s.putWait ∧ (wipe s lo n).reshard = s.reshard ∧
    (wipe s lo n).gxes = s.gxes ∧ (wipe s lo n).hdm = s.hdm ∧ (wipe s lo n).zeroing = s.zeroing ∧
    (wipe s lo n).thawing = s.thawing ∧ (wipe s lo n).pwr = s.pwr ∧ (wipe s lo n).sec = s.sec ∧
    (wipe s lo n).fuses = s.fuses ∧ (wipe s lo n).nonceNo = s.nonceNo ∧ (wipe s lo n).vaon = s.vaon ∧
    (wipe s lo n).aolMeas = s.aolMeas ∧ (wipe s lo n).owed = s.owed ∧ (wipe s lo n).resetWait = s.resetWait ∧
    (wipe s lo n).bundles = s.bundles ∧ (wipe s lo n).cutRoles = s.cutRoles ∧
    (wipe s lo n).cxlRef = s.cxlRef ∧ (wipe s lo n).actDie = s.actDie := by
  refine ⟨rfl, rfl, rfl, rfl, rfl, rfl, rfl, rfl, rfl, rfl, rfl, rfl, rfl, rfl, rfl, rfl, rfl, rfl, rfl, rfl, rfl, rfl, rfl, rfl, rfl, rfl, rfl, rfl, rfl, rfl, rfl, rfl, rfl, rfl, rfl, rfl, rfl, rfl, rfl, rfl, rfl, rfl, rfl, rfl, rfl, rfl, rfl, rfl, rfl, rfl, rfl, rfl, rfl, rfl, rfl, rfl, rfl, rfl, rfl, rfl, rfl, rfl⟩

@[simp] theorem wipe_reads (s : State) (lo n : Nat) :
    (∀ n y, reg (wipe s lo n) n y = reg s n y) ∧ (∀ n, hqOf (wipe s lo n) n = hqOf s n) ∧
    (∀ n, engOf (wipe s lo n) n = engOf s n) ∧ (∀ n y, ctxOf (wipe s lo n) n y = ctxOf s n y) ∧
    (∀ n, mxaOf (wipe s lo n) n = mxaOf s n) ∧ (∀ n, venOf (wipe s lo n) n = venOf s n) ∧
    (∀ n, traceOf (wipe s lo n) n = traceOf s n) ∧ (∀ n y, outOf (wipe s lo n) n y = outOf s n y) ∧
    (∀ n y, inOf (wipe s lo n) n y = inOf s n y) ∧ (∀ n, pseOf (wipe s lo n) n = pseOf s n) ∧
    (∀ n, upfOf (wipe s lo n) n = upfOf s n) ∧ (∀ n, digOf (wipe s lo n) n = digOf s n) ∧
    (∀ n, lnkOf (wipe s lo n) n = lnkOf s n) ∧ (∀ n, gxeOf (wipe s lo n) n = gxeOf s n) := by
  refine ⟨fun _ _ => rfl, fun _ => rfl, fun _ => rfl, fun _ _ => rfl, fun _ => rfl, fun _ => rfl, fun _ => rfl, fun _ _ => rfl, fun _ _ => rfl, fun _ => rfl, fun _ => rfl, fun _ => rfl, fun _ => rfl, fun _ => rfl⟩

@[simp] theorem spoil_fields (s : State) (a : Nat) :
    (spoil s a).pending = s.pending ∧ (spoil s a).free = s.free ∧ (spoil s a).time = s.time ∧
    (spoil s a).timeRuns = s.timeRuns ∧ (spoil s a).mem = s.mem ∧ (spoil s a).regs = s.regs ∧
    (spoil s a).cntIdx = s.cntIdx ∧ (spoil s a).ctrs = s.ctrs ∧ (spoil s a).msixTable = s.msixTable ∧
    (spoil s a).msixPend = s.msixPend ∧ (spoil s a).msixSent = s.msixSent ∧ (spoil s a).nextId = s.nextId ∧
    (spoil s a).hqs = s.hqs ∧ (spoil s a).engs = s.engs ∧ (spoil s a).ctxs = s.ctxs ∧ (spoil s a).turn = s.turn ∧
    (spoil s a).traces = s.traces ∧ (spoil s a).traceFrozen = s.traceFrozen ∧ (spoil s a).tracePkts = s.tracePkts ∧
    (spoil s a).reply = s.reply ∧ (spoil s a).saves = s.saves ∧ (spoil s a).aolWritten = s.aolWritten ∧
    (spoil s a).cxlUp = s.cxlUp ∧ (spoil s a).portReleased = s.portReleased ∧
    (spoil s a).fabricOpen = s.fabricOpen ∧ (spoil s a).pstate = s.pstate ∧ (spoil s a).halted = s.halted ∧
    (spoil s a).tierPorts = s.tierPorts ∧ (spoil s a).tierGib = s.tierGib ∧ (spoil s a).tierDown = s.tierDown ∧
    (spoil s a).tierTraining = s.tierTraining ∧ (spoil s a).mxas = s.mxas ∧ (spoil s a).vens = s.vens ∧
    (spoil s a).outChs = s.outChs ∧ (spoil s a).inChs = s.inChs ∧ (spoil s a).pses = s.pses ∧
    (spoil s a).upfs = s.upfs ∧ (spoil s a).digs = s.digs ∧ (spoil s a).notices = s.notices ∧
    (spoil s a).mboxHeld = s.mboxHeld ∧ (spoil s a).landReports = s.landReports ∧
    (spoil s a).repairOut = s.repairOut ∧ (spoil s a).lnks = s.lnks ∧ (spoil s a).rxStreams = s.rxStreams ∧
    (spoil s a).puts = s.puts ∧ (spoil s a).putWait = s.putWait ∧ (spoil s a).reshard = s.reshard ∧
    (spoil s a).gxes = s.gxes ∧ (spoil s a).hdm = s.hdm ∧ (spoil s a).zeroing = s.zeroing ∧
    (spoil s a).thawing = s.thawing ∧ (spoil s a).pwr = s.pwr ∧ (spoil s a).sec = s.sec ∧
    (spoil s a).fuses = s.fuses ∧ (spoil s a).nonceNo = s.nonceNo ∧ (spoil s a).vaon = s.vaon ∧
    (spoil s a).aolMeas = s.aolMeas ∧ (spoil s a).owed = s.owed ∧ (spoil s a).resetWait = s.resetWait ∧
    (spoil s a).bundles = s.bundles ∧ (spoil s a).cutRoles = s.cutRoles ∧
    (spoil s a).cxlRef = s.cxlRef ∧ (spoil s a).actDie = s.actDie := by
  refine ⟨rfl, rfl, rfl, rfl, rfl, rfl, rfl, rfl, rfl, rfl, rfl, rfl, rfl, rfl, rfl, rfl, rfl, rfl, rfl, rfl, rfl, rfl, rfl, rfl, rfl, rfl, rfl, rfl, rfl, rfl, rfl, rfl, rfl, rfl, rfl, rfl, rfl, rfl, rfl, rfl, rfl, rfl, rfl, rfl, rfl, rfl, rfl, rfl, rfl, rfl, rfl, rfl, rfl, rfl, rfl, rfl, rfl, rfl, rfl, rfl, rfl, rfl, rfl⟩

@[simp] theorem spoil_reads (s : State) (a : Nat) :
    (∀ n y, reg (spoil s a) n y = reg s n y) ∧ (∀ n, hqOf (spoil s a) n = hqOf s n) ∧
    (∀ n, engOf (spoil s a) n = engOf s n) ∧ (∀ n y, ctxOf (spoil s a) n y = ctxOf s n y) ∧
    (∀ n, mxaOf (spoil s a) n = mxaOf s n) ∧ (∀ n, venOf (spoil s a) n = venOf s n) ∧
    (∀ n, traceOf (spoil s a) n = traceOf s n) ∧ (∀ n y, outOf (spoil s a) n y = outOf s n y) ∧
    (∀ n y, inOf (spoil s a) n y = inOf s n y) ∧ (∀ n, pseOf (spoil s a) n = pseOf s n) ∧
    (∀ n, upfOf (spoil s a) n = upfOf s n) ∧ (∀ n, digOf (spoil s a) n = digOf s n) ∧
    (∀ n, lnkOf (spoil s a) n = lnkOf s n) ∧ (∀ n, gxeOf (spoil s a) n = gxeOf s n) ∧
    (∀ n, rdByte (spoil s a) n = rdByte s n) := by
  refine ⟨fun _ _ => rfl, fun _ => rfl, fun _ => rfl, fun _ _ => rfl, fun _ => rfl, fun _ => rfl, fun _ => rfl, fun _ _ => rfl, fun _ _ => rfl, fun _ => rfl, fun _ => rfl, fun _ => rfl, fun _ => rfl, fun _ => rfl, fun _ => rfl⟩

@[simp] theorem bumpNs_fields (s : State) (page i n : Nat) :
    (bumpNs s page i n).pending = s.pending ∧ (bumpNs s page i n).free = s.free ∧
    (bumpNs s page i n).time = s.time ∧ (bumpNs s page i n).timeRuns = s.timeRuns ∧
    (bumpNs s page i n).mem = s.mem ∧ (bumpNs s page i n).bad = s.bad ∧ (bumpNs s page i n).regs = s.regs ∧
    (bumpNs s page i n).cntIdx = s.cntIdx ∧ (bumpNs s page i n).msixTable = s.msixTable ∧
    (bumpNs s page i n).msixPend = s.msixPend ∧ (bumpNs s page i n).msixSent = s.msixSent ∧
    (bumpNs s page i n).nextId = s.nextId ∧ (bumpNs s page i n).hqs = s.hqs ∧ (bumpNs s page i n).engs = s.engs ∧
    (bumpNs s page i n).ctxs = s.ctxs ∧ (bumpNs s page i n).turn = s.turn ∧ (bumpNs s page i n).traces = s.traces ∧
    (bumpNs s page i n).traceFrozen = s.traceFrozen ∧ (bumpNs s page i n).tracePkts = s.tracePkts ∧
    (bumpNs s page i n).reply = s.reply ∧ (bumpNs s page i n).saves = s.saves ∧
    (bumpNs s page i n).aolWritten = s.aolWritten ∧ (bumpNs s page i n).cxlUp = s.cxlUp ∧
    (bumpNs s page i n).portReleased = s.portReleased ∧ (bumpNs s page i n).fabricOpen = s.fabricOpen ∧
    (bumpNs s page i n).pstate = s.pstate ∧ (bumpNs s page i n).halted = s.halted ∧
    (bumpNs s page i n).tierPorts = s.tierPorts ∧ (bumpNs s page i n).tierGib = s.tierGib ∧
    (bumpNs s page i n).tierDown = s.tierDown ∧ (bumpNs s page i n).tierTraining = s.tierTraining ∧
    (bumpNs s page i n).mxas = s.mxas ∧ (bumpNs s page i n).vens = s.vens ∧ (bumpNs s page i n).outChs = s.outChs ∧
    (bumpNs s page i n).inChs = s.inChs ∧ (bumpNs s page i n).pses = s.pses ∧ (bumpNs s page i n).upfs = s.upfs ∧
    (bumpNs s page i n).digs = s.digs ∧ (bumpNs s page i n).notices = s.notices ∧
    (bumpNs s page i n).mboxHeld = s.mboxHeld ∧ (bumpNs s page i n).landReports = s.landReports ∧
    (bumpNs s page i n).repairOut = s.repairOut ∧ (bumpNs s page i n).lnks = s.lnks ∧
    (bumpNs s page i n).rxStreams = s.rxStreams ∧ (bumpNs s page i n).puts = s.puts ∧
    (bumpNs s page i n).putWait = s.putWait ∧ (bumpNs s page i n).reshard = s.reshard ∧
    (bumpNs s page i n).gxes = s.gxes ∧ (bumpNs s page i n).hdm = s.hdm ∧ (bumpNs s page i n).zeroing = s.zeroing ∧
    (bumpNs s page i n).thawing = s.thawing ∧ (bumpNs s page i n).pwr = s.pwr ∧ (bumpNs s page i n).sec = s.sec ∧
    (bumpNs s page i n).fuses = s.fuses ∧ (bumpNs s page i n).nonceNo = s.nonceNo ∧
    (bumpNs s page i n).vaon = s.vaon ∧ (bumpNs s page i n).aolMeas = s.aolMeas ∧
    (bumpNs s page i n).owed = s.owed ∧ (bumpNs s page i n).resetWait = s.resetWait ∧
    (bumpNs s page i n).bundles = s.bundles ∧ (bumpNs s page i n).cutRoles = s.cutRoles ∧
    (bumpNs s page i n).cxlRef = s.cxlRef ∧
    (bumpNs s page i n).actDie = s.actDie := by
  refine ⟨rfl, rfl, rfl, rfl, rfl, rfl, rfl, rfl, rfl, rfl, rfl, rfl, rfl, rfl, rfl, rfl, rfl, rfl, rfl, rfl, rfl, rfl, rfl, rfl, rfl, rfl, rfl, rfl, rfl, rfl, rfl, rfl, rfl, rfl, rfl, rfl, rfl, rfl, rfl, rfl, rfl, rfl, rfl, rfl, rfl, rfl, rfl, rfl, rfl, rfl, rfl, rfl, rfl, rfl, rfl, rfl, rfl, rfl, rfl, rfl, rfl, rfl, rfl⟩

@[simp] theorem bumpNs_reads (s : State) (page i n : Nat) :
    (∀ n y, reg (bumpNs s page i n) n y = reg s n y) ∧ (∀ n, hqOf (bumpNs s page i n) n = hqOf s n) ∧
    (∀ n, engOf (bumpNs s page i n) n = engOf s n) ∧ (∀ n y, ctxOf (bumpNs s page i n) n y = ctxOf s n y) ∧
    (∀ n, mxaOf (bumpNs s page i n) n = mxaOf s n) ∧ (∀ n, venOf (bumpNs s page i n) n = venOf s n) ∧
    (∀ n, traceOf (bumpNs s page i n) n = traceOf s n) ∧ (∀ n y, outOf (bumpNs s page i n) n y = outOf s n y) ∧
    (∀ n y, inOf (bumpNs s page i n) n y = inOf s n y) ∧ (∀ n, pseOf (bumpNs s page i n) n = pseOf s n) ∧
    (∀ n, upfOf (bumpNs s page i n) n = upfOf s n) ∧ (∀ n, digOf (bumpNs s page i n) n = digOf s n) ∧
    (∀ n, lnkOf (bumpNs s page i n) n = lnkOf s n) ∧ (∀ n, gxeOf (bumpNs s page i n) n = gxeOf s n) ∧
    (∀ n, rdByte (bumpNs s page i n) n = rdByte s n) := by
  refine ⟨fun _ _ => rfl, fun _ => rfl, fun _ => rfl, fun _ _ => rfl, fun _ => rfl, fun _ => rfl, fun _ => rfl, fun _ _ => rfl, fun _ _ => rfl, fun _ => rfl, fun _ => rfl, fun _ => rfl, fun _ => rfl, fun _ => rfl, fun _ => rfl⟩

/-! ### The acting die and the queue -/

@[simp] theorem setDie_setDie (s : State) (d e : Nat) : setDie (setDie s d) e = setDie s e := rfl
@[simp] theorem setPending_setPending (s : State) (q r : List Instr) : setPending (setPending s q) r = setPending s r := rfl
@[simp] theorem setPending_self (s : State) : setPending s s.pending = s := rfl
@[simp] theorem setPending_setDie (s : State) (d : Nat) (q : List Instr) : setPending (setDie s d) q = setDie (setPending s q) d := rfl
@[simp] theorem setPending_of_eq {s : State} {q : List Instr} (h : s.pending = q) : setPending s q = s := by subst h; rfl
theorem setDie_of_eq {s : State} {d : Nat} (h : s.actDie = d) : setDie s d = s := by subst h; rfl
@[simp] theorem setReg_setDie (s : State) (page off v : Nat) (d : Nat) : setReg (setDie s d) page off v = setDie (setReg s page off v) d := rfl
@[simp] theorem setReg_setPending (s : State) (page off v : Nat) (q : List Instr) : setReg (setPending s q) page off v = setPending (setReg s page off v) q := rfl
@[simp] theorem setHq_setDie (s : State) (q0 : Nat) (h : HQueue) (d : Nat) : setHq (setDie s d) q0 h = setDie (setHq s q0 h) d := rfl
@[simp] theorem setHq_setPending (s : State) (q0 : Nat) (h : HQueue) (q : List Instr) : setHq (setPending s q) q0 h = setPending (setHq s q0 h) q := rfl
@[simp] theorem setEng_setDie (s : State) (e : Nat) (x : Engine) (d : Nat) : setEng (setDie s d) e x = setDie (setEng s e x) d := rfl
@[simp] theorem setEng_setPending (s : State) (e : Nat) (x : Engine) (q : List Instr) : setEng (setPending s q) e x = setPending (setEng s e x) q := rfl
@[simp] theorem setCtx_setDie (s : State) (core x : Nat) (c : Ctx) (d : Nat) : setCtx (setDie s d) core x c = setDie (setCtx s core x c) d := rfl
@[simp] theorem setCtx_setPending (s : State) (core x : Nat) (c : Ctx) (q : List Instr) : setCtx (setPending s q) core x c = setPending (setCtx s core x c) q := rfl
@[simp] theorem setMxa_setDie (s : State) (core : Nat) (m : Mxa) (d : Nat) : setMxa (setDie s d) core m = setDie (setMxa s core m) d := rfl
@[simp] theorem setMxa_setPending (s : State) (core : Nat) (m : Mxa) (q : List Instr) : setMxa (setPending s q) core m = setPending (setMxa s core m) q := rfl
@[simp] theorem setVen_setDie (s : State) (core : Nat) (v : Ven) (d : Nat) : setVen (setDie s d) core v = setDie (setVen s core v) d := rfl
@[simp] theorem setVen_setPending (s : State) (core : Nat) (v : Ven) (q : List Instr) : setVen (setPending s q) core v = setPending (setVen s core v) q := rfl
@[simp] theorem setTrace_setDie (s : State) (k : Nat) (t : TraceBuf) (d : Nat) : setTrace (setDie s d) k t = setDie (setTrace s k t) d := rfl
@[simp] theorem setTrace_setPending (s : State) (k : Nat) (t : TraceBuf) (q : List Instr) : setTrace (setPending s q) k t = setPending (setTrace s k t) q := rfl
@[simp] theorem setOut_setDie (s : State) (core o : Nat) (x : OutCh) (d : Nat) : setOut (setDie s d) core o x = setDie (setOut s core o x) d := rfl
@[simp] theorem setOut_setPending (s : State) (core o : Nat) (x : OutCh) (q : List Instr) : setOut (setPending s q) core o x = setPending (setOut s core o x) q := rfl
@[simp] theorem setIn_setDie (s : State) (core i : Nat) (x : InCh) (d : Nat) : setIn (setDie s d) core i x = setDie (setIn s core i x) d := rfl
@[simp] theorem setIn_setPending (s : State) (core i : Nat) (x : InCh) (q : List Instr) : setIn (setPending s q) core i x = setPending (setIn s core i x) q := rfl
@[simp] theorem setPse_setDie (s : State) (r : Nat) (p : Pse) (d : Nat) : setPse (setDie s d) r p = setDie (setPse s r p) d := rfl
@[simp] theorem setPse_setPending (s : State) (r : Nat) (p : Pse) (q : List Instr) : setPse (setPending s q) r p = setPending (setPse s r p) q := rfl
@[simp] theorem setUpf_setDie (s : State) (r : Nat) (u : Upf) (d : Nat) : setUpf (setDie s d) r u = setDie (setUpf s r u) d := rfl
@[simp] theorem setUpf_setPending (s : State) (r : Nat) (u : Upf) (q : List Instr) : setUpf (setPending s q) r u = setPending (setUpf s r u) q := rfl
@[simp] theorem setDig_setDie (s : State) (r : Nat) (g : Dig) (d : Nat) : setDig (setDie s d) r g = setDie (setDig s r g) d := rfl
@[simp] theorem setDig_setPending (s : State) (r : Nat) (g : Dig) (q : List Instr) : setDig (setPending s q) r g = setPending (setDig s r g) q := rfl
@[simp] theorem setLnk_setDie (s : State) (dir : Nat) (l : Lnk) (d : Nat) : setLnk (setDie s d) dir l = setDie (setLnk s dir l) d := rfl
@[simp] theorem setLnk_setPending (s : State) (dir : Nat) (l : Lnk) (q : List Instr) : setLnk (setPending s q) dir l = setPending (setLnk s dir l) q := rfl
@[simp] theorem setGxe_setDie (s : State) (j : Nat) (g : Gxe) (d : Nat) : setGxe (setDie s d) j g = setDie (setGxe s j g) d := rfl
@[simp] theorem setGxe_setPending (s : State) (j : Nat) (g : Gxe) (q : List Instr) : setGxe (setPending s q) j g = setPending (setGxe s j g) q := rfl
@[simp] theorem wrMem_setDie (s : State) (a : Nat) (bs : List Byte) (d : Nat) : wrMem (setDie s d) a bs = setDie (wrMem s a bs) d := rfl
@[simp] theorem wrMem_setPending (s : State) (a : Nat) (bs : List Byte) (q : List Instr) : wrMem (setPending s q) a bs = setPending (wrMem s a bs) q := rfl
@[simp] theorem wipe_setDie (s : State) (lo n : Nat) (d : Nat) : wipe (setDie s d) lo n = setDie (wipe s lo n) d := rfl
@[simp] theorem wipe_setPending (s : State) (lo n : Nat) (q : List Instr) : wipe (setPending s q) lo n = setPending (wipe s lo n) q := rfl
@[simp] theorem spoil_setDie (s : State) (a : Nat) (d : Nat) : spoil (setDie s d) a = setDie (spoil s a) d := rfl
@[simp] theorem spoil_setPending (s : State) (a : Nat) (q : List Instr) : spoil (setPending s q) a = setPending (spoil s a) q := rfl
@[simp] theorem bumpNs_setDie (s : State) (page i n : Nat) (d : Nat) : bumpNs (setDie s d) page i n = setDie (bumpNs s page i n) d := rfl
@[simp] theorem bumpNs_setPending (s : State) (page i n : Nat) (q : List Instr) : bumpNs (setPending s q) page i n = setPending (bumpNs s page i n) q := rfl

/-! ### What an update makes of its own group -/

theorem reg_setReg (s : State) (p o v p' o' : Nat) :
    reg (setReg s p o v) p' o' = if regKey p' o' = regKey p o then v % 2 ^ 64 else reg s p' o' := by
  unfold reg setReg
  simp only
  split
  · rename_i h; rw [h, mapGet_mapPut_same, BitVec.toNat_ofNat]
  · rename_i h; rw [mapGet_mapPut_other h]

@[simp] theorem reg_setReg_same (s : State) (p o v : Nat) : reg (setReg s p o v) p o = v % 2 ^ 64 := by
  rw [reg_setReg, if_pos rfl]

theorem reg_setReg_other (s : State) (p o v p' o' : Nat) (h : regKey p' o' ≠ regKey p o) :
    reg (setReg s p o v) p' o' = reg s p' o' := by
  rw [reg_setReg, if_neg h]

theorem reg_lt (s : State) (p o : Nat) : reg s p o < 2 ^ 64 := (mapGet _ s.regs (regKey p o)).isLt

@[simp] theorem hqOf_setHq (s : State) (q : Nat) (h : HQueue) (q' : Nat) :
    hqOf (setHq s q h) q' = if q' = q then h else hqOf s q' := mapGet_mapPut ..
@[simp] theorem engOf_setEng (s : State) (e : Nat) (x : Engine) (e' : Nat) :
    engOf (setEng s e x) e' = if e' = e then x else engOf s e' := mapGet_mapPut ..
@[simp] theorem ctxOf_setCtx (s : State) (core x : Nat) (c : Ctx) (core' x' : Nat) :
    ctxOf (setCtx s core x c) core' x' = if core' * 4 + x' = core * 4 + x then c else ctxOf s core' x' := mapGet_mapPut ..
@[simp] theorem mxaOf_setMxa (s : State) (k : Nat) (m : Mxa) (k' : Nat) :
    mxaOf (setMxa s k m) k' = if k' = k then m else mxaOf s k' := mapGet_mapPut ..
@[simp] theorem venOf_setVen (s : State) (k : Nat) (v : Ven) (k' : Nat) :
    venOf (setVen s k v) k' = if k' = k then v else venOf s k' := mapGet_mapPut ..
@[simp] theorem traceOf_setTrace (s : State) (k : Nat) (t : TraceBuf) (k' : Nat) :
    traceOf (setTrace s k t) k' = if k' = k then t else traceOf s k' := mapGet_mapPut ..
@[simp] theorem outOf_setOut (s : State) (core o : Nat) (x : OutCh) (core' o' : Nat) :
    outOf (setOut s core o x) core' o' = if core' * 16 + o' = core * 16 + o then x else outOf s core' o' := mapGet_mapPut ..
@[simp] theorem inOf_setIn (s : State) (core o : Nat) (x : InCh) (core' o' : Nat) :
    inOf (setIn s core o x) core' o' = if core' * 16 + o' = core * 16 + o then x else inOf s core' o' := mapGet_mapPut ..
@[simp] theorem pseOf_setPse (s : State) (r : Nat) (p : Pse) (r' : Nat) :
    pseOf (setPse s r p) r' = if r' = r then p else pseOf s r' := mapGet_mapPut ..
@[simp] theorem upfOf_setUpf (s : State) (r : Nat) (u : Upf) (r' : Nat) :
    upfOf (setUpf s r u) r' = if r' = r then u else upfOf s r' := mapGet_mapPut ..
@[simp] theorem digOf_setDig (s : State) (r : Nat) (g : Dig) (r' : Nat) :
    digOf (setDig s r g) r' = if r' = r then g else digOf s r' := mapGet_mapPut ..
@[simp] theorem lnkOf_setLnk (s : State) (d : Nat) (l : Lnk) (d' : Nat) :
    lnkOf (setLnk s d l) d' = if d' = d then l else lnkOf s d' := mapGet_mapPut ..
@[simp] theorem gxeOf_setGxe (s : State) (j : Nat) (g : Gxe) (j' : Nat) :
    gxeOf (setGxe s j g) j' = if j' = j then g else gxeOf s j' := mapGet_mapPut ..

/-! ### Memory -/

theorem memWrite_other {b : Nat} : ∀ (bs : List Byte) (m : List Host.Cell) (a : Nat),
    (b < a ∨ a + bs.length ≤ b) → mapGet 0 (memWrite m a bs) b = mapGet 0 m b
  | [], _, _, _ => rfl
  | x :: xs, m, a, h => by
    rw [memWrite, memWrite_other xs _ (a + 1) (by simp only [List.length_cons] at h; omega),
      mapGet_mapPut_other (by simp only [List.length_cons] at h; omega)]

theorem memWrite_inside {b : Nat} : ∀ (bs : List Byte) (m : List Host.Cell) (a : Nat),
    a ≤ b → b < a + bs.length → mapGet 0 (memWrite m a bs) b = bs.getD (b - a) 0
  | [], _, _, h, h' => by simp only [List.length_nil] at h'; omega
  | x :: xs, m, a, h, h' => by
    simp only [List.length_cons] at h'
    rw [memWrite]
    by_cases hb : b = a
    · subst hb
      rw [memWrite_other xs _ _ (Or.inl (by omega))]
      simp
    · rw [memWrite_inside xs _ (a + 1) (by omega) (by omega)]
      obtain ⟨k, hk⟩ : ∃ k, b - a = k + 1 := ⟨b - a - 1, by omega⟩
      rw [hk, show b - (a + 1) = k by omega]
      simp

/-- A byte outside the bytes written reads as before. -/
theorem rdByte_wrMem_other (s : State) (a b : Nat) (bs : List Byte) (h : b < a ∨ a + bs.length ≤ b) :
    rdByte (wrMem s a bs) b = rdByte s b := memWrite_other bs s.mem a h

/-- A byte inside the bytes written reads as written. -/
theorem rdByte_wrMem_inside (s : State) (a b : Nat) (bs : List Byte) (h : a ≤ b) (h' : b < a + bs.length) :
    rdByte (wrMem s a bs) b = bs.getD (b - a) 0 := memWrite_inside bs s.mem a h h'

@[simp] theorem leBytes_length : ∀ n v : Nat, (leBytes n v).length = n
  | 0, _ => rfl
  | n + 1, v => by rw [leBytes, List.length_cons, leBytes_length n]

@[simp] theorem rdMem_length (s : State) : ∀ (n a : Nat), (rdMem s a n).length = n
  | 0, _ => rfl
  | n + 1, a => by rw [rdMem, List.length_cons, rdMem_length s n]

/-- A number of `n` bytes is below 256^n. -/
theorem leNat_lt : ∀ bs : List Byte, leNat bs < 256 ^ bs.length
  | [] => Nat.one_pos
  | b :: bs => by
    have h := leNat_lt bs
    have hb : b.toNat < 256 := b.isLt
    rw [leNat, List.length_cons, Nat.pow_succ]
    omega

theorem rdNum_lt (s : State) (a n : Nat) : rdNum s a n < 256 ^ n := by
  have h := leNat_lt (rdMem s a n)
  rwa [rdMem_length] at h

/-- A 64-bit number in memory is no number above 64 bits. -/
theorem rdNum_ne_max (s : State) (a : Nat) : rdNum s a 8 ≠ 18446744073709551616 := Nat.ne_of_lt (rdNum_lt s a 8)

/-- Every write keeps the canonical form of memory. -/
theorem memWrite_wf : ∀ (bs : List Byte) (m : List Host.Cell) (a : Nat), mapWf 0 m = true → mapWf 0 (memWrite m a bs) = true
  | [], _, _, h => h
  | _ :: xs, _, _, h => memWrite_wf xs _ _ (mapWf_mapPut h)

theorem wrMem_wf (s : State) (a : Nat) (bs : List Byte) (h : mapWf 0 s.mem = true) : mapWf 0 (wrMem s a bs).mem = true :=
  memWrite_wf bs s.mem a h

theorem wipe_wf (s : State) (lo n : Nat) (h : mapWf 0 s.mem = true) : mapWf 0 (wipe s lo n).mem = true :=
  mapWf_mapClear h

end Sys2Proof.Laws
end

