-- ==== Sys2Proof/Laws/Report.lean ====
section
/-! SUPPORT. What reporting can do (R39, R60 to R63, R474, R475, R503, R512): counters, error and event registers, event
rings in host memory, messages, the always-on log and a trace freeze; nothing else of the state. -/
namespace Sys2Proof.Laws
open Sys2Proof.Machine

/-- A report leaves every field but these, every register but ERR_STATUS, ERR_ADDR, ERR_INFO, EVT_STATUS and
JOB_EVT_STATUS, and every ERR_STATUS bit that was set. -/
structure Reports (s t : State) : Prop where
  rest : t = { s with
    regs := t.regs, mem := t.mem, bad := t.bad, ctrs := t.ctrs, msixPend := t.msixPend, msixSent := t.msixSent
    aolWritten := t.aolWritten, traceFrozen := t.traceFrozen }
  regs : ∀ p o, ¬ (regKey p o % 512 ∈ [4, 6, 7, 9, 36]) → reg t p o = reg s p o
  errs : ∀ p k, bit (reg s p 0x20) k = true → bit (reg t p 0x20) k = true

namespace Reports

theorem refl (s : State) : Reports s s := ⟨rfl, fun _ _ _ => rfl, fun _ _ h => h⟩

theorem trans {s t u : State} (h : Reports s t) (h' : Reports t u) : Reports s u := by
  refine ⟨?_, fun p o ho => (h'.regs p o ho).trans (h.regs p o ho), fun p k hk => h'.errs p k (h.errs p k hk)⟩
  rw [h'.rest, h.rest]

end Reports

theorem key20 (p p' o' : Nat) (h : o' / 8 % 512 ≠ 4) : regKey p 0x20 ≠ regKey p' o' := by
  unfold regKey; omega

theorem key_mod (p o : Nat) : regKey p o % 512 = o / 8 % 512 := by unfold regKey; omega

/-- A write of a register that only reports touch, other than ERR_STATUS. -/
theorem reports_setReg (s : State) (p o v : Nat) (h : o / 8 % 512 ∈ [6, 7, 9, 36]) : Reports s (setReg s p o v) := by
  refine ⟨rfl, fun p' o' ho => reg_setReg_other _ _ _ _ _ _ ?_, fun p' k hk => ?_⟩
  · intro e
    apply ho
    rw [e, key_mod]
    simp only [List.mem_cons, List.not_mem_nil, or_false] at h ⊢
    omega
  · rw [reg_setReg_other]
    · exact hk
    · apply key20; simp only [List.mem_cons, List.not_mem_nil, or_false] at h; omega

theorem reports_setRegF (s : State) (p o lo w v : Nat) (h : o / 8 % 512 ∈ [6, 7, 9, 36]) : Reports s (setRegF s p o lo w v) :=
  reports_setReg s p o _ h

theorem bit_lt_64 (s : State) (p o k : Nat) (h : bit (reg s p o) k = true) : k < 64 := by
  rcases Nat.lt_or_ge k 64 with hk | hk
  · exact hk
  · have : reg s p o < 2 ^ k := Nat.lt_of_lt_of_le (reg_lt s p o) (Nat.pow_le_pow_right (by decide) hk)
    rw [bit, Nat.testBit_lt_two_pow this] at h
    cases h

/-- ERR_STATUS takes a value that keeps every bit it had. -/
theorem reports_setErr (s : State) (p v : Nat) (h : ∀ k, bit (reg s p 0x20) k = true → bit v k = true) :
    Reports s (setReg s p 0x20 v) := by
  refine ⟨rfl, fun p' o' ho => reg_setReg_other _ _ _ _ _ _ ?_, fun p' k hk => ?_⟩
  · intro e
    apply ho
    rw [e, key_mod]
    simp
  · rw [reg_setReg]
    split
    · rename_i e
      have hp : p' = p := by unfold regKey at e; omega
      subst hp
      have h64 := bit_lt_64 s _ _ _ hk
      have := h k hk
      unfold bit at this ⊢
      rw [Nat.testBit_mod_two_pow]
      simp [h64, this]
    · exact hk

theorem reports_setErrBit (s : State) (p b : Nat) (l : ErrLog) : Reports s (setErrBit s p b l) := by
  unfold setErrBit
  simp only
  split
  · rename_i h
    refine Reports.trans (Reports.trans (reports_setErr s p _ ?_) (reports_setReg _ _ 0x30 _ (by decide)))
      (reports_setReg _ _ 0x38 _ (by decide))
    intro k hk
    rw [h] at hk
    simp [bit] at hk
  · apply reports_setErr
    intro k hk
    unfold bit at hk ⊢
    simp [Nat.testBit_or, hk]

/-- Bit `b` of ERR_STATUS is set (R39). -/
theorem setErrBit_bit (s : State) (p b : Nat) (l : ErrLog) (hb : b < 64) :
    bit (reg (setErrBit s p b l) p 0x20) b = true := by
  unfold setErrBit
  have hm : ∀ v : Nat, bit v b = true → bit (v % 2 ^ 64) b = true := by
    intro v hv
    unfold bit at hv ⊢
    rw [Nat.testBit_mod_two_pow]
    simp [hb, hv]
  simp only
  split
  · rw [reg_setReg_other _ _ _ _ _ _ (by apply key20; decide), reg_setReg_other _ _ _ _ _ _ (by apply key20; decide),
      reg_setReg_same]
    exact hm _ (by unfold bit; exact Nat.testBit_two_pow_self)
  · rw [reg_setReg_same]
    exact hm _ (by unfold bit; simp [Nat.testBit_or, Nat.testBit_two_pow_self])

theorem reports_mem (s : State) (a : Nat) (bs : List Byte) : Reports s (wrMem s a bs) :=
  ⟨rfl, fun _ _ _ => rfl, fun _ _ h => h⟩

theorem reports_signal (s : State) (fn vec : Nat) : Reports s (signal s fn vec) := by
  unfold signal
  split <;> exact ⟨rfl, fun _ _ _ => rfl, fun _ _ h => h⟩

theorem reports_putRecord (s : State) (f : Nat) (e : EvRec) : Reports s (putRecord s f e) :=
  Reports.trans (Reports.trans (reports_mem s _ _) (reports_setReg _ _ 0x120 _ (by decide))) (reports_signal _ _ _)

theorem reports_overflow (s : State) (f : Nat) : Reports s (overflowRecord s f) := by
  unfold overflowRecord
  simp only
  split
  · exact Reports.trans (reports_putRecord _ _ _) (reports_setRegF _ _ 0x120 _ _ _ (by decide))
  · exact Reports.refl s

theorem reports_deliverTo (s : State) (f : Nat) (e : EvRec) : Reports s (deliverTo s f e) := by
  unfold deliverTo
  simp only
  split
  · split
    · exact Reports.trans (reports_overflow _ _) (reports_putRecord _ _ _)
    · exact Reports.trans (reports_overflow _ _) (reports_setRegF _ _ 0x120 _ _ _ (by decide))
  · exact Reports.refl s

theorem reports_foldl {β : Type} (f : State → β → State) (h : ∀ s x, Reports s (f s x)) :
    ∀ (l : List β) (s : State), Reports s (l.foldl f s)
  | [], s => Reports.refl s
  | x :: xs, s => Reports.trans (h s x) (reports_foldl f h xs (f s x))

theorem reports_deliver (s : State) (o : List Nat) (e : EvRec) : Reports s (deliver s o e) :=
  reports_foldl _ (fun s f => reports_deliverTo s f e) _ s

theorem reports_bump (s : State) (p i n : Nat) : Reports s (bump s p i n) := by
  have h : ∀ c, Reports s { s with ctrs := c } := fun _ => ⟨rfl, fun _ _ _ => rfl, fun _ _ h => h⟩
  unfold bump
  simp only
  split
  · split
    · split
      · exact Reports.trans (h _) (reports_deliver _ _ _)
      · exact h _
    · exact h _
  · exact Reports.refl s

theorem reports_bumpNs (s : State) (p i n : Nat) : Reports s (bumpNs s p i n) :=
  ⟨rfl, fun _ _ _ => rfl, fun _ _ h => h⟩

theorem reports_aolAppend (s : State) (e : EvRec) : Reports s (aolAppend s e) := by
  have h : Reports s { s with aolWritten := s.aolWritten + 1 } := ⟨rfl, fun _ _ _ => rfl, fun _ _ h => h⟩
  unfold aolAppend
  simp only
  split
  · exact Reports.trans (Reports.trans (Reports.trans h (reports_mem _ _ _)) (reports_bump _ _ _ _)) (reports_setErrBit _ _ _ _)
  · exact Reports.trans (Reports.trans h (reports_mem _ _ _)) (reports_bump _ _ _ _)

theorem reports_report (s : State) (en : Bool) (o : List Nat) (e : EvRec) : Reports s (report s en o e) := by
  unfold report
  simp only
  split <;> split
  · exact Reports.trans (reports_aolAppend _ _) (reports_deliver _ _ _)
  · exact reports_deliver _ _ _
  · exact reports_aolAppend _ _
  · exact Reports.refl s

theorem reports_raiseEvt0 (s : State) (p b : Nat) (o : List Nat) (st : Nat) (d : List Byte) :
    Reports s (raiseEvt0 s p b o st d) := by
  unfold raiseEvt0
  have h : ∀ v, Reports s (setReg s p 0x48 v) := fun v => reports_setReg s p 0x48 v (by decide)
  simp only
  split
  · split
    · split
      · exact h _
      · exact Reports.trans (h _) (reports_report _ _ _ _)
    · exact h _
  · exact h _

theorem reports_freezeTrace (s : State) : Reports s (freezeTrace s) := by
  have h : Reports s { s with traceFrozen := true } := ⟨rfl, fun _ _ _ => rfl, fun _ _ h => h⟩
  unfold freezeTrace
  split
  · exact Reports.refl s
  · exact Reports.trans (Reports.trans h (reports_bump _ _ _ _)) (reports_raiseEvt0 _ _ _ _ _ _)

theorem reports_freezeOnError (s : State) (n : Nat) : Reports s (freezeOnError s n) := by
  unfold freezeOnError
  split
  · exact reports_freezeTrace s
  · exact Reports.refl s

theorem reports_raiseEvt (s : State) (p b : Nat) (o : List Nat) (st : Nat) (d : List Byte) :
    Reports s (raiseEvt s p b o st d) := by
  unfold raiseEvt
  simp only
  split
  · split
    · split
      · exact reports_raiseEvt0 ..
      · exact Reports.trans (reports_raiseEvt0 ..) (reports_freezeOnError _ _)
    · exact reports_raiseEvt0 ..
  · exact Reports.refl s

/-- What setting an ERR_STATUS bit does after the bit is set and logged: only reports. -/
theorem raiseErr_after (s : State) (p b : Nat) (l : ErrLog) (o : List Nat) (d : List Byte) :
    Reports (setErrBit s p b l) (raiseErr s p b l o d) := by
  unfold raiseErr
  simp only
  split
  · split
    · split
      · exact Reports.refl _
      · exact Reports.trans (reports_report _ _ _ _) (reports_freezeOnError _ _)
    · exact Reports.refl _
  · exact Reports.refl _

theorem reports_raiseErr (s : State) (p b : Nat) (l : ErrLog) (o : List Nat) (d : List Byte) :
    Reports s (raiseErr s p b l o d) :=
  Reports.trans (reports_setErrBit s p b l) (raiseErr_after s p b l o d)

/-- The bit is set when an error is raised (R39, R60). -/
theorem raiseErr_bit (s : State) (p b : Nat) (l : ErrLog) (o : List Nat) (d : List Byte) (hb : b < 64) :
    bit (reg (raiseErr s p b l o d) p 0x20) b = true :=
  (raiseErr_after s p b l o d).errs p b (setErrBit_bit s p b l hb)

theorem reports_corrected (s : State) (p i b a : Nat) : Reports s (corrected s p i b a) := by
  unfold corrected
  simp only
  split
  · exact Reports.trans (reports_bump _ _ _ _) (reports_raiseErr _ _ _ _ _ _)
  · exact reports_bump _ _ _ _

end Sys2Proof.Laws
end

