-- ==== Sys2Proof/Laws/Die.lean ====
section
/-! SUPPORT. What the die of the acting engine does not matter to: every read of the state but those across the die bridge. -/
namespace Sys2Proof.Laws
open Sys2Proof.Machine

theorem rdMem_congr {s t : State} (h : s.mem = t.mem) : ∀ n a : Nat, rdMem s a n = rdMem t a n
  | 0, _ => rfl
  | n + 1, a => by rw [rdMem, rdMem, rdMem_congr h n]; unfold rdByte; rw [h]

@[simp] theorem rdMem_setDie (s : State) (d a n : Nat) : rdMem (setDie s d) a n = rdMem s a n :=
  rdMem_congr (s := setDie s d) (t := s) rfl n a
@[simp] theorem rdNum_setDie (s : State) (d a n : Nat) : rdNum (setDie s d) a n = rdNum s a n := by
  unfold rdNum; rw [rdMem_setDie]
@[simp] theorem reg_setDie (s : State) (d : Nat) : reg (setDie s d) = reg s := rfl
@[simp] theorem regF_setDie (s : State) (d : Nat) : regF (setDie s d) = regF s := rfl
@[simp] theorem hqOf_setDie (s : State) (d : Nat) : hqOf (setDie s d) = hqOf s := rfl
@[simp] theorem engOf_setDie (s : State) (d : Nat) : engOf (setDie s d) = engOf s := rfl
@[simp] theorem ctxOf_setDie (s : State) (d : Nat) : ctxOf (setDie s d) = ctxOf s := rfl
@[simp] theorem rdByte_setDie (s : State) (d : Nat) : rdByte (setDie s d) = rdByte s := rfl
@[simp] theorem badIn_setDie (s : State) (d : Nat) : badIn (setDie s d) = badIn s := rfl
@[simp] theorem badPartial_setDie (s : State) (d : Nat) : badPartial (setDie s d) = badPartial s := rfl
@[simp] theorem ilvG_setDie (s : State) (d : Nat) : ilvG (setDie s d) = ilvG s := rfl
@[simp] theorem chanOf_setDie (s : State) (d : Nat) : chanOf (setDie s d) = chanOf s := rfl
@[simp] theorem memPageOf_setDie (s : State) (d : Nat) : memPageOf (setDie s d) = memPageOf s := rfl
@[simp] theorem portOf_setDie (s : State) (d : Nat) : portOf (setDie s d) = portOf s := rfl
@[simp] theorem inSlow_setDie (s : State) (d : Nat) : inSlow (setDie s d) = inSlow s := rfl
@[simp] theorem chFenced_setDie (s : State) (d : Nat) : chFenced (setDie s d) = chFenced s := rfl
@[simp] theorem anyFenced_setDie (s : State) (d : Nat) : anyFenced (setDie s d) = anyFenced s := rfl
@[simp] theorem msixWord_setDie (s : State) (d : Nat) : msixWord (setDie s d) = msixWord s := rfl
@[simp] theorem ringRoom_setDie (s : State) (d : Nat) : ringRoom (setDie s d) = ringRoom s := rfl
@[simp] theorem pageOwners_setDie (s : State) (d : Nat) : pageOwners (setDie s d) = pageOwners s := rfl
@[simp] theorem fnOfQueue_setDie (s : State) (d : Nat) : fnOfQueue (setDie s d) = fnOfQueue s := rfl
@[simp] theorem syncCtr_setDie (s : State) (d : Nat) : syncCtr (setDie s d) = syncCtr s := rfl
@[simp] theorem syncOk_setDie (s : State) (d : Nat) : syncOk (setDie s d) = syncOk s := rfl
@[simp] theorem fenced_setDie (s : State) (d : Nat) : fenced (setDie s d) = fenced s := rfl
@[simp] theorem engRun_setDie (s : State) (d : Nat) : engRun (setDie s d) = engRun s := rfl
@[simp] theorem runOp_setDie (s : State) (d : Nat) : runOp (setDie s d) = runOp s := rfl
@[simp] theorem jobLive_setDie (s : State) (d : Nat) : jobLive (setDie s d) = jobLive s := rfl
@[simp] theorem ctxJob_setDie (s : State) (d : Nat) : ctxJob (setDie s d) = ctxJob s := rfl
@[simp] theorem ctxBound_setDie (s : State) (d : Nat) : ctxBound (setDie s d) = ctxBound s := rfl
@[simp] theorem suspended_setDie (s : State) (d : Nat) : suspended (setDie s d) = suspended s := rfl
@[simp] theorem scratchSaved_setDie (s : State) (d : Nat) : scratchSaved (setDie s d) = scratchSaved s := rfl
@[simp] theorem mxaOf_setDie (s : State) (d : Nat) : mxaOf (setDie s d) = mxaOf s := rfl
@[simp] theorem venOf_setDie (s : State) (d : Nat) : venOf (setDie s d) = venOf s := rfl
@[simp] theorem mxaBusy_setDie (s : State) (d : Nat) : mxaBusy (setDie s d) = mxaBusy s := rfl
@[simp] theorem loadBusy_setDie (s : State) (d : Nat) : loadBusy (setDie s d) = loadBusy s := rfl
@[simp] theorem traceOf_setDie (s : State) (d : Nat) : traceOf (setDie s d) = traceOf s := rfl
@[simp] theorem traced_setDie (s : State) (d : Nat) : traced (setDie s d) = traced s := rfl
@[simp] theorem trcRoom_setDie (s : State) (d : Nat) : trcRoom (setDie s d) = trcRoom s := rfl
@[simp] theorem ownCoord_setDie (s : State) (d : Nat) : ownCoord (setDie s d) = ownCoord s := rfl
@[simp] theorem axisLen_setDie (s : State) (d : Nat) : axisLen (setDie s d) = axisLen s := rfl
@[simp] theorem neighbour_setDie (s : State) (d : Nat) : neighbour (setDie s d) = neighbour s := rfl
@[simp] theorem routeDir_setDie (s : State) (d : Nat) : routeDir (setDie s d) = routeDir s := rfl
@[simp] theorem wrapHop_setDie (s : State) (d : Nat) : wrapHop (setDie s d) = wrapHop s := rfl
@[simp] theorem scratchOk_setDie (s : State) (d : Nat) : scratchOk (setDie s d) = scratchOk s := rfl
@[simp] theorem cluOk_setDie (s : State) (d : Nat) : cluOk (setDie s d) = cluOk s := rfl
@[simp] theorem unitOk_setDie (s : State) (d : Nat) : unitOk (setDie s d) = unitOk s := rfl
@[simp] theorem stackedOk_setDie (s : State) (d : Nat) : stackedOk (setDie s d) = stackedOk s := rfl
@[simp] theorem slowOk_setDie (s : State) (d : Nat) : slowOk (setDie s d) = slowOk s := rfl
@[simp] theorem fabOk_setDie (s : State) (d : Nat) : fabOk (setDie s d) = fabOk s := rfl
@[simp] theorem ftqOf_setDie (s : State) (d : Nat) : ftqOf (setDie s d) = ftqOf s := rfl
@[simp] theorem ftqElem_setDie (s : State) (d : Nat) : ftqElem (setDie s d) = ftqElem s := rfl
@[simp] theorem slotNext_setDie (s : State) (d : Nat) : slotNext (setDie s d) = slotNext s := rfl
@[simp] theorem slotDone_setDie (s : State) (d : Nat) : slotDone (setDie s d) = slotDone s := rfl
@[simp] theorem tbFree_setDie (s : State) (d : Nat) : tbFree (setDie s d) = tbFree s := rfl
@[simp] theorem tbWord_setDie (s : State) (d : Nat) : tbWord (setDie s d) = tbWord s := rfl
@[simp] theorem dAccess_setDie (s : State) (d : Nat) : dAccess (setDie s d) = dAccess s := rfl
@[simp] theorem outAccess_setDie (s : State) (d : Nat) : outAccess (setDie s d) = outAccess s := rfl
@[simp] theorem chkMatmul_setDie (s : State) (d : Nat) : chkMatmul (setDie s d) = chkMatmul s := rfl
@[simp] theorem chkMxa_setDie (s : State) (d : Nat) : chkMxa (setDie s d) = chkMxa s := rfl
@[simp] theorem canStartMxa_setDie (s : State) (d : Nat) : canStartMxa (setDie s d) = canStartMxa s := rfl
@[simp] theorem sibling_setDie (s : State) (d : Nat) : sibling (setDie s d) = sibling s := rfl
@[simp] theorem accRow_setDie (s : State) (d : Nat) : accRow (setDie s d) = accRow s := rfl
@[simp] theorem chkGmv_setDie (s : State) (d : Nat) : chkGmv (setDie s d) = chkGmv s := rfl
@[simp] theorem tileAccess_setDie (s : State) (d : Nat) : tileAccess (setDie s d) = tileAccess s := rfl
@[simp] theorem chkTile_setDie (s : State) (d : Nat) : chkTile (setDie s d) = chkTile s := rfl
@[simp] theorem canStartTile_setDie (s : State) (d : Nat) : canStartTile (setDie s d) = canStartTile s := rfl
@[simp] theorem slotFree_setDie (s : State) (d : Nat) : slotFree (setDie s d) = slotFree s := rfl
@[simp] theorem oAccess_setDie (s : State) (d : Nat) : oAccess (setDie s d) = oAccess s := rfl
@[simp] theorem chkVenOp_setDie (s : State) (d : Nat) : chkVenOp (setDie s d) = chkVenOp s := rfl
@[simp] theorem canStartVenOp_setDie (s : State) (d : Nat) : canStartVenOp (setDie s d) = canStartVenOp s := rfl
@[simp] theorem venEntry_setDie (s : State) (d : Nat) : venEntry (setDie s d) = venEntry s := rfl
@[simp] theorem chkVenMisc_setDie (s : State) (d : Nat) : chkVenMisc (setDie s d) = chkVenMisc s := rfl
@[simp] theorem chkVen_setDie (s : State) (d : Nat) : chkVen (setDie s d) = chkVen s := rfl
@[simp] theorem canStartVen_setDie (s : State) (d : Nat) : canStartVen (setDie s d) = canStartVen s := rfl
@[simp] theorem jobEntries_setDie (s : State) (d : Nat) : jobEntries (setDie s d) = jobEntries s := rfl
@[simp] theorem chkScores_setDie (s : State) (d : Nat) : chkScores (setDie s d) = chkScores s := rfl
@[simp] theorem chkFinish_setDie (s : State) (d : Nat) : chkFinish (setDie s d) = chkFinish s := rfl
@[simp] theorem chkKv_setDie (s : State) (d : Nat) : chkKv (setDie s d) = chkKv s := rfl
@[simp] theorem chkAtn_setDie (s : State) (d : Nat) : chkAtn (setDie s d) = chkAtn s := rfl
@[simp] theorem canStartAtn_setDie (s : State) (d : Nat) : canStartAtn (setDie s d) = canStartAtn s := rfl
@[simp] theorem pairAllowed_setDie (s : State) (d : Nat) : pairAllowed (setDie s d) = pairAllowed s := rfl
@[simp] theorem pairBias_setDie (s : State) (d : Nat) : pairBias (setDie s d) = pairBias s := rfl
@[simp] theorem kvEntry_setDie (s : State) (d : Nat) : kvEntry (setDie s d) = kvEntry s := rfl
@[simp] theorem kvCheck_setDie (s : State) (d : Nat) : kvCheck (setDie s d) = kvCheck s := rfl
@[simp] theorem kvAddr_setDie (s : State) (d : Nat) : kvAddr (setDie s d) = kvAddr s := rfl
@[simp] theorem outOf_setDie (s : State) (d : Nat) : outOf (setDie s d) = outOf s := rfl
@[simp] theorem inOf_setDie (s : State) (d : Nat) : inOf (setDie s d) = inOf s := rfl
@[simp] theorem outCfg_setDie (s : State) (d : Nat) : outCfg (setDie s d) = outCfg s := rfl
@[simp] theorem inCfg_setDie (s : State) (d : Nat) : inCfg (setDie s d) = inCfg s := rfl
@[simp] theorem inReel_setDie (s : State) (d : Nat) : inReel (setDie s d) = inReel s := rfl
@[simp] theorem outDst_setDie (s : State) (d : Nat) : outDst (setDie s d) = outDst s := rfl
@[simp] theorem outDstIn_setDie (s : State) (d : Nat) : outDstIn (setDie s d) = outDstIn s := rfl
@[simp] theorem outPair_setDie (s : State) (d : Nat) : outPair (setDie s d) = outPair s := rfl
@[simp] theorem reelSize_setDie (s : State) (d : Nat) : reelSize (setDie s d) = reelSize s := rfl
@[simp] theorem replyRec_setDie (s : State) (d : Nat) : replyRec (setDie s d) = replyRec s := rfl
@[simp] theorem targetMatches_setDie (s : State) (d : Nat) : targetMatches (setDie s d) = targetMatches s := rfl
@[simp] theorem outBound_setDie (s : State) (d : Nat) : outBound (setDie s d) = outBound s := rfl
@[simp] theorem pairOkay_setDie (s : State) (d : Nat) : pairOkay (setDie s d) = pairOkay s := rfl
@[simp] theorem sendForm_setDie (s : State) (d : Nat) : sendForm (setDie s d) = sendForm s := rfl
@[simp] theorem chkChn_setDie (s : State) (d : Nat) : chkChn (setDie s d) = chkChn s := rfl
@[simp] theorem canStartChn_setDie (s : State) (d : Nat) : canStartChn (setDie s d) = canStartChn s := rfl
@[simp] theorem sendRoom_setDie (s : State) (d : Nat) : sendRoom (setDie s d) = sendRoom s := rfl
@[simp] theorem replyFree_setDie (s : State) (d : Nat) : replyFree (setDie s d) = replyFree s := rfl
@[simp] theorem sendReady_setDie (s : State) (d : Nat) : sendReady (setDie s d) = sendReady s := rfl
@[simp] theorem sendCut_setDie (s : State) (d : Nat) : sendCut (setDie s d) = sendCut s := rfl
@[simp] theorem peerWait_setDie (s : State) (d : Nat) : peerWait (setDie s d) = peerWait s := rfl
@[simp] theorem timeoutDetail_setDie (s : State) (d : Nat) : timeoutDetail (setDie s d) = timeoutDetail s := rfl
@[simp] theorem outWaits_setDie (s : State) (d : Nat) : outWaits (setDie s d) = outWaits s := rfl
@[simp] theorem inBusy_setDie (s : State) (d : Nat) : inBusy (setDie s d) = inBusy s := rfl
@[simp] theorem outBusy_setDie (s : State) (d : Nat) : outBusy (setDie s d) = outBusy s := rfl
@[simp] theorem pseOf_setDie (s : State) (d : Nat) : pseOf (setDie s d) = pseOf s := rfl
@[simp] theorem upfOf_setDie (s : State) (d : Nat) : upfOf (setDie s d) = upfOf s := rfl
@[simp] theorem pseCfg_setDie (s : State) (d : Nat) : pseCfg (setDie s d) = pseCfg s := rfl
@[simp] theorem pseJob_setDie (s : State) (d : Nat) : pseJob (setDie s d) = pseJob s := rfl
@[simp] theorem pseValid_setDie (s : State) (d : Nat) : pseValid (setDie s d) = pseValid s := rfl
@[simp] theorem pseV_setDie (s : State) (d : Nat) : pseV (setDie s d) = pseV s := rfl
@[simp] theorem pseN_setDie (s : State) (d : Nat) : pseN (setDie s d) = pseN s := rfl
@[simp] theorem psePhys_setDie (s : State) (d : Nat) : psePhys (setDie s d) = psePhys s := rfl
@[simp] theorem pseSched_setDie (s : State) (d : Nat) : pseSched (setDie s d) = pseSched s := rfl
@[simp] theorem pseLink_setDie (s : State) (d : Nat) : pseLink (setDie s d) = pseLink s := rfl
@[simp] theorem pseL_setDie (s : State) (d : Nat) : pseL (setDie s d) = pseL s := rfl
@[simp] theorem pseNL_setDie (s : State) (d : Nat) : pseNL (setDie s d) = pseNL s := rfl
@[simp] theorem poolBase_setDie (s : State) (d : Nat) : poolBase (setDie s d) = poolBase s := rfl
@[simp] theorem poolCount_setDie (s : State) (d : Nat) : poolCount (setDie s d) = poolCount s := rfl
@[simp] theorem poolSize_setDie (s : State) (d : Nat) : poolSize (setDie s d) = poolSize s := rfl
@[simp] theorem bufAddr_setDie (s : State) (d : Nat) : bufAddr (setDie s d) = bufAddr s := rfl
@[simp] theorem freeBufOf_setDie (s : State) (d : Nat) : freeBufOf (setDie s d) = freeBufOf s := rfl
@[simp] theorem pseOrder_setDie (s : State) (d : Nat) : pseOrder (setDie s d) = pseOrder s := rfl
@[simp] theorem vslotAddr_setDie (s : State) (d : Nat) : vslotAddr (setDie s d) = vslotAddr s := rfl
@[simp] theorem pseCmds_setDie (s : State) (d : Nat) : pseCmds (setDie s d) = pseCmds s := rfl
@[simp] theorem upfQuiet_setDie (s : State) (d : Nat) : upfQuiet (setDie s d) = upfQuiet s := rfl
@[simp] theorem nextV_setDie (s : State) (d : Nat) : nextV (setDie s d) = nextV s := rfl
@[simp] theorem phaseReady_setDie (s : State) (d : Nat) : phaseReady (setDie s d) = phaseReady s := rfl
@[simp] theorem passedOver_setDie (s : State) (d : Nat) : passedOver (setDie s d) = passedOver s := rfl
@[simp] theorem wPending_setDie (s : State) (d : Nat) : wPending (setDie s d) = wPending s := rfl
@[simp] theorem nextPhase_setDie (s : State) (d : Nat) : nextPhase (setDie s d) = nextPhase s := rfl
@[simp] theorem bufOr0_setDie (s : State) (d : Nat) : bufOr0 (setDie s d) = bufOr0 s := rfl
@[simp] theorem jobHasCore_setDie (s : State) (d : Nat) : jobHasCore (setDie s d) = jobHasCore s := rfl
@[simp] theorem chkPse_setDie (s : State) (d : Nat) : chkPse (setDie s d) = chkPse s := rfl
@[simp] theorem stepForm_setDie (s : State) (d : Nat) : stepForm (setDie s d) = stepForm s := rfl
@[simp] theorem stepAccess_setDie (s : State) (d : Nat) : stepAccess (setDie s d) = stepAccess s := rfl
@[simp] theorem openWaits_setDie (s : State) (d : Nat) : openWaits (setDie s d) = openWaits s := rfl
@[simp] theorem localXfer_setDie (s : State) (d : Nat) : localXfer (setDie s d) = localXfer s := rfl
@[simp] theorem gdescAccess_setDie (s : State) (d : Nat) : gdescAccess (setDie s d) = gdescAccess s := rfl
@[simp] theorem gradAt_setDie (s : State) (d : Nat) : gradAt (setDie s d) = gradAt s := rfl
@[simp] theorem digestOf_setDie (s : State) (d : Nat) : digestOf (setDie s d) = digestOf s := rfl
@[simp] theorem digEntry_setDie (s : State) (d : Nat) : digEntry (setDie s d) = digEntry s := rfl
@[simp] theorem chkUpf_setDie (s : State) (d : Nat) : chkUpf (setDie s d) = chkUpf s := rfl
@[simp] theorem runOf_setDie (s : State) (d : Nat) : runOf (setDie s d) = runOf s := rfl
@[simp] theorem judgeGroup_setDie (s : State) (d : Nat) : judgeGroup (setDie s d) = judgeGroup s := rfl
@[simp] theorem upfCmd_setDie (s : State) (d : Nat) : upfCmd (setDie s d) = upfCmd s := rfl
@[simp] theorem ownD_setDie (s : State) (d : Nat) : ownD (setDie s d) = ownD s := rfl
@[simp] theorem jobDLen_setDie (s : State) (d : Nat) : jobDLen (setDie s d) = jobDLen s := rfl
@[simp] theorem comparisonStep_setDie (s : State) (d : Nat) : comparisonStep (setDie s d) = comparisonStep s := rfl
@[simp] theorem digOf_setDie (s : State) (d : Nat) : digOf (setDie s d) = digOf s := rfl
@[simp] theorem ownDigests_setDie (s : State) (d : Nat) : ownDigests (setDie s d) = ownDigests s := rfl
@[simp] theorem isComparer_setDie (s : State) (d : Nat) : isComparer (setDie s d) = isComparer s := rfl
@[simp] theorem gxeOf_setDie (s : State) (d : Nat) : gxeOf (setDie s d) = gxeOf s := rfl
@[simp] theorem jcfg_setDie (s : State) (d : Nat) : jcfg (setDie s d) = jcfg s := rfl
@[simp] theorem jEnable_setDie (s : State) (d : Nat) : jEnable (setDie s d) = jEnable s := rfl
@[simp] theorem jLen_setDie (s : State) (d : Nat) : jLen (setDie s d) = jLen s := rfl
@[simp] theorem jBase_setDie (s : State) (d : Nat) : jBase (setDie s d) = jBase s := rfl
@[simp] theorem jOwn_setDie (s : State) (d : Nat) : jOwn (setDie s d) = jOwn s := rfl
@[simp] theorem jTable_setDie (s : State) (d : Nat) : jTable (setDie s d) = jTable s := rfl
@[simp] theorem jFcst_setDie (s : State) (d : Nat) : jFcst (setDie s d) = jFcst s := rfl
@[simp] theorem jStore_setDie (s : State) (d : Nat) : jStore (setDie s d) = jStore s := rfl
@[simp] theorem jSizes_setDie (s : State) (d : Nat) : jSizes (setDie s d) = jSizes s := rfl
@[simp] theorem jBuckets_setDie (s : State) (d : Nat) : jBuckets (setDie s d) = jBuckets s := rfl
@[simp] theorem jSlots_setDie (s : State) (d : Nat) : jSlots (setDie s d) = jSlots s := rfl
@[simp] theorem jSlotBytes_setDie (s : State) (d : Nat) : jSlotBytes (setDie s d) = jSlotBytes s := rfl
@[simp] theorem jRec_setDie (s : State) (d : Nat) : jRec (setDie s d) = jRec s := rfl
@[simp] theorem jDlog_setDie (s : State) (d : Nat) : jDlog (setDie s d) = jDlog s := rfl
@[simp] theorem bucketBytes_setDie (s : State) (d : Nat) : bucketBytes (setDie s d) = bucketBytes s := rfl
@[simp] theorem bucketOf_setDie (s : State) (d : Nat) : bucketOf (setDie s d) = bucketOf s := rfl
@[simp] theorem extBytes_setDie (s : State) (d : Nat) : extBytes (setDie s d) = extBytes s := rfl
@[simp] theorem extsOf_setDie (s : State) (d : Nat) : extsOf (setDie s d) = extsOf s := rfl
@[simp] theorem extGroup_setDie (s : State) (d : Nat) : extGroup (setDie s d) = extGroup s := rfl
@[simp] theorem extForm_setDie (s : State) (d : Nat) : extForm (setDie s d) = extForm s := rfl
@[simp] theorem replicaCoord_setDie (s : State) (d : Nat) : replicaCoord (setDie s d) = replicaCoord s := rfl
@[simp] theorem fcstAddr_setDie (s : State) (d : Nat) : fcstAddr (setDie s d) = fcstAddr s := rfl
@[simp] theorem fcstStep_setDie (s : State) (d : Nat) : fcstStep (setDie s d) = fcstStep s := rfl
@[simp] theorem fcstVals_setDie (s : State) (d : Nat) : fcstVals (setDie s d) = fcstVals s := rfl
@[simp] theorem chkGxe_setDie (s : State) (d : Nat) : chkGxe (setDie s d) = chkGxe s := rfl
@[simp] theorem fcstWait_setDie (s : State) (d : Nat) : fcstWait (setDie s d) = fcstWait s := rfl
@[simp] theorem readyPending_setDie (s : State) (d : Nat) : readyPending (setDie s d) = readyPending s := rfl
@[simp] theorem readyOpen_setDie (s : State) (d : Nat) : readyOpen (setDie s d) = readyOpen s := rfl
@[simp] theorem extAccess_setDie (s : State) (d : Nat) : extAccess (setDie s d) = extAccess s := rfl
@[simp] theorem pktBad_setDie (s : State) (d : Nat) : pktBad (setDie s d) = pktBad s := rfl
@[simp] theorem freeStore_setDie (s : State) (d : Nat) : freeStore (setDie s d) = freeStore s := rfl
@[simp] theorem windowNs_setDie (s : State) (d : Nat) : windowNs (setDie s d) = windowNs s := rfl
@[simp] theorem replicaDir_setDie (s : State) (d : Nat) : replicaDir (setDie s d) = replicaDir s := rfl
@[simp] theorem poolBufs_setDie (s : State) (d : Nat) : poolBufs (setDie s d) = poolBufs s := rfl
@[simp] theorem creditsOf_setDie (s : State) (d : Nat) : creditsOf (setDie s d) = creditsOf s := rfl
@[simp] theorem lullNs_setDie (s : State) (d : Nat) : lullNs (setDie s d) = lullNs s := rfl
@[simp] theorem replayNs_setDie (s : State) (d : Nat) : replayNs (setDie s d) = replayNs s := rfl
@[simp] theorem nextPool_setDie (s : State) (d : Nat) : nextPool (setDie s d) = nextPool s := rfl
@[simp] theorem linkBody_setDie (s : State) (d : Nat) : linkBody (setDie s d) = linkBody s := rfl
@[simp] theorem lateReply_setDie (s : State) (d : Nat) : lateReply (setDie s d) = lateReply s := rfl
@[simp] theorem arriveDir_setDie (s : State) (d : Nat) : arriveDir (setDie s d) = arriveDir s := rfl
@[simp] theorem lostCount_setDie (s : State) (d : Nat) : lostCount (setDie s d) = lostCount s := rfl
@[simp] theorem optGood_setDie (s : State) (d : Nat) : optGood (setDie s d) = optGood s := rfl
@[simp] theorem optWidth_setDie (s : State) (d : Nat) : optWidth (setDie s d) = optWidth s := rfl
@[simp] theorem narrowWidth_setDie (s : State) (d : Nat) : narrowWidth (setDie s d) = narrowWidth s := rfl
@[simp] theorem allUpOnce_setDie (s : State) (d : Nat) : allUpOnce (setDie s d) = allUpOnce s := rfl
@[simp] theorem jboxOf_setDie (s : State) (d : Nat) : jboxOf (setDie s d) = jboxOf s := rfl
@[simp] theorem boxLegal_setDie (s : State) (d : Nat) : boxLegal (setDie s d) = boxLegal s := rfl
@[simp] theorem fabExists_setDie (s : State) (d : Nat) : fabExists (setDie s d) = fabExists s := rfl
@[simp] theorem chkTor_setDie (s : State) (d : Nat) : chkTor (setDie s d) = chkTor s := rfl
@[simp] theorem jobQuiet_setDie (s : State) (d : Nat) : jobQuiet (setDie s d) = jobQuiet s := rfl
@[simp] theorem rsPermOf_setDie (s : State) (d : Nat) : rsPermOf (setDie s d) = rsPermOf s := rfl
@[simp] theorem rsBlocksOf_setDie (s : State) (d : Nat) : rsBlocksOf (setDie s d) = rsBlocksOf s := rfl
@[simp] theorem rsRefuse_setDie (s : State) (d : Nat) : rsRefuse (setDie s d) = rsRefuse s := rfl
@[simp] theorem regionHasMem_setDie (s : State) (d : Nat) : regionHasMem (setDie s d) = regionHasMem s := rfl
@[simp] theorem windowCovers_setDie (s : State) (d : Nat) : windowCovers (setDie s d) = windowCovers s := rfl
@[simp] theorem tgcRuns_setDie (s : State) (d : Nat) : tgcRuns (setDie s d) = tgcRuns s := rfl
@[simp] theorem windowAddr_setDie (s : State) (d : Nat) : windowAddr (setDie s d) = windowAddr s := rfl
@[simp] theorem chkDrz_setDie (s : State) (d : Nat) : chkDrz (setDie s d) = chkDrz s := rfl
@[simp] theorem gdrState_setDie (s : State) (d : Nat) : gdrState (setDie s d) = gdrState s := rfl
@[simp] theorem gdrEnabled_setDie (s : State) (d : Nat) : gdrEnabled (setDie s d) = gdrEnabled s := rfl
@[simp] theorem gdrCount_setDie (s : State) (d : Nat) : gdrCount (setDie s d) = gdrCount s := rfl
@[simp] theorem gdrLegal_setDie (s : State) (d : Nat) : gdrLegal (setDie s d) = gdrLegal s := rfl
@[simp] theorem gdrSize_setDie (s : State) (d : Nat) : gdrSize (setDie s d) = gdrSize s := rfl
@[simp] theorem allTrained_setDie (s : State) (d : Nat) : allTrained (setDie s d) = allTrained s := rfl
@[simp] theorem anyTraining_setDie (s : State) (d : Nat) : anyTraining (setDie s d) = anyTraining s := rfl
@[simp] theorem slowHeld_setDie (s : State) (d : Nat) : slowHeld (setDie s d) = slowHeld s := rfl
@[simp] theorem chanAddr_setDie (s : State) (d : Nat) : chanAddr (setDie s d) = chanAddr s := rfl
@[simp] theorem tgcUnits_setDie (s : State) (d : Nat) : tgcUnits (setDie s d) = tgcUnits s := rfl
@[simp] theorem tgcCounts_setDie (s : State) (d : Nat) : tgcCounts (setDie s d) = tgcCounts s := rfl
@[simp] theorem winBase_setDie (s : State) (d : Nat) : winBase (setDie s d) = winBase s := rfl
@[simp] theorem winSize_setDie (s : State) (d : Nat) : winSize (setDie s d) = winSize s := rfl
@[simp] theorem ctxRuns_setDie (s : State) (d : Nat) : ctxRuns (setDie s d) = ctxRuns s := rfl
@[simp] theorem corAcc_setDie (s : State) (d : Nat) : corAcc (setDie s d) = corAcc s := rfl
@[simp] theorem imemIdle_setDie (s : State) (d : Nat) : imemIdle (setDie s d) = imemIdle s := rfl
@[simp] theorem coreTo_setDie (s : State) (d : Nat) : coreTo (setDie s d) = coreTo s := rfl
@[simp] theorem shedRows_setDie (s : State) (d : Nat) : shedRows (setDie s d) = shedRows s := rfl
@[simp] theorem jobEnabled_setDie (s : State) (d : Nat) : jobEnabled (setDie s d) = jobEnabled s := rfl
@[simp] theorem regionTaken_setDie (s : State) (d : Nat) : regionTaken (setDie s d) = regionTaken s := rfl
@[simp] theorem unitTaken_setDie (s : State) (d : Nat) : unitTaken (setDie s d) = unitTaken s := rfl
@[simp] theorem slowAvail_setDie (s : State) (d : Nat) : slowAvail (setDie s d) = slowAvail s := rfl
@[simp] theorem boundOn_setDie (s : State) (d : Nat) : boundOn (setDie s d) = boundOn s := rfl
@[simp] theorem sharedPages_setDie (s : State) (d : Nat) : sharedPages (setDie s d) = sharedPages s := rfl
@[simp] theorem saveAddr_setDie (s : State) (d : Nat) : saveAddr (setDie s d) = saveAddr s := rfl
@[simp] theorem canRestore_setDie (s : State) (d : Nat) : canRestore (setDie s d) = canRestore s := rfl
@[simp] theorem candidate_setDie (s : State) (d : Nat) : candidate (setDie s d) = candidate s := rfl
@[simp] theorem coreLoad_setDie (s : State) (d : Nat) : coreLoad (setDie s d) = coreLoad s := rfl
@[simp] theorem chooseCore_setDie (s : State) (d : Nat) : chooseCore (setDie s d) = chooseCore s := rfl
@[simp] theorem taskWaits_setDie (s : State) (d : Nat) : taskWaits (setDie s d) = taskWaits s := rfl
@[simp] theorem keyOf_setDie (s : State) (d : Nat) : keyOf (setDie s d) = keyOf s := rfl
@[simp] theorem checkImage_setDie (s : State) (d : Nat) : checkImage (setDie s d) = checkImage s := rfl
@[simp] theorem measurements_setDie (s : State) (d : Nat) : measurements (setDie s d) = measurements s := rfl
@[simp] theorem measOf_setDie (s : State) (d : Nat) : measOf (setDie s d) = measOf s := rfl
@[simp] theorem secBoot_setDie (s : State) (d : Nat) : secBoot (setDie s d) = secBoot s := rfl
@[simp] theorem ownerOk_setDie (s : State) (d : Nat) : ownerOk (setDie s d) = ownerOk s := rfl
@[simp] theorem attests_setDie (s : State) (d : Nat) : attests (setDie s d) = attests s := rfl
@[simp] theorem measAll_setDie (s : State) (d : Nat) : measAll (setDie s d) = measAll s := rfl
@[simp] theorem revokeBarred_setDie (s : State) (d : Nat) : revokeBarred (setDie s d) = revokeBarred s := rfl
@[simp] theorem nonceWord_setDie (s : State) (d : Nat) : nonceWord (setDie s d) = nonceWord s := rfl
@[simp] theorem lcsProof_setDie (s : State) (d : Nat) : lcsProof (setDie s d) = lcsProof s := rfl
@[simp] theorem lcsStatus_setDie (s : State) (d : Nat) : lcsStatus (setDie s d) = lcsStatus s := rfl
@[simp] theorem pwrDetail_setDie (s : State) (d : Nat) : pwrDetail (setDie s d) = pwrDetail s := rfl
@[simp] theorem pwrG_setDie (s : State) (d : Nat) : pwrG (setDie s d) = pwrG s := rfl
@[simp] theorem pwrReq_setDie (s : State) (d : Nat) : pwrReq (setDie s d) = pwrReq s := rfl
@[simp] theorem powerCap_setDie (s : State) (d : Nat) : powerCap (setDie s d) = powerCap s := rfl
@[simp] theorem thermalCap_setDie (s : State) (d : Nat) : thermalCap (setDie s d) = thermalCap s := rfl
@[simp] theorem hostCmds_setDie (s : State) (d : Nat) : hostCmds (setDie s d) = hostCmds s := rfl
@[simp] theorem s1Ready_setDie (s : State) (d : Nat) : s1Ready (setDie s d) = s1Ready s := rfl
@[simp] theorem retained_setDie (s : State) (d : Nat) : retained (setDie s d) = retained s := rfl
@[simp] theorem stackSr_setDie (s : State) (d : Nat) : stackSr (setDie s d) = stackSr s := rfl
@[simp] theorem loadEstimate_setDie (s : State) (d : Nat) : loadEstimate (setDie s d) = loadEstimate s := rfl
@[simp] theorem frostCell_setDie (s : State) (d : Nat) : frostCell (setDie s d) = frostCell s := rfl
@[simp] theorem thawList_setDie (s : State) (d : Nat) : thawList (setDie s d) = thawList s := rfl
@[simp] theorem regionTo_setDie (s : State) (d : Nat) : regionTo (setDie s d) = regionTo s := rfl
@[simp] theorem boundIn_setDie (s : State) (d : Nat) : boundIn (setDie s d) = boundIn s := rfl
@[simp] theorem mayCommand_setDie (s : State) (d : Nat) : mayCommand (setDie s d) = mayCommand s := rfl
@[simp] theorem mayName_setDie (s : State) (d : Nat) : mayName (setDie s d) = mayName s := rfl
@[simp] theorem nameAt_setDie (s : State) (d : Nat) : nameAt (setDie s d) = nameAt s := rfl
@[simp] theorem nameCmd_setDie (s : State) (d : Nat) : nameCmd (setDie s d) = nameCmd s := rfl
@[simp] theorem chkBody_setDie (s : State) (d : Nat) : chkBody (setDie s d) = chkBody s := rfl
@[simp] theorem chkCmd_setDie (s : State) (d : Nat) : chkCmd (setDie s d) = chkCmd s := rfl
@[simp] theorem chkHost_setDie (s : State) (d : Nat) : chkHost (setDie s d) = chkHost s := rfl
@[simp] theorem queueFull_setDie (s : State) (d : Nat) : queueFull (setDie s d) = queueFull s := rfl
@[simp] theorem unreleased_setDie (s : State) (d : Nat) : unreleased (setDie s d) = unreleased s := rfl
@[simp] theorem mayDispatch_setDie (s : State) (d : Nat) : mayDispatch (setDie s d) = mayDispatch s := rfl
@[simp] theorem issueMay_setDie (s : State) (d : Nat) : issueMay (setDie s d) = issueMay s := rfl
@[simp] theorem chkIssue_setDie (s : State) (d : Nat) : chkIssue (setDie s d) = chkIssue s := rfl
@[simp] theorem engBlocked_setDie (s : State) (d : Nat) : engBlocked (setDie s d) = engBlocked s := rfl
@[simp] theorem canStart_setDie (s : State) (d : Nat) : canStart (setDie s d) = canStart s := rfl
@[simp] theorem startable_setDie (s : State) (d : Nat) : startable (setDie s d) = startable s := rfl
@[simp] theorem pickJob_setDie (s : State) (d : Nat) : pickJob (setDie s d) = pickJob s := rfl
@[simp] theorem engBusy_setDie (s : State) (d : Nat) : engBusy (setDie s d) = engBusy s := rfl
@[simp] theorem engState_setDie (s : State) (d : Nat) : engState (setDie s d) = engState s := rfl
@[simp] theorem cntData_setDie (s : State) (d : Nat) : cntData (setDie s d) = cntData s := rfl
@[simp] theorem viewMxa_setDie (s : State) (d : Nat) : viewMxa (setDie s d) = viewMxa s := rfl
@[simp] theorem viewVen_setDie (s : State) (d : Nat) : viewVen (setDie s d) = viewVen s := rfl
@[simp] theorem atnRun_setDie (s : State) (d : Nat) : atnRun (setDie s d) = atnRun s := rfl
@[simp] theorem viewAtn_setDie (s : State) (d : Nat) : viewAtn (setDie s d) = viewAtn s := rfl
@[simp] theorem outCredits_setDie (s : State) (d : Nat) : outCredits (setDie s d) = outCredits s := rfl
@[simp] theorem trcState_setDie (s : State) (d : Nat) : trcState (setDie s d) = trcState s := rfl
@[simp] theorem viewTrc_setDie (s : State) (d : Nat) : viewTrc (setDie s d) = viewTrc s := rfl
@[simp] theorem upfState_setDie (s : State) (d : Nat) : upfState (setDie s d) = upfState s := rfl
@[simp] theorem viewUpf_setDie (s : State) (d : Nat) : viewUpf (setDie s d) = viewUpf s := rfl
@[simp] theorem rgnWaiting_setDie (s : State) (d : Nat) : rgnWaiting (setDie s d) = rgnWaiting s := rfl
@[simp] theorem noticeNow_setDie (s : State) (d : Nat) : noticeNow (setDie s d) = noticeNow s := rfl
@[simp] theorem viewUps_setDie (s : State) (d : Nat) : viewUps (setDie s d) = viewUps s := rfl
@[simp] theorem viewLnk_setDie (s : State) (d : Nat) : viewLnk (setDie s d) = viewLnk s := rfl
@[simp] theorem torState_setDie (s : State) (d : Nat) : torState (setDie s d) = torState s := rfl
@[simp] theorem suspCount_setDie (s : State) (d : Nat) : suspCount (setDie s d) = suspCount s := rfl
@[simp] theorem jobBusy_setDie (s : State) (d : Nat) : jobBusy (setDie s d) = jobBusy s := rfl
@[simp] theorem viewJob_setDie (s : State) (d : Nat) : viewJob (setDie s d) = viewJob s := rfl
@[simp] theorem viewHub_setDie (s : State) (d : Nat) : viewHub (setDie s d) = viewHub s := rfl
@[simp] theorem viewPwr_setDie (s : State) (d : Nat) : viewPwr (setDie s d) = viewPwr s := rfl
@[simp] theorem viewRst_setDie (s : State) (d : Nat) : viewRst (setDie s d) = viewRst s := rfl
@[simp] theorem viewSec_setDie (s : State) (d : Nat) : viewSec (setDie s d) = viewSec s := rfl
@[simp] theorem viewLcs_setDie (s : State) (d : Nat) : viewLcs (setDie s d) = viewLcs s := rfl
@[simp] theorem viewCnt_setDie (s : State) (d : Nat) : viewCnt (setDie s d) = viewCnt s := rfl
@[simp] theorem viewGdr_setDie (s : State) (d : Nat) : viewGdr (setDie s d) = viewGdr s := rfl
@[simp] theorem statusOf_setDie (s : State) (d : Nat) : statusOf (setDie s d) = statusOf s := rfl
@[simp] theorem pageServed_setDie (s : State) (d : Nat) : pageServed (setDie s d) = pageServed s := rfl
@[simp] theorem stageWrites_setDie (s : State) (d : Nat) : stageWrites (setDie s d) = stageWrites s := rfl
@[simp] theorem jobMay_setDie (s : State) (d : Nat) : jobMay (setDie s d) = jobMay s := rfl
@[simp] theorem slotsOf_setDie (s : State) (d : Nat) : slotsOf (setDie s d) = slotsOf s := rfl
@[simp] theorem bar2May_setDie (s : State) (d : Nat) : bar2May (setDie s d) = bar2May s := rfl
@[simp] theorem broken_setDie (s : State) (d : Nat) : broken (setDie s d) = broken s := rfl
@[simp] theorem slotQueue_setDie (s : State) (d : Nat) : slotQueue (setDie s d) = slotQueue s := rfl
@[simp] theorem headWaits_setDie (s : State) (d : Nat) : headWaits (setDie s d) = headWaits s := rfl
@[simp] theorem lacksEntry_setDie (s : State) (d : Nat) : lacksEntry (setDie s d) = lacksEntry s := rfl
@[simp] theorem engTime_setDie (s : State) (d : Nat) : engTime (setDie s d) = engTime s := rfl
@[simp] theorem pseTime_setDie (s : State) (d : Nat) : pseTime (setDie s d) = pseTime s := rfl
@[simp] theorem upfTime_setDie (s : State) (d : Nat) : upfTime (setDie s d) = upfTime s := rfl
@[simp] theorem upsTime_setDie (s : State) (d : Nat) : upsTime (setDie s d) = upsTime s := rfl
@[simp] theorem gxeTime_setDie (s : State) (d : Nat) : gxeTime (setDie s d) = gxeTime s := rfl
@[simp] theorem pwrTime_setDie (s : State) (d : Nat) : pwrTime (setDie s d) = pwrTime s := rfl
@[simp] theorem timeOf_setDie (s : State) (d : Nat) : timeOf (setDie s d) = timeOf s := rfl

end Sys2Proof.Laws
end

