-- ==== Sys2Proof/Laws/Exec.lean ====
section
/-! SUPPORT. How a command acts: the gates around an effect, an instruction of a context, and what a halting context
leaves. -/
namespace Sys2Proof.Laws
open Sys2Proof.Machine

/-! ### Gates -/

theorem onHub_eq {s : State} (h : FabricOn s) (f : State → State) : onHub s f = f s := by
  obtain ⟨h1, h2, _⟩ := h
  have : (s.halted || decide (2 ≤ s.pstate)) = false := by rw [h1]; simp; omega
  simp only [onHub, this]; rfl

theorem live_eq {s : State} (h : s.pstate < 2) (f : State → State) : live s f = f s := by
  rw [live, if_neg (by omega)]

theorem acting_eq {s : State} (h : FabricOn s) (d : Nat) (f : State → State) :
    acting s d f = setDie (f (setDie s (d + 1))) 0 := by
  obtain ⟨h1, h2, _⟩ := h
  have : (s.halted || decide (2 ≤ s.pstate)) = false := by rw [h1]; simp; omega
  simp only [acting, this]; rfl

theorem served_eq {s : State} (h : s.cxlUp = true) (f : State → State) : served s f = f s := by
  rw [served, if_pos h]

theorem effect_eq {s t : State} (f : State → State) (h : f s = t) (hp : t.pending = s.pending) :
    effect s f = .next t := by
  rw [effect, h, ← hp, setPending_self]

/-! ### An instruction of a context -/

/-- The context whose turn it is executes. -/
theorem nextCtx_runs {s : State} {core x : Nat} (h : nextCtx s core = some x) : ctxRuns s core x = true := List.find?_some h

theorem fabricOn_of_executes {s : State} {core x : Nat} {p : Nat → Bool} (h : Executes s core x p) : FabricOn s := by
  obtain ⟨h1, _, _, h4, _⟩ := h
  have h1 := nextCtx_runs h1
  simp only [ctxRuns, Bool.and_eq_true, decide_eq_true_eq, Bool.not_eq_true', beq_iff_eq] at h1
  exact ⟨h1.1.2, by omega, h4⟩

/-- An instruction that executes has its meaning, and its context has had its turn. -/
theorem instr_eq {s : State} {core x : Nat} {p : Nat → Bool} (h : Executes s core x p) (f : Ctx → State) :
    instr s core x p f = tookTurn (f (ctxOf s core x)) core x := by
  obtain ⟨h1, h2, h3, _, h5⟩ := h
  have e2 : ¬ (winSize s core x ≤ (ctxOf s core x).pc) := Nat.not_le.2 h2
  simp only [instr, h1, e2, h3, h5, if_true, if_false]

/-- The same on the die of the core. -/
theorem instr_die {s : State} {core x : Nat} {p : Nat → Bool} (h : Executes s core x p) (d : Nat) (f : Ctx → State) :
    instr (setDie s d) core x p f = tookTurn (f (ctxOf s core x)) core x := by
  obtain ⟨h1, h2, h3, _, h5⟩ := h
  have e1 : nextCtx (setDie s d) core = some x := h1
  have e2 : ¬ (winSize s core x ≤ (ctxOf s core x).pc) := Nat.not_le.2 h2
  have e5 : fetched (setDie s d) core x = fetched s core x := rfl
  simp only [instr, e1, e5, winSize_setDie, setDie_reads, e2, badIn_setDie, winBase_setDie, h3, h5, if_true, if_false]

/-- An instruction command in a context that executes. -/
theorem effect_instr {s : State} {core x : Nat} {p : Nat → Bool} (h : Executes s core x p) (f : State → Ctx → State) :
    effect s (fun s => onCore s core (fun s => instr s core x p (f s))) =
      .next (setPending (setDie (tookTurn (f (setDie s (core / 1024 + 1)) (ctxOf s core x)) core x) 0) s.pending) := by
  rw [effect, onCore, acting_eq (fabricOn_of_executes h), instr_die h]

/-- An instruction whose whole effect is on its context. -/
theorem effect_ctx {s : State} {core x : Nat} {p : Nat → Bool} (h : Executes s core x p) (f : State → Ctx → State) (c : Ctx)
    (hf : f (setDie s (core / 1024 + 1)) (ctxOf s core x) = setCtx (setDie s (core / 1024 + 1)) core x c) :
    effect s (fun s => onCore s core (fun s => instr s core x p (f s))) = .next (tookTurn (setCtx s core x c) core x) := by
  rw [effect_instr h, hf]
  show _ = Host.Outcome.next (tookTurn (setCtx s core x c) core x)
  rw [show setDie (tookTurn (setCtx (setDie s (core / 1024 + 1)) core x c) core x) 0 =
    setDie (tookTurn (setCtx s core x c) core x) 0 from rfl, ← h.2.2.2.1]
  rfl

/-! ### A halting context (R74, R75) -/

theorem bump_ctxs (s : State) (p i n : Nat) : (bump s p i n).ctxs = s.ctxs := by rw [(reports_bump s p i n).rest]

theorem trcStore_ctxs (k : Nat) (w : Bool) : ∀ (us : List Nat) (s : State), (trcStore s k w us).ctxs = s.ctxs
  | [], _ => rfl
  | u :: us, s => by
    rw [trcStore, trcStore_ctxs k w us]
    rfl

theorem trcPacket_ctxs (s : State) (core : Nat) (us : List Nat) : (trcPacket s core us).ctxs = s.ctxs := by
  unfold trcPacket
  simp only
  split
  · rfl
  · split
    · split
      · show (bump _ _ _ _).ctxs = _; rw [bump_ctxs, trcStore_ctxs]
      · simp only [bump_ctxs, trcStore_ctxs]
    · split
      · rfl
      · rw [bump_ctxs]; rfl

theorem ctxOf_congr {s t : State} (h : s.ctxs = t.ctxs) (core x : Nat) : ctxOf s core x = ctxOf t core x := by
  unfold ctxOf; rw [h]

/-- A packet of a traced context may empty the gathered branch outcomes; no context changes otherwise. -/
theorem trcEmit_ctx (s : State) (core x : Nat) (us : List Nat) :
    ∃ n b, ∀ core' x', ctxOf (trcEmit s core x us) core' x' =
      if core' * 4 + x' = core * 4 + x then { ctxOf s core' x' with brN := n, brBits := b } else ctxOf s core' x' := by
  have same : ∀ t : State, t.ctxs = s.ctxs → ∀ core' x', ctxOf t core' x' = ctxOf s core' x' :=
    fun _ h => ctxOf_congr h
  have due : ∀ t : State, (trcSyncDue t core x).ctxs = t.ctxs := by
    intro t; unfold trcSyncDue trcSync; split
    · rw [trcPacket_ctxs]
    · rfl
  by_cases ht : traced s core x = true
  · by_cases hn : (ctxOf s core x).brN = 0
    · refine ⟨(ctxOf s core x).brN, (ctxOf s core x).brBits, fun core' x' => ?_⟩
      have : (trcEmit s core x us).ctxs = s.ctxs := by
        rw [trcEmit, if_pos ht, due, trcPacket_ctxs, trcFlush, if_pos hn]
      rw [same _ this]
      split
      · rename_i h
        have : ctxOf s core' x' = ctxOf s core x := by unfold ctxOf; rw [h]
        rw [this]
      · rfl
    · refine ⟨0, 0, fun core' x' => ?_⟩
      have : (trcEmit s core x us).ctxs = (setCtx s core x { ctxOf s core x with brN := 0, brBits := 0 }).ctxs := by
        rw [trcEmit, if_pos ht, due, trcPacket_ctxs, trcFlush, if_neg hn, trcPacket_ctxs]
      have e : ctxOf (trcEmit s core x us) core' x' =
          ctxOf (setCtx s core x { ctxOf s core x with brN := 0, brBits := 0 }) core' x' := ctxOf_congr this _ _
      rw [e, ctxOf_setCtx]
      split
      · rename_i h
        have : ctxOf s core' x' = ctxOf s core x := by unfold ctxOf; rw [h]
        rw [this]
      · rfl
  · refine ⟨(ctxOf s core x).brN, (ctxOf s core x).brBits, fun core' x' => ?_⟩
    rw [trcEmit, if_neg ht]
    split
    · rename_i h
      have : ctxOf s core' x' = ctxOf s core x := by unfold ctxOf; rw [h]
      rw [this]
    · rfl

theorem foldl_ctxs {β : Type} (f : State → β → State) (h : ∀ s x, (f s x).ctxs = s.ctxs) :
    ∀ (l : List β) (s : State), (l.foldl f s).ctxs = s.ctxs
  | [], _ => rfl
  | x :: xs, s => by rw [List.foldl_cons, foldl_ctxs f h xs, h]

theorem setEng_ctxs (s : State) (e : Nat) (g : Engine) : (setEng s e g).ctxs = s.ctxs := rfl
theorem finishQueued_ctxs (s : State) (e : Nat) (p : QCmd → Bool) (st : Nat) : (finishQueued s e p st).ctxs = s.ctxs :=
  setEng_ctxs s e _
theorem dropQueued_ctxs (s : State) (e : Nat) (p : QCmd → Bool) : (dropQueued s e p).ctxs = s.ctxs := setEng_ctxs s e _
theorem finishDrop_ctxs (s : State) (e : Nat) (p q : QCmd → Bool) (st : Nat) :
    (finishQueued (dropQueued s e p) e q st).ctxs = s.ctxs := by rw [finishQueued_ctxs, dropQueued_ctxs]
theorem setRun_ctxs (s : State) (e : Nat) (r : RCmd) : (setRun s e r).ctxs = s.ctxs := rfl
theorem finish_ctxs (s : State) (r : RCmd) (st : Nat) (b : List Byte) : (finish s r st b).ctxs = s.ctxs := rfl
theorem freeOrphans_ctxs (s : State) (core : Nat) : (freeOrphans s core).ctxs = s.ctxs := rfl
theorem venRelease_ctxs (s : State) (core job : Nat) : (venRelease s core job).ctxs = s.ctxs := rfl
theorem mxaRelease_ctxs (s : State) (core job : Nat) : (mxaRelease s core job).ctxs = s.ctxs := rfl
theorem mxaLastHalt_ctxs (s : State) (core job : Nat) : (mxaLastHalt s core job).ctxs = s.ctxs := by
  unfold mxaLastHalt
  simp only
  split <;> simp only [setMxa_fields, mxaRelease_ctxs]

theorem haltSaved_ctxs (s : State) (core x status : Nat) : (haltSaved s core x status).ctxs = s.ctxs := by
  unfold haltSaved
  simp only
  rw [foldl_ctxs _ (fun s y => setEng_ctxs s _ _)]
theorem giveUpSaved_ctxs (s : State) (core job : Nat) : (giveUpSaved s core job).ctxs = s.ctxs := rfl

/-- The contexts after one of them halts (R74, R75): it is HALTED with its status, its PC and registers as they were, and
nothing stalls, waits or owns it; every other context is as it was. -/
theorem haltCtx_ctx (s : State) (core x status engine : Nat) :
    ∃ n b, ∀ core' x', ctxOf (haltCtx s core x status engine) core' x' =
      if core' * 4 + x' = core * 4 + x then
        { ctxOf s core' x' with st := 3, haltStatus := status, stall := none, wait := none, starter := none
                                failEngine := engine, brN := n, brBits := b }
      else ctxOf s core' x' := by
  obtain ⟨n, b, h⟩ := trcEmit_ctx s core x [trcHead 5 core x + 2 ^ 16 * status + 2 ^ 24 * (ctxOf s core x).pc, s.time]
  refine ⟨n, b, fun core' x' => ?_⟩
  generalize ht : trcEmit s core x [trcHead 5 core x + 2 ^ 16 * status + 2 ^ 24 * (ctxOf s core x).pc, s.time] = t at h
  have key : (haltCtx s core x status engine).ctxs =
      (setCtx t core x { ctxOf t core x with st := 3, haltStatus := status, stall := none, wait := none, starter := none
                                             failEngine := engine }).ctxs := by
    unfold haltCtx
    rw [ht]
    extract_lets s0 src c s1 engs s2 s3 s4 job
    have h2 : s2.ctxs = s1.ctxs := by
      show (if status = stOK then s1 else _).ctxs = _
      split
      · rfl
      · rw [haltSaved_ctxs]; exact foldl_ctxs _ (fun s e => finishDrop_ctxs s e _ _ _) engs s1
    have h3 : s3.ctxs = s2.ctxs := by
      show (match c.starter with | none => s2 | some q => _).ctxs = _
      split
      · rfl
      · split <;> rfl
    have h4 : s4.ctxs = s1.ctxs := (freeOrphans_ctxs s3 core).trans (h3.trans h2)
    split
    · exact h4
    · rw [giveUpSaved_ctxs, mxaLastHalt_ctxs, venRelease_ctxs]; exact h4
  have e : ctxOf (haltCtx s core x status engine) core' x' = ctxOf (setCtx t core x
      { ctxOf t core x with st := 3, haltStatus := status, stall := none, wait := none, starter := none
                            failEngine := engine }) core' x' :=
    ctxOf_congr key _ _
  rw [e, ctxOf_setCtx]
  split
  · rename_i hk
    have hs : ctxOf s core' x' = ctxOf s core x := by unfold ctxOf; rw [hk]
    rw [h, if_pos rfl, hs]
  · rename_i hk
    rw [h, if_neg hk]

end Sys2Proof.Laws
end

