-- ==== Sys2Proof/Laws/Keep.lean ====
section
/-! SUPPORT. What every operation keeps: the queue of waiting commands, the canonical form, and what the fuses hold. -/
namespace Sys2Proof.Laws
open Sys2Proof.Machine

/-- Fuses only grow, from a state whose life-cycle code is one of the five. -/
def FusesGrow (a b : Fuses) : Prop := a.lcs ≤ 4 → FusesKeep a b ∧ b.lcs ≤ 4

theorem FusesGrow.refl (a : Fuses) : FusesGrow a a := fun h => ⟨⟨Nat.le_refl _, Nat.le_refl _, fun _ h => h⟩, h⟩

theorem FusesGrow.trans {a b c : Fuses} (h : FusesGrow a b) (h' : FusesGrow b c) : FusesGrow a c := fun ha =>
  let ⟨⟨p, q, r⟩, hb⟩ := h ha
  let ⟨⟨p', q', r'⟩, hc⟩ := h' hb
  ⟨⟨Nat.le_trans p p', Nat.le_trans q q', fun k hk => r' k (r k hk)⟩, hc⟩

/-- `t`, which an operation makes of `s`, waits for the same commands, is canonical where `s` is, and has its fuses. -/
structure Keeps (s t : State) : Prop where
  pending : t.pending = s.pending
  die : s.actDie = 0 → t.actDie = 0
  mem : mapWf 0 s.mem = true → mapWf 0 t.mem = true
  regs : regsWf s.regs = true → regsWf t.regs = true
  bad : rising s.bad = true → rising t.bad = true
  fuses : FusesGrow s.fuses t.fuses

namespace Keeps

theorem refl (s : State) : Keeps s s := ⟨rfl, id, id, id, id, FusesGrow.refl _⟩

theorem trans {s t u : State} (h : Keeps s t) (h' : Keeps t u) : Keeps s u :=
  ⟨h'.pending.trans h.pending, fun x => h'.die (h.die x), fun x => h'.mem (h.mem x), fun x => h'.regs (h.regs x),
    fun x => h'.bad (h.bad x), h.fuses.trans h'.fuses⟩

theorem ite {s t u : State} {c : Prop} [Decidable c] (h : Keeps s t) (h' : Keeps s u) : Keeps s (if c then t else u) := by
  split <;> assumption

theorem foldl {β : Type} {s t : State} {f : State → β → State} {l : List β} (h : Keeps s t)
    (hf : ∀ u x, Keeps u (f u x)) : Keeps s (l.foldl f t) := by
  induction l generalizing t with
  | nil => exact h
  | cons x xs ih => exact ih (h.trans (hf t x))

theorem foldl1 {β γ : Type} {s : State} {f : State × γ → β → State × γ} {l : List β} {p : State × γ} (h : Keeps s p.1)
    (hf : ∀ u g x, Keeps u (f (u, g) x).1) : Keeps s (l.foldl f p).1 := by
  induction l generalizing p with
  | nil => exact h
  | cons x xs ih => exact ih (h.trans (hf p.1 p.2 x))

/-- An update of the other fields. -/
theorem rest {s t u : State} (h : Keeps s t) (hp : u.pending = t.pending) (hd : u.actDie = t.actDie) (hm : u.mem = t.mem)
    (hr : u.regs = t.regs) (hb : u.bad = t.bad) (hf : u.fuses = t.fuses) : Keeps s u :=
  ⟨hp.trans h.pending, fun x => hd ▸ h.die x, fun x => hm ▸ h.mem x, fun x => hr ▸ h.regs x, fun x => hb ▸ h.bad x,
    hf ▸ h.fuses⟩

end Keeps

/-! ### Strictly rising lists of numbers -/

def allAbove (k : Nat) (l : List Nat) : Prop := ∀ e ∈ l, k < e

theorem rising_cons {a : Nat} {l : List Nat} : rising (a :: l) = true ↔ allAbove a l ∧ rising l = true := by
  induction l generalizing a with
  | nil => simp [rising, allAbove]
  | cons b t ih =>
    rw [rising, Bool.and_eq_true, decide_eq_true_eq, ih]
    refine ⟨fun ⟨h, hb, ht⟩ => ⟨?_, hb, ht⟩, fun ⟨h, hb, ht⟩ => ⟨h b (List.mem_cons_self ..), hb, ht⟩⟩
    intro e he
    rcases List.mem_cons.1 he with rfl | he
    · exact h
    · exact Nat.lt_trans h (hb e he)

theorem rising_filter (p : Nat → Bool) : ∀ {l : List Nat}, rising l = true → rising (l.filter p) = true
  | [], _ => rfl
  | a :: t, h => by
    rw [rising_cons] at h
    rw [List.filter_cons]
    split
    · exact rising_cons.2 ⟨fun e he => h.1 e (List.mem_filter.1 he).1, rising_filter p h.2⟩
    · exact rising_filter p h.2

theorem mem_setAdd {i e : Nat} : ∀ {l : List Nat}, e ∈ setAdd l i → e = i ∨ e ∈ l
  | [], h => by simpa [setAdd] using h
  | k :: t, h => by
    unfold setAdd at h
    split at h
    · rcases List.mem_cons.1 h with rfl | h
      · exact .inr (List.mem_cons_self ..)
      · rcases mem_setAdd h with h | h
        · exact .inl h
        · exact .inr (List.mem_cons_of_mem _ h)
    · split at h
      · exact .inr h
      · rcases List.mem_cons.1 h with rfl | h
        · exact .inl rfl
        · exact .inr h

theorem rising_setAdd {i : Nat} : ∀ {l : List Nat}, rising l = true → rising (setAdd l i) = true
  | [], _ => rfl
  | k :: t, h => by
    have h' := rising_cons.1 h
    unfold setAdd
    split
    · rename_i hk
      refine rising_cons.2 ⟨fun e he => ?_, rising_setAdd h'.2⟩
      rcases mem_setAdd he with rfl | he
      · exact hk
      · exact h'.1 e he
    · split
      · exact h
      · refine rising_cons.2 ⟨fun e he => ?_, h⟩
        rcases List.mem_cons.1 he with rfl | he
        · omega
        · have := h'.1 e he; omega

theorem rising_foldl_setAdd (f : Nat → Nat) : ∀ (l m : List Nat), rising m = true →
    rising (l.foldl (fun l b => setAdd l (f b)) m) = true
  | [], _, h => h
  | _ :: t, _, h => rising_foldl_setAdd f t _ (rising_setAdd h)

/-! ### Registers and memory -/

theorem regsWf_filter (p : Nat × W64 → Bool) {m : SMap W64} (h : regsWf m = true) : regsWf (m.filter p) = true := by
  simp only [regsWf, Bool.and_eq_true, List.all_eq_true] at h ⊢
  exact ⟨keysRise_filter p h.1, fun e he => h.2 e (List.mem_filter.1 he).1⟩

theorem regsWf_cons {a : Nat × W64} {m : SMap W64} :
    regsWf (a :: m) = true ↔ above a.1 m ∧ a.2 ≠ regReset a.1 ∧ regsWf m = true := by
  simp only [regsWf, Bool.and_eq_true, keysRise_cons, List.all_cons, decide_eq_true_eq]
  constructor
  · exact fun ⟨⟨a, b⟩, c, e⟩ => ⟨a, c, b, e⟩
  · exact fun ⟨a, c, b, e⟩ => ⟨⟨a, b⟩, c, e⟩

theorem regsWf_mapPut {i : Nat} {v : W64} : ∀ {m : SMap W64}, regsWf m = true →
    regsWf (mapPut (regReset i) m i v) = true
  | [], _ => by
    unfold mapPut
    split
    · rfl
    · rename_i h; simp [regsWf, keysRise, h]
  | (k, w) :: t, h => by
    have h' := regsWf_cons.1 h
    unfold mapPut
    split
    · rename_i hk
      exact regsWf_cons.2 ⟨above_mapPut h'.1 hk, h'.2.1, regsWf_mapPut h'.2.2⟩
    · rename_i hk
      split
      · exact regsWf_filter _ h
      · rename_i hv
        refine regsWf_cons.2 ⟨?_, hv, regsWf_filter _ h⟩
        intro e he
        obtain ⟨he, hne⟩ := List.mem_filter.1 he
        simp only [decide_eq_true_eq] at hne
        rcases List.mem_cons.1 he with rfl | he
        · show i < k; have : k ≠ i := hne; omega
        · have := h'.1 e he; simp only at this ⊢; omega

theorem mapWf_memWrite : ∀ (bs : List Byte) (m : List Host.Cell) (a : Nat), mapWf 0 m = true →
    mapWf 0 (memWrite m a bs) = true
  | [], _, _, h => h
  | _ :: bs, _, _, h => mapWf_memWrite bs _ _ (mapWf_mapPut h)

theorem mapWf_foldl_mapPut (f : Nat → Nat) : ∀ (l m : List Host.Cell), mapWf (0 : Byte) m = true →
    mapWf (0 : Byte) (l.foldl (fun m c => mapPut 0 m (f c.1) c.2) m) = true
  | [], _, h => h
  | _ :: t, _, h => mapWf_foldl_mapPut f t _ (mapWf_mapPut h)

variable {s t : State}

theorem keeps_setReg (p o v : Nat) (h : Keeps s t) : Keeps s (setReg t p o v) :=
  h.trans ⟨rfl, id, id, regsWf_mapPut, id, FusesGrow.refl _⟩

theorem keeps_wrMem (a : Nat) (bs : List Byte) (h : Keeps s t) : Keeps s (wrMem t a bs) :=
  h.trans ⟨rfl, id, mapWf_memWrite bs _ a, id, rising_filter _, FusesGrow.refl _⟩

theorem keeps_wipe (lo n : Nat) (h : Keeps s t) : Keeps s (wipe t lo n) :=
  h.trans ⟨rfl, id, mapWf_filter _, id, rising_filter _, FusesGrow.refl _⟩

theorem keeps_spoil (a : Nat) (h : Keeps s t) : Keeps s (spoil t a) :=
  h.trans ⟨rfl, id, id, id, rising_setAdd, FusesGrow.refl _⟩

/-- An update of fields that are not kept in step. -/
theorem keeps_mk (free' time' nextId' aolWritten' pstate' tierPorts' tierGib' nonceNo' cutRoles' cxlRef' : Nat) (timeRuns'
      traceFrozen' cxlUp' portReleased' fabricOpen' halted' tierDown' tierTraining' hdm' vaon' : Bool) (cntIdx' ctrs'
      msixPend' msixSent' turn' tracePkts' : SMap Nat) (msixTable' : SMap W64) (hqs' : SMap HQueue) (engs' : SMap
      Engine) (ctxs' : SMap Ctx) (traces' : SMap TraceBuf) (reply' : Reply) (saves' : SMap Saved) (mxas' : SMap Mxa) (vens'
      : SMap Ven) (outChs' : SMap OutCh) (inChs' : SMap InCh) (pses' : SMap Pse) (upfs' : SMap Upf) (digs' : SMap Dig)
      (notices' : List Notice) (mboxHeld' : List Nat) (landReports' : List (Nat × Nat × Nat)) (repairOut' owed' : List (Nat
      × Nat × List Byte)) (lnks' : SMap Lnk) (rxStreams' : SMap (List Byte)) (puts' : List PutOut) (putWait' : List PutReq)
      (reshard' : Option Reshard) (gxes' : SMap Gxe) (zeroing' : List Freed) (thawing' : List ThawPart) (pwr' : Pwr) (sec' :
      Sec) (aolMeas' : List Byte) (resetWait' : Option (Nat × Nat × StartUp)) (bundles' : SMap Bundle) (h : Keeps s t) :
    Keeps s (State.mk t.pending free' time' timeRuns' cxlRef' t.mem t.bad t.regs cntIdx' ctrs' msixTable' msixPend' msixSent'
      nextId' hqs' engs' ctxs' turn' traces' traceFrozen' tracePkts' reply' saves' aolWritten' cxlUp' portReleased'
      fabricOpen' pstate' halted' tierPorts' tierGib' tierDown' tierTraining' mxas' vens' outChs' inChs' pses' upfs' digs'
      notices' mboxHeld' landReports' repairOut' lnks' rxStreams' puts' putWait' reshard' gxes' hdm' zeroing' thawing' pwr'
      sec' t.fuses nonceNo' vaon' aolMeas' owed' resetWait' bundles' cutRoles' t.actDie) := h.rest rfl rfl rfl rfl rfl rfl
end Sys2Proof.Laws
end

