-- ==== Sys2Proof/Laws/KeepOps.lean ====
section
/-! SUPPORT. What the operations of Ops, Run, Route keep. -/
namespace Sys2Proof.Laws
open Sys2Proof.Machine

variable {s t : State}

theorem keeps_setRegF (page : Nat) (off : Nat) (lo : Nat) (w : Nat) (x : Nat) (h : Keeps s t) : Keeps s (Machine.setRegF t page off lo w x) := by
  unfold Machine.setRegF
  try dsimp only
  repeat' with_reducible first | exact h | apply keeps_setReg


theorem keeps_setHq (q : Nat) (h1 : HQueue) (h : Keeps s t) : Keeps s (Machine.setHq t q h1) := by
  unfold Machine.setHq
  try dsimp only
  repeat' with_reducible first | exact h | (apply keeps_mk; first | exact h)


theorem keeps_setEng (e : Nat) (x : Engine) (h : Keeps s t) : Keeps s (Machine.setEng t e x) := by
  unfold Machine.setEng
  try dsimp only
  repeat' with_reducible first | exact h | (apply keeps_mk; first | exact h)


theorem keeps_setCtx (core : Nat) (x : Nat) (c : Ctx) (h : Keeps s t) : Keeps s (Machine.setCtx t core x c) := by
  unfold Machine.setCtx
  try dsimp only
  repeat' with_reducible first | exact h | (apply keeps_mk; first | exact h)


theorem keeps_draw  (h : Keeps s t) : Keeps s (Machine.draw t).2 := by
  unfold Machine.draw
  try dsimp only
  repeat' with_reducible first | exact h | (apply keeps_mk; first | exact h)


theorem keeps_rewritten (a n : Nat) (h : Keeps s t) : Keeps s (Machine.rewritten t a n) :=
  h.trans ⟨rfl, id, id, id, rising_filter _, FusesGrow.refl _⟩

theorem keeps_wrNum (a : Nat) (n : Nat) (v : Nat) (h : Keeps s t) : Keeps s (Machine.wrNum t a n v) := by
  unfold Machine.wrNum
  try dsimp only
  repeat' with_reducible first | exact h | apply keeps_wrMem


theorem keeps_signal (fn : Nat) (vec : Nat) (h : Keeps s t) : Keeps s (Machine.signal t fn vec) := by
  unfold Machine.signal
  try dsimp only
  repeat' with_reducible first | exact h | apply Keeps.ite | split | (apply keeps_mk; first | exact h | apply Keeps.ite | split)


theorem keeps_putRecord (f : Nat) (e : EvRec) (h : Keeps s t) : Keeps s (Machine.putRecord t f e) := by
  unfold Machine.putRecord
  try dsimp only
  repeat' with_reducible first | exact h | apply keeps_wrMem | apply keeps_setReg | apply keeps_signal | apply Keeps.ite | split


theorem keeps_overflowRecord (f : Nat) (h : Keeps s t) : Keeps s (Machine.overflowRecord t f) := by
  unfold Machine.overflowRecord
  try dsimp only
  repeat' with_reducible first | exact h | apply keeps_setRegF | apply keeps_putRecord | apply Keeps.ite | split


theorem keeps_deliverTo (f : Nat) (e : EvRec) (h : Keeps s t) : Keeps s (Machine.deliverTo t f e) := by
  unfold Machine.deliverTo
  try dsimp only
  repeat' with_reducible first | exact h | apply keeps_overflowRecord | apply keeps_putRecord | apply keeps_setRegF | apply Keeps.ite | split


theorem keeps_deliver (owners : List Nat) (e : EvRec) (h : Keeps s t) : Keeps s (Machine.deliver t owners e) := by
  unfold Machine.deliver
  try dsimp only
  repeat' with_reducible first | exact h | exact Keeps.refl _ | apply keeps_deliverTo | apply Keeps.foldl | apply Keeps.foldl1 | intro _


theorem keeps_setErrBit (page : Nat) (b : Nat) (l : ErrLog) (h : Keeps s t) : Keeps s (Machine.setErrBit t page b l) := by
  unfold Machine.setErrBit
  try dsimp only
  repeat' with_reducible first | exact h | apply keeps_setReg | apply Keeps.ite | split


theorem keeps_bump (page : Nat) (i : Nat) (n : Nat) (h : Keeps s t) : Keeps s (Machine.bump t page i n) := by
  unfold Machine.bump
  try dsimp only
  repeat' with_reducible first | exact h | apply keeps_deliver | apply Keeps.ite | split | (apply keeps_mk; first | exact h | apply keeps_deliver | apply Keeps.ite | split)


theorem keeps_bumpNs (page : Nat) (i : Nat) (n : Nat) (h : Keeps s t) : Keeps s (Machine.bumpNs t page i n) := by
  unfold Machine.bumpNs
  try dsimp only
  repeat' with_reducible first | exact h | (apply keeps_mk; first | exact h)


theorem keeps_aolAppend (e : EvRec) (h : Keeps s t) : Keeps s (Machine.aolAppend t e) := by
  unfold Machine.aolAppend
  try dsimp only
  repeat' with_reducible first | exact h | apply keeps_wrMem | apply keeps_bump | apply keeps_setErrBit | apply Keeps.ite | split | (apply keeps_mk; first | exact h | apply keeps_wrMem | apply keeps_bump | apply keeps_setErrBit | apply Keeps.ite | split)


theorem keeps_report (enabled : Bool) (owners : List Nat) (e : EvRec) (h : Keeps s t) : Keeps s (Machine.report t enabled owners e) := by
  unfold Machine.report
  try dsimp only
  repeat' with_reducible first | exact h | apply keeps_aolAppend | apply keeps_deliver | apply Keeps.ite | split


theorem keeps_raiseEvt0 (page : Nat) (b : Nat) (owners : List Nat) (status : Nat) (detail : List Byte) (h : Keeps s t) : Keeps s (Machine.raiseEvt0 t page b owners status detail) := by
  unfold Machine.raiseEvt0
  try dsimp only
  repeat' with_reducible first | exact h | apply keeps_setReg | apply keeps_report | apply Keeps.ite | split


theorem keeps_freezeTrace  (h : Keeps s t) : Keeps s (Machine.freezeTrace t) := by
  unfold Machine.freezeTrace
  try dsimp only
  repeat' with_reducible first | exact h | apply keeps_raiseEvt0 | apply keeps_bump | apply Keeps.ite | split | (apply keeps_mk; first | exact h | apply keeps_raiseEvt0 | apply keeps_bump | apply Keeps.ite | split)


theorem keeps_freezeOnError (n : Nat) (h : Keeps s t) : Keeps s (Machine.freezeOnError t n) := by
  unfold Machine.freezeOnError
  try dsimp only
  repeat' with_reducible first | exact h | apply keeps_freezeTrace | apply Keeps.ite | split


theorem keeps_raiseEvt (page : Nat) (b : Nat) (owners : List Nat) (status : Nat) (detail : List Byte) (h : Keeps s t) : Keeps s (Machine.raiseEvt t page b owners status detail) := by
  unfold Machine.raiseEvt
  try dsimp only
  repeat' with_reducible first | exact h | apply keeps_raiseEvt0 | apply keeps_freezeOnError | apply Keeps.ite | split


theorem keeps_raiseErr (page : Nat) (b : Nat) (l : ErrLog) (owners : List Nat) (detail : List Byte) (h : Keeps s t) : Keeps s (Machine.raiseErr t page b l owners detail) := by
  unfold Machine.raiseErr
  try dsimp only
  repeat' with_reducible first | exact h | apply keeps_setErrBit | apply keeps_freezeOnError | apply keeps_report | apply Keeps.ite | split


theorem keeps_corrected (page : Nat) (i : Nat) (b : Nat) (addr : Nat) (h : Keeps s t) : Keeps s (Machine.corrected t page i b addr) := by
  unfold Machine.corrected
  try dsimp only
  repeat' with_reducible first | exact h | apply keeps_bump | apply keeps_raiseErr | apply Keeps.ite | split


theorem keeps_correctedAt (a : Nat) (h : Keeps s t) : Keeps s (Machine.correctedAt t a) := by
  unfold Machine.correctedAt
  try dsimp only
  repeat' with_reducible first | exact h | apply keeps_corrected | apply Keeps.ite | split


theorem keeps_decay (d : Decay) (h : Keeps s t) : Keeps s (Machine.decay t d) := by
  unfold Machine.decay
  try dsimp only
  repeat' with_reducible first | exact h | exact Keeps.refl _ | apply keeps_correctedAt | apply keeps_spoil | apply Keeps.foldl | apply Keeps.foldl1 | intro _


theorem keeps_fenceChan (page : Nat) (cause : Nat) (h : Keeps s t) : Keeps s (Machine.fenceChan t page cause) := by
  unfold Machine.fenceChan
  try dsimp only
  repeat' with_reducible first | exact h | apply keeps_raiseErr | apply keeps_setReg | apply Keeps.ite | split


theorem keeps_countUe (a : Nat) (h : Keeps s t) : Keeps s (Machine.countUe t a) := by
  unfold Machine.countUe
  try dsimp only
  repeat' with_reducible first | exact h | apply keeps_setRegF | apply keeps_bump | apply keeps_fenceChan | apply Keeps.ite | split


theorem keeps_uncorrFab (a : Nat) (job : Nat) (w : Bool) (h : Keeps s t) : Keeps s (Machine.uncorrFab t a job w) := by
  unfold Machine.uncorrFab
  try dsimp only
  repeat' with_reducible first | exact h | apply keeps_countUe | apply keeps_raiseErr | apply keeps_bump | apply Keeps.ite | split


theorem keeps_wrFab (a : Nat) (bs : List Byte) (job : Nat) (h : Keeps s t) : Keeps s (Machine.wrFab t a bs job) := by
  unfold Machine.wrFab
  try dsimp only
  repeat' with_reducible first | exact h | apply keeps_uncorrFab | apply keeps_wrMem | apply Keeps.ite | split


theorem keeps_uncorrLocal (page : Nat) (b : Nat) (a : Nat) (job : Nat) (h : Keeps s t) : Keeps s (Machine.uncorrLocal t page b a job) := by
  unfold Machine.uncorrLocal
  try dsimp only
  repeat' with_reducible first | exact h | apply keeps_raiseErr | apply Keeps.ite | split


theorem keeps_stopQueue (q : Nat) (cause : Nat) (h : Keeps s t) : Keeps s (Machine.stopQueue t q cause) := by
  unfold Machine.stopQueue
  try dsimp only
  repeat' with_reducible first | exact h | apply keeps_setHq | apply keeps_raiseErr | (apply keeps_mk; first | exact h | apply keeps_setHq | apply keeps_raiseErr)


theorem keeps_coalesce (q : Nat) (h : Keeps s t) : Keeps s (Machine.coalesce t q) := by
  unfold Machine.coalesce
  try dsimp only
  repeat' with_reducible first | exact h | apply keeps_signal | apply keeps_setHq | apply Keeps.ite | split | (apply keeps_mk; first | exact h | apply keeps_signal | apply keeps_setHq | apply Keeps.ite | split)


theorem keeps_writeCompl (q : Nat) (idx : Nat) (tag : Nat) (status : Nat) (result : List Byte) (h : Keeps s t) : Keeps s (Machine.writeCompl t q idx tag status result) := by
  unfold Machine.writeCompl
  try dsimp only
  repeat' with_reducible first | exact h | apply keeps_wrMem | apply keeps_coalesce | apply keeps_setHq | apply Keeps.ite | split | (apply keeps_mk; first | exact h | apply keeps_wrMem | apply keeps_coalesce | apply keeps_setHq | apply Keeps.ite | split)


theorem keeps_queueReset (q : Nat) (h : Keeps s t) : Keeps s (Machine.queueReset t q) := by
  unfold Machine.queueReset
  try dsimp only
  repeat' with_reducible first | exact h | apply keeps_setReg | apply keeps_setHq | apply Keeps.ite | split | (apply keeps_mk; first | exact h | apply keeps_setReg | apply keeps_setHq | apply Keeps.ite | split)


theorem keeps_hostComplete (q : Nat) (idx : Nat) (tag : Nat) (silent : Bool) (stop : Bool) (status : Nat) (result : List Byte) (h : Keeps s t) : Keeps s (Machine.hostComplete t q idx tag silent stop status result) := by
  unfold Machine.hostComplete
  try dsimp only
  repeat' with_reducible first | exact h | apply keeps_setHq | apply keeps_bump | apply keeps_writeCompl | apply keeps_stopQueue | apply Keeps.ite | split | (apply keeps_mk; first | exact h | apply keeps_setHq | apply keeps_bump | apply keeps_writeCompl | apply keeps_stopQueue | apply Keeps.ite | split)


theorem keeps_setSync (core : Nat) (x : Nat) (n : Nat) (v : Nat) (h : Keeps s t) : Keeps s (Machine.setSync t core x n v) := by
  unfold Machine.setSync
  try dsimp only
  repeat' with_reducible first | exact h | apply keeps_setCtx | (apply keeps_mk; first | exact h | apply keeps_setCtx)


theorem keeps_syncPost (c : QCmd) (h : Keeps s t) : Keeps s (Machine.syncPost t c) := by
  unfold Machine.syncPost
  try dsimp only
  repeat' with_reducible first | exact h | apply keeps_setSync | apply Keeps.ite | split


theorem keeps_setRun (e : Nat) (r : RCmd) (h : Keeps s t) : Keeps s (Machine.setRun t e r) := by
  unfold Machine.setRun
  try dsimp only
  repeat' with_reducible first | exact h | apply keeps_setEng | (apply keeps_mk; first | exact h | apply keeps_setEng)


theorem keeps_finish (r : RCmd) (status : Nat) (result : List Byte) (h : Keeps s t) : Keeps s (Machine.finish t r status result) := by
  unfold Machine.finish
  try dsimp only
  repeat' with_reducible first | exact h | apply keeps_setRun | (apply keeps_mk; first | exact h | apply keeps_setRun)


theorem keeps_finishQueued (e : Nat) (p : QCmd → Bool) (status : Nat) (h : Keeps s t) : Keeps s (Machine.finishQueued t e p status) := by
  unfold Machine.finishQueued
  try dsimp only
  repeat' with_reducible first | exact h | apply keeps_setEng | apply Keeps.ite | split | (apply keeps_mk; first | exact h | apply keeps_setEng | apply Keeps.ite | split)


theorem keeps_dropQueued (e : Nat) (p : QCmd → Bool) (h : Keeps s t) : Keeps s (Machine.dropQueued t e p) := by
  unfold Machine.dropQueued
  try dsimp only
  repeat' with_reducible first | exact h | apply keeps_setEng | (apply keeps_mk; first | exact h | apply keeps_setEng)


theorem keeps_enqueue (c : QCmd) (h : Keeps s t) : Keeps s (Machine.enqueue t c) := by
  unfold Machine.enqueue
  try dsimp only
  repeat' with_reducible first | exact h | apply keeps_setEng | (apply keeps_mk; first | exact h | apply keeps_setEng)


theorem keeps_setMxa (core : Nat) (m : Mxa) (h : Keeps s t) : Keeps s (Machine.setMxa t core m) := by
  unfold Machine.setMxa
  try dsimp only
  repeat' with_reducible first | exact h | (apply keeps_mk; first | exact h)


theorem keeps_setVen (core : Nat) (v : Ven) (h : Keeps s t) : Keeps s (Machine.setVen t core v) := by
  unfold Machine.setVen
  try dsimp only
  repeat' with_reducible first | exact h | (apply keeps_mk; first | exact h)


theorem keeps_mxaRelease (core : Nat) (job : Nat) (h : Keeps s t) : Keeps s (Machine.mxaRelease t core job) := by
  unfold Machine.mxaRelease
  try dsimp only
  repeat' with_reducible first | exact h | apply keeps_setMxa | apply Keeps.ite | split | (apply keeps_mk; first | exact h | apply keeps_setMxa | apply Keeps.ite | split)


theorem keeps_mxaLastHalt (core : Nat) (job : Nat) (h : Keeps s t) : Keeps s (Machine.mxaLastHalt t core job) := by
  unfold Machine.mxaLastHalt
  try dsimp only
  repeat' with_reducible first | exact h | apply keeps_setMxa | apply keeps_mxaRelease | apply Keeps.ite | split | (apply keeps_mk; first | exact h | apply keeps_setMxa | apply keeps_mxaRelease | apply Keeps.ite | split)


theorem keeps_mxaAfterEnd (core : Nat) (job : Nat) (h : Keeps s t) : Keeps s (Machine.mxaAfterEnd t core job) := by
  unfold Machine.mxaAfterEnd
  try dsimp only
  repeat' with_reducible first | exact h | apply keeps_mxaRelease | apply keeps_setMxa | apply Keeps.ite | split | (apply keeps_mk; first | exact h | apply keeps_mxaRelease | apply keeps_setMxa | apply Keeps.ite | split)


theorem keeps_freeOrphans (core : Nat) (h : Keeps s t) : Keeps s (Machine.freeOrphans t core) := by
  unfold Machine.freeOrphans
  try dsimp only
  repeat' with_reducible first | exact h | apply keeps_setMxa | apply Keeps.ite | split | (apply keeps_mk; first | exact h | apply keeps_setMxa | apply Keeps.ite | split)


theorem keeps_venRelease (core : Nat) (job : Nat) (h : Keeps s t) : Keeps s (Machine.venRelease t core job) := by
  unfold Machine.venRelease
  try dsimp only
  repeat' with_reducible first | exact h | exact Keeps.refl _ | apply keeps_setVen | apply Keeps.ite | apply Keeps.foldl | apply Keeps.foldl1 | intro _ | split | (apply keeps_mk; first | exact h | exact Keeps.refl _ | apply keeps_setVen | apply Keeps.ite | apply Keeps.foldl | apply Keeps.foldl1 | split)


theorem keeps_setTrace (k : Nat) (t1 : TraceBuf) (h : Keeps s t) : Keeps s (Machine.setTrace t k t1) := by
  unfold Machine.setTrace
  try dsimp only
  repeat' with_reducible first | exact h | (apply keeps_mk; first | exact h)


theorem keeps_trcStore (k : Nat) (wrapMode : Bool) (a0 : List Nat) (h : Keeps s t) : Keeps s (Machine.trcStore t k wrapMode a0) := by
  induction a0 generalizing t k wrapMode with
  | nil =>
    unfold Machine.trcStore
    try dsimp only
    repeat' with_reducible first | exact h | apply keeps_wrNum | apply keeps_setTrace | apply Keeps.ite | split | (apply keeps_mk; first | exact h | apply keeps_wrNum | apply keeps_setTrace | apply Keeps.ite | split)
  | cons _ _ ih =>
    unfold Machine.trcStore
    try dsimp only
    repeat' with_reducible first | exact h | apply ih | apply keeps_wrNum | apply keeps_setTrace | apply Keeps.ite | split | (apply keeps_mk; first | exact h | apply keeps_wrNum | apply keeps_setTrace | apply Keeps.ite | split)

theorem keeps_trcPacket (core : Nat) (units : List Nat) (h : Keeps s t) : Keeps s (Machine.trcPacket t core units) := by
  unfold Machine.trcPacket
  try dsimp only
  repeat' with_reducible first | exact h | apply keeps_bump | apply keeps_trcStore | apply keeps_setTrace | apply Keeps.ite | split | (apply keeps_mk; first | exact h | apply keeps_bump | apply keeps_trcStore | apply keeps_setTrace | apply Keeps.ite | split)


theorem keeps_trcSync (core : Nat) (x : Nat) (h : Keeps s t) : Keeps s (Machine.trcSync t core x) := by
  unfold Machine.trcSync
  try dsimp only
  repeat' with_reducible first | exact h | apply keeps_trcPacket


theorem keeps_trcFlush (core : Nat) (x : Nat) (h : Keeps s t) : Keeps s (Machine.trcFlush t core x) := by
  unfold Machine.trcFlush
  try dsimp only
  repeat' with_reducible first | exact h | apply keeps_trcPacket | apply keeps_setCtx | apply Keeps.ite | split | (apply keeps_mk; first | exact h | apply keeps_trcPacket | apply keeps_setCtx | apply Keeps.ite | split)


theorem keeps_trcSyncDue (core : Nat) (x : Nat) (h : Keeps s t) : Keeps s (Machine.trcSyncDue t core x) := by
  unfold Machine.trcSyncDue
  try dsimp only
  repeat' with_reducible first | exact h | apply keeps_trcSync | apply Keeps.ite | split | (apply keeps_mk; first | exact h | apply keeps_trcSync | apply Keeps.ite | split)


theorem keeps_trcEmit (core : Nat) (x : Nat) (units : List Nat) (h : Keeps s t) : Keeps s (Machine.trcEmit t core x units) := by
  unfold Machine.trcEmit
  try dsimp only
  repeat' with_reducible first | exact h | apply keeps_trcSyncDue | apply keeps_trcPacket | apply keeps_trcFlush | apply Keeps.ite | split


theorem keeps_haltSaved (core : Nat) (x : Nat) (status : Nat) (h : Keeps s t) : Keeps s (Machine.haltSaved t core x status) := by
  unfold Machine.haltSaved
  try dsimp only
  repeat' with_reducible first | exact h | exact Keeps.refl _ | apply keeps_setEng | apply Keeps.foldl | apply Keeps.foldl1 | intro _ | (apply keeps_mk; first | exact h | exact Keeps.refl _ | apply keeps_setEng | apply Keeps.foldl | apply Keeps.foldl1)


theorem keeps_giveUpSaved (core : Nat) (job : Nat) (h : Keeps s t) : Keeps s (Machine.giveUpSaved t core job) := by
  unfold Machine.giveUpSaved
  try dsimp only
  repeat' with_reducible first | exact h | apply Keeps.ite | split | (apply keeps_mk; first | exact h | apply Keeps.ite | split)


theorem keeps_haltCtx (core : Nat) (x : Nat) (status : Nat) (engine : Nat) (h : Keeps s t) : Keeps s (Machine.haltCtx t core x status engine) := by
  unfold Machine.haltCtx
  try dsimp only
  repeat' with_reducible first | exact h | exact Keeps.refl _ | apply keeps_trcEmit | apply keeps_setCtx | apply keeps_haltSaved | apply keeps_finishQueued | apply keeps_dropQueued | apply keeps_finish | apply keeps_freeOrphans | apply keeps_giveUpSaved | apply keeps_mxaLastHalt | apply keeps_venRelease | apply Keeps.ite | apply Keeps.foldl | apply Keeps.foldl1 | intro _ | split | (apply keeps_mk; first | exact h | exact Keeps.refl _ | apply keeps_trcEmit | apply keeps_setCtx | apply keeps_haltSaved | apply keeps_finishQueued | apply keeps_dropQueued | apply keeps_finish | apply keeps_freeOrphans | apply keeps_giveUpSaved | apply keeps_mxaLastHalt | apply keeps_venRelease | apply Keeps.ite | apply Keeps.foldl | apply Keeps.foldl1 | split)


theorem keeps_setLnk (dir : Nat) (l : Lnk) (h : Keeps s t) : Keeps s (Machine.setLnk t dir l) := by
  unfold Machine.setLnk
  try dsimp only
  repeat' with_reducible first | exact h | (apply keeps_mk; first | exact h)


theorem keeps_sendEpoch (dir : Nat) (vc : Nat) (dest : Nat) (epoch : Nat) (bs : List Byte) (h : Keeps s t) : Keeps s (Machine.sendEpoch t dir vc dest epoch bs) := by
  unfold Machine.sendEpoch
  try dsimp only
  repeat' with_reducible first | exact h | apply keeps_setLnk | apply Keeps.ite | split | (apply keeps_mk; first | exact h | apply keeps_setLnk | apply Keeps.ite | split)


theorem keeps_sendVia (dir : Nat) (vc : Nat) (dest : Nat) (bs : List Byte) (h : Keeps s t) : Keeps s (Machine.sendVia t dir vc dest bs) := by
  unfold Machine.sendVia
  try dsimp only
  repeat' with_reducible first | exact h | apply keeps_sendEpoch | apply Keeps.ite | split


theorem keeps_sendTo (vc : Nat) (dest : Nat) (bs : List Byte) (h : Keeps s t) : Keeps s (Machine.sendTo t vc dest bs) := by
  unfold Machine.sendTo
  try dsimp only
  repeat' with_reducible first | exact h | apply keeps_sendVia | apply Keeps.ite | split


theorem keeps_sendMsgVia (dir : Nat) (vc : Nat) (dest : Nat) (head : List Byte) (bs : List Byte) (h : Keeps s t) : Keeps s (Machine.sendMsgVia t dir vc dest head bs) := by
  unfold Machine.sendMsgVia
  try dsimp only
  repeat' with_reducible first | exact h | apply keeps_sendVia


theorem keeps_sendMsgTo (vc : Nat) (dest : Nat) (head : List Byte) (bs : List Byte) (h : Keeps s t) : Keeps s (Machine.sendMsgTo t vc dest head bs) := by
  unfold Machine.sendMsgTo
  try dsimp only
  repeat' with_reducible first | exact h | apply keeps_sendMsgVia | apply Keeps.ite | split


end Sys2Proof.Laws
end

