-- ==== Sys2Proof/Laws/KeepTensor.lean ====
section
/-! SUPPORT. What the operations of Operands, TileMove, Mxa, Gmv, Ven, Atn keep. -/
namespace Sys2Proof.Laws
open Sys2Proof.Machine

variable {s t : State}

theorem keeps_uncorrScratch (core : Nat) (job : Nat) (g : Nat) (h : Keeps s t) : Keeps s (Machine.uncorrScratch t core job g) := by
  unfold Machine.uncorrScratch
  try dsimp only
  repeat' with_reducible first | exact h | apply keeps_uncorrLocal


theorem keeps_uncorrClu (k : Nat) (job : Nat) (g : Nat) (h : Keeps s t) : Keeps s (Machine.uncorrClu t k job g) := by
  unfold Machine.uncorrClu
  try dsimp only
  repeat' with_reducible first | exact h | apply keeps_uncorrLocal


theorem keeps_uncorrAny (job : Nat) (g : Nat) (h : Keeps s t) : Keeps s (Machine.uncorrAny t job g) := by
  unfold Machine.uncorrAny
  try dsimp only
  repeat' with_reducible first | exact h | apply keeps_uncorrFab | apply keeps_uncorrScratch | apply keeps_uncorrClu | apply keeps_uncorrLocal | apply Keeps.ite | split


theorem keeps_undefRows (a0 : Nat) (a1 : Nat) (a2 : Nat) (a3 : Nat) (h : Keeps s t) : Keeps s (Machine.undefRows t a0 a1 a2 a3) := by
  induction a0 generalizing t a1 a2 a3 with
  | zero =>
    unfold Machine.undefRows
    try dsimp only
    repeat' with_reducible first | exact h | apply keeps_wrMem | apply Keeps.ite | split | (apply keeps_mk; first | exact h | apply keeps_wrMem | apply Keeps.ite | split)
  | succ _ ih =>
    unfold Machine.undefRows
    try dsimp only
    repeat' with_reducible first | exact h | apply ih | apply keeps_wrMem | apply Keeps.ite | split | (apply keeps_mk; first | exact h | apply keeps_wrMem | apply Keeps.ite | split)

theorem keeps_failUncorr (r : RCmd) (g : Nat) (result : List Byte) (h : Keeps s t) : Keeps s (Machine.failUncorr t r g result) := by
  unfold Machine.failUncorr
  try dsimp only
  repeat' with_reducible first | exact h | apply keeps_finish | apply keeps_uncorrAny | (apply keeps_mk; first | exact h | apply keeps_finish | apply keeps_uncorrAny)


theorem keeps_ftqPush (core : Nat) (job : Nat) (width : Nat) (int : Bool) (vals : List (List Nat)) (h : Keeps s t) : Keeps s (Machine.ftqPush t core job width int vals) := by
  unfold Machine.ftqPush
  try dsimp only
  repeat' with_reducible first | exact h | apply keeps_setVen | apply keeps_wrMem | apply Keeps.ite | split | (apply keeps_mk; first | exact h | apply keeps_setVen | apply keeps_wrMem | apply Keeps.ite | split)


theorem keeps_ftqDrop (core : Nat) (slot : Nat) (h : Keeps s t) : Keeps s (Machine.ftqDrop t core slot) := by
  unfold Machine.ftqDrop
  try dsimp only
  repeat' with_reducible first | exact h | apply keeps_setVen | (apply keeps_mk; first | exact h | apply keeps_setVen)


theorem keeps_slotRow (int : Bool) (store : Bool) (a0 : Nat) (a1 : List Nat) (h : Keeps s t) : Keeps s (Machine.slotRow t int store a0 a1) := by
  induction a1 generalizing t int store a0 with
  | nil =>
    unfold Machine.slotRow
    try dsimp only
    repeat' with_reducible first | exact h | apply keeps_wrNum | apply Keeps.ite | split
  | cons _ _ ih =>
    unfold Machine.slotRow
    try dsimp only
    repeat' with_reducible first | exact h | apply ih | apply keeps_wrNum | apply Keeps.ite | split

theorem keeps_slotRows (int : Bool) (store : Bool) (stride : Nat) (a0 : Nat) (a1 : List (List Nat)) (h : Keeps s t) : Keeps s (Machine.slotRows t int store stride a0 a1) := by
  induction a1 generalizing t int store stride a0 with
  | nil =>
    unfold Machine.slotRows
    try dsimp only
    repeat' with_reducible first | exact h | apply keeps_slotRow | apply Keeps.ite | split
  | cons _ _ ih =>
    unfold Machine.slotRows
    try dsimp only
    repeat' with_reducible first | exact h | apply ih | apply keeps_slotRow | apply Keeps.ite | split

theorem keeps_tbTake (core : Nat) (job : Nat) (b : Nat) (h : Keeps s t) : Keeps s (Machine.tbTake t core job b) := by
  unfold Machine.tbTake
  try dsimp only
  repeat' with_reducible first | exact h | apply keeps_wipe | apply keeps_setVen | apply Keeps.ite | split | (apply keeps_mk; first | exact h | apply keeps_wipe | apply keeps_setVen | apply Keeps.ite | split)


theorem keeps_tbTakeRange (core : Nat) (job : Nat) (off : Nat) (n : Nat) (h : Keeps s t) : Keeps s (Machine.tbTakeRange t core job off n) := by
  unfold Machine.tbTakeRange
  try dsimp only
  repeat' with_reducible first | exact h | exact Keeps.refl _ | apply keeps_tbTake | apply Keeps.ite | apply Keeps.foldl | apply Keeps.foldl1 | intro _ | split


theorem keeps_dWriteRows (core : Nat) (d : Desc) (st : Nat) (a0 : Nat) (a1 : List (List Val)) (h : Keeps s t) : Keeps s (Machine.dWriteRows t core d st a0 a1) := by
  induction a1 generalizing t core d st a0 with
  | nil =>
    unfold Machine.dWriteRows
    try dsimp only
    repeat' with_reducible first | exact h | apply keeps_wrMem | apply Keeps.ite | split
  | cons _ _ ih =>
    unfold Machine.dWriteRows
    try dsimp only
    repeat' with_reducible first | exact h | apply ih | apply keeps_wrMem | apply Keeps.ite | split

theorem keeps_endQueue (e : Nat) (status : Nat) (h : Keeps s t) : Keeps s (Machine.endQueue t e status) := by
  unfold Machine.endQueue
  try dsimp only
  repeat' with_reducible first | exact h | apply keeps_setEng | (apply keeps_mk; first | exact h | apply keeps_setEng)


theorem keeps_fenceCore (core : Nat) (job : Nat) (h : Keeps s t) : Keeps s (Machine.fenceCore t core job) := by
  unfold Machine.fenceCore
  try dsimp only
  repeat' with_reducible first | exact h | exact Keeps.refl _ | apply keeps_setRegF | apply keeps_raiseErr | apply keeps_endQueue | apply Keeps.foldl | apply Keeps.foldl1 | intro _


theorem keeps_checkLog (core : Nat) (row : Nat) (job : Nat) (stage : Nat) (sib : Nat) (noSib : Bool) (unapplied : Bool) (excess : Nat) (h : Keeps s t) : Keeps s (Machine.checkLog t core row job stage sib noSib unapplied excess) := by
  unfold Machine.checkLog
  try dsimp only
  repeat' with_reducible first | exact h | apply keeps_setReg


theorem keeps_checkFails (core : Nat) (r : RCmd) (row : Nat) (fails : Nat) (excess : Nat) (ordered : Bool) (h : Keeps s t) : Keeps s (Machine.checkFails t core r row fails excess ordered).1 := by
  unfold Machine.checkFails
  try dsimp only
  repeat' with_reducible first | exact h | apply keeps_bump | apply keeps_raiseErr | apply keeps_checkLog | apply keeps_fenceCore | apply Keeps.ite | split | (apply keeps_mk; first | exact h | apply keeps_bump | apply keeps_raiseErr | apply keeps_checkLog | apply keeps_fenceCore | apply Keeps.ite | split)


theorem keeps_passCheck (core : Nat) (r : RCmd) (faults : List CheckFault) (checked : List Bool) (row0 : Nat) (int : Bool) (ordered : Bool) (h : Keeps s t) : Keeps s (Machine.passCheck t core r faults checked row0 int ordered).1 := by
  unfold Machine.passCheck
  try dsimp only
  repeat' with_reducible first | exact h | apply keeps_bump | apply keeps_setMxa | apply keeps_checkFails | apply Keeps.ite | split | (apply keeps_mk; first | exact h | apply keeps_bump | apply keeps_setMxa | apply keeps_checkFails | apply Keeps.ite | split)


theorem keeps_accPut (core : Nat) (buf : Nat) (width : Nat) (a0 : Nat) (a1 : List (List Nat)) (h : Keeps s t) : Keeps s (Machine.accPut t core buf width a0 a1) := by
  induction a1 generalizing t core buf width a0 with
  | nil =>
    unfold Machine.accPut
    try dsimp only
    repeat' with_reducible first | exact h | apply keeps_wrMem | apply Keeps.ite | split
  | cons _ _ ih =>
    unfold Machine.accPut
    try dsimp only
    repeat' with_reducible first | exact h | apply ih | apply keeps_wrMem | apply Keeps.ite | split

theorem keeps_blurRows (n a stride rb : Nat) (h : Keeps s t) : Keeps s (Machine.blurRows t n a stride rb) :=
  let k := keeps_undefRows n a stride rb h
  ⟨k.pending, k.die, k.mem, k.regs, h.bad, k.fuses⟩

theorem keeps_freeBuf (core : Nat) (b : Nat) (h : Keeps s t) : Keeps s (Machine.freeBuf t core b) := by
  unfold Machine.freeBuf
  try dsimp only
  repeat' with_reducible first | exact h | apply keeps_setMxa


theorem keeps_accFail (core : Nat) (r : RCmd) (b : OutBlk) (g : Nat) (h : Keeps s t) : Keeps s (Machine.accFail t core r b g) := by
  unfold Machine.accFail
  try dsimp only
  repeat' with_reducible first | exact h | apply keeps_raiseErr


theorem keeps_failOuts (core : Nat) (r : RCmd) (st : Nat) (bs : List OutBlk) (h : Keeps s t) : Keeps s (Machine.failOuts t core r st bs).1 := by
  unfold Machine.failOuts
  try dsimp only
  repeat' with_reducible first | exact h | exact Keeps.refl _ | apply keeps_freeBuf | apply Keeps.foldl | apply Keeps.foldl1 | intro _ | (apply keeps_mk; first | exact h | exact Keeps.refl _ | apply keeps_freeBuf | apply Keeps.foldl | apply Keeps.foldl1)


/-- What a row block's push leaves keeps what held before it. -/
def PushKeeps (s : State) : Push → Prop
  | .done u => Keeps s u
  | .wait => True
  | .fail u _ => Keeps s u

theorem keeps_slotFail (r : RCmd) (k g ep eb : Nat) (h : Keeps s t) : PushKeeps s (Machine.slotFail t r k g ep eb) :=
  keeps_raiseErr _ _ _ _ _ (keeps_uncorrClu _ _ _ h)

theorem keeps_pushSlot (r : RCmd) (k : Nat) (o : OutSpec) (b : OutBlk) (ordered : Bool) (ep eb : Nat) (h : Keeps s t) :
    PushKeeps s (Machine.pushSlot t r k o b ordered ep eb) := by
  have hb := fun i st => keeps_bump (pgClu k) 2 i (keeps_slotRows o.int st o.os
    (spClu k + o.out + 64 + b.row * o.os + 4 * b.col) b.vals h)
  unfold Machine.pushSlot
  extract_lets slot a rb store
  split
  · exact keeps_slotFail _ _ _ _ _ h
  · split
    · exact trivial
    · split
      · exact h
      · split
        · exact Keeps.ite (keeps_wrNum _ _ _ (keeps_wrNum _ _ _ h)) h
        · split
          · exact keeps_slotFail _ _ _ _ _ (keeps_blurRows _ _ _ _ h)
          · split
            · exact Keeps.ite (keeps_wrNum _ _ _ (keeps_wrNum _ _ _ (hb _ _))) (keeps_wrNum _ _ _ (hb _ _))
            · exact hb _ _

theorem keeps_pushBlk (core : Nat) (r : RCmd) (o : OutSpec) (b : OutBlk) (h : Keeps s t) :
    PushKeeps s (Machine.pushBlk t core r o b) := by
  unfold Machine.pushBlk
  extract_lets vals b'
  split
  · split
    · exact trivial
    · exact keeps_ftqPush _ _ _ _ _ h
  · split
    · exact keeps_uncorrAny _ _ (keeps_blurRows _ _ _ _ h)
    · exact Keeps.foldl1 h fun _ _ _ => keeps_wrMem _ _ (Keeps.refl _)
  · exact keeps_pushSlot _ _ _ _ _ _ _ h
  · exact keeps_pushSlot _ _ _ _ _ _ _ h

theorem keeps_flushOuts (core : Nat) (r : RCmd) (o : OutSpec) (a4 : List OutBlk) (h : Keeps s t) :
    Keeps s (Machine.flushOuts t core r o a4).1 := by
  induction a4 generalizing t r with
  | nil => exact h
  | cons b _ ih =>
    have hp := keeps_pushBlk core r o b h
    unfold Machine.flushOuts
    split
    · exact keeps_failOuts _ _ _ _ (keeps_accFail _ _ _ _ h)
    · split
      · rename_i e
        rw [e] at hp
        exact ih _ (Keeps.ite (keeps_freeBuf _ _ hp) hp)
      · exact h
      · rename_i e
        rw [e] at hp
        exact keeps_failOuts _ _ _ _ hp

theorem keeps_tilePasses (core : Nat) (r : RCmd) (faults : List CheckFault) (x : Matmul) (kp : Nat) (np : Nat) (n0 : Nat) (m0 : Nat) (a0 : Nat) (a1 : Nat) (a2 : List (List Nat)) (h : Keeps s t) : Keeps s (Machine.tilePasses t core r faults x kp np n0 m0 a0 a1 a2).1 := by
  induction a0 generalizing t core r faults x kp np n0 m0 a1 a2 with
  | zero =>
    unfold Machine.tilePasses
    try dsimp only
    repeat' with_reducible first | exact h | apply keeps_passCheck | apply Keeps.ite | split
  | succ _ ih =>
    unfold Machine.tilePasses
    try dsimp only
    repeat' with_reducible first | exact h | apply ih | apply keeps_passCheck | apply Keeps.ite | split

theorem keeps_mmClear (core : Nat) (r : RCmd) (h : Keeps s t) : Keeps s (Machine.mmClear t core r) := by
  unfold Machine.mmClear
  try dsimp only
  repeat' with_reducible first | exact h | apply keeps_setMxa | apply Keeps.ite | split | (apply keeps_mk; first | exact h | apply keeps_setMxa | apply Keeps.ite | split)


theorem keeps_setAside (core : Nat) (r : RCmd) (h : Keeps s t) : Keeps s (Machine.setAside t core r) := by
  unfold Machine.setAside
  try dsimp only
  repeat' with_reducible first | exact h | apply keeps_mmClear | apply keeps_setEng | (apply keeps_mk; first | exact h | apply keeps_mmClear | apply keeps_setEng)


theorem keeps_takeUp (core : Nat) (r : RCmd) (h : Keeps s t) : Keeps s (Machine.takeUp t core r) := by
  unfold Machine.takeUp
  try dsimp only
  repeat' with_reducible first | exact h | apply keeps_setEng | apply keeps_setMxa | apply keeps_setRun | apply Keeps.ite | split | (apply keeps_mk; first | exact h | apply keeps_setEng | apply keeps_setMxa | apply keeps_setRun | apply Keeps.ite | split)


theorem keeps_mmAbort (core : Nat) (r : RCmd) (h : Keeps s t) : Keeps s (Machine.mmAbort t core r) := by
  unfold Machine.mmAbort
  try dsimp only
  repeat' with_reducible first | exact h | exact Keeps.refl _ | apply keeps_freeBuf | apply keeps_setRun | apply keeps_mmClear | apply keeps_finish | apply Keeps.foldl | apply Keeps.foldl1 | intro _ | (apply keeps_mk; first | exact h | exact Keeps.refl _ | apply keeps_freeBuf | apply keeps_setRun | apply keeps_mmClear | apply keeps_finish | apply Keeps.foldl | apply Keeps.foldl1)


theorem keeps_mmGo (faults : List CheckFault) (a0 : Nat) (a2 : Nat) (a3 : RCmd) (h : Keeps s t) : Keeps s (Machine.mmGo faults a0 t a2 a3) := by
  induction a0 generalizing t faults a2 a3 with
  | zero =>
    unfold Machine.mmGo
    try dsimp only
    repeat' with_reducible first | exact h | apply keeps_setRun | apply keeps_finish | apply keeps_setMxa | apply keeps_accPut | apply keeps_freeBuf | apply keeps_flushOuts | apply keeps_tilePasses | apply keeps_mmClear | apply keeps_setAside | apply keeps_takeUp | apply keeps_mmAbort | apply keeps_wipe | apply Keeps.ite | split | (apply keeps_mk; first | exact h | apply keeps_setRun | apply keeps_finish | apply keeps_setMxa | apply keeps_accPut | apply keeps_freeBuf | apply keeps_flushOuts | apply keeps_tilePasses | apply keeps_mmClear | apply keeps_setAside | apply keeps_takeUp | apply keeps_mmAbort | apply keeps_wipe | apply Keeps.ite | split)
  | succ _ ih =>
    unfold Machine.mmGo
    try dsimp only
    repeat' with_reducible first | exact h | apply ih | apply keeps_setRun | apply keeps_finish | apply keeps_setMxa | apply keeps_accPut | apply keeps_freeBuf | apply keeps_flushOuts | apply keeps_tilePasses | apply keeps_mmClear | apply keeps_setAside | apply keeps_takeUp | apply keeps_mmAbort | apply keeps_wipe | apply Keeps.ite | split | (apply keeps_mk; first | exact h | apply keeps_setRun | apply keeps_finish | apply keeps_setMxa | apply keeps_accPut | apply keeps_freeBuf | apply keeps_flushOuts | apply keeps_tilePasses | apply keeps_mmClear | apply keeps_setAside | apply keeps_takeUp | apply keeps_mmAbort | apply keeps_wipe | apply Keeps.ite | split)

theorem keeps_mmUndef (core : Nat) (x : Matmul) (h : Keeps s t) : Keeps s (Machine.mmUndef t core x) := by
  unfold Machine.mmUndef
  try dsimp only
  repeat' with_reducible first | exact h | apply keeps_blurRows | apply Keeps.ite | split


theorem keeps_mmBegin (core : Nat) (r : RCmd) (faults : List CheckFault) (h : Keeps s t) : Keeps s (Machine.mmBegin t core r faults) := by
  unfold Machine.mmBegin
  try dsimp only
  repeat' with_reducible first | exact h | apply keeps_finish | apply keeps_setMxa | apply keeps_failUncorr | apply keeps_mmClear | apply keeps_mmUndef | apply keeps_mmGo | apply Keeps.ite | split | (apply keeps_mk; first | exact h | apply keeps_finish | apply keeps_setMxa | apply keeps_failUncorr | apply keeps_mmClear | apply keeps_mmUndef | apply keeps_mmGo | apply Keeps.ite | split)


theorem keeps_opMatmul (core : Nat) (faults : List CheckFault) (h : Keeps s t) : Keeps s (Machine.opMatmul t core faults) := by
  unfold Machine.opMatmul
  try dsimp only
  repeat' with_reducible first | exact h | apply keeps_mmBegin | apply keeps_mmGo | apply Keeps.ite | split


theorem keeps_passGo (core : Nat) (r : RCmd) (faults : List CheckFault) (set : StatSet) (dp : Nat) (w : Nat) (h : Keeps s t) : Keeps s (Machine.passGo t core r faults set dp w) := by
  unfold Machine.passGo
  try dsimp only
  repeat' with_reducible first | exact h | apply keeps_setMxa | apply keeps_passCheck | apply keeps_finish | apply keeps_accPut | apply Keeps.ite | split | (apply keeps_mk; first | exact h | apply keeps_setMxa | apply keeps_passCheck | apply keeps_finish | apply keeps_accPut | apply Keeps.ite | split)


theorem keeps_opPass (core : Nat) (faults : List CheckFault) (h : Keeps s t) : Keeps s (Machine.opPass t core faults) := by
  unfold Machine.opPass
  try dsimp only
  repeat' with_reducible first | exact h | apply keeps_finish | apply keeps_failUncorr | apply keeps_blurRows | apply keeps_passGo | apply Keeps.ite | split


theorem keeps_drainGo (core : Nat) (r : RCmd) (h : Keeps s t) : Keeps s (Machine.drainGo t core r) := by
  unfold Machine.drainGo
  try dsimp only
  repeat' with_reducible first | exact h | apply keeps_flushOuts | apply keeps_setRun | apply keeps_finish | apply keeps_setAside | apply Keeps.ite | split


theorem keeps_opDrain (core : Nat) (h : Keeps s t) : Keeps s (Machine.opDrain t core) := by
  unfold Machine.opDrain
  try dsimp only
  repeat' with_reducible first | exact h | apply keeps_drainGo | apply keeps_finish | apply keeps_setMxa | apply Keeps.ite | split | (apply keeps_mk; first | exact h | apply keeps_drainGo | apply keeps_finish | apply keeps_setMxa | apply Keeps.ite | split)


theorem keeps_opMxaRelease (core : Nat) (h : Keeps s t) : Keeps s (Machine.opMxaRelease t core) := by
  unfold Machine.opMxaRelease
  try dsimp only
  repeat' with_reducible first | exact h | apply keeps_setRun | apply keeps_mxaRelease | apply Keeps.ite | split | (apply keeps_mk; first | exact h | apply keeps_setRun | apply keeps_mxaRelease | apply Keeps.ite | split)


theorem keeps_opTileRoom (core : Nat) (h : Keeps s t) : Keeps s (Machine.opTileRoom t core) := by
  unfold Machine.opTileRoom
  try dsimp only
  repeat' with_reducible first | exact h | apply keeps_mmGo | apply keeps_drainGo | apply Keeps.ite | split


theorem keeps_resumeMxa (core : Nat) (r : RCmd) (h : Keeps s t) : Keeps s (Machine.resumeMxa t core r) := by
  unfold Machine.resumeMxa
  try dsimp only
  repeat' with_reducible first | exact h | apply keeps_mmGo | apply keeps_drainGo | apply Keeps.ite | split


theorem keeps_opInject (core : Nat) (count : Nat) (h : Keeps s t) : Keeps s (Machine.opInject t core count) := by
  unfold Machine.opInject
  try dsimp only
  repeat' with_reducible first | exact h | apply keeps_setMxa | (apply keeps_mk; first | exact h | apply keeps_setMxa)


theorem keeps_mvFlush (r : Nat) (rc : RCmd) (x : Matvec) (a4 : List OutBlk) (h : Keeps s t) :
    Keeps s (Machine.mvFlush t r rc x a4) := by
  induction a4 generalizing t with
  | nil => exact keeps_finish _ _ _ h
  | cons b _ ih =>
    have hp := keeps_pushSlot rc (8 * r + x.yc) { dest := x.dest + 1, out := x.y, os := up64 (4 * x.n), seq := x.seq, int := false, m410 := false } b (x.dest == 1) (pgGmv r) 8 h
    unfold Machine.mvFlush
    split
    · rename_i e
      rw [e] at hp
      exact ih hp
    · exact keeps_setEng _ _ h
    · rename_i e
      rw [e] at hp
      exact keeps_finish _ _ _ hp

theorem keeps_mvFail (r : Nat) (rc : RCmd) (g : Nat) (h : Keeps s t) : Keeps s (Machine.mvFail t r rc g) := by
  unfold Machine.mvFail
  try dsimp only
  repeat' with_reducible first | exact h | apply keeps_uncorrAny | apply keeps_finish | apply keeps_raiseErr | apply Keeps.ite | split


theorem keeps_opMatvec (r : Nat) (h : Keeps s t) : Keeps s (Machine.opMatvec t r) := by
  unfold Machine.opMatvec
  try dsimp only
  repeat' with_reducible first | exact h | exact Keeps.refl _ | apply keeps_finish | apply keeps_mvFail | apply keeps_wrMem | apply keeps_mvFlush | apply Keeps.ite | apply Keeps.foldl | apply Keeps.foldl1 | intro _ | split


theorem keeps_resumeGmv (r : Nat) (rc : RCmd) (h : Keeps s t) : Keeps s (Machine.resumeGmv t r rc) := by
  unfold Machine.resumeGmv
  try dsimp only
  repeat' with_reducible first | exact h | apply keeps_mvFlush


theorem keeps_wrRows (a0 : Nat) (a1 : Nat) (a2 : List (List Byte)) (h : Keeps s t) : Keeps s (Machine.wrRows t a0 a1 a2) := by
  induction a2 generalizing t a0 a1 with
  | nil =>
    unfold Machine.wrRows
    try dsimp only
    repeat' with_reducible first | exact h | apply keeps_wrMem | apply Keeps.ite | split
  | cons _ _ ih =>
    unfold Machine.wrRows
    try dsimp only
    repeat' with_reducible first | exact h | apply ih | apply keeps_wrMem | apply Keeps.ite | split

theorem keeps_tileStore (core : Nat) (t1 : Tile) (h : Keeps s t) : Keeps s (Machine.tileStore t core t1) := by
  unfold Machine.tileStore
  try dsimp only
  repeat' with_reducible first | exact h | apply keeps_wrMem | apply keeps_wrRows | apply Keeps.ite | split


theorem keeps_tileUndef (core : Nat) (t1 : Tile) (h : Keeps s t) : Keeps s (Machine.tileUndef t core t1) := by
  unfold Machine.tileUndef
  try dsimp only
  repeat' with_reducible first | exact h | apply keeps_setMxa | apply keeps_undefRows | apply Keeps.ite | split | (apply keeps_mk; first | exact h | apply keeps_setMxa | apply keeps_undefRows | apply Keeps.ite | split)


theorem keeps_tileLoad (core : Nat) (job : Nat) (t1 : Tile) (h : Keeps s t) : Keeps s (Machine.tileLoad t core job t1) := by
  unfold Machine.tileLoad
  try dsimp only
  repeat' with_reducible first | exact h | apply keeps_setMxa | apply Keeps.ite | split | (apply keeps_mk; first | exact h | apply keeps_setMxa | apply Keeps.ite | split)


theorem keeps_opTileMove (core : Nat) (h : Keeps s t) : Keeps s (Machine.opTileMove t core) := by
  unfold Machine.opTileMove
  try dsimp only
  repeat' with_reducible first | exact h | apply keeps_failUncorr | apply keeps_tileUndef | apply keeps_finish | apply keeps_tileLoad | apply keeps_tileStore | apply Keeps.ite | split


theorem keeps_histAdd (core : Nat) (job : Nat) (slot : Nat) (ps : List Nat) (h : Keeps s t) : Keeps s (Machine.histAdd t core job slot ps) := by
  unfold Machine.histAdd
  try dsimp only
  repeat' with_reducible first | exact h | exact Keeps.refl _ | apply keeps_setVen | apply Keeps.foldl | apply Keeps.foldl1 | intro _ | (apply keeps_mk; first | exact h | exact Keeps.refl _ | apply keeps_setVen | apply Keeps.foldl | apply Keeps.foldl1)


theorem keeps_venFail (r : RCmd) (g : Nat) (h : Keeps s t) : Keeps s (Machine.venFail t r g) := by
  unfold Machine.venFail
  try dsimp only
  repeat' with_reducible first | exact h | apply keeps_finish | apply keeps_uncorrAny


theorem keeps_opsUndef (core : Nat) (a0 : List Opnd) (h : Keeps s t) : Keeps s (Machine.opsUndef t core a0) := by
  induction a0 generalizing t core with
  | nil =>
    unfold Machine.opsUndef
    try dsimp only
    repeat' with_reducible first | exact h | apply keeps_undefRows | apply Keeps.ite | split
  | cons _ _ ih =>
    unfold Machine.opsUndef
    try dsimp only
    repeat' with_reducible first | exact h | apply ih | apply keeps_undefRows | apply Keeps.ite | split

theorem keeps_opWrite (core : Nat) (job : Nat) (o : Opnd) (rows : List (List Nat)) (h : Keeps s t) : Keeps s (Machine.opWrite t core job o rows) := by
  unfold Machine.opWrite
  try dsimp only
  repeat' with_reducible first | exact h | apply keeps_tbTakeRange | apply keeps_dWriteRows | apply Keeps.ite | split


theorem keeps_countNan (core : Nat) (rows : List (List Nat)) (h : Keeps s t) : Keeps s (Machine.countNan t core rows) := by
  unfold Machine.countNan
  try dsimp only
  repeat' with_reducible first | exact h | apply keeps_bump | apply Keeps.ite | split


theorem keeps_venPop (c : QCmd) (x : VenCmd) (h : Keeps s t) : Keeps s (Machine.venPop t c x) := by
  unfold Machine.venPop
  try dsimp only
  repeat' with_reducible first | exact h | apply keeps_ftqDrop | apply Keeps.ite | split


theorem keeps_venOp (core op : Nat) (eff : State → RCmd → VenCmd → FtqEntry → State)
    (he : ∀ u r x e, Keeps u (eff u r x e)) (h : Keeps s t) : Keeps s (Machine.venOp t core op eff) := by
  unfold Machine.venOp
  dsimp only
  repeat' first | exact h | apply keeps_finish | apply keeps_venFail | apply keeps_uncorrAny | apply keeps_opsUndef | apply keeps_venPop | exact h.trans (he _ _ _ _) | split

theorem keeps_mapEff (r : RCmd) (x : VenCmd) (e : FtqEntry) (h : Keeps s t) : Keeps s (Machine.mapEff t r x e) := by
  unfold Machine.mapEff
  try dsimp only
  repeat' with_reducible first | exact h | apply keeps_histAdd | apply keeps_countNan | apply keeps_opWrite | apply Keeps.ite | split


theorem keeps_reduceEff (r : RCmd) (x : VenCmd) (e : FtqEntry) (h : Keeps s t) : Keeps s (Machine.reduceEff t r x e) := by
  unfold Machine.reduceEff
  try dsimp only
  repeat' with_reducible first | exact h | apply keeps_countNan | apply keeps_opWrite | apply Keeps.ite | split


theorem keeps_shuffleEff (r : RCmd) (x : VenCmd) (e : FtqEntry) (h : Keeps s t) : Keeps s (Machine.shuffleEff t r x e) := by
  unfold Machine.shuffleEff
  try dsimp only
  repeat' with_reducible first | exact h | exact Keeps.refl _ | apply keeps_tbTakeRange | apply keeps_wrMem | apply keeps_countNan | apply keeps_opWrite | apply keeps_bump | apply Keeps.ite | apply Keeps.foldl | apply Keeps.foldl1 | intro _ | split


theorem keeps_opVenMap (core : Nat) (h : Keeps s t) : Keeps s (Machine.opVenMap t core) := by
  unfold Machine.opVenMap
  try dsimp only
  repeat' with_reducible first | exact h | exact Keeps.refl _ | apply keeps_venOp | apply keeps_mapEff | intro _


theorem keeps_opVenReduce (core : Nat) (h : Keeps s t) : Keeps s (Machine.opVenReduce t core) := by
  unfold Machine.opVenReduce
  try dsimp only
  repeat' with_reducible first | exact h | exact Keeps.refl _ | apply keeps_venOp | apply keeps_reduceEff | intro _


theorem keeps_opVenShuffle (core : Nat) (h : Keeps s t) : Keeps s (Machine.opVenShuffle t core) := by
  unfold Machine.opVenShuffle
  try dsimp only
  repeat' with_reducible first | exact h | exact Keeps.refl _ | apply keeps_venOp | apply keeps_shuffleEff | intro _


theorem keeps_opHistFlush (core : Nat) (h : Keeps s t) : Keeps s (Machine.opHistFlush t core) := by
  unfold Machine.opHistFlush
  try dsimp only
  repeat' with_reducible first | exact h | apply keeps_venFail | apply keeps_undefRows | apply keeps_wrMem | apply keeps_finish | apply keeps_setVen | apply Keeps.ite | split | (apply keeps_mk; first | exact h | apply keeps_venFail | apply keeps_undefRows | apply keeps_wrMem | apply keeps_finish | apply keeps_setVen | apply Keeps.ite | split)


theorem keeps_tbRelease (core : Nat) (job : Nat) (mask : Nat) (h : Keeps s t) : Keeps s (Machine.tbRelease t core job mask) := by
  unfold Machine.tbRelease
  try dsimp only
  repeat' with_reducible first | exact h | exact Keeps.refl _ | apply keeps_setVen | apply Keeps.ite | apply Keeps.foldl | apply Keeps.foldl1 | intro _ | split | (apply keeps_mk; first | exact h | exact Keeps.refl _ | apply keeps_setVen | apply Keeps.ite | apply Keeps.foldl | apply Keeps.foldl1 | split)


theorem keeps_opVenRelease (core : Nat) (h : Keeps s t) : Keeps s (Machine.opVenRelease t core) := by
  unfold Machine.opVenRelease
  try dsimp only
  repeat' with_reducible first | exact h | apply keeps_finish | apply keeps_tbRelease | apply Keeps.ite | split


theorem keeps_entriesDrop (core : Nat) (es : List FtqEntry) (h : Keeps s t) : Keeps s (Machine.entriesDrop t core es) := by
  unfold Machine.entriesDrop
  try dsimp only
  repeat' with_reducible first | exact h | exact Keeps.refl _ | apply keeps_ftqDrop | apply Keeps.foldl | apply Keeps.foldl1 | intro _


theorem keeps_tbPut (core : Nat) (off : Nat) (ws : List Nat) (h : Keeps s t) : Keeps s (Machine.tbPut t core off ws) := by
  unfold Machine.tbPut
  try dsimp only
  repeat' with_reducible first | exact h | apply keeps_wrMem


theorem keeps_opScores (core : Nat) (h : Keeps s t) : Keeps s (Machine.opScores t core) := by
  unfold Machine.opScores
  try dsimp only
  repeat' with_reducible first | exact h | apply keeps_finish | apply keeps_venFail | apply keeps_undefRows | apply keeps_histAdd | apply keeps_dWriteRows | apply keeps_tbTakeRange | apply keeps_tbPut | apply keeps_bump | apply keeps_entriesDrop | apply Keeps.ite | split


theorem keeps_opAccum (core : Nat) (h : Keeps s t) : Keeps s (Machine.opAccum t core) := by
  unfold Machine.opAccum
  try dsimp only
  repeat' with_reducible first | exact h | apply keeps_finish | apply keeps_venFail | apply keeps_tbPut | apply keeps_tbTakeRange | apply keeps_entriesDrop | apply Keeps.ite | split


theorem keeps_opFinish (core : Nat) (h : Keeps s t) : Keeps s (Machine.opFinish t core) := by
  unfold Machine.opFinish
  try dsimp only
  repeat' with_reducible first | exact h | exact Keeps.refl _ | apply keeps_venFail | apply keeps_undefRows | apply keeps_dWriteRows | apply keeps_wrMem | apply keeps_tbRelease | apply keeps_finish | apply Keeps.ite | apply Keeps.foldl | apply Keeps.foldl1 | intro _ | split


theorem keeps_kvLoadGo (core : Nat) (r : RCmd) (x : Kv) (a0 : Nat) (a1 : Nat) (h : Keeps s t) : Keeps s (Machine.kvLoadGo t core r x a0 a1) := by
  induction a0 generalizing t core r x a1 with
  | zero =>
    unfold Machine.kvLoadGo
    try dsimp only
    repeat' with_reducible first | exact h | apply keeps_raiseErr | apply keeps_uncorrFab | apply keeps_finish | apply keeps_failUncorr | apply keeps_wrMem | apply Keeps.ite | split
  | succ _ ih =>
    unfold Machine.kvLoadGo
    try dsimp only
    repeat' with_reducible first | exact h | apply ih | apply keeps_raiseErr | apply keeps_uncorrFab | apply keeps_finish | apply keeps_failUncorr | apply keeps_wrMem | apply Keeps.ite | split

theorem keeps_kvFlushGo (core : Nat) (r : RCmd) (x : Kv) (a0 : Nat) (a1 : Nat) (h : Keeps s t) : Keeps s (Machine.kvFlushGo t core r x a0 a1) := by
  induction a0 generalizing t core r x a1 with
  | zero =>
    unfold Machine.kvFlushGo
    try dsimp only
    repeat' with_reducible first | exact h | apply keeps_finish | apply keeps_failUncorr | apply keeps_wrMem | apply Keeps.ite | split
  | succ _ ih =>
    unfold Machine.kvFlushGo
    try dsimp only
    repeat' with_reducible first | exact h | apply ih | apply keeps_finish | apply keeps_failUncorr | apply keeps_wrMem | apply Keeps.ite | split

theorem keeps_opKv (core : Nat) (op : Nat) (h : Keeps s t) : Keeps s (Machine.opKv t core op) := by
  unfold Machine.opKv
  try dsimp only
  repeat' with_reducible first | exact h | apply keeps_failUncorr | apply keeps_finish | apply keeps_raiseErr | apply keeps_kvLoadGo | apply keeps_kvFlushGo | apply Keeps.ite | split


end Sys2Proof.Laws
end

