-- ==== Sys2Proof/Laws/KeepStage.lean ====
section
/-! SUPPORT. What the operations of Chn, Pse, Dig, Upd, Gxe keep. -/
namespace Sys2Proof.Laws
open Sys2Proof.Machine

variable {s t : State}

theorem keeps_setOut (core : Nat) (o : Nat) (x : OutCh) (h : Keeps s t) : Keeps s (Machine.setOut t core o x) := by
  unfold Machine.setOut
  try dsimp only
  repeat' with_reducible first | exact h | (apply keeps_mk; first | exact h)


theorem keeps_setIn (core : Nat) (i : Nat) (x : InCh) (h : Keeps s t) : Keeps s (Machine.setIn t core i x) := by
  unfold Machine.setIn
  try dsimp only
  repeat' with_reducible first | exact h | (apply keeps_mk; first | exact h)


theorem keeps_sendNow (core : Nat) (r : RCmd) (h : Keeps s t) : Keeps s (Machine.sendNow t core r) := by
  unfold Machine.sendNow
  try dsimp only
  repeat' with_reducible first | exact h | apply keeps_setIn | apply keeps_setOut | apply keeps_bump | apply keeps_uncorrScratch | apply keeps_raiseErr | apply keeps_finish | apply keeps_setRun | apply Keeps.ite | split | (apply keeps_mk; first | exact h | apply keeps_setIn | apply keeps_setOut | apply keeps_bump | apply keeps_uncorrScratch | apply keeps_raiseErr | apply keeps_finish | apply keeps_setRun | apply Keeps.ite | split)


theorem keeps_sendStart (core : Nat) (r : RCmd) (h : Keeps s t) : Keeps s (Machine.sendStart t core r) := by
  unfold Machine.sendStart
  try dsimp only
  repeat' with_reducible first | exact h | apply keeps_finish | apply keeps_sendNow | apply keeps_setEng | apply Keeps.ite | split | (apply keeps_mk; first | exact h | apply keeps_finish | apply keeps_sendNow | apply keeps_setEng | apply Keeps.ite | split)


theorem keeps_sendTakeUp (core : Nat) (h : Keeps s t) : Keeps s (Machine.sendTakeUp t core) := by
  unfold Machine.sendTakeUp
  try dsimp only
  repeat' with_reducible first | exact h | apply keeps_setEng | apply keeps_finish | apply keeps_sendNow | apply Keeps.ite | split | (apply keeps_mk; first | exact h | apply keeps_setEng | apply keeps_finish | apply keeps_sendNow | apply Keeps.ite | split)


theorem keeps_opSend (core : Nat) (h : Keeps s t) : Keeps s (Machine.opSend t core) := by
  unfold Machine.opSend
  try dsimp only
  repeat' with_reducible first | exact h | apply keeps_sendStart | apply keeps_sendTakeUp | apply Keeps.ite | split


theorem keeps_writePad (a : Nat) (len : Nat) (tag : Nat) (h : Keeps s t) : Keeps s (Machine.writePad t a len tag) := by
  unfold Machine.writePad
  try dsimp only
  repeat' with_reducible first | exact h | apply keeps_wrMem | apply Keeps.ite | split | (apply keeps_mk; first | exact h | apply keeps_wrMem | apply Keeps.ite | split)


theorem keeps_writeMsg (a : Nat) (m : Msg) (h : Keeps s t) : Keeps s (Machine.writeMsg t a m) := by
  unfold Machine.writeMsg
  try dsimp only
  repeat' with_reducible first | exact h | apply keeps_wrMem | apply Keeps.ite | split | (apply keeps_mk; first | exact h | apply keeps_wrMem | apply Keeps.ite | split)


theorem keeps_opArrival (core : Nat) (i : Nat) (h : Keeps s t) : Keeps s (Machine.opArrival t core i) := by
  unfold Machine.opArrival
  try dsimp only
  repeat' with_reducible first | exact h | apply keeps_writePad | apply keeps_writeMsg | apply keeps_setIn | apply keeps_bump | apply keeps_setSync | apply keeps_setOut | apply Keeps.ite | split | (apply keeps_mk; first | exact h | apply keeps_writePad | apply keeps_writeMsg | apply keeps_setIn | apply keeps_bump | apply keeps_setSync | apply keeps_setOut | apply Keeps.ite | split)


theorem keeps_opAck (core : Nat) (o : Nat) (h : Keeps s t) : Keeps s (Machine.opAck t core o) := by
  unfold Machine.opAck
  try dsimp only
  repeat' with_reducible first | exact h | apply keeps_setOut | apply keeps_finish | apply Keeps.ite | split | (apply keeps_mk; first | exact h | apply keeps_setOut | apply keeps_finish | apply Keeps.ite | split)


theorem keeps_opCredit (core : Nat) (o : Nat) (h : Keeps s t) : Keeps s (Machine.opCredit t core o) := by
  unfold Machine.opCredit
  try dsimp only
  repeat' with_reducible first | exact h | apply keeps_sendTakeUp | apply keeps_setOut | apply Keeps.ite | split | (apply keeps_mk; first | exact h | apply keeps_sendTakeUp | apply keeps_setOut | apply Keeps.ite | split)


theorem keeps_opChnRelease (core : Nat) (h : Keeps s t) : Keeps s (Machine.opChnRelease t core) := by
  unfold Machine.opChnRelease
  try dsimp only
  repeat' with_reducible first | exact h | apply keeps_finish | apply keeps_setIn | apply keeps_setOut | apply Keeps.ite | split | (apply keeps_mk; first | exact h | apply keeps_finish | apply keeps_setIn | apply keeps_setOut | apply Keeps.ite | split)


theorem keeps_opSendTimeout (core : Nat) (id : Nat) (h : Keeps s t) : Keeps s (Machine.opSendTimeout t core id) := by
  unfold Machine.opSendTimeout
  try dsimp only
  repeat' with_reducible first | exact h | apply keeps_sendTakeUp | apply keeps_setEng | apply keeps_bump | apply keeps_raiseErr | apply Keeps.ite | split | (apply keeps_mk; first | exact h | apply keeps_sendTakeUp | apply keeps_setEng | apply keeps_bump | apply keeps_raiseErr | apply Keeps.ite | split)


theorem keeps_sendTick (core : Nat) (h : Keeps s t) : Keeps s (Machine.sendTick t core) := by
  unfold Machine.sendTick
  try dsimp only
  repeat' with_reducible first | exact h | exact Keeps.refl _ | apply keeps_bump | apply keeps_setEng | apply Keeps.ite | apply Keeps.foldl | apply Keeps.foldl1 | intro _ | split | (apply keeps_mk; first | exact h | exact Keeps.refl _ | apply keeps_bump | apply keeps_setEng | apply Keeps.ite | apply Keeps.foldl | apply Keeps.foldl1 | split)


theorem keeps_bindRejected (core : Nat) (n : Nat) (h : Keeps s t) : Keeps s (Machine.bindRejected t core n) := by
  unfold Machine.bindRejected
  try dsimp only
  repeat' with_reducible first | exact h | apply keeps_raiseErr


theorem keeps_unbindOut (core : Nat) (o : Nat) (h : Keeps s t) : Keeps s (Machine.unbindOut t core o) := by
  unfold Machine.unbindOut
  try dsimp only
  repeat' with_reducible first | exact h | apply keeps_setIn | apply Keeps.ite | split | (apply keeps_mk; first | exact h | apply keeps_setIn | apply Keeps.ite | split)


theorem keeps_opOutCfg (core : Nat) (o : Nat) (v : Nat) (h : Keeps s t) : Keeps s (Machine.opOutCfg t core o v) := by
  unfold Machine.opOutCfg
  try dsimp only
  repeat' with_reducible first | exact h | apply keeps_bindRejected | apply keeps_setReg | apply keeps_unbindOut | apply keeps_setOut | apply keeps_setIn | apply Keeps.ite | split


theorem keeps_opInCfg (core : Nat) (i : Nat) (reel : Bool) (v : Nat) (h : Keeps s t) : Keeps s (Machine.opInCfg t core i reel v) := by
  unfold Machine.opInCfg
  try dsimp only
  repeat' with_reducible first | exact h | apply keeps_bindRejected | apply keeps_setReg | apply Keeps.ite | split


theorem keeps_unbindJobOut (core : Nat) (o : Nat) (job : Nat) (h : Keeps s t) : Keeps s (Machine.unbindJobOut t core o job) := by
  unfold Machine.unbindJobOut
  try dsimp only
  repeat' with_reducible first | exact h | apply keeps_setIn | apply keeps_setOut | apply keeps_setReg | apply Keeps.ite | split


theorem keeps_unbindJobIn (core : Nat) (i : Nat) (job : Nat) (h : Keeps s t) : Keeps s (Machine.unbindJobIn t core i job) := by
  unfold Machine.unbindJobIn
  try dsimp only
  repeat' with_reducible first | exact h | apply keeps_setReg | apply keeps_setIn | apply Keeps.ite | split


theorem keeps_unbindJob (core : Nat) (job : Nat) (h : Keeps s t) : Keeps s (Machine.unbindJob t core job) := by
  unfold Machine.unbindJob
  try dsimp only
  repeat' with_reducible first | exact h | exact Keeps.refl _ | apply keeps_unbindJobIn | apply keeps_unbindJobOut | apply Keeps.foldl | apply Keeps.foldl1 | intro _


theorem keeps_setPse (r : Nat) (p : Pse) (h : Keeps s t) : Keeps s (Machine.setPse t r p) := by
  unfold Machine.setPse
  try dsimp only
  repeat' with_reducible first | exact h | (apply keeps_mk; first | exact h)


theorem keeps_setUpf (r : Nat) (u1 : Upf) (h : Keeps s t) : Keeps s (Machine.setUpf t r u1) := by
  unfold Machine.setUpf
  try dsimp only
  repeat' with_reducible first | exact h | (apply keeps_mk; first | exact h)


theorem keeps_endCmds (r : Nat) (op : Nat) (status : Nat) (h : Keeps s t) : Keeps s (Machine.endCmds t r op status) := by
  unfold Machine.endCmds
  try dsimp only
  repeat' with_reducible first | exact h | exact Keeps.refl _ | apply keeps_finish | apply Keeps.foldl | apply Keeps.foldl1 | intro _


theorem keeps_endStep (r : Nat) (c : PStep) (status : Nat) (h : Keeps s t) : Keeps s (Machine.endStep t r c status) := by
  unfold Machine.endStep
  try dsimp only
  repeat' with_reducible first | exact h | apply keeps_finish | apply Keeps.ite | split


theorem keeps_becomeDrained (r : Nat) (h : Keeps s t) : Keeps s (Machine.becomeDrained t r) := by
  unfold Machine.becomeDrained
  try dsimp only
  repeat' with_reducible first | exact h | apply keeps_setPse | apply keeps_raiseEvt | apply keeps_endCmds | (apply keeps_mk; first | exact h | apply keeps_setPse | apply keeps_raiseEvt | apply keeps_endCmds)


theorem keeps_settleFail (r : Nat) (h : Keeps s t) : Keeps s (Machine.settleFail t r) := by
  unfold Machine.settleFail
  try dsimp only
  repeat' with_reducible first | exact h | apply keeps_endStep | apply keeps_setPse | apply keeps_becomeDrained | apply Keeps.ite | split | (apply keeps_mk; first | exact h | apply keeps_endStep | apply keeps_setPse | apply keeps_becomeDrained | apply Keeps.ite | split)


theorem keeps_settleStep (r : Nat) (h : Keeps s t) : Keeps s (Machine.settleStep t r) := by
  unfold Machine.settleStep
  try dsimp only
  repeat' with_reducible first | exact h | apply keeps_endStep | apply keeps_setPse | apply keeps_becomeDrained | apply Keeps.ite | split | (apply keeps_mk; first | exact h | apply keeps_endStep | apply keeps_setPse | apply keeps_becomeDrained | apply Keeps.ite | split)


theorem keeps_settleDrain (r : Nat) (h : Keeps s t) : Keeps s (Machine.settleDrain t r) := by
  unfold Machine.settleDrain
  try dsimp only
  repeat' with_reducible first | exact h | apply keeps_becomeDrained | apply Keeps.ite | split


theorem keeps_settleAbort (r : Nat) (h : Keeps s t) : Keeps s (Machine.settleAbort t r) := by
  unfold Machine.settleAbort
  try dsimp only
  repeat' with_reducible first | exact h | apply keeps_endCmds | apply keeps_setPse | apply Keeps.ite | split | (apply keeps_mk; first | exact h | apply keeps_endCmds | apply keeps_setPse | apply Keeps.ite | split)


theorem keeps_pseSettle (r : Nat) (h : Keeps s t) : Keeps s (Machine.pseSettle t r) := by
  unfold Machine.pseSettle
  try dsimp only
  repeat' with_reducible first | exact h | apply keeps_settleAbort | apply keeps_settleDrain | apply keeps_settleStep | apply keeps_settleFail


theorem keeps_pseFail (r : Nat) (status : Nat) (h : Keeps s t) : Keeps s (Machine.pseFail t r status) := by
  unfold Machine.pseFail
  try dsimp only
  repeat' with_reducible first | exact h | apply keeps_pseSettle | apply keeps_setPse | apply Keeps.ite | split | (apply keeps_mk; first | exact h | apply keeps_pseSettle | apply keeps_setPse | apply Keeps.ite | split)


theorem keeps_stageSend (r : Nat) (down : Bool) (m : StageMsg) (bs : List Byte) (h : Keeps s t) : Keeps s (Machine.stageSend t r down m bs) := by
  unfold Machine.stageSend
  try dsimp only
  repeat' with_reducible first | exact h | apply keeps_sendMsgVia | apply Keeps.ite | split


theorem keeps_creditSend (r : Nat) (old : Nat) (h : Keeps s t) : Keeps s (Machine.creditSend t r old) := by
  unfold Machine.creditSend
  try dsimp only
  repeat' with_reducible first | exact h | apply keeps_stageSend | apply Keeps.ite | split


theorem keeps_xferFail (r : Nat) (down : Bool) (addr : Nat) (h : Keeps s t) : Keeps s (Machine.xferFail t r down addr) := by
  unfold Machine.xferFail
  try dsimp only
  repeat' with_reducible first | exact h | apply keeps_raiseErr | apply keeps_bump | apply keeps_stageSend | apply keeps_pseFail | apply Keeps.ite | split


theorem keeps_xferUncorr (r : Nat) (down : Bool) (addr : Nat) (h : Keeps s t) : Keeps s (Machine.xferUncorr t r down addr) := by
  unfold Machine.xferUncorr
  try dsimp only
  repeat' with_reducible first | exact h | apply keeps_xferFail | apply keeps_uncorrFab


theorem keeps_startXfer (r : Nat) (down : Bool) (x : Xfer) (h : Keeps s t) : Keeps s (Machine.startXfer t r down x) := by
  unfold Machine.startXfer
  try dsimp only
  repeat' with_reducible first | exact h | apply keeps_xferFail | apply keeps_xferUncorr | apply keeps_setPse | apply keeps_stageSend | apply Keeps.ite | split | (apply keeps_mk; first | exact h | apply keeps_xferFail | apply keeps_xferUncorr | apply keeps_setPse | apply keeps_stageSend | apply Keeps.ite | split)


theorem keeps_startFwd (a0 : Nat) (a2 : Nat) (h : Keeps s t) : Keeps s (Machine.startFwd a0 t a2) := by
  induction a0 generalizing t a2 with
  | zero =>
    unfold Machine.startFwd
    try dsimp only
    repeat' with_reducible first | exact h | apply keeps_setPse | apply keeps_startXfer | apply Keeps.ite | split | (apply keeps_mk; first | exact h | apply keeps_setPse | apply keeps_startXfer | apply Keeps.ite | split)
  | succ _ ih =>
    unfold Machine.startFwd
    try dsimp only
    repeat' with_reducible first | exact h | apply ih | apply keeps_setPse | apply keeps_startXfer | apply Keeps.ite | split | (apply keeps_mk; first | exact h | apply keeps_setPse | apply keeps_startXfer | apply Keeps.ite | split)

theorem keeps_dispatchPhase (r : Nat) (c : PStep) (x : Nat × Nat × Nat) (seg : Nat) (h : Keeps s t) : Keeps s (Machine.dispatchPhase t r c x seg) := by
  unfold Machine.dispatchPhase
  try dsimp only
  repeat' with_reducible first | exact h | apply keeps_wrMem | apply keeps_setPse | apply keeps_setSync | apply Keeps.ite | split | (apply keeps_mk; first | exact h | apply keeps_wrMem | apply keeps_setPse | apply keeps_setSync | apply Keeps.ite | split)


theorem keeps_opPhaseDispatch (r : Nat) (h : Keeps s t) : Keeps s (Machine.opPhaseDispatch t r) := by
  unfold Machine.opPhaseDispatch
  try dsimp only
  repeat' with_reducible first | exact h | apply keeps_dispatchPhase | apply keeps_raiseErr | apply keeps_uncorrFab | apply keeps_pseFail | apply Keeps.ite | split


theorem keeps_admitStep (r : Nat) (c : PStep) (h : Keeps s t) : Keeps s (Machine.admitStep t r c) := by
  unfold Machine.admitStep
  try dsimp only
  repeat' with_reducible first | exact h | exact Keeps.refl _ | apply keeps_setPse | apply keeps_stageSend | apply keeps_creditSend | apply keeps_settleFail | apply Keeps.ite | apply Keeps.foldl | apply Keeps.foldl1 | intro _ | split | (apply keeps_mk; first | exact h | exact Keeps.refl _ | apply keeps_setPse | apply keeps_stageSend | apply keeps_creditSend | apply keeps_settleFail | apply Keeps.ite | apply Keeps.foldl | apply Keeps.foldl1 | split)


theorem keeps_admitWaiting (r : Nat) (c : PStep) (h : Keeps s t) : Keeps s (Machine.admitWaiting t r c) := by
  unfold Machine.admitWaiting
  try dsimp only
  repeat' with_reducible first | exact h | apply keeps_setPse | apply keeps_finish | apply keeps_admitStep | apply Keeps.ite | split | (apply keeps_mk; first | exact h | apply keeps_setPse | apply keeps_finish | apply keeps_admitStep | apply Keeps.ite | split)


theorem keeps_opStep (r : Nat) (h : Keeps s t) : Keeps s (Machine.opStep t r) := by
  unfold Machine.opStep
  try dsimp only
  repeat' with_reducible first | exact h | apply keeps_finish | apply keeps_setRun | apply keeps_setPse | apply keeps_admitStep | apply Keeps.ite | split | (apply keeps_mk; first | exact h | apply keeps_finish | apply keeps_setRun | apply keeps_setPse | apply keeps_admitStep | apply Keeps.ite | split)


theorem keeps_opStepAdmit (r : Nat) (h : Keeps s t) : Keeps s (Machine.opStepAdmit t r) := by
  unfold Machine.opStepAdmit
  try dsimp only
  repeat' with_reducible first | exact h | apply keeps_admitWaiting | apply Keeps.ite | split


theorem keeps_phaseDone (r : Nat) (f : PFlight) (bytes : Nat) (h : Keeps s t) : Keeps s (Machine.phaseDone t r f bytes) := by
  unfold Machine.phaseDone
  try dsimp only
  repeat' with_reducible first | exact h | apply keeps_setPse | apply keeps_startFwd | apply keeps_startXfer | apply Keeps.ite | split | (apply keeps_mk; first | exact h | apply keeps_setPse | apply keeps_startFwd | apply keeps_startXfer | apply Keeps.ite | split)


theorem keeps_opDone (r : Nat) (h : Keeps s t) : Keeps s (Machine.opDone t r) := by
  unfold Machine.opDone
  try dsimp only
  repeat' with_reducible first | exact h | apply keeps_finish | apply keeps_setPse | apply keeps_pseSettle | apply keeps_creditSend | apply keeps_phaseDone | apply keeps_raiseErr | apply keeps_bump | apply keeps_pseFail | apply Keeps.ite | split | (apply keeps_mk; first | exact h | apply keeps_finish | apply keeps_setPse | apply keeps_pseSettle | apply keeps_creditSend | apply keeps_phaseDone | apply keeps_raiseErr | apply keeps_bump | apply keeps_pseFail | apply Keeps.ite | split)


theorem keeps_drainStage (r : Nat) (h : Keeps s t) : Keeps s (Machine.drainStage t r) := by
  unfold Machine.drainStage
  try dsimp only
  repeat' with_reducible first | exact h | apply keeps_pseSettle | apply keeps_setPse | apply Keeps.ite | split | (apply keeps_mk; first | exact h | apply keeps_pseSettle | apply keeps_setPse | apply Keeps.ite | split)


theorem keeps_opDrainPse (r : Nat) (h : Keeps s t) : Keeps s (Machine.opDrainPse t r) := by
  unfold Machine.opDrainPse
  try dsimp only
  repeat' with_reducible first | exact h | apply keeps_finish | apply keeps_drainStage | apply keeps_setRun | apply Keeps.ite | split | (apply keeps_mk; first | exact h | apply keeps_finish | apply keeps_drainStage | apply keeps_setRun | apply Keeps.ite | split)


theorem keeps_opResume (r : Nat) (h : Keeps s t) : Keeps s (Machine.opResume t r) := by
  unfold Machine.opResume
  try dsimp only
  repeat' with_reducible first | exact h | apply keeps_finish | apply keeps_setPse | apply keeps_admitWaiting | apply Keeps.ite | split | (apply keeps_mk; first | exact h | apply keeps_finish | apply keeps_setPse | apply keeps_admitWaiting | apply Keeps.ite | split)


theorem keeps_abortRuns (r : Nat) (h : Keeps s t) : Keeps s (Machine.abortRuns t r) := by
  unfold Machine.abortRuns
  try dsimp only
  repeat' with_reducible first | exact h | exact Keeps.refl _ | apply keeps_finishQueued | apply keeps_finish | apply keeps_setUpf | apply Keeps.ite | apply Keeps.foldl | apply Keeps.foldl1 | intro _ | split | (apply keeps_mk; first | exact h | exact Keeps.refl _ | apply keeps_finishQueued | apply keeps_finish | apply keeps_setUpf | apply Keeps.ite | apply Keeps.foldl | apply Keeps.foldl1 | split)


theorem keeps_abortStage (r : Nat) (h : Keeps s t) : Keeps s (Machine.abortStage t r) := by
  unfold Machine.abortStage
  try dsimp only
  repeat' with_reducible first | exact h | apply keeps_endCmds | apply keeps_setPse | apply keeps_settleAbort | apply keeps_abortRuns | apply Keeps.ite | split | (apply keeps_mk; first | exact h | apply keeps_endCmds | apply keeps_setPse | apply keeps_settleAbort | apply keeps_abortRuns | apply Keeps.ite | split)


theorem keeps_opAbort (r : Nat) (h : Keeps s t) : Keeps s (Machine.opAbort t r) := by
  unfold Machine.opAbort
  try dsimp only
  repeat' with_reducible first | exact h | apply keeps_abortStage | apply keeps_setRun | apply Keeps.ite | split | (apply keeps_mk; first | exact h | apply keeps_abortStage | apply keeps_setRun | apply Keeps.ite | split)


theorem keeps_opVersionOpen (r : Nat) (h : Keeps s t) : Keeps s (Machine.opVersionOpen t r) := by
  unfold Machine.opVersionOpen
  try dsimp only
  repeat' with_reducible first | exact h | apply keeps_setRun | apply keeps_finish | apply keeps_setPse | apply Keeps.ite | split | (apply keeps_mk; first | exact h | apply keeps_setRun | apply keeps_finish | apply keeps_setPse | apply Keeps.ite | split)


theorem keeps_opVersionPublish (r : Nat) (h : Keeps s t) : Keeps s (Machine.opVersionPublish t r) := by
  unfold Machine.opVersionPublish
  try dsimp only
  repeat' with_reducible first | exact h | exact Keeps.refl _ | apply keeps_setRun | apply keeps_finish | apply keeps_setPse | apply Keeps.ite | apply Keeps.foldl | apply Keeps.foldl1 | intro _ | split | (apply keeps_mk; first | exact h | exact Keeps.refl _ | apply keeps_setRun | apply keeps_finish | apply keeps_setPse | apply Keeps.ite | apply Keeps.foldl | apply Keeps.foldl1 | split)


theorem keeps_opVersionExtend (r : Nat) (h : Keeps s t) : Keeps s (Machine.opVersionExtend t r) := by
  unfold Machine.opVersionExtend
  try dsimp only
  repeat' with_reducible first | exact h | apply keeps_finish | apply keeps_setRun | apply keeps_setPse | apply Keeps.ite | split | (apply keeps_mk; first | exact h | apply keeps_finish | apply keeps_setRun | apply keeps_setPse | apply Keeps.ite | split)


theorem keeps_landXfer {r : Nat} {backward : Bool} {mb : Nat} {v : Nat} {data : List Byte} {u : State} (h : Keeps s t) (e : Machine.landXfer t r backward mb v data = some u) : Keeps s u := by
  unfold Machine.landXfer at e
  try dsimp only at e
  repeat' (first | split at e | cases e)
  all_goals
    repeat' with_reducible first | exact h | apply keeps_pseFail | apply keeps_uncorrFab | apply keeps_wrMem | apply keeps_setPse | apply Keeps.ite | split | (apply keeps_mk; first | exact h | apply keeps_pseFail | apply keeps_uncorrFab | apply keeps_wrMem | apply keeps_setPse | apply Keeps.ite | split)

theorem keeps_opArrivalPse (r : Nat) (backward : Bool) (mb : Nat) (v : Nat) (data : List Byte) (h : Keeps s t) : Keeps s (Machine.opArrivalPse t r backward mb v data) := by
  unfold Machine.opArrivalPse
  try dsimp only
  repeat' with_reducible first | exact h | apply keeps_setPse | apply keeps_xferFail | apply keeps_pseSettle | apply keeps_stageSend | apply Keeps.ite | split | (apply keeps_mk; first | exact h | apply keeps_setPse | apply keeps_xferFail | apply keeps_pseSettle | apply keeps_stageSend | apply Keeps.ite | split) | exact keeps_landXfer h (by assumption)


theorem keeps_opReport (r : Nat) (backward : Bool) (mb : Nat) (v : Nat) (h : Keeps s t) : Keeps s (Machine.opReport t r backward mb v) := by
  unfold Machine.opReport
  try dsimp only
  repeat' with_reducible first | exact h | apply keeps_bump | apply keeps_setPse | apply Keeps.ite | split | (apply keeps_mk; first | exact h | apply keeps_bump | apply keeps_setPse | apply Keeps.ite | split)


theorem keeps_opCreditPse (r : Nat) (count : Nat) (h : Keeps s t) : Keeps s (Machine.opCreditPse t r count) := by
  unfold Machine.opCreditPse
  try dsimp only
  repeat' with_reducible first | exact h | apply keeps_startFwd | apply keeps_setPse | apply Keeps.ite | split | (apply keeps_mk; first | exact h | apply keeps_startFwd | apply keeps_setPse | apply Keeps.ite | split)


theorem keeps_linkLostStage (r : Nat) (down : Bool) (h : Keeps s t) : Keeps s (Machine.linkLostStage t r down) := by
  unfold Machine.linkLostStage
  try dsimp only
  repeat' with_reducible first | exact h | apply keeps_bump | apply keeps_raiseErr | apply keeps_pseFail | apply keeps_setPse | apply Keeps.ite | split | (apply keeps_mk; first | exact h | apply keeps_bump | apply keeps_raiseErr | apply keeps_pseFail | apply keeps_setPse | apply Keeps.ite | split)


theorem keeps_dirLostStages (dir : Nat) (h : Keeps s t) : Keeps s (Machine.dirLostStages t dir) := by
  unfold Machine.dirLostStages
  try dsimp only
  repeat' with_reducible first | exact h | exact Keeps.refl _ | apply keeps_linkLostStage | apply Keeps.ite | apply Keeps.foldl | apply Keeps.foldl1 | intro _ | split


theorem keeps_opXferFailed (r : Nat) (down : Bool) (linkLost : Bool) (addr : Nat) (h : Keeps s t) : Keeps s (Machine.opXferFailed t r down linkLost addr) := by
  unfold Machine.opXferFailed
  try dsimp only
  repeat' with_reducible first | exact h | apply keeps_linkLostStage | apply keeps_xferUncorr | apply keeps_setPse | apply keeps_pseFail | apply Keeps.ite | split | (apply keeps_mk; first | exact h | apply keeps_linkLostStage | apply keeps_xferUncorr | apply keeps_setPse | apply keeps_pseFail | apply Keeps.ite | split)


theorem keeps_opStageCfg (r : Nat) (v : Nat) (h : Keeps s t) : Keeps s (Machine.opStageCfg t r v) := by
  unfold Machine.opStageCfg
  try dsimp only
  repeat' with_reducible first | exact h | apply keeps_setReg | apply keeps_settleAbort | apply keeps_setUpf | apply keeps_setPse | apply Keeps.ite | split | (apply keeps_mk; first | exact h | apply keeps_setReg | apply keeps_settleAbort | apply keeps_setUpf | apply keeps_setPse | apply Keeps.ite | split)


theorem keeps_flrStage (r : Nat) (h : Keeps s t) : Keeps s (Machine.flrStage t r) := by
  unfold Machine.flrStage
  try dsimp only
  repeat' with_reducible first | exact h | exact Keeps.refl _ | apply keeps_finish | apply keeps_finishQueued | apply keeps_abortStage | apply keeps_setUpf | apply keeps_setRegF | apply Keeps.foldl | apply Keeps.foldl1 | intro _ | (apply keeps_mk; first | exact h | exact Keeps.refl _ | apply keeps_finish | apply keeps_finishQueued | apply keeps_abortStage | apply keeps_setUpf | apply keeps_setRegF | apply Keeps.foldl | apply Keeps.foldl1)


theorem keeps_updElem (u1 : UCtx) (d : GDesc) (norm : Nat) (ga : Nat) (e : Nat) (h : Keeps s t) : Keeps s (Machine.updElem u1 d norm ga t e).1 := by
  unfold Machine.updElem
  try dsimp only
  repeat' with_reducible first | exact h | apply keeps_wrNum | apply Keeps.ite | split


theorem keeps_updElems (u1 : UCtx) (d : GDesc) (norm : Nat) (ga : Nat) (p : Nat → Bool) (h : Keeps s t) : Keeps s (Machine.updElems u1 d norm ga p t).1 := by
  unfold Machine.updElems
  try dsimp only
  repeat' with_reducible first | exact h | exact Keeps.refl _ | apply keeps_updElem | apply Keeps.ite | apply Keeps.foldl | apply Keeps.foldl1 | intro _ | split


theorem keeps_quantise (d : GDesc) (slot : Nat) (h : Keeps s t) : Keeps s (Machine.quantise t d slot) := by
  unfold Machine.quantise
  try dsimp only
  repeat' with_reducible first | exact h | exact Keeps.refl _ | apply keeps_wrNum | apply keeps_wrMem | apply Keeps.foldl | apply Keeps.foldl1 | intro _


theorem keeps_writeDigest (r : Nat) (j : Nat) (d : Nat) (step : Nat) (h : Keeps s t) : Keeps s (Machine.writeDigest t r j d step) := by
  unfold Machine.writeDigest
  try dsimp only
  repeat' with_reducible first | exact h | apply keeps_wrMem


theorem keeps_keepDigest (r : Nat) (j : Nat) (step : Nat) (h : Keeps s t) : Keeps s (Machine.keepDigest t r j step) := by
  unfold Machine.keepDigest
  try dsimp only
  repeat' with_reducible first | exact h | apply keeps_wrNum


theorem keeps_copyTiles (d : GDesc) (old : Nat) (new : Nat) (h : Keeps s t) : Keeps s (Machine.copyTiles t d old new) := by
  unfold Machine.copyTiles
  try dsimp only
  repeat' with_reducible first | exact h | apply keeps_wrMem


theorem keeps_quantiseTo (d : GDesc) (slot : Nat) (job : Nat) (h : Keeps s t) : Keeps s (Machine.quantiseTo t d slot job).1 := by
  unfold Machine.quantiseTo
  try dsimp only
  repeat' with_reducible first | exact h | apply keeps_uncorrFab | apply keeps_quantise | apply Keeps.ite | split


theorem keeps_tornUpdate (u1 : UCtx) (d : GDesc) (norm : Nat) (ga : Nat) (slot : Nat) (h : Keeps s t) : Keeps s (Machine.tornUpdate u1 d norm ga slot t).1 := by
  unfold Machine.tornUpdate
  try dsimp only
  repeat' with_reducible first | exact h | apply keeps_updElems | apply keeps_undefRows | (apply keeps_mk; first | exact h | apply keeps_updElems | apply keeps_undefRows)


theorem keeps_skipGroup (r : Nat) (j : Nat) (step : Nat) (slot : Nat) (job : Nat) (prev : Option Nat) (d : GDesc) (h : Keeps s t) : Keeps s (Machine.skipGroup t r j step slot job prev d).1 := by
  unfold Machine.skipGroup
  try dsimp only
  repeat' with_reducible first | exact h | apply keeps_keepDigest | apply keeps_copyTiles | apply keeps_undefRows | apply keeps_uncorrFab | apply keeps_quantiseTo | apply keeps_writeDigest | apply Keeps.ite | split


theorem keeps_updGroup (u1 : UCtx) (r : Nat) (j : Nat) (slot : Nat) (job : Nat) (norm : Nat) (ga : Nat) (d : GDesc) (h : Keeps s t) : Keeps s (Machine.updGroup u1 r j slot job norm ga d t).1 := by
  unfold Machine.updGroup
  try dsimp only
  repeat' with_reducible first | exact h | apply keeps_tornUpdate | apply keeps_updElems | apply keeps_quantiseTo | apply keeps_writeDigest | apply Keeps.ite | split


theorem keeps_setUpfRun (r : Nat) (x : UpfRun) (h : Keeps s t) : Keeps s (Machine.setUpfRun t r x) := by
  unfold Machine.setUpfRun
  try dsimp only
  repeat' with_reducible first | exact h | apply keeps_setUpf | (apply keeps_mk; first | exact h | apply keeps_setUpf)


theorem keeps_upfEnd (r : Nat) (status : Nat) (result : List Byte) (h : Keeps s t) : Keeps s (Machine.upfEnd t r status result) := by
  unfold Machine.upfEnd
  try dsimp only
  repeat' with_reducible first | exact h | apply keeps_finish | apply keeps_pseSettle | apply keeps_setUpf | apply Keeps.ite | split | (apply keeps_mk; first | exact h | apply keeps_finish | apply keeps_pseSettle | apply keeps_setUpf | apply Keeps.ite | split)


theorem keeps_normEnd (r : Nat) (x : UpfRun) (h : Keeps s t) : Keeps s (Machine.normEnd t r x) := by
  unfold Machine.normEnd
  try dsimp only
  repeat' with_reducible first | exact h | apply keeps_setUpfRun | apply keeps_setReg | apply keeps_bump | apply keeps_raiseEvt | apply Keeps.ite | split | (apply keeps_mk; first | exact h | apply keeps_setUpfRun | apply keeps_setReg | apply keeps_bump | apply keeps_raiseEvt | apply Keeps.ite | split)


theorem keeps_normGo (a0 : Nat) (a2 : Nat) (a3 : UpfRun) (h : Keeps s t) : Keeps s (Machine.normGo a0 t a2 a3) := by
  induction a0 generalizing t a2 a3 with
  | zero =>
    unfold Machine.normGo
    try dsimp only
    repeat' with_reducible first | exact h | apply keeps_uncorrFab | apply keeps_setUpf | apply keeps_upfEnd | apply keeps_normEnd | apply Keeps.ite | split | (apply keeps_mk; first | exact h | apply keeps_uncorrFab | apply keeps_setUpf | apply keeps_upfEnd | apply keeps_normEnd | apply Keeps.ite | split)
  | succ _ ih =>
    unfold Machine.normGo
    try dsimp only
    repeat' with_reducible first | exact h | apply ih | apply keeps_uncorrFab | apply keeps_setUpf | apply keeps_upfEnd | apply keeps_normEnd | apply Keeps.ite | split | (apply keeps_mk; first | exact h | apply keeps_uncorrFab | apply keeps_setUpf | apply keeps_upfEnd | apply keeps_normEnd | apply Keeps.ite | split)

theorem keeps_versionGo (r : Nat) (x : UpfRun) (h : Keeps s t) : Keeps s (Machine.versionGo t r x) := by
  have ho : ∀ p, Keeps s (Machine.versionGo.openGo r x t p) := fun p => by
    unfold Machine.versionGo.openGo
    dsimp only
    repeat' first | exact h | apply keeps_upfEnd | apply keeps_setUpfRun | apply keeps_setPse | split
  unfold Machine.versionGo
  dsimp only
  repeat' first | exact ho _ | exact h | apply keeps_upfEnd | apply keeps_setPse | split

theorem keeps_stateUncorr (page : Nat) (g : Nat) (job : Nat) (h : Keeps s t) : Keeps s (Machine.stateUncorr t page g job) := by
  unfold Machine.stateUncorr
  try dsimp only
  repeat' with_reducible first | exact h | apply keeps_raiseErr | apply keeps_uncorrFab


theorem keeps_freeBoxes (boxes : List Nat) (h : Keeps s t) : Keeps s (Machine.freeBoxes t boxes) := by
  unfold Machine.freeBoxes
  try dsimp only
  repeat' with_reducible first | exact h | (apply keeps_mk; first | exact h)


theorem keeps_treatGroup {r : Nat} {x : UpfRun} {i : Nat} {u : State} (h : Keeps s t) (e : Machine.treatGroup t r x i = some u) : Keeps s u := by
  unfold Machine.treatGroup at e
  try dsimp only at e
  repeat' (first | split at e | cases e)
  all_goals
    repeat' with_reducible first | exact h | apply keeps_bump | apply keeps_stateUncorr | apply keeps_setUpfRun | apply keeps_upfEnd | apply keeps_freeBoxes | apply keeps_uncorrFab | apply keeps_wrMem | apply keeps_skipGroup | apply keeps_updGroup | apply Keeps.ite | split | (apply keeps_mk; first | exact h | apply keeps_bump | apply keeps_stateUncorr | apply keeps_setUpfRun | apply keeps_upfEnd | apply keeps_freeBoxes | apply keeps_uncorrFab | apply keeps_wrMem | apply keeps_skipGroup | apply keeps_updGroup | apply Keeps.ite | split)

theorem keeps_digSend (r : Nat) (dest : Nat) (kind : Nat) (n : Nat) (step : Nat) (bs : List Byte) (h : Keeps s t) : Keeps s (Machine.digSend t r dest kind n step bs) := by
  unfold Machine.digSend
  try dsimp only
  repeat' with_reducible first | exact h | apply keeps_sendMsgTo | apply Keeps.ite | split


theorem keeps_sendDigests (r : Nat) (step : Nat) (groups : List Nat) (h : Keeps s t) : Keeps s (Machine.sendDigests t r step groups) := by
  unfold Machine.sendDigests
  try dsimp only
  repeat' with_reducible first | exact h | apply keeps_digSend | (apply keeps_mk; first | exact h | apply keeps_digSend)


theorem keeps_digestsGo (r : Nat) (step : Nat) (h : Keeps s t) : Keeps s (Machine.digestsGo t r step) := by
  unfold Machine.digestsGo
  try dsimp only
  repeat' with_reducible first | exact h | apply keeps_sendDigests | apply Keeps.ite | split


theorem keeps_barVersion (job : Nat) (step : Nat) (h : Keeps s t) : Keeps s (Machine.barVersion t job step) := by
  unfold Machine.barVersion
  try dsimp only
  repeat' with_reducible first | exact h | exact Keeps.refl _ | apply keeps_setUpf | apply Keeps.ite | apply Keeps.foldl | apply Keeps.foldl1 | intro _ | split | (apply keeps_mk; first | exact h | exact Keeps.refl _ | apply keeps_setUpf | apply Keeps.ite | apply Keeps.foldl | apply Keeps.foldl1 | split)


theorem keeps_digSplit (r : Nat) (step : Nat) (first : Nat) (distinct : Nat) (reported : Nat) (groups : Nat) (h : Keeps s t) : Keeps s (Machine.digSplit t r step first distinct reported groups) := by
  unfold Machine.digSplit
  try dsimp only
  repeat' with_reducible first | exact h | apply keeps_barVersion | apply keeps_setReg | apply keeps_raiseErr | apply keeps_bump


theorem keeps_tornGroups (r : Nat) (job : Nat) (step : Nat) (groups : List Nat) (h : Keeps s t) : Keeps s (Machine.tornGroups t r job step groups) := by
  unfold Machine.tornGroups
  try dsimp only
  repeat' with_reducible first | exact h | exact Keeps.refl _ | apply keeps_digSplit | apply keeps_digSend | apply Keeps.ite | apply Keeps.foldl | apply Keeps.foldl1 | intro _ | split


theorem keeps_runEnd (r : Nat) (x : UpfRun) (h : Keeps s t) : Keeps s (Machine.runEnd t r x) := by
  unfold Machine.runEnd
  extract_lets ng u x' uu u2
  have h1 : Keeps s u := by
    refine Keeps.ite h (keeps_tornGroups _ _ _ _ ?_)
    exact Keeps.ite h (h.rest rfl rfl rfl rfl rfl rfl)
  refine Keeps.ite h (Keeps.ite (keeps_setUpfRun _ _ h1) (keeps_upfEnd _ _ _ (keeps_digestsGo _ _ ?_)))
  exact Keeps.ite h1 (keeps_setUpf _ _ h1)

theorem keeps_updatePass (a0 : Nat) (a2 : Nat) (h : Keeps s t) : Keeps s (Machine.updatePass a0 t a2) := by
  induction a0 generalizing t a2 with
  | zero =>
    unfold Machine.updatePass
    try dsimp only
    repeat' with_reducible first | exact h | apply keeps_runEnd | apply Keeps.ite | split | exact keeps_treatGroup h (by assumption)
  | succ _ ih =>
    unfold Machine.updatePass
    try dsimp only
    repeat' with_reducible first | exact h | apply ih | apply keeps_runEnd | apply Keeps.ite | split | exact keeps_treatGroup h (by assumption)

theorem keeps_upfGo (r : Nat) (h : Keeps s t) : Keeps s (Machine.upfGo t r) := by
  unfold Machine.upfGo
  try dsimp only
  repeat' with_reducible first | exact h | apply keeps_normGo | apply keeps_versionGo | apply keeps_updatePass | apply Keeps.ite | split


theorem keeps_updBegin (r : Nat) (y : RCmd) (h : Keeps s t) : Keeps s (Machine.updBegin t r y) := by
  unfold Machine.updBegin
  try dsimp only
  repeat' with_reducible first | exact h | apply keeps_finish | apply keeps_uncorrFab | apply keeps_setRun | apply keeps_upfGo | apply keeps_setUpf | apply Keeps.ite | split | (apply keeps_mk; first | exact h | apply keeps_finish | apply keeps_uncorrFab | apply keeps_setRun | apply keeps_upfGo | apply keeps_setUpf | apply Keeps.ite | split)


theorem keeps_opUpdRun (r : Nat) (init : Bool) (h : Keeps s t) : Keeps s (Machine.opUpdRun t r init) := by
  unfold Machine.opUpdRun
  try dsimp only
  repeat' with_reducible first | exact h | apply keeps_updBegin | apply keeps_upfGo | apply Keeps.ite | split


theorem keeps_opLanding (r : Nat) (group : Nat) (h : Keeps s t) : Keeps s (Machine.opLanding t r group) := by
  unfold Machine.opLanding
  try dsimp only
  repeat' with_reducible first | exact h | apply keeps_upfGo | apply keeps_setUpf | apply Keeps.ite | split | (apply keeps_mk; first | exact h | apply keeps_upfGo | apply keeps_setUpf | apply Keeps.ite | split)


theorem keeps_opUpfPublish (r : Nat) (h : Keeps s t) : Keeps s (Machine.opUpfPublish t r) := by
  unfold Machine.opUpfPublish
  try dsimp only
  repeat' with_reducible first | exact h | apply keeps_setUpf | apply keeps_pseSettle | apply keeps_setPse | apply Keeps.ite | split | (apply keeps_mk; first | exact h | apply keeps_setUpf | apply keeps_pseSettle | apply keeps_setPse | apply Keeps.ite | split)


theorem keeps_applyNGroup (n : Notice) (g : NGroup) (h : Keeps s t) : Keeps s (Machine.applyNGroup t n g).1 := by
  unfold Machine.applyNGroup
  try dsimp only
  repeat' with_reducible first | exact h | apply keeps_tornUpdate | apply keeps_updGroup | apply keeps_bump | apply keeps_skipGroup | apply keeps_stateUncorr | apply Keeps.ite | split


theorem keeps_noteTorn (n : Notice) (torn : List Nat) (h : Keeps s t) : Keeps s (Machine.noteTorn t n torn) := by
  unfold Machine.noteTorn
  try dsimp only
  repeat' with_reducible first | exact h | apply keeps_tornGroups | apply keeps_setUpf | apply Keeps.ite | split | (apply keeps_mk; first | exact h | apply keeps_tornGroups | apply keeps_setUpf | apply Keeps.ite | split)


theorem keeps_opNoticeStart  (h : Keeps s t) : Keeps s (Machine.opNoticeStart t) := by
  unfold Machine.opNoticeStart
  try dsimp only
  repeat' with_reducible first | exact h | exact Keeps.refl _ | apply keeps_applyNGroup | apply keeps_noteTorn | apply Keeps.ite | apply Keeps.foldl | apply Keeps.foldl1 | intro _ | split | (apply keeps_mk; first | exact h | exact Keeps.refl _ | apply keeps_applyNGroup | apply keeps_noteTorn | apply Keeps.ite | apply Keeps.foldl | apply Keeps.foldl1 | split)


theorem keeps_opNoticeDone  (h : Keeps s t) : Keeps s (Machine.opNoticeDone t) := by
  unfold Machine.opNoticeDone
  try dsimp only
  repeat' with_reducible first | exact h | apply keeps_freeBoxes | apply keeps_setUpf | apply keeps_pseSettle | apply keeps_digestsGo | apply Keeps.ite | split | (apply keeps_mk; first | exact h | apply keeps_freeBoxes | apply keeps_setUpf | apply keeps_pseSettle | apply keeps_digestsGo | apply Keeps.ite | split)


theorem keeps_dropNotices (p : Notice → Bool) (h : Keeps s t) : Keeps s (Machine.dropNotices t p) := by
  unfold Machine.dropNotices
  try dsimp only
  repeat' with_reducible first | exact h | apply keeps_freeBoxes | (apply keeps_mk; first | exact h | apply keeps_freeBoxes)


theorem keeps_flrUpdates (job : Nat) (h : Keeps s t) : Keeps s (Machine.flrUpdates t job) := by
  unfold Machine.flrUpdates
  try dsimp only
  repeat' with_reducible first | exact h | exact Keeps.refl _ | apply keeps_freeBoxes | apply keeps_dropNotices | apply Keeps.foldl | apply Keeps.foldl1 | intro _


theorem keeps_setDig (r : Nat) (g : Dig) (h : Keeps s t) : Keeps s (Machine.setDig t r g) := by
  unfold Machine.setDig
  try dsimp only
  repeat' with_reducible first | exact h | (apply keeps_mk; first | exact h)


theorem keeps_sendReports (r : Nat) (step : Nat) (rep : DigReport) (h : Keeps s t) : Keeps s (Machine.sendReports t r step rep) := by
  unfold Machine.sendReports
  try dsimp only
  repeat' with_reducible first | exact h | exact Keeps.refl _ | apply keeps_digSend | apply Keeps.foldl | apply Keeps.foldl1 | intro _


theorem keeps_digDecide (r : Nat) (step : Nat) (h : Keeps s t) : Keeps s (Machine.digDecide t r step) := by
  unfold Machine.digDecide
  try dsimp only
  repeat' with_reducible first | exact h | exact Keeps.refl _ | apply keeps_bump | apply keeps_sendReports | apply keeps_setDig | apply Keeps.ite | apply Keeps.foldl | apply Keeps.foldl1 | intro _ | split | (apply keeps_mk; first | exact h | exact Keeps.refl _ | apply keeps_bump | apply keeps_sendReports | apply keeps_setDig | apply Keeps.ite | apply Keeps.foldl | apply Keeps.foldl1 | split)


theorem keeps_opDigestReport (r : Nat) (d : Nat) (step : Nat) (groups : List (Nat × Nat)) (h : Keeps s t) : Keeps s (Machine.opDigestReport t r d step groups) := by
  unfold Machine.opDigestReport
  try dsimp only
  repeat' with_reducible first | exact h | apply keeps_setDig | apply keeps_digDecide | apply Keeps.ite | split | (apply keeps_mk; first | exact h | apply keeps_setDig | apply keeps_digDecide | apply Keeps.ite | split)


theorem keeps_opComparerWait (r : Nat) (h : Keeps s t) : Keeps s (Machine.opComparerWait t r) := by
  unfold Machine.opComparerWait
  try dsimp only
  repeat' with_reducible first | exact h | apply keeps_digDecide | apply Keeps.ite | split


theorem keeps_pubFine (r : Nat) (step : Nat) (repairs : List Nat) (source : Nat) (h : Keeps s t) : Keeps s (Machine.pubFine t r step repairs source) := by
  unfold Machine.pubFine
  try dsimp only
  repeat' with_reducible first | exact h | apply keeps_setUpf | apply Keeps.ite | split | (apply keeps_mk; first | exact h | apply keeps_setUpf | apply Keeps.ite | split)


theorem keeps_nextSource (r : Nat) (step : Nat) (group : Nat) (dst : Nat) (failed : Nat) (h : Keeps s t) : Keeps s (Machine.nextSource t r step group dst failed) := by
  unfold Machine.nextSource
  try dsimp only
  repeat' with_reducible first | exact h | apply keeps_sendReports | apply keeps_setDig | apply Keeps.ite | split | (apply keeps_mk; first | exact h | apply keeps_sendReports | apply keeps_setDig | apply Keeps.ite | split)


theorem keeps_sourceFailed (r : Nat) (group : Nat) (dst : Nat) (step : Option Nat) (h : Keeps s t) : Keeps s (Machine.sourceFailed t r group dst step) := by
  unfold Machine.sourceFailed
  try dsimp only
  repeat' with_reducible first | exact h | apply keeps_nextSource | apply keeps_digSend | apply Keeps.ite | split


theorem keeps_repairSend (r : Nat) (group : Nat) (dst : Nat) (step : Option Nat) (h : Keeps s t) : Keeps s (Machine.repairSend t r group dst step) := by
  unfold Machine.repairSend
  try dsimp only
  repeat' with_reducible first | exact h | apply keeps_sourceFailed | apply keeps_stateUncorr | apply keeps_digSend | apply Keeps.ite | split | (apply keeps_mk; first | exact h | apply keeps_sourceFailed | apply keeps_stateUncorr | apply keeps_digSend | apply Keeps.ite | split)


theorem keeps_pubSource (r : Nat) (step : Nat) (fixes : List (Nat × Nat × Nat)) (h : Keeps s t) : Keeps s (Machine.pubSource t r step fixes) := by
  unfold Machine.pubSource
  try dsimp only
  repeat' with_reducible first | exact h | apply keeps_setUpf | apply Keeps.ite | split | (apply keeps_mk; first | exact h | apply keeps_setUpf | apply Keeps.ite | split)


theorem keeps_opComparison (r : Nat) (step : Nat) (rep : DigReport) (h : Keeps s t) : Keeps s (Machine.opComparison t r step rep) := by
  unfold Machine.opComparison
  try dsimp only
  repeat' with_reducible first | exact h | exact Keeps.refl _ | apply keeps_setDig | apply keeps_digSplit | apply keeps_pubFine | apply keeps_setReg | apply keeps_repairSend | apply keeps_pubSource | apply Keeps.ite | apply Keeps.foldl | apply Keeps.foldl1 | intro _ | split | (apply keeps_mk; first | exact h | exact Keeps.refl _ | apply keeps_setDig | apply keeps_digSplit | apply keeps_pubFine | apply keeps_setReg | apply keeps_repairSend | apply keeps_pubSource | apply Keeps.ite | apply Keeps.foldl | apply Keeps.foldl1 | split)


theorem keeps_repairedEvent (r : Nat) (step : Nat) (n : Nat) (src : Nat) (h : Keeps s t) : Keeps s (Machine.repairedEvent t r step n src) := by
  unfold Machine.repairedEvent
  try dsimp only
  repeat' with_reducible first | exact h | apply keeps_raiseEvt


theorem keeps_writeRepair (r : Nat) (j : Nat) (step : Nat) (slot : Nat) (job : Nat) (d : GDesc) (data : List Byte) (h : Keeps s t) : Keeps s (Machine.writeRepair t r j step slot job d data) := by
  unfold Machine.writeRepair
  try dsimp only
  repeat' with_reducible first | exact h | apply keeps_wrMem | apply keeps_quantiseTo | apply keeps_writeDigest


theorem keeps_repairSplit (r : Nat) (step : Nat) (group : Nat) (h : Keeps s t) : Keeps s (Machine.repairSplit t r step group) := by
  unfold Machine.repairSplit
  try dsimp only
  repeat' with_reducible first | exact h | apply keeps_digSplit | (apply keeps_mk; first | exact h | apply keeps_digSplit)


theorem keeps_repairTorn (r : Nat) (group : Nat) (maj : Nat) (data : List Byte) (x : UpfRun) (h : Keeps s t) : Keeps s (Machine.repairTorn t r group maj data x) := by
  unfold Machine.repairTorn
  try dsimp only
  repeat' with_reducible first | exact h | apply keeps_writeRepair | apply keeps_bump | apply keeps_setUpfRun | apply keeps_upfGo | apply keeps_repairSplit | apply keeps_repairedEvent | apply Keeps.ite | split | (apply keeps_mk; first | exact h | apply keeps_writeRepair | apply keeps_bump | apply keeps_setUpfRun | apply keeps_upfGo | apply keeps_repairSplit | apply keeps_repairedEvent | apply Keeps.ite | split)


theorem keeps_repairPub (r : Nat) (group : Nat) (maj : Nat) (data : List Byte) (p : PubRun) (h : Keeps s t) : Keeps s (Machine.repairPub t r group maj data p) := by
  unfold Machine.repairPub
  try dsimp only
  repeat' with_reducible first | exact h | apply keeps_writeRepair | apply keeps_bump | apply keeps_setUpf | apply keeps_repairSplit | apply keeps_upfGo | apply keeps_digestsGo | apply keeps_repairedEvent | apply Keeps.ite | split | (apply keeps_mk; first | exact h | apply keeps_writeRepair | apply keeps_bump | apply keeps_setUpf | apply keeps_repairSplit | apply keeps_upfGo | apply keeps_digestsGo | apply keeps_repairedEvent | apply Keeps.ite | split)


theorem keeps_opRepaired (r : Nat) (group : Nat) (maj : Nat) (data : List Byte) (h : Keeps s t) : Keeps s (Machine.opRepaired t r group maj data) := by
  unfold Machine.opRepaired
  try dsimp only
  repeat' with_reducible first | exact h | apply keeps_repairTorn | apply keeps_repairPub | apply Keeps.ite | split


theorem keeps_opDigestLate (r : Nat) (h : Keeps s t) : Keeps s (Machine.opDigestLate t r) := by
  unfold Machine.opDigestLate
  try dsimp only
  repeat' with_reducible first | exact h | apply keeps_setDig | apply keeps_setReg | apply keeps_pubFine | apply keeps_raiseErr | apply Keeps.ite | split | (apply keeps_mk; first | exact h | apply keeps_setDig | apply keeps_setReg | apply keeps_pubFine | apply keeps_raiseErr | apply Keeps.ite | split)


theorem keeps_opRepairRequest (r : Nat) (group : Nat) (dst : Nat) (h : Keeps s t) : Keeps s (Machine.opRepairRequest t r group dst) := by
  unfold Machine.opRepairRequest
  try dsimp only
  repeat' with_reducible first | exact h | apply keeps_repairSend | apply Keeps.ite | split


theorem keeps_setGxe (j : Nat) (g : Gxe) (h : Keeps s t) : Keeps s (Machine.setGxe t j g) := by
  unfold Machine.setGxe
  try dsimp only
  repeat' with_reducible first | exact h | (apply keeps_mk; first | exact h)


theorem keeps_sendPkt (j : Nat) (dst : Nat) (ty : Nat) (p : GxePkt) (h : Keeps s t) : Keeps s (Machine.sendPkt t j dst ty p) := by
  unfold Machine.sendPkt
  try dsimp only
  repeat' with_reducible first | exact h | apply keeps_setGxe | apply keeps_sendTo | apply Keeps.ite | split | (apply keeps_mk; first | exact h | apply keeps_setGxe | apply keeps_sendTo | apply Keeps.ite | split)


theorem keeps_dlog (j : Nat) (step : Nat) (bucket : Nat) (shard : Nat) (peer : Nat) (kind : Nat) (check : Nat) (h : Keeps s t) : Keeps s (Machine.dlog t j step bucket shard peer kind check) := by
  unfold Machine.dlog
  try dsimp only
  repeat' with_reducible first | exact h | apply keeps_wrFab | apply keeps_setGxe | (apply keeps_mk; first | exact h | apply keeps_wrFab | apply keeps_setGxe)


theorem keeps_writeFcst (j : Nat) (b : Nat) (step : Nat) (vals : List Nat) (h : Keeps s t) : Keeps s (Machine.writeFcst t j b step vals) := by
  unfold Machine.writeFcst
  try dsimp only
  repeat' with_reducible first | exact h | apply keeps_setGxe | apply keeps_wrFab | (apply keeps_mk; first | exact h | apply keeps_setGxe | apply keeps_wrFab)


theorem keeps_quantBlock (d : BDesc) (fc : List Nat) (xi : Nat) (x : Ext) (blk : Nat) (h : Keeps s t) : Keeps s (Machine.quantBlock t d fc xi x blk).1 := by
  unfold Machine.quantBlock
  try dsimp only
  repeat' with_reducible first | exact h | exact Keeps.refl _ | apply keeps_wrNum | apply Keeps.ite | apply Keeps.foldl | apply Keeps.foldl1 | intro _ | split


theorem keeps_quantChunk (j : Nat) (b : Nat) (step : Nat) (d : BDesc) (xs : List Ext) (fc : List Nat) (shard : Nat) (lo : Nat) (chunk : Nat) (n : Nat) (h : Keeps s t) : Keeps s (Machine.quantChunk t j b step d xs fc shard lo chunk n).1 := by
  unfold Machine.quantChunk
  try dsimp only
  repeat' with_reducible first | exact h | exact Keeps.refl _ | apply keeps_quantBlock | apply Keeps.ite | apply Keeps.foldl | apply Keeps.foldl1 | intro _ | split


theorem keeps_quantShard (j : Nat) (b : Nat) (step : Nat) (d : BDesc) (xs : List Ext) (fc : List Nat) (shard : Nat) (h : Keeps s t) : Keeps s (Machine.quantShard t j b step d xs fc shard).1 := by
  unfold Machine.quantShard
  try dsimp only
  repeat' with_reducible first | exact h | exact Keeps.refl _ | apply keeps_quantChunk | apply Keeps.foldl | apply Keeps.foldl1 | intro _


theorem keeps_readyEnd (j : Nat) (h : Keeps s t) : Keeps s (Machine.readyEnd t j) := by
  unfold Machine.readyEnd
  try dsimp only
  repeat' with_reducible first | exact h | exact Keeps.refl _ | apply keeps_finish | apply keeps_setGxe | apply Keeps.ite | apply Keeps.foldl | apply Keeps.foldl1 | intro _ | split | (apply keeps_mk; first | exact h | exact Keeps.refl _ | apply keeps_finish | apply keeps_setGxe | apply Keeps.ite | apply Keeps.foldl | apply Keeps.foldl1 | split)


theorem keeps_readyGo (j : Nat) (y : RCmd) (b step : Nat) (h : Keeps s t) : Keeps s (Machine.readyGo t j y b step) := by
  unfold Machine.readyGo
  extract_lets d xs fc k dl order head s1 q s2 marked s3 s4 g s5 s6 s7
  have h1 : Keeps s s1 := keeps_sendPkt _ _ _ _ h
  have h2 : Keeps s s2 := Keeps.foldl1 h1 fun _ _ _ => keeps_quantShard _ _ _ _ _ _ _ (Keeps.refl _)
  have h3 : Keeps s s3 := Keeps.ite h2 (keeps_bump _ _ _ h2)
  have h4 : Keeps s s4 :=
    Keeps.foldl h3 fun _ _ => keeps_raiseErr _ _ _ _ _ (keeps_uncorrAny _ _ (keeps_bump _ _ _ (Keeps.refl _)))
  have h6 : Keeps s s6 := Keeps.foldl (keeps_setGxe _ _ h4) fun _ _ => keeps_sendPkt _ _ _ _ (Keeps.refl _)
  refine keeps_readyEnd _ ?_
  dsimp only [s7]
  split
  · exact keeps_writeFcst _ _ _ _ h6
  · exact h6

theorem keeps_opBucketReady (id : Nat) (h : Keeps s t) : Keeps s (Machine.opBucketReady t id) := by
  unfold Machine.opBucketReady
  try dsimp only
  repeat' with_reducible first | exact h | apply keeps_finish | apply keeps_bump | apply keeps_uncorrAny | apply keeps_raiseErr | apply keeps_writeFcst | apply keeps_readyGo | apply keeps_setRun | apply Keeps.ite | split | (apply keeps_mk; first | exact h | apply keeps_finish | apply keeps_bump | apply keeps_uncorrAny | apply keeps_raiseErr | apply keeps_writeFcst | apply keeps_readyGo | apply keeps_setRun | apply Keeps.ite | split)


theorem keeps_takeSelf {ty : Nat} {p : GxePkt} {u : State} (h : Keeps s t) (e : Machine.takeSelf t ty p = some u) : Keeps s u := by
  unfold Machine.takeSelf at e
  try dsimp only at e
  repeat' (first | split at e | cases e)
  all_goals
    repeat' with_reducible first | exact h | apply keeps_setGxe | apply Keeps.ite | split | (apply keeps_mk; first | exact h | apply keeps_setGxe | apply Keeps.ite | split)

theorem keeps_sendGrant (j : Nat) (b : Nat) (dst : Nat) (step : Nat) (h : Keeps s t) : Keeps s (Machine.sendGrant t j b dst step) := by
  unfold Machine.sendGrant
  try dsimp only
  repeat' with_reducible first | exact h | apply keeps_sendPkt


theorem keeps_grantShard (j : Nat) (x : GShard) (h : Keeps s t) : Keeps s (Machine.grantShard t j x) := by
  have ht : ∀ p : State × Nat, (if x.slot ≠ 0 then some (t, x.slot) else (freeStore t j).map (fun i =>
      (undefRows t 1 (jStore t j + i * jSlotBytes t j) 0 (jSlotBytes t j), i + 1))) = some p → Keeps s p.1 := by
    intro p e
    split at e
    · cases e
      exact h
    · cases hf : freeStore t j <;> rw [hf] at e <;> cases e
      exact keeps_undefRows _ _ _ _ h
  unfold Machine.grantShard
  split
  · exact h
  · dsimp only
    split
    · exact h
    · rename_i e
      refine keeps_setGxe _ _ (Keeps.foldl (ht _ e) fun u c => ?_)
      exact Keeps.ite (Keeps.refl _) (keeps_sendGrant _ _ _ _ (Keeps.refl _))

theorem keeps_serveGrants (j : Nat) (h : Keeps s t) : Keeps s (Machine.serveGrants t j) := by
  unfold Machine.serveGrants
  try dsimp only
  repeat' with_reducible first | exact h | exact Keeps.refl _ | apply keeps_grantShard | apply Keeps.foldl | apply Keeps.foldl1 | intro _


theorem keeps_straggler (p : GxePkt) (step : Nat) (closedAt : Nat) (deferred : Bool) (h : Keeps s t) : Keeps s (Machine.straggler t p step closedAt deferred) := by
  unfold Machine.straggler
  try dsimp only
  repeat' with_reducible first | exact h | apply keeps_raiseEvt | apply keeps_bump | apply Keeps.ite | split


theorem keeps_checkFailed (j : Nat) (bucket : Nat) (shard : Nat) (step : Nat) (chunk : Nat) (atReceiver : Bool) (h : Keeps s t) : Keeps s (Machine.checkFailed t j bucket shard step chunk atReceiver) := by
  unfold Machine.checkFailed
  try dsimp only
  repeat' with_reducible first | exact h | apply keeps_bump | apply keeps_setGxe | apply keeps_raiseErr | (apply keeps_mk; first | exact h | apply keeps_bump | apply keeps_setGxe | apply keeps_raiseErr)


theorem keeps_sendResult (j : Nat) (ty : Nat) (p : GxePkt) (h : Keeps s t) : Keeps s (Machine.sendResult t j ty p) := by
  unfold Machine.sendResult
  try dsimp only
  repeat' with_reducible first | exact h | exact Keeps.refl _ | apply keeps_sendPkt | apply Keeps.ite | apply Keeps.foldl | apply Keeps.foldl1 | intro _ | split


theorem keeps_forwardResult (j : Nat) (ty : Nat) (p : GxePkt) (h : Keeps s t) : Keeps s (Machine.forwardResult t j ty p) := by
  unfold Machine.forwardResult
  try dsimp only
  repeat' with_reducible first | exact h | exact Keeps.refl _ | apply keeps_sendPkt | apply Keeps.ite | apply Keeps.foldl | apply Keeps.foldl1 | intro _ | split


theorem keeps_finishShard (j : Nat) (x : GShard) (h : Keeps s t) : Keeps s (Machine.finishShard t j x) := by
  unfold Machine.finishShard
  try dsimp only
  repeat' with_reducible first | exact h | exact Keeps.refl _ | apply keeps_setGxe | apply keeps_serveGrants | apply keeps_checkFailed | apply keeps_sendResult | apply keeps_dlog | apply Keeps.ite | apply Keeps.foldl | apply Keeps.foldl1 | intro _ | split | (apply keeps_mk; first | exact h | exact Keeps.refl _ | apply keeps_setGxe | apply keeps_serveGrants | apply keeps_checkFailed | apply keeps_sendResult | apply keeps_dlog | apply Keeps.ite | apply Keeps.foldl | apply Keeps.foldl1 | split)


theorem keeps_tryFinish (j : Nat) (b : Nat) (step : Nat) (h : Keeps s t) : Keeps s (Machine.tryFinish t j b step) := by
  unfold Machine.tryFinish
  try dsimp only
  repeat' with_reducible first | exact h | apply keeps_finishShard | apply Keeps.ite | split


theorem keeps_closeShard (j : Nat) (b : Nat) (step : Nat) (h : Keeps s t) : Keeps s (Machine.closeShard t j b step) := by
  unfold Machine.closeShard
  try dsimp only
  repeat' with_reducible first | exact h | apply keeps_tryFinish | apply keeps_setGxe | (apply keeps_mk; first | exact h | apply keeps_tryFinish | apply keeps_setGxe)


theorem keeps_closeDue (j : Nat) (b : Nat) (step : Nat) (h : Keeps s t) : Keeps s (Machine.closeDue t j b step) := by
  unfold Machine.closeDue
  try dsimp only
  repeat' with_reducible first | exact h | apply keeps_closeShard | apply Keeps.ite | split


theorem keeps_opGrantReq (p : GxePkt) (h : Keeps s t) : Keeps s (Machine.opGrantReq t p) := by
  unfold Machine.opGrantReq
  try dsimp only
  repeat' with_reducible first | exact h | apply keeps_bump | apply keeps_closeDue | apply keeps_setGxe | apply keeps_serveGrants | apply keeps_straggler | apply keeps_sendGrant | apply keeps_closeShard | apply Keeps.ite | split | (apply keeps_mk; first | exact h | apply keeps_bump | apply keeps_closeDue | apply keeps_setGxe | apply keeps_serveGrants | apply keeps_straggler | apply keeps_sendGrant | apply keeps_closeShard | apply Keeps.ite | split) | exact keeps_takeSelf h (by assumption)


theorem keeps_opWindow (j : Nat) (b : Nat) (shard : Nat) (h : Keeps s t) : Keeps s (Machine.opWindow t j b shard) := by
  unfold Machine.opWindow
  try dsimp only
  repeat' with_reducible first | exact h | apply keeps_closeShard | apply Keeps.ite | split


theorem keeps_opHist (p : GxePkt) (h : Keeps s t) : Keeps s (Machine.opHist t p) := by
  unfold Machine.opHist
  try dsimp only
  repeat' with_reducible first | exact h | apply keeps_bump | apply keeps_setGxe | apply Keeps.ite | split | (apply keeps_mk; first | exact h | apply keeps_bump | apply keeps_setGxe | apply Keeps.ite | split) | exact keeps_takeSelf h (by assumption)


theorem keeps_opContrib (p : GxePkt) (h : Keeps s t) : Keeps s (Machine.opContrib t p) := by
  unfold Machine.opContrib
  try dsimp only
  repeat' with_reducible first | exact h | exact Keeps.refl _ | apply keeps_bump | apply keeps_setGxe | apply keeps_dlog | apply keeps_tryFinish | apply Keeps.ite | apply Keeps.foldl | apply Keeps.foldl1 | intro _ | split | (apply keeps_mk; first | exact h | exact Keeps.refl _ | apply keeps_bump | apply keeps_setGxe | apply keeps_dlog | apply keeps_tryFinish | apply Keeps.ite | apply Keeps.foldl | apply Keeps.foldl1 | split) | exact keeps_takeSelf h (by assumption)


theorem keeps_opGrant (p : GxePkt) (h : Keeps s t) : Keeps s (Machine.opGrant t p) := by
  unfold Machine.opGrant
  try dsimp only
  repeat' with_reducible first | exact h | exact Keeps.refl _ | apply keeps_bump | apply keeps_sendPkt | apply keeps_dlog | apply keeps_setGxe | apply Keeps.ite | apply Keeps.foldl | apply Keeps.foldl1 | intro _ | split | (apply keeps_mk; first | exact h | exact Keeps.refl _ | apply keeps_bump | apply keeps_sendPkt | apply keeps_dlog | apply keeps_setGxe | apply Keeps.ite | apply Keeps.foldl | apply Keeps.foldl1 | split) | exact keeps_takeSelf h (by assumption)


theorem keeps_tryLand (j : Nat) (b : Nat) (sh : Nat) (step : Nat) (h : Keeps s t) : Keeps s (Machine.tryLand t j b sh step) := by
  unfold Machine.tryLand
  try dsimp only
  repeat' with_reducible first | exact h | exact Keeps.refl _ | apply keeps_wrFab | apply keeps_dlog | apply keeps_setGxe | apply keeps_readyEnd | apply Keeps.ite | apply Keeps.foldl | apply Keeps.foldl1 | intro _ | split | (apply keeps_mk; first | exact h | exact Keeps.refl _ | apply keeps_wrFab | apply keeps_dlog | apply keeps_setGxe | apply keeps_readyEnd | apply Keeps.ite | apply Keeps.foldl | apply Keeps.foldl1 | split)


theorem keeps_opClose (p : GxePkt) (h : Keeps s t) : Keeps s (Machine.opClose t p) := by
  unfold Machine.opClose
  extract_lets j
  refine Keeps.ite (keeps_bump _ _ _ h) ?_
  split
  · exact h
  · rename_i e
    have h1 := keeps_takeSelf h e
    extract_lets u step g g' g2 u2 vals u3
    have h2 : Keeps s u2 := keeps_setGxe _ _ (keeps_forwardResult _ _ _ h1)
    exact keeps_tryLand _ _ _ _ (keeps_tryFinish _ _ _
      (Keeps.ite h2 (Keeps.ite (keeps_writeFcst _ _ _ _ h2) (keeps_setGxe _ _ h2))))

theorem keeps_landBlock (j : Nat) (d : BDesc) (xs : List Ext) (blk : Nat) (qs : List Byte) (x : Nat) (h : Keeps s t) : Keeps s (Machine.landBlock t j d xs blk qs x).1 := by
  unfold Machine.landBlock
  try dsimp only
  repeat' with_reducible first | exact h | apply keeps_wrFab | apply Keeps.ite | split


theorem keeps_landChunk (p : GxePkt) (x : GLand) (h : Keeps s t) : Keeps s (Machine.landChunk t p x) := by
  unfold Machine.landChunk
  try dsimp only
  repeat' with_reducible first | exact h | exact Keeps.refl _ | apply keeps_landBlock | apply keeps_bump | apply keeps_tryLand | apply keeps_setGxe | apply Keeps.ite | apply Keeps.foldl | apply Keeps.foldl1 | intro _ | split | (apply keeps_mk; first | exact h | exact Keeps.refl _ | apply keeps_landBlock | apply keeps_bump | apply keeps_tryLand | apply keeps_setGxe | apply Keeps.ite | apply Keeps.foldl | apply Keeps.foldl1 | split)


theorem keeps_opResult (p : GxePkt) (h : Keeps s t) : Keeps s (Machine.opResult t p) := by
  unfold Machine.opResult
  try dsimp only
  repeat' with_reducible first | exact h | apply keeps_bump | apply keeps_forwardResult | apply keeps_checkFailed | apply keeps_setGxe | apply keeps_sendMsgTo | apply keeps_landChunk | apply Keeps.ite | split | (apply keeps_mk; first | exact h | apply keeps_bump | apply keeps_forwardResult | apply keeps_checkFailed | apply keeps_setGxe | apply keeps_sendMsgTo | apply keeps_landChunk | apply Keeps.ite | split) | exact keeps_takeSelf h (by assumption)


theorem keeps_opResend (j : Nat) (b : Nat) (shard : Nat) (step : Nat) (chunk : Nat) (dst : Nat) (h : Keeps s t) : Keeps s (Machine.opResend t j b shard step chunk dst) := by
  unfold Machine.opResend
  try dsimp only
  repeat' with_reducible first | exact h | apply keeps_sendPkt | apply Keeps.ite | split


theorem keeps_dropLandings (j : Nat) (h : Keeps s t) : Keeps s (Machine.dropLandings t j) := by
  unfold Machine.dropLandings
  try dsimp only
  repeat' with_reducible first | exact h | exact Keeps.refl _ | apply keeps_setUpf | apply Keeps.foldl | apply Keeps.foldl1 | intro _ | (apply keeps_mk; first | exact h | exact Keeps.refl _ | apply keeps_setUpf | apply Keeps.foldl | apply Keeps.foldl1)


theorem keeps_gxeDiscard (j : Nat) (h : Keeps s t) : Keeps s (Machine.gxeDiscard t j) := by
  unfold Machine.gxeDiscard
  try dsimp only
  repeat' with_reducible first | exact h | exact Keeps.refl _ | apply keeps_dropLandings | apply keeps_finish | apply keeps_setGxe | apply Keeps.foldl | apply Keeps.foldl1 | intro _


theorem keeps_opGxeAbort  (h : Keeps s t) : Keeps s (Machine.opGxeAbort t) := by
  unfold Machine.opGxeAbort
  try dsimp only
  repeat' with_reducible first | exact h | apply keeps_finish | apply keeps_gxeDiscard | apply Keeps.ite | split


theorem keeps_gxeLost (j : Nat) (dir : Nat) (h : Keeps s t) : Keeps s (Machine.gxeLost t j dir).1 := by
  unfold Machine.gxeLost
  try dsimp only
  repeat' with_reducible first | exact h | exact Keeps.refl _ | apply keeps_setGxe | apply keeps_finish | apply keeps_raiseErr | apply keeps_tryFinish | apply Keeps.ite | apply Keeps.foldl | apply Keeps.foldl1 | intro _ | split | (apply keeps_mk; first | exact h | exact Keeps.refl _ | apply keeps_setGxe | apply keeps_finish | apply keeps_raiseErr | apply keeps_tryFinish | apply Keeps.ite | apply Keeps.foldl | apply Keeps.foldl1 | split)


theorem keeps_gxeCfgWrite (off : Nat) (v : Nat) (h : Keeps s t) : Keeps s (Machine.gxeCfgWrite t off v) := by
  unfold Machine.gxeCfgWrite
  try dsimp only
  repeat' with_reducible first | exact h | apply keeps_setReg | apply Keeps.ite | split


theorem keeps_flrGxe (j : Nat) (h : Keeps s t) : Keeps s (Machine.flrGxe t j) := by
  unfold Machine.flrGxe
  try dsimp only
  repeat' with_reducible first | exact h | apply keeps_setRegF | apply keeps_gxeDiscard


end Sys2Proof.Laws
end

