-- ==== Sys2Proof/Laws/KeepLink.lean ====
section
/-! SUPPORT. What the operations of Link, Tor, Mem, Ctl keep. -/
namespace Sys2Proof.Laws
open Sys2Proof.Machine

variable {s t : State}

theorem keeps_linkTrace (dir : Nat) (kind : Nat) (f : Frame) (epoch : Nat) (h : Keeps s t) : Keeps s (Machine.linkTrace t dir kind f epoch) := by
  unfold Machine.linkTrace
  try dsimp only
  repeat' with_reducible first | exact h | apply keeps_wrFab | apply keeps_bump | apply keeps_setReg | apply Keeps.ite | split


theorem keeps_sendFrame (dir : Nat) (f : Frame) (h : Keeps s t) : Keeps s (Machine.sendFrame t dir f) := by
  unfold Machine.sendFrame
  try dsimp only
  repeat' with_reducible first | exact h | apply keeps_linkTrace | apply keeps_setLnk | apply Keeps.ite | split | (apply keeps_mk; first | exact h | apply keeps_linkTrace | apply keeps_setLnk | apply Keeps.ite | split)


theorem keeps_sendLink (dir : Nat) (op : Nat) (h : Keeps s t) : Keeps s (Machine.sendLink t dir op) := by
  unfold Machine.sendLink
  try dsimp only
  repeat' with_reducible first | exact h | apply keeps_sendFrame | (apply keeps_mk; first | exact h | apply keeps_sendFrame)


theorem keeps_askLink (dir : Nat) (op : Nat) (h : Keeps s t) : Keeps s (Machine.askLink t dir op) := by
  unfold Machine.askLink
  try dsimp only
  repeat' with_reducible first | exact h | apply keeps_sendLink | apply keeps_setLnk | apply Keeps.ite | split | (apply keeps_mk; first | exact h | apply keeps_sendLink | apply keeps_setLnk | apply Keeps.ite | split)


theorem keeps_answered (dir : Nat) (op : Nat) (h : Keeps s t) : Keeps s (Machine.answered t dir op) := by
  unfold Machine.answered
  try dsimp only
  repeat' with_reducible first | exact h | apply keeps_setLnk | (apply keeps_mk; first | exact h | apply keeps_setLnk)


theorem keeps_opLinkRepeat (dir : Nat) (h : Keeps s t) : Keeps s (Machine.opLinkRepeat t dir) := by
  unfold Machine.opLinkRepeat
  try dsimp only
  repeat' with_reducible first | exact h | apply keeps_sendLink | apply keeps_setLnk | apply Keeps.ite | split | (apply keeps_mk; first | exact h | apply keeps_sendLink | apply keeps_setLnk | apply Keeps.ite | split)


theorem keeps_freeRx (dir : Nat) (p : Nat) (h : Keeps s t) : Keeps s (Machine.freeRx t dir p) := by
  unfold Machine.freeRx
  try dsimp only
  repeat' with_reducible first | exact h | apply keeps_setLnk | (apply keeps_mk; first | exact h | apply keeps_setLnk)


theorem keeps_freeSrc (f : TxFrame) (h : Keeps s t) : Keeps s (Machine.freeSrc t f) := by
  unfold Machine.freeSrc
  try dsimp only
  repeat' with_reducible first | exact h | apply keeps_freeRx | apply Keeps.ite | split


theorem keeps_sendNew (dir : Nat) (f : TxFrame) (rest : List TxFrame) (h : Keeps s t) : Keeps s (Machine.sendNew t dir f rest) := by
  unfold Machine.sendNew
  try dsimp only
  repeat' with_reducible first | exact h | apply keeps_setLnk | apply keeps_bump | apply keeps_freeSrc | apply keeps_sendFrame | apply Keeps.ite | split | (apply keeps_mk; first | exact h | apply keeps_setLnk | apply keeps_bump | apply keeps_freeSrc | apply keeps_sendFrame | apply Keeps.ite | split)


theorem keeps_opFrameSend (dir : Nat) (h : Keeps s t) : Keeps s (Machine.opFrameSend t dir) := by
  unfold Machine.opFrameSend
  try dsimp only
  repeat' with_reducible first | exact h | apply keeps_setLnk | apply keeps_sendFrame | apply keeps_bump | apply keeps_sendNew | apply Keeps.ite | split | (apply keeps_mk; first | exact h | apply keeps_setLnk | apply keeps_sendFrame | apply keeps_bump | apply keeps_sendNew | apply Keeps.ite | split)


theorem keeps_takeAck (dir : Nat) (a : Nat) (h : Keeps s t) : Keeps s (Machine.takeAck t dir a) := by
  unfold Machine.takeAck
  try dsimp only
  repeat' with_reducible first | exact h | apply keeps_setLnk | apply Keeps.ite | split | (apply keeps_mk; first | exact h | apply keeps_setLnk | apply Keeps.ite | split)


theorem keeps_takeNak (dir : Nat) (n : Nat) (h : Keeps s t) : Keeps s (Machine.takeNak t dir n) := by
  unfold Machine.takeNak
  try dsimp only
  repeat' with_reducible first | exact h | apply keeps_setLnk | apply keeps_bump | apply Keeps.ite | split | (apply keeps_mk; first | exact h | apply keeps_setLnk | apply keeps_bump | apply Keeps.ite | split)


theorem keeps_takeCredit (dir : Nat) (p : Nat) (c : Nat) (h : Keeps s t) : Keeps s (Machine.takeCredit t dir p c) := by
  unfold Machine.takeCredit
  try dsimp only
  repeat' with_reducible first | exact h | apply keeps_setLnk | apply Keeps.ite | split | (apply keeps_mk; first | exact h | apply keeps_setLnk | apply Keeps.ite | split)


theorem keeps_takeTrailer (dir : Nat) (f : Frame) (h : Keeps s t) : Keeps s (Machine.takeTrailer t dir f) := by
  unfold Machine.takeTrailer
  try dsimp only
  repeat' with_reducible first | exact h | apply keeps_takeAck | apply keeps_takeNak | apply keeps_takeCredit | apply Keeps.ite | split


theorem keeps_lateDrop (dir : Nat) (h : Keeps s t) : Keeps s (Machine.lateDrop t dir) := by
  unfold Machine.lateDrop
  try dsimp only
  repeat' with_reducible first | exact h | apply keeps_bump


theorem keeps_forwardFrame (dir : Nat) (f : TxFrame) (out : Nat) (h : Keeps s t) : Keeps s (Machine.forwardFrame t dir f out) := by
  unfold Machine.forwardFrame
  try dsimp only
  repeat' with_reducible first | exact h | apply keeps_freeRx | apply keeps_bump | apply keeps_setLnk | apply Keeps.ite | split | (apply keeps_mk; first | exact h | apply keeps_freeRx | apply keeps_bump | apply keeps_setLnk | apply Keeps.ite | split)


theorem keeps_wakeFrom1  (h : Keeps s t) : Keeps s (Machine.wakeFrom1 t) := by
  unfold Machine.wakeFrom1
  try dsimp only
  repeat' with_reducible first | exact h | apply Keeps.ite | split | (apply keeps_mk; first | exact h | apply Keeps.ite | split)


theorem keeps_deliverFrame (dir : Nat) (f : TxFrame) (h : Keeps s t) : Keeps s (Machine.deliverFrame t dir f) := by
  unfold Machine.deliverFrame
  try dsimp only
  repeat' with_reducible first | exact h | apply keeps_bump | apply keeps_forwardFrame | apply keeps_wakeFrom1 | apply keeps_freeRx | apply keeps_lateDrop | apply Keeps.ite | split | (apply keeps_mk; first | exact h | apply keeps_bump | apply keeps_forwardFrame | apply keeps_wakeFrom1 | apply keeps_freeRx | apply keeps_lateDrop | apply Keeps.ite | split)


theorem keeps_advanceE (dir : Nat) (f : TxFrame) (h : Keeps s t) : Keeps s (Machine.advanceE t dir f) := by
  unfold Machine.advanceE
  try dsimp only
  repeat' with_reducible first | exact h | apply keeps_deliverFrame | apply keeps_setLnk | (apply keeps_mk; first | exact h | apply keeps_deliverFrame | apply keeps_setLnk)


theorem keeps_drainHeld (dir : Nat) (a0 : Nat) (h : Keeps s t) : Keeps s (Machine.drainHeld dir a0 t) := by
  induction a0 generalizing t dir with
  | zero =>
    unfold Machine.drainHeld
    try dsimp only
    repeat' with_reducible first | exact h | apply keeps_setLnk | apply keeps_advanceE | apply Keeps.ite | split | (apply keeps_mk; first | exact h | apply keeps_setLnk | apply keeps_advanceE | apply Keeps.ite | split)
  | succ _ ih =>
    unfold Machine.drainHeld
    try dsimp only
    repeat' with_reducible first | exact h | apply ih | apply keeps_setLnk | apply keeps_advanceE | apply Keeps.ite | split | (apply keeps_mk; first | exact h | apply keeps_setLnk | apply keeps_advanceE | apply Keeps.ite | split)

theorem keeps_queueNak (dir : Nat) (n : Nat) (h : Keeps s t) : Keeps s (Machine.queueNak t dir n) := by
  unfold Machine.queueNak
  try dsimp only
  repeat' with_reducible first | exact h | apply keeps_setLnk | apply Keeps.ite | split | (apply keeps_mk; first | exact h | apply keeps_setLnk | apply Keeps.ite | split)


theorem keeps_nakGap (dir : Nat) (a0 : Nat) (a1 : Nat) (h : Keeps s t) : Keeps s (Machine.nakGap dir a0 a1 t) := by
  induction a0 generalizing t dir a1 with
  | zero =>
    unfold Machine.nakGap
    try dsimp only
    repeat' with_reducible first | exact h | apply keeps_queueNak | apply Keeps.ite | split
  | succ _ ih =>
    unfold Machine.nakGap
    try dsimp only
    repeat' with_reducible first | exact h | apply ih | apply keeps_queueNak | apply Keeps.ite | split

theorem keeps_takeData (dir : Nat) (n : Nat) (f : TxFrame) (h : Keeps s t) : Keeps s (Machine.takeData t dir n f) := by
  unfold Machine.takeData
  try dsimp only
  repeat' with_reducible first | exact h | apply keeps_drainHeld | apply keeps_advanceE | apply keeps_bump | apply keeps_nakGap | apply keeps_setLnk | apply Keeps.ite | split | (apply keeps_mk; first | exact h | apply keeps_drainHeld | apply keeps_advanceE | apply keeps_bump | apply keeps_nakGap | apply keeps_setLnk | apply Keeps.ite | split)


theorem keeps_opReplayTimeout (dir : Nat) (h : Keeps s t) : Keeps s (Machine.opReplayTimeout t dir) := by
  unfold Machine.opReplayTimeout
  try dsimp only
  repeat' with_reducible first | exact h | apply keeps_bump | apply keeps_setLnk | apply Keeps.ite | split | (apply keeps_mk; first | exact h | apply keeps_bump | apply keeps_setLnk | apply Keeps.ite | split)


theorem keeps_opNakRequeue (dir : Nat) (n : Nat) (h : Keeps s t) : Keeps s (Machine.opNakRequeue t dir n) := by
  unfold Machine.opNakRequeue
  try dsimp only
  repeat' with_reducible first | exact h | apply keeps_queueNak | apply Keeps.ite | split


theorem keeps_goDown (dir : Nat) (cause : Nat) (t0 : Nat) (h : Keeps s t) : Keeps s (Machine.goDown t dir cause t0) := by
  unfold Machine.goDown
  try dsimp only
  repeat' with_reducible first | exact h | apply keeps_setLnk | apply keeps_raiseEvt | apply Keeps.ite | split | (apply keeps_mk; first | exact h | apply keeps_setLnk | apply keeps_raiseEvt | apply Keeps.ite | split)


theorem keeps_endPut (id : Nat) (status : Nat) (h : Keeps s t) : Keeps s (Machine.endPut t id status) := by
  unfold Machine.endPut
  try dsimp only
  repeat' with_reducible first | exact h | apply keeps_finish | apply Keeps.ite | split | (apply keeps_mk; first | exact h | apply keeps_finish | apply Keeps.ite | split)


theorem keeps_lostPuts (dir : Nat) (h : Keeps s t) : Keeps s (Machine.lostPuts t dir) := by
  unfold Machine.lostPuts
  try dsimp only
  repeat' with_reducible first | exact h | exact Keeps.refl _ | apply keeps_endPut | apply Keeps.foldl | apply Keeps.foldl1 | intro _


theorem keeps_dropSrc (dir : Nat) (h : Keeps s t) : Keeps s (Machine.dropSrc t dir) := by
  unfold Machine.dropSrc
  try dsimp only
  repeat' with_reducible first | exact h | exact Keeps.refl _ | apply keeps_setLnk | apply Keeps.ite | apply Keeps.foldl | apply Keeps.foldl1 | intro _ | split | (apply keeps_mk; first | exact h | exact Keeps.refl _ | apply keeps_setLnk | apply Keeps.ite | apply Keeps.foldl | apply Keeps.foldl1 | split)


theorem keeps_flushDir (dir : Nat) (h : Keeps s t) : Keeps s (Machine.flushDir t dir) := by
  unfold Machine.flushDir
  try dsimp only
  repeat' with_reducible first | exact h | exact Keeps.refl _ | apply keeps_dropSrc | apply keeps_freeSrc | apply keeps_setLnk | apply keeps_lostPuts | apply keeps_dirLostStages | apply keeps_gxeLost | apply keeps_sendLink | apply keeps_raiseErr | apply Keeps.ite | apply Keeps.foldl | apply Keeps.foldl1 | intro _ | split


theorem keeps_startBringup (dir : Nat) (h : Keeps s t) : Keeps s (Machine.startBringup t dir) := by
  unfold Machine.startBringup
  try dsimp only
  repeat' with_reducible first | exact h | apply keeps_setLnk | apply Keeps.ite | split | (apply keeps_mk; first | exact h | apply keeps_setLnk | apply Keeps.ite | split)


theorem keeps_opLinkLost (dir : Nat) (h : Keeps s t) : Keeps s (Machine.opLinkLost t dir) := by
  unfold Machine.opLinkLost
  try dsimp only
  repeat' with_reducible first | exact h | apply keeps_flushDir | apply Keeps.ite | split


theorem keeps_opBringupRetry (dir : Nat) (h : Keeps s t) : Keeps s (Machine.opBringupRetry t dir) := by
  unfold Machine.opBringupRetry
  try dsimp only
  repeat' with_reducible first | exact h | apply keeps_startBringup | apply Keeps.ite | split


theorem keeps_enterRetrain (dir : Nat) (rx : Bool) (h : Keeps s t) : Keeps s (Machine.enterRetrain t dir rx) := by
  unfold Machine.enterRetrain
  try dsimp only
  repeat' with_reducible first | exact h | apply keeps_setLnk | apply Keeps.ite | split | (apply keeps_mk; first | exact h | apply keeps_setLnk | apply Keeps.ite | split)


theorem keeps_narrowDir (dir : Nat) (w : Nat) (h : Keeps s t) : Keeps s (Machine.narrowDir t dir w) := by
  unfold Machine.narrowDir
  try dsimp only
  repeat' with_reducible first | exact h | apply keeps_enterRetrain | apply keeps_setLnk | apply keeps_raiseEvt | apply keeps_askLink | apply Keeps.ite | split


theorem keeps_swapLane {dir : Nat} {lane : Nat} {u : State} (h : Keeps s t) (e : Machine.swapLane t dir lane = some u) : Keeps s u := by
  unfold Machine.swapLane at e
  try dsimp only at e
  repeat' (first | split at e | cases e)
  all_goals
    repeat' with_reducible first | exact h | apply keeps_raiseEvt | apply keeps_setLnk | apply Keeps.ite | split | (apply keeps_mk; first | exact h | apply keeps_raiseEvt | apply keeps_setLnk | apply Keeps.ite | split)

theorem keeps_squallLane (dir : Nat) (lane : Nat) (h : Keeps s t) : Keeps s (Machine.squallLane t dir lane) := by
  unfold Machine.squallLane
  try dsimp only
  repeat' with_reducible first | exact h | apply keeps_goDown | apply keeps_setLnk | apply keeps_askLink | apply keeps_enterRetrain | apply Keeps.ite | split | (apply keeps_mk; first | exact h | apply keeps_goDown | apply keeps_setLnk | apply keeps_askLink | apply keeps_enterRetrain | apply Keeps.ite | split) | exact keeps_swapLane h (by assumption)


theorem keeps_noteCodewords (dir : Nat) (lane : Nat) (errs : List Nat) (h : Keeps s t) : Keeps s (Machine.noteCodewords t dir lane errs) := by
  unfold Machine.noteCodewords
  try dsimp only
  repeat' with_reducible first | exact h | exact Keeps.refl _ | apply keeps_bump | apply keeps_setLnk | apply Keeps.ite | apply Keeps.foldl | apply Keeps.foldl1 | intro _ | split | (apply keeps_mk; first | exact h | exact Keeps.refl _ | apply keeps_bump | apply keeps_setLnk | apply Keeps.ite | apply Keeps.foldl | apply Keeps.foldl1 | split)


theorem keeps_fibreDark (dir : Nat) (lane : Nat) (h : Keeps s t) : Keeps s (Machine.fibreDark t dir lane) := by
  unfold Machine.fibreDark
  try dsimp only
  repeat' with_reducible first | exact h | apply keeps_bump | apply keeps_setRegF | apply Keeps.ite | split


theorem keeps_opSquall (dir : Nat) (way : Nat) (lane : Nat) (r : LaneReport) (h : Keeps s t) : Keeps s (Machine.opSquall t dir way lane r) := by
  unfold Machine.opSquall
  try dsimp only
  repeat' with_reducible first | exact h | apply keeps_noteCodewords | apply keeps_squallLane | apply keeps_fibreDark | apply Keeps.ite | split


theorem keeps_opSpareTest (dir : Nat) (way : Nat) (lane : Nat) (squalls : Bool) (h : Keeps s t) : Keeps s (Machine.opSpareTest t dir way lane squalls) := by
  unfold Machine.opSpareTest
  try dsimp only
  repeat' with_reducible first | exact h | apply keeps_setLnk | apply Keeps.ite | split | (apply keeps_mk; first | exact h | apply keeps_setLnk | apply Keeps.ite | split)


theorem keeps_takeMap (dir : Nat) (active : Nat) (width : Nat) (h : Keeps s t) : Keeps s (Machine.takeMap t dir active width) := by
  unfold Machine.takeMap
  try dsimp only
  repeat' with_reducible first | exact h | apply keeps_draw | apply keeps_enterRetrain | apply keeps_setLnk | apply keeps_raiseEvt | apply Keeps.ite | split | (apply keeps_mk; first | exact h | apply keeps_draw | apply keeps_enterRetrain | apply keeps_setLnk | apply keeps_raiseEvt | apply Keeps.ite | split)


theorem keeps_opLaneMap (dir : Nat) (way : Nat) (active : Nat) (width : Nat) (h : Keeps s t) : Keeps s (Machine.opLaneMap t dir way active width) := by
  unfold Machine.opLaneMap
  try dsimp only
  repeat' with_reducible first | exact h | apply keeps_answered | apply keeps_takeMap | apply keeps_sendFrame | apply keeps_setLnk | apply Keeps.ite | split | (apply keeps_mk; first | exact h | apply keeps_answered | apply keeps_takeMap | apply keeps_sendFrame | apply keeps_setLnk | apply Keeps.ite | split)


theorem keeps_becomeUp (dir : Nat) (h : Keeps s t) : Keeps s (Machine.becomeUp t dir) := by
  unfold Machine.becomeUp
  try dsimp only
  repeat' with_reducible first | exact h | apply keeps_setLnk | (apply keeps_mk; first | exact h | apply keeps_setLnk)


theorem keeps_tryUp (dir : Nat) (h : Keeps s t) : Keeps s (Machine.tryUp t dir) := by
  unfold Machine.tryUp
  try dsimp only
  repeat' with_reducible first | exact h | apply keeps_setRegF | apply keeps_becomeUp | apply Keeps.ite | split


theorem keeps_failBringup (dir : Nat) (h : Keeps s t) : Keeps s (Machine.failBringup t dir) := by
  unfold Machine.failBringup
  try dsimp only
  repeat' with_reducible first | exact h | apply keeps_setLnk | apply keeps_raiseErr | apply Keeps.ite | split | (apply keeps_mk; first | exact h | apply keeps_setLnk | apply keeps_raiseErr | apply Keeps.ite | split)


theorem keeps_opHello (dir : Nat) (epoch : Nat) (coord : Nat) (fresh : Bool) (h : Keeps s t) : Keeps s (Machine.opHello t dir epoch coord fresh) := by
  unfold Machine.opHello
  try dsimp only
  repeat' with_reducible first | exact h | apply keeps_startBringup | apply keeps_flushDir | apply keeps_setLnk | apply keeps_tryUp | apply keeps_sendLink | apply keeps_setRegF | apply keeps_failBringup | apply keeps_raiseErr | apply keeps_answered | apply Keeps.ite | split | (apply keeps_mk; first | exact h | apply keeps_startBringup | apply keeps_flushDir | apply keeps_setLnk | apply keeps_tryUp | apply keeps_sendLink | apply keeps_setRegF | apply keeps_failBringup | apply keeps_raiseErr | apply keeps_answered | apply Keeps.ite | split)


theorem keeps_resendAll (dir : Nat) (h : Keeps s t) : Keeps s (Machine.resendAll t dir) := by
  unfold Machine.resendAll
  try dsimp only
  repeat' with_reducible first | exact h | apply keeps_setLnk | (apply keeps_mk; first | exact h | apply keeps_setLnk)


theorem keeps_wayDone (dir : Nat) (h : Keeps s t) : Keeps s (Machine.wayDone t dir) := by
  unfold Machine.wayDone
  try dsimp only
  repeat' with_reducible first | exact h | apply keeps_resendAll | apply keeps_setLnk | apply keeps_becomeUp | apply Keeps.ite | split | (apply keeps_mk; first | exact h | apply keeps_resendAll | apply keeps_setLnk | apply keeps_becomeUp | apply Keeps.ite | split)


theorem keeps_opResync (dir : Nat) (epoch : Nat) (pEpoch : Nat) (rx : Nat) (credits : List Nat) (h : Keeps s t) : Keeps s (Machine.opResync t dir epoch pEpoch rx credits) := by
  unfold Machine.opResync
  try dsimp only
  repeat' with_reducible first | exact h | exact Keeps.refl _ | apply keeps_startBringup | apply keeps_flushDir | apply keeps_takeAck | apply keeps_setLnk | apply keeps_takeCredit | apply keeps_answered | apply keeps_sendLink | apply keeps_becomeUp | apply keeps_resendAll | apply keeps_wayDone | apply Keeps.ite | apply Keeps.foldl | apply Keeps.foldl1 | intro _ | split | (apply keeps_mk; first | exact h | exact Keeps.refl _ | apply keeps_startBringup | apply keeps_flushDir | apply keeps_takeAck | apply keeps_setLnk | apply keeps_takeCredit | apply keeps_answered | apply keeps_sendLink | apply keeps_becomeUp | apply keeps_resendAll | apply keeps_wayDone | apply Keeps.ite | apply Keeps.foldl | apply Keeps.foldl1 | split)


theorem keeps_lightOn (dir : Nat) (h : Keeps s t) : Keeps s (Machine.lightOn t dir) := by
  unfold Machine.lightOn
  try dsimp only
  repeat' with_reducible first | exact h | apply keeps_setLnk | apply keeps_setRegF | apply Keeps.ite | split | (apply keeps_mk; first | exact h | apply keeps_setLnk | apply keeps_setRegF | apply Keeps.ite | split)


theorem keeps_swapAll {dir : Nat} {l : List Nat} {u : State} (h : Keeps s t) (e : Machine.swapAll dir l t = some u) :
    Keeps s u := by
  induction l generalizing t with
  | nil => exact (Option.some.inj e) ▸ h
  | cons x _ ih =>
    unfold Machine.swapAll at e
    split at e
    · split at e
      · cases e
      · rename_i e'
        exact ih (keeps_swapLane h e') e
    · exact ih h e

theorem keeps_opTrainingDone (dir way : Nat) (ok : Bool) (rxBad txBad : Nat) (h : Keeps s t) :
    Keeps s (Machine.opTrainingDone t dir way ok rxBad txBad) := by
  unfold Machine.opTrainingDone
  extract_lets l rb tb u u1 u2
  split
  · split
    · exact keeps_failBringup _ h
    · exact keeps_tryUp _ (keeps_askLink _ _ (keeps_askLink _ _ (keeps_setLnk _ _ (keeps_lightOn _ h))))
  · split
    · refine Keeps.ite ?_ (Keeps.ite ?_ h) <;> exact keeps_askLink _ _ (keeps_setLnk _ _ h)
    · split
      · split
        · exact keeps_lightOn _ h
        · rename_i e
          have h1 := fun k => keeps_setLnk dir k (keeps_swapAll (keeps_setLnk _ _ (keeps_lightOn _ h)) e)
          exact Keeps.ite (keeps_askLink _ _ (h1 _)) (keeps_askLink _ _ (keeps_askLink _ _ (h1 _)))
      · exact h

theorem keeps_opDown (dir : Nat) (h : Keeps s t) : Keeps s (Machine.opDown t dir) := by
  unfold Machine.opDown
  try dsimp only
  repeat' with_reducible first | exact h | apply keeps_goDown


theorem keeps_opLossOfLight (dir : Nat) (h : Keeps s t) : Keeps s (Machine.opLossOfLight t dir) := by
  unfold Machine.opLossOfLight
  try dsimp only
  repeat' with_reducible first | exact h | apply keeps_setRegF | apply keeps_goDown | apply keeps_bump | apply Keeps.ite | split


theorem keeps_opNoValid (dir : Nat) (h : Keeps s t) : Keeps s (Machine.opNoValid t dir) := by
  unfold Machine.opNoValid
  try dsimp only
  repeat' with_reducible first | exact h | apply keeps_goDown | apply Keeps.ite | split


theorem keeps_opRetrainOverrun (dir : Nat) (h : Keeps s t) : Keeps s (Machine.opRetrainOverrun t dir) := by
  unfold Machine.opRetrainOverrun
  try dsimp only
  repeat' with_reducible first | exact h | apply keeps_goDown | apply Keeps.ite | split


theorem keeps_opLaneMapTimeout (dir : Nat) (h : Keeps s t) : Keeps s (Machine.opLaneMapTimeout t dir) := by
  unfold Machine.opLaneMapTimeout
  try dsimp only
  repeat' with_reducible first | exact h | apply keeps_goDown | apply Keeps.ite | split


theorem keeps_forceDown (dir : Nat) (h : Keeps s t) : Keeps s (Machine.forceDown t dir) := by
  unfold Machine.forceDown
  try dsimp only
  repeat' with_reducible first | exact h | apply keeps_sendLink | apply keeps_goDown | apply Keeps.ite | split


theorem keeps_reqRetrain (dir : Nat) (h : Keeps s t) : Keeps s (Machine.reqRetrain t dir) := by
  unfold Machine.reqRetrain
  try dsimp only
  repeat' with_reducible first | exact h | apply keeps_goDown | apply keeps_setLnk | apply Keeps.ite | split | (apply keeps_mk; first | exact h | apply keeps_goDown | apply keeps_setLnk | apply Keeps.ite | split)


theorem keeps_linkOff (dir : Nat) (h : Keeps s t) : Keeps s (Machine.linkOff t dir) := by
  unfold Machine.linkOff
  try dsimp only
  repeat' with_reducible first | exact h | apply keeps_flushDir | apply keeps_setLnk | apply Keeps.ite | split | (apply keeps_mk; first | exact h | apply keeps_flushDir | apply keeps_setLnk | apply Keeps.ite | split)


theorem keeps_linkResetDir (dir : Nat) (h : Keeps s t) : Keeps s (Machine.linkResetDir t dir) := by
  unfold Machine.linkResetDir
  try dsimp only
  repeat' with_reducible first | exact h | apply keeps_setLnk | apply keeps_flushDir | apply keeps_startBringup | apply Keeps.ite | split | (apply keeps_mk; first | exact h | apply keeps_setLnk | apply keeps_flushDir | apply keeps_startBringup | apply Keeps.ite | split)


theorem keeps_opLnkCfg (dir : Nat) (v : Nat) (h : Keeps s t) : Keeps s (Machine.opLnkCfg t dir v) := by
  unfold Machine.opLnkCfg
  try dsimp only
  repeat' with_reducible first | exact h | apply keeps_setReg | apply keeps_linkOff | apply keeps_startBringup | apply keeps_forceDown | apply keeps_reqRetrain | apply Keeps.ite | split


theorem keeps_opLaserLoss (oe : Nat) (fibre : Nat) (h : Keeps s t) : Keeps s (Machine.opLaserLoss t oe fibre) := by
  unfold Machine.opLaserLoss
  try dsimp only
  repeat' with_reducible first | exact h | apply keeps_setRegF | apply keeps_setLnk | apply keeps_raiseErr | apply keeps_bump | apply Keeps.ite | split | (apply keeps_mk; first | exact h | apply keeps_setRegF | apply keeps_setLnk | apply keeps_raiseErr | apply keeps_bump | apply Keeps.ite | split)


theorem keeps_takeLink (dir : Nat) (b : List Byte) (h : Keeps s t) : Keeps s (Machine.takeLink t dir b) := by
  unfold Machine.takeLink
  try dsimp only
  repeat' with_reducible first | exact h | apply keeps_opHello | apply keeps_opResync | apply keeps_opLaneMap | apply keeps_opDown | apply Keeps.ite | split


theorem keeps_takeFrame (dir : Nat) (f : Frame) (h : Keeps s t) : Keeps s (Machine.takeFrame t dir f) := by
  unfold Machine.takeFrame
  try dsimp only
  repeat' with_reducible first | exact h | apply keeps_takeLink | apply keeps_takeTrailer | apply keeps_lateDrop | apply keeps_linkTrace | apply keeps_takeData | apply Keeps.ite | split


theorem keeps_opFrameReceive (dir : Nat) (ws : List LaneWord) (h : Keeps s t) : Keeps s (Machine.opFrameReceive t dir ws) := by
  unfold Machine.opFrameReceive
  try dsimp only
  repeat' with_reducible first | exact h | apply keeps_bump | apply keeps_setLnk | apply keeps_takeFrame | apply Keeps.ite | split | (apply keeps_mk; first | exact h | apply keeps_bump | apply keeps_setLnk | apply keeps_takeFrame | apply Keeps.ite | split)


theorem keeps_opJbox (j : Nat) (v : Nat) (h : Keeps s t) : Keeps s (Machine.opJbox t j v) := by
  unfold Machine.opJbox
  try dsimp only
  repeat' with_reducible first | exact h | apply keeps_setReg | apply Keeps.ite | split


theorem keeps_opTorCoord (v : Nat) (h : Keeps s t) : Keeps s (Machine.opTorCoord t v) := by
  unfold Machine.opTorCoord
  try dsimp only
  repeat' with_reducible first | exact h | exact Keeps.refl _ | apply keeps_setReg | apply keeps_setRegF | apply keeps_startBringup | apply Keeps.ite | apply Keeps.foldl | apply Keeps.foldl1 | intro _ | split


theorem keeps_opTorAbsent (k : Nat) (v : Nat) (h : Keeps s t) : Keeps s (Machine.opTorAbsent t k v) := by
  unfold Machine.opTorAbsent
  try dsimp only
  repeat' with_reducible first | exact h | exact Keeps.refl _ | apply keeps_setReg | apply keeps_bump | apply keeps_endPut | apply Keeps.ite | apply Keeps.foldl | apply Keeps.foldl1 | intro _ | split


theorem keeps_opTorPut (id : Nat) (h : Keeps s t) : Keeps s (Machine.opTorPut t id) := by
  unfold Machine.opTorPut
  try dsimp only
  repeat' with_reducible first | exact h | apply keeps_finish | apply keeps_bump | apply keeps_failUncorr | apply keeps_sendMsgVia | apply keeps_setRun | apply Keeps.ite | split | (apply keeps_mk; first | exact h | apply keeps_finish | apply keeps_bump | apply keeps_failUncorr | apply keeps_sendMsgVia | apply keeps_setRun | apply Keeps.ite | split)


theorem keeps_putAnswer (q : PutReq) (status : Nat) (h : Keeps s t) : Keeps s (Machine.putAnswer t q status) := by
  unfold Machine.putAnswer
  try dsimp only
  repeat' with_reducible first | exact h | apply keeps_sendEpoch | apply Keeps.ite | split


theorem keeps_takePut (q : PutReq) (h : Keeps s t) : Keeps s (Machine.takePut t q) := by
  unfold Machine.takePut
  try dsimp only
  repeat' with_reducible first | exact h | apply keeps_uncorrFab | apply keeps_putAnswer | apply keeps_wrMem | apply keeps_setSync | apply Keeps.ite | split | (apply keeps_mk; first | exact h | apply keeps_uncorrFab | apply keeps_putAnswer | apply keeps_wrMem | apply keeps_setSync | apply Keeps.ite | split)


theorem keeps_opPutArrival (q : PutReq) (h : Keeps s t) : Keeps s (Machine.opPutArrival t q) := by
  unfold Machine.opPutArrival
  try dsimp only
  repeat' with_reducible first | exact h | apply keeps_takePut | apply Keeps.ite | split | (apply keeps_mk; first | exact h | apply keeps_takePut | apply Keeps.ite | split)


theorem keeps_opPutReply (id : Nat) (status : Nat) (h : Keeps s t) : Keeps s (Machine.opPutReply t id status) := by
  unfold Machine.opPutReply
  try dsimp only
  repeat' with_reducible first | exact h | apply keeps_bump | apply keeps_endPut | apply Keeps.ite | split


theorem keeps_opPutTimeout (id : Nat) (h : Keeps s t) : Keeps s (Machine.opPutTimeout t id) := by
  unfold Machine.opPutTimeout
  try dsimp only
  repeat' with_reducible first | exact h | apply keeps_raiseErr | apply keeps_bump | apply keeps_endPut | apply Keeps.ite | split


theorem keeps_drainPuts (job : Nat) (h : Keeps s t) : Keeps s (Machine.drainPuts t job) := by
  unfold Machine.drainPuts
  try dsimp only
  repeat' with_reducible first | exact h | exact Keeps.refl _ | apply keeps_takePut | apply Keeps.foldl | apply Keeps.foldl1 | intro _ | (apply keeps_mk; first | exact h | exact Keeps.refl _ | apply keeps_takePut | apply Keeps.foldl | apply Keeps.foldl1)


theorem keeps_rsProg (x : Reshard) (h : Keeps s t) : Keeps s (Machine.rsProg t x) := by
  unfold Machine.rsProg
  try dsimp only
  repeat' with_reducible first | exact h | apply keeps_setReg


theorem keeps_rsFinish (x : Reshard) (h : Keeps s t) : Keeps s (Machine.rsFinish t x) := by
  unfold Machine.rsFinish
  try dsimp only
  repeat' with_reducible first | exact h | apply keeps_setReg | apply keeps_finish | apply keeps_drainPuts | apply Keeps.ite | split | (apply keeps_mk; first | exact h | apply keeps_setReg | apply keeps_finish | apply keeps_drainPuts | apply Keeps.ite | split)


theorem keeps_rsAbandon (cause : Nat) (status : Nat) (h : Keeps s t) : Keeps s (Machine.rsAbandon t cause status) := by
  unfold Machine.rsAbandon
  try dsimp only
  repeat' with_reducible first | exact h | apply keeps_setReg | apply keeps_finish | apply keeps_raiseErr | apply keeps_drainPuts | apply Keeps.ite | split | (apply keeps_mk; first | exact h | apply keeps_setReg | apply keeps_finish | apply keeps_raiseErr | apply keeps_drainPuts | apply Keeps.ite | split)


theorem keeps_opReshard  (h : Keeps s t) : Keeps s (Machine.opReshard t) := by
  unfold Machine.opReshard
  try dsimp only
  repeat' with_reducible first | exact h | apply keeps_failUncorr | apply keeps_finish | apply keeps_setRun | apply keeps_rsFinish | apply keeps_rsProg | apply keeps_setReg | apply Keeps.ite | split | (apply keeps_mk; first | exact h | apply keeps_failUncorr | apply keeps_finish | apply keeps_setRun | apply keeps_rsFinish | apply keeps_rsProg | apply keeps_setReg | apply Keeps.ite | split)


theorem keeps_cutCopies (x : Reshard) (h : Keeps s t) : Keeps s (Machine.cutCopies t x) := by
  unfold Machine.cutCopies
  try dsimp only
  repeat' with_reducible first | exact h | exact Keeps.refl _ | apply keeps_wrMem | apply Keeps.ite | apply Keeps.foldl | intro _ | split | (apply keeps_mk; first | exact h | exact Keeps.refl _ | apply keeps_wrMem)

theorem keeps_opCopyDone (buf : Nat) (h : Keeps s t) : Keeps s (Machine.opCopyDone t buf) := by
  unfold Machine.opCopyDone
  try dsimp only
  repeat' with_reducible first | exact h | apply keeps_rsAbandon | apply keeps_cutCopies | apply keeps_uncorrFab | apply keeps_wrMem | apply keeps_rsFinish | apply keeps_rsProg | apply Keeps.ite | split | (apply keeps_mk; first | exact h | apply keeps_rsAbandon | apply keeps_cutCopies | apply keeps_uncorrFab | apply keeps_wrMem | apply keeps_rsFinish | apply keeps_rsProg | apply Keeps.ite | split)


theorem keeps_opMemIlv (r ch v : Nat) (h : Keeps s t) : Keeps s (Machine.opMemIlv t r ch v) := by
  unfold Machine.opMemIlv
  dsimp only
  split
  · exact keeps_raiseErr _ _ _ _ _ h
  · exact (keeps_setReg _ _ _ h).trans ⟨rfl, id, fun _ => mapWf_foldl_mapPut _ _ _ rfl, id,
      fun _ => rising_foldl_setAdd _ _ _ rfl, FusesGrow.refl _⟩

theorem keeps_opMemEcc (r : Nat) (ch : Nat) (v : Nat) (h : Keeps s t) : Keeps s (Machine.opMemEcc t r ch v) := by
  unfold Machine.opMemEcc
  try dsimp only
  repeat' with_reducible first | exact h | apply keeps_setReg | apply keeps_fenceChan | apply Keeps.ite | split


theorem keeps_opStackScrub (addr : Nat) (o : Ecc) (h : Keeps s t) : Keeps s (Machine.opStackScrub t addr o) := by
  unfold Machine.opStackScrub
  try dsimp only
  repeat' with_reducible first | exact h | apply keeps_uncorrFab | apply keeps_spoil | apply keeps_corrected | apply keeps_bump | apply Keeps.ite | split


theorem keeps_setHot (stack : Nat) (v : Nat) (h : Keeps s t) : Keeps s (Machine.setHot t stack v) := by
  unfold Machine.setHot
  try dsimp only
  repeat' with_reducible first | exact h | exact Keeps.refl _ | apply keeps_setRegF | apply Keeps.ite | apply Keeps.foldl | apply Keeps.foldl1 | intro _ | split


theorem keeps_opCluScrub (k : Nat) (off : Nat) (o : Ecc) (h : Keeps s t) : Keeps s (Machine.opCluScrub t k off o) := by
  unfold Machine.opCluScrub
  try dsimp only
  repeat' with_reducible first | exact h | apply keeps_raiseErr | apply keeps_spoil | apply keeps_corrected | apply Keeps.ite | split


theorem keeps_opCluWindow (k : Nat) (w : Nat) (v : Nat) (h : Keeps s t) : Keeps s (Machine.opCluWindow t k w v) := by
  unfold Machine.opCluWindow
  try dsimp only
  repeat' with_reducible first | exact h | apply keeps_raiseErr | apply keeps_setReg | apply Keeps.ite | split


theorem keeps_commitHdm (committed : Bool) (h : Keeps s t) : Keeps s (Machine.commitHdm t committed) := by
  unfold Machine.commitHdm
  try dsimp only
  repeat' with_reducible first | exact h | (apply keeps_mk; first | exact h)


theorem keeps_opCxlBase (v : Nat) (h : Keeps s t) : Keeps s (Machine.opCxlBase t v) := by
  unfold Machine.opCxlBase
  try dsimp only
  repeat' with_reducible first | exact h | apply keeps_setReg | apply Keeps.ite | split


theorem keeps_opCxlRead (off : Nat) (len : Nat) (h : Keeps s t) : Keeps s (Machine.opCxlRead t off len) := by
  unfold Machine.opCxlRead
  try dsimp only
  repeat' with_reducible first | exact h | apply keeps_uncorrFab | apply keeps_raiseErr | apply keeps_bump | apply Keeps.ite | split | (apply keeps_mk; first | exact h | apply keeps_uncorrFab | apply keeps_raiseErr | apply keeps_bump | apply Keeps.ite | split)


theorem keeps_spoilRange (a1 : Nat) (a2 : Nat) (h : Keeps s t) : Keeps s (Machine.spoilRange t a1 a2) := by
  induction a2 generalizing t a1 with
  | zero =>
    unfold Machine.spoilRange
    try dsimp only
    repeat' with_reducible first | exact h | apply keeps_spoil | apply Keeps.ite | split
  | succ _ ih =>
    unfold Machine.spoilRange
    try dsimp only
    repeat' with_reducible first | exact h | apply ih | apply keeps_spoil | apply Keeps.ite | split

theorem keeps_opCxlWrite (off : Nat) (data : List Byte) (poison : Bool) (h : Keeps s t) : Keeps s (Machine.opCxlWrite t off data poison) := by
  unfold Machine.opCxlWrite
  try dsimp only
  repeat' with_reducible first | exact h | apply keeps_uncorrFab | apply keeps_wrMem | apply keeps_spoilRange | apply Keeps.ite | split | (apply keeps_mk; first | exact h | apply keeps_uncorrFab | apply keeps_wrMem | apply keeps_spoilRange | apply Keeps.ite | split)


theorem keeps_drzFail (r : Nat) (c : QCmd) (res : DrzRes) (i : Nat) (g : Nat) (h : Keeps s t) : Keeps s (Machine.drzFail t r c res i g).1 := by
  unfold Machine.drzFail
  try dsimp only
  repeat' with_reducible first | exact h | apply keeps_uncorrFab | apply keeps_uncorrScratch | apply keeps_raiseErr | apply keeps_bump | apply Keeps.ite | split | (apply keeps_mk; first | exact h | apply keeps_uncorrFab | apply keeps_uncorrScratch | apply keeps_raiseErr | apply keeps_bump | apply Keeps.ite | split)


theorem keeps_drzRow (r : Nat) (c : QCmd) (x : Drz) (res : DrzRes) (i : Nat) (h : Keeps s t) : Keeps s (Machine.drzRow t r c x res i).1 := by
  unfold Machine.drzRow
  try dsimp only
  repeat' with_reducible first | exact h | apply keeps_drzFail | apply keeps_bump | apply keeps_wrMem | apply Keeps.ite | split | (apply keeps_mk; first | exact h | apply keeps_drzFail | apply keeps_bump | apply keeps_wrMem | apply Keeps.ite | split)


theorem keeps_opDrz (r : Nat) (op : Nat) (h : Keeps s t) : Keeps s (Machine.opDrz t r op) := by
  unfold Machine.opDrz
  try dsimp only
  repeat' with_reducible first | exact h | exact Keeps.refl _ | apply keeps_drzRow | apply keeps_finish | apply Keeps.ite | apply Keeps.foldl | apply Keeps.foldl1 | intro _ | split


theorem keeps_portTrain (p : Nat) (h : Keeps s t) : Keeps s (Machine.portTrain t p) := by
  unfold Machine.portTrain
  try dsimp only
  repeat' with_reducible first | exact h | apply keeps_setRegF


theorem keeps_tierTrain  (h : Keeps s t) : Keeps s (Machine.tierTrain t) := by
  unfold Machine.tierTrain
  try dsimp only
  repeat' with_reducible first | exact h | exact Keeps.refl _ | apply keeps_portTrain | apply keeps_setRegF | apply Keeps.ite | apply Keeps.foldl | apply Keeps.foldl1 | intro _ | split | (apply keeps_mk; first | exact h | exact Keeps.refl _ | apply keeps_portTrain | apply keeps_setRegF | apply Keeps.ite | apply Keeps.foldl | apply Keeps.foldl1 | split)


theorem keeps_tierMismatch (ports : List Nat) (h : Keeps s t) : Keeps s (Machine.tierMismatch t ports) := by
  unfold Machine.tierMismatch
  try dsimp only
  repeat' with_reducible first | exact h | exact Keeps.refl _ | apply keeps_raiseErr | apply Keeps.foldl | apply Keeps.foldl1 | intro _ | (apply keeps_mk; first | exact h | exact Keeps.refl _ | apply keeps_raiseErr | apply Keeps.foldl | apply Keeps.foldl1)


theorem keeps_tierStart  (h : Keeps s t) : Keeps s (Machine.tierStart t) := by
  unfold Machine.tierStart
  try dsimp only
  repeat' with_reducible first | exact h | apply keeps_tierTrain | apply keeps_tierMismatch | apply Keeps.ite | split | (apply keeps_mk; first | exact h | apply keeps_tierTrain | apply keeps_tierMismatch | apply Keeps.ite | split)


theorem keeps_retrainEnds (port : Nat) (h : Keeps s t) : Keeps s (Machine.retrainEnds t port) := by
  unfold Machine.retrainEnds
  try dsimp only
  repeat' with_reducible first | exact h | apply keeps_setRegF


theorem keeps_tierSettle  (h : Keeps s t) : Keeps s (Machine.tierSettle t) := by
  unfold Machine.tierSettle
  try dsimp only
  repeat' with_reducible first | exact h | exact Keeps.refl _ | apply keeps_retrainEnds | apply keeps_wipe | apply Keeps.ite | apply Keeps.foldl | apply Keeps.foldl1 | intro _ | split | (apply keeps_mk; first | exact h | exact Keeps.refl _ | apply keeps_retrainEnds | apply keeps_wipe | apply Keeps.ite | apply Keeps.foldl | apply Keeps.foldl1 | split)


theorem keeps_opGdrDone (port : Nat) (ok : Bool) (us : Nat) (h : Keeps s t) : Keeps s (Machine.opGdrDone t port ok us) := by
  unfold Machine.opGdrDone
  try dsimp only
  repeat' with_reducible first | exact h | apply keeps_setRegF | apply keeps_bumpNs | apply keeps_retrainEnds | apply keeps_raiseErr | apply keeps_tierSettle | apply Keeps.ite | split | (apply keeps_mk; first | exact h | apply keeps_setRegF | apply keeps_bumpNs | apply keeps_retrainEnds | apply keeps_raiseErr | apply keeps_tierSettle | apply Keeps.ite | split)


theorem keeps_opGdrCfg (port : Nat) (v : Nat) (h : Keeps s t) : Keeps s (Machine.opGdrCfg t port v) := by
  unfold Machine.opGdrCfg
  try dsimp only
  repeat' with_reducible first | exact h | apply keeps_setReg | apply keeps_setRegF | apply keeps_portTrain | apply keeps_tierTrain | apply keeps_tierMismatch | apply Keeps.ite | split


theorem keeps_opWck (port : Nat) (h : Keeps s t) : Keeps s (Machine.opWck t port) := by
  unfold Machine.opWck
  try dsimp only
  repeat' with_reducible first | exact h | apply keeps_draw | apply keeps_bumpNs | apply Keeps.ite | split


theorem keeps_portDown (port : Nat) (h : Keeps s t) : Keeps s (Machine.portDown t port) := by
  unfold Machine.portDown
  try dsimp only
  repeat' with_reducible first | exact h | apply keeps_setRegF | (apply keeps_mk; first | exact h | apply keeps_setRegF)


theorem keeps_retrainHold (port : Nat) (h : Keeps s t) : Keeps s (Machine.retrainHold t port) := by
  unfold Machine.retrainHold
  try dsimp only
  repeat' with_reducible first | exact h | apply keeps_draw | apply keeps_setRegF | apply keeps_bumpNs | apply keeps_bump


theorem keeps_gdrUncorr (a : Nat) (h : Keeps s t) : Keeps s (Machine.gdrUncorr t a) := by
  unfold Machine.gdrUncorr
  extract_lets g u
  have h1 : Keeps s u := keeps_spoil _ h
  split
  · exact keeps_uncorrFab _ _ _ h1
  · split
    · exact keeps_uncorrFab _ _ _ h1
    · exact keeps_noteTorn _ _ (keeps_bump _ _ _ (keeps_stateUncorr _ _ _ h1))

theorem keeps_opGdrCrc (port : Nat) (e : CrcEnd) (h : Keeps s t) : Keeps s (Machine.opGdrCrc t port e) := by
  unfold Machine.opGdrCrc
  try dsimp only
  repeat' with_reducible first | exact h | apply keeps_bump | apply keeps_retrainHold | apply keeps_raiseErr | apply keeps_portDown | apply keeps_corrected | apply keeps_gdrUncorr | apply Keeps.ite | split


theorem keeps_tgcDestroy (r : Nat) (ch : Nat) (lo : Nat) (n : Nat) (h : Keeps s t) : Keeps s (Machine.tgcDestroy t r ch lo n) := by
  unfold Machine.tgcDestroy
  try dsimp only
  repeat' with_reducible first | exact h | exact Keeps.refl _ | apply keeps_wrMem | apply Keeps.foldl | apply Keeps.foldl1 | intro _ | (apply keeps_mk; first | exact h | exact Keeps.refl _ | apply keeps_wrMem | apply Keeps.foldl | apply Keeps.foldl1)


theorem keeps_tgcEnd (r : Nat) (ch : Nat) (h : Keeps s t) : Keeps s (Machine.tgcEnd t r ch) := by
  unfold Machine.tgcEnd
  try dsimp only
  repeat' with_reducible first | exact h | apply keeps_tgcDestroy


theorem keeps_opTgcCfg (r : Nat) (ch : Nat) (v : Nat) (h : Keeps s t) : Keeps s (Machine.opTgcCfg t r ch v) := by
  unfold Machine.opTgcCfg
  try dsimp only
  repeat' with_reducible first | exact h | apply keeps_setRegF | apply keeps_setReg | apply Keeps.ite | split


theorem keeps_opTgcReg (r : Nat) (ch : Nat) (off : Nat) (v : Nat) (h : Keeps s t) : Keeps s (Machine.opTgcReg t r ch off v) := by
  unfold Machine.opTgcReg
  try dsimp only
  repeat' with_reducible first | exact h | apply keeps_setReg | apply Keeps.ite | split


theorem keeps_opTgcDone (r : Nat) (ch : Nat) (fails : List Nat) (minNs : Nat) (maxNs : Nat) (h : Keeps s t) : Keeps s (Machine.opTgcDone t r ch fails minNs maxNs) := by
  unfold Machine.opTgcDone
  try dsimp only
  repeat' with_reducible first | exact h | apply keeps_draw | apply keeps_bump | apply keeps_tgcEnd | apply keeps_setRegF | apply keeps_setReg | apply keeps_raiseErr | apply Keeps.ite | split


theorem keeps_tookTurn (core : Nat) (x : Nat) (h : Keeps s t) : Keeps s (Machine.tookTurn t core x) := by
  unfold Machine.tookTurn
  try dsimp only
  repeat' with_reducible first | exact h | (apply keeps_mk; first | exact h)


theorem keeps_instr (core x : Nat) (p : Nat → Bool) (f : Ctx → State) (hf : ∀ c, Keeps s (f c)) (h : Keeps s t) :
    Keeps s (Machine.instr t core x p f) := by
  unfold Machine.instr
  refine Keeps.ite ?_ h
  extract_lets c
  refine Keeps.ite (keeps_tookTurn _ _ (keeps_haltCtx _ _ _ _ h)) ?_
  split
  · exact keeps_tookTurn _ _ (keeps_haltCtx _ _ _ _ (keeps_uncorrLocal _ _ _ _ h))
  · exact Keeps.ite (keeps_tookTurn _ _ (hf _)) h

theorem keeps_retire (core : Nat) (x : Nat) (c : Ctx) (rd : Nat) (v : Nat) (h : Keeps s t) : Keeps s (Machine.retire t core x c rd v) := by
  unfold Machine.retire
  try dsimp only
  repeat' with_reducible first | exact h | apply keeps_setCtx


theorem keeps_opIntR (core : Nat) (x : Nat) (o : IntOp) (rd : Nat) (ra : Nat) (rb : Nat) (h : Keeps s t) : Keeps s (Machine.opIntR t core x o rd ra rb) := by
  unfold Machine.opIntR
  try dsimp only
  repeat' with_reducible first | exact h | exact Keeps.refl _ | apply keeps_instr | apply keeps_retire | intro _


theorem keeps_opIntI (core : Nat) (x : Nat) (o : IntOpI) (rd : Nat) (ra : Nat) (imm : BitVec 16) (h : Keeps s t) : Keeps s (Machine.opIntI t core x o rd ra imm) := by
  unfold Machine.opIntI
  try dsimp only
  repeat' with_reducible first | exact h | exact Keeps.refl _ | apply keeps_instr | apply keeps_retire | apply Keeps.ite | intro _ | split


theorem keeps_opHalt (core : Nat) (x : Nat) (h : Keeps s t) : Keeps s (Machine.opHalt t core x) := by
  unfold Machine.opHalt
  try dsimp only
  repeat' with_reducible first | exact h | exact Keeps.refl _ | apply keeps_instr | apply keeps_haltCtx | intro _


theorem keeps_opNop (core : Nat) (x : Nat) (h : Keeps s t) : Keeps s (Machine.opNop t core x) := by
  unfold Machine.opNop
  try dsimp only
  repeat' with_reducible first | exact h | exact Keeps.refl _ | apply keeps_instr | apply keeps_setCtx | intro _


theorem keeps_opReadTime (core : Nat) (x : Nat) (rd : Nat) (h : Keeps s t) : Keeps s (Machine.opReadTime t core x rd) := by
  unfold Machine.opReadTime
  try dsimp only
  repeat' with_reducible first | exact h | exact Keeps.refl _ | apply keeps_instr | apply keeps_retire | intro _


theorem keeps_opReadCtx (core : Nat) (x : Nat) (rd : Nat) (h : Keeps s t) : Keeps s (Machine.opReadCtx t core x rd) := by
  unfold Machine.opReadCtx
  try dsimp only
  repeat' with_reducible first | exact h | exact Keeps.refl _ | apply keeps_instr | apply keeps_retire | intro _


theorem keeps_opReserved (core : Nat) (x : Nat) (h : Keeps s t) : Keeps s (Machine.opReserved t core x) := by
  unfold Machine.opReserved
  try dsimp only
  repeat' with_reducible first | exact h | exact Keeps.refl _ | apply keeps_instr | apply keeps_haltCtx | intro _


theorem keeps_scratchAcc (core x a n : Nat) (f : State) (hf : Keeps s f) (h : Keeps s t) :
    Keeps s (Machine.scratchAcc t core x a n f) := by
  unfold Machine.scratchAcc
  repeat' first | exact h | exact hf | apply keeps_haltCtx | split

theorem keeps_opLoad (core : Nat) (x : Nat) (log2 : Nat) (rd : Nat) (ra : Nat) (imm : BitVec 16) (h : Keeps s t) : Keeps s (Machine.opLoad t core x log2 rd ra imm) := by
  unfold Machine.opLoad
  try dsimp only
  repeat' with_reducible first | exact h | exact Keeps.refl _ | apply keeps_instr | apply keeps_scratchAcc | apply keeps_haltCtx | apply keeps_uncorrScratch | apply keeps_retire | apply Keeps.ite | intro _ | split


theorem keeps_opStore (core : Nat) (x : Nat) (log2 : Nat) (rs : Nat) (ra : Nat) (imm : BitVec 16) (h : Keeps s t) : Keeps s (Machine.opStore t core x log2 rs ra imm) := by
  unfold Machine.opStore
  try dsimp only
  repeat' with_reducible first | exact h | exact Keeps.refl _ | apply keeps_instr | apply keeps_scratchAcc | apply keeps_haltCtx | apply keeps_uncorrScratch | apply keeps_setCtx | apply keeps_wrNum | apply Keeps.ite | intro _ | split


theorem keeps_atomic (core : Nat) (x : Nat) (p : Nat → Bool) (wide : Bool) (rd : Nat) (ra : Nat) (back : Bool) (whole : Bool) (f : Ctx → Nat → Nat) (h : Keeps s t) : Keeps s (Machine.atomic t core x p wide rd ra back whole f) := by
  unfold Machine.atomic
  try dsimp only
  repeat' with_reducible first | exact h | exact Keeps.refl _ | apply keeps_instr | apply keeps_haltCtx | apply keeps_uncorrClu | apply keeps_setCtx | apply keeps_wrNum | apply Keeps.ite | intro _ | split


theorem keeps_opAtomicLoad (core : Nat) (x : Nat) (wide : Bool) (rd : Nat) (ra : Nat) (h : Keeps s t) : Keeps s (Machine.opAtomicLoad t core x wide rd ra) := by
  unfold Machine.opAtomicLoad
  try dsimp only
  repeat' with_reducible first | exact h | apply keeps_atomic | apply Keeps.ite | split


theorem keeps_opAtomicStore (core : Nat) (x : Nat) (wide : Bool) (ra : Nat) (rb : Nat) (h : Keeps s t) : Keeps s (Machine.opAtomicStore t core x wide ra rb) := by
  unfold Machine.opAtomicStore
  try dsimp only
  repeat' with_reducible first | exact h | apply keeps_atomic | apply Keeps.ite | split


theorem keeps_opAtomicAdd (core : Nat) (x : Nat) (wide : Bool) (rd : Nat) (ra : Nat) (rb : Nat) (h : Keeps s t) : Keeps s (Machine.opAtomicAdd t core x wide rd ra rb) := by
  unfold Machine.opAtomicAdd
  try dsimp only
  repeat' with_reducible first | exact h | apply keeps_atomic | apply Keeps.ite | split


theorem keeps_opAtomicAddF (core : Nat) (x : Nat) (rd : Nat) (ra : Nat) (rb : Nat) (h : Keeps s t) : Keeps s (Machine.opAtomicAddF t core x rd ra rb) := by
  unfold Machine.opAtomicAddF
  try dsimp only
  repeat' with_reducible first | exact h | apply keeps_atomic


theorem keeps_opAtomicMin (core : Nat) (x : Nat) (k : MmKind) (rd : Nat) (ra : Nat) (rb : Nat) (h : Keeps s t) : Keeps s (Machine.opAtomicMin t core x k rd ra rb) := by
  unfold Machine.opAtomicMin
  try dsimp only
  repeat' with_reducible first | exact h | apply keeps_atomic


theorem keeps_opAtomicMax (core : Nat) (x : Nat) (k : MmKind) (rd : Nat) (ra : Nat) (rb : Nat) (h : Keeps s t) : Keeps s (Machine.opAtomicMax t core x k rd ra rb) := by
  unfold Machine.opAtomicMax
  try dsimp only
  repeat' with_reducible first | exact h | apply keeps_atomic


theorem keeps_opCas (core : Nat) (x : Nat) (wide : Bool) (rd : Nat) (ra : Nat) (rb : Nat) (h : Keeps s t) : Keeps s (Machine.opCas t core x wide rd ra rb) := by
  unfold Machine.opCas
  try dsimp only
  repeat' with_reducible first | exact h | apply keeps_atomic | apply Keeps.ite | split


theorem keeps_goto (core x : Nat) (c : Ctx) (a : Nat) (f : State → State) (hf : ∀ u, Keeps u (f u)) (h : Keeps s t) :
    Keeps s (Machine.goto t core x c a f) := by
  unfold Machine.goto
  split
  · exact (keeps_setCtx _ _ _ h).trans (hf _)
  · exact keeps_haltCtx _ _ _ _ h

theorem keeps_traceBranch (core : Nat) (x : Nat) (taken : Bool) (h : Keeps s t) : Keeps s (Machine.traceBranch t core x taken) := by
  unfold Machine.traceBranch
  try dsimp only
  repeat' with_reducible first | exact h | apply keeps_setCtx | apply keeps_trcSyncDue | apply keeps_trcFlush | apply Keeps.ite | split | (apply keeps_mk; first | exact h | apply keeps_setCtx | apply keeps_trcSyncDue | apply keeps_trcFlush | apply Keeps.ite | split)


theorem keeps_opBranch (core : Nat) (x : Nat) (k : Cond) (ra : Nat) (rb : Nat) (off : BitVec 16) (h : Keeps s t) : Keeps s (Machine.opBranch t core x k ra rb off) := by
  unfold Machine.opBranch
  try dsimp only
  repeat' with_reducible first | exact h | exact Keeps.refl _ | apply keeps_instr | apply keeps_goto | apply keeps_traceBranch | apply keeps_setCtx | apply Keeps.ite | intro _ | split


theorem keeps_opJump (core x : Nat) (off : BitVec 16) (h : Keeps s t) : Keeps s (Machine.opJump t core x off) :=
  keeps_instr _ _ _ _ (fun _ => keeps_goto _ _ _ _ _ (fun _ => Keeps.refl _) h) h

theorem keeps_opBranchLink (core x : Nat) (off : BitVec 16) (h : Keeps s t) : Keeps s (Machine.opBranchLink t core x off) :=
  keeps_instr _ _ _ _ (fun _ => keeps_goto _ _ _ _ _ (fun _ => Keeps.refl _) h) h

theorem keeps_opJumpReg (core : Nat) (x : Nat) (ra : Nat) (h : Keeps s t) : Keeps s (Machine.opJumpReg t core x ra) := by
  unfold Machine.opJumpReg
  try dsimp only
  repeat' with_reducible first | exact h | exact Keeps.refl _ | apply keeps_instr | apply keeps_goto | apply keeps_trcEmit | intro _


theorem keeps_opSyncwait (core : Nat) (x : Nat) (ra : Nat) (imm : Nat) (h : Keeps s t) : Keeps s (Machine.opSyncwait t core x ra imm) := by
  unfold Machine.opSyncwait
  try dsimp only
  repeat' with_reducible first | exact h | exact Keeps.refl _ | apply keeps_instr | apply keeps_haltCtx | apply keeps_setCtx | apply Keeps.ite | intro _ | split | (apply keeps_mk; first | exact h | exact Keeps.refl _ | apply keeps_instr | apply keeps_haltCtx | apply keeps_setCtx | apply Keeps.ite | split)


theorem keeps_opSyncRelease (core : Nat) (x : Nat) (h : Keeps s t) : Keeps s (Machine.opSyncRelease t core x) := by
  unfold Machine.opSyncRelease
  try dsimp only
  repeat' with_reducible first | exact h | apply keeps_setCtx | apply Keeps.ite | split | (apply keeps_mk; first | exact h | apply keeps_setCtx | apply Keeps.ite | split)


theorem keeps_opSyncpost (core : Nat) (x : Nat) (ra : Nat) (imm : Nat) (h : Keeps s t) : Keeps s (Machine.opSyncpost t core x ra imm) := by
  unfold Machine.opSyncpost
  try dsimp only
  repeat' with_reducible first | exact h | exact Keeps.refl _ | apply keeps_instr | apply keeps_haltCtx | apply keeps_setCtx | apply Keeps.ite | intro _ | split | (apply keeps_mk; first | exact h | exact Keeps.refl _ | apply keeps_instr | apply keeps_haltCtx | apply keeps_setCtx | apply Keeps.ite | split)


theorem keeps_opScratchScrub (core : Nat) (addr : Nat) (o : Ecc) (h : Keeps s t) : Keeps s (Machine.opScratchScrub t core addr o) := by
  unfold Machine.opScratchScrub
  try dsimp only
  repeat' with_reducible first | exact h | apply keeps_raiseErr | apply keeps_spoil | apply keeps_corrected | apply Keeps.ite | split


theorem keeps_opLoadImem (core : Nat) (host : List Byte) (h : Keeps s t) : Keeps s (Machine.opLoadImem t core host) := by
  unfold Machine.opLoadImem
  try dsimp only
  repeat' with_reducible first | exact h | apply keeps_finish | apply keeps_failUncorr | apply keeps_wrMem | apply Keeps.ite | split | (apply keeps_mk; first | exact h | apply keeps_finish | apply keeps_failUncorr | apply keeps_wrMem | apply Keeps.ite | split)


theorem keeps_startCtx (core : Nat) (x : Nat) (entry : Nat) (gs : List Nat) (q : QCmd) (h : Keeps s t) : Keeps s (Machine.startCtx t core x entry gs q) := by
  unfold Machine.startCtx
  try dsimp only
  repeat' with_reducible first | exact h | exact Keeps.refl _ | apply keeps_setCtx | apply keeps_trcSync | apply Keeps.ite | apply Keeps.foldl | apply Keeps.foldl1 | intro _ | split | (apply keeps_mk; first | exact h | exact Keeps.refl _ | apply keeps_setCtx | apply keeps_trcSync | apply Keeps.ite | apply Keeps.foldl | apply Keeps.foldl1 | split)


theorem keeps_opStartContext (core : Nat) (h : Keeps s t) : Keeps s (Machine.opStartContext t core) := by
  unfold Machine.opStartContext
  try dsimp only
  repeat' with_reducible first | exact h | apply keeps_finish | apply keeps_startCtx | apply keeps_setRun | apply Keeps.ite | split | (apply keeps_mk; first | exact h | apply keeps_finish | apply keeps_startCtx | apply keeps_setRun | apply Keeps.ite | split)


theorem keeps_opSyncSet (core : Nat) (h : Keeps s t) : Keeps s (Machine.opSyncSet t core) := by
  unfold Machine.opSyncSet
  try dsimp only
  repeat' with_reducible first | exact h | apply keeps_finish | apply keeps_setSync | apply Keeps.ite | split


end Sys2Proof.Laws
end

