-- ==== Sys2Proof/Laws/KeepChip.lean ====
section
/-! SUPPORT. What the operations of Job, Boot, Power, Engine, View, Mmio, Side keep. -/
namespace Sys2Proof.Laws
open Sys2Proof.Machine

variable {s t : State}

theorem keeps_rejectAlloc (f : Nat) (off : Nat) (h : Keeps s t) : Keeps s (Machine.rejectAlloc t f off) := by
  unfold Machine.rejectAlloc
  try dsimp only
  repeat' with_reducible first | exact h | apply keeps_raiseErr


theorem keeps_wipeCoreWins (f : Nat) (core : Nat) (h : Keeps s t) : Keeps s (Machine.wipeCoreWins t f core) := by
  unfold Machine.wipeCoreWins
  try dsimp only
  repeat' with_reducible first | exact h | exact Keeps.refl _ | apply keeps_wipe | apply Keeps.ite | apply Keeps.foldl | apply Keeps.foldl1 | intro _ | split


theorem keeps_wipeCluWins (f : Nat) (k : Nat) (h : Keeps s t) : Keeps s (Machine.wipeCluWins t f k) := by
  unfold Machine.wipeCluWins
  try dsimp only
  repeat' with_reducible first | exact h | exact Keeps.refl _ | apply keeps_wipe | apply Keeps.ite | apply Keeps.foldl | apply Keeps.foldl1 | intro _ | split


theorem keeps_addZeroing (z : Freed) (h : Keeps s t) : Keeps s (Machine.addZeroing t z) := by
  unfold Machine.addZeroing
  try dsimp only
  repeat' with_reducible first | exact h | apply Keeps.ite | split | (apply keeps_mk; first | exact h | apply Keeps.ite | split)


theorem keeps_opJobCores (f : Nat) (n : Nat) (v : Nat) (h : Keeps s t) : Keeps s (Machine.opJobCores t f n v) := by
  unfold Machine.opJobCores
  try dsimp only
  repeat' with_reducible first | exact h | exact Keeps.refl _ | apply keeps_rejectAlloc | apply keeps_addZeroing | apply keeps_wipeCoreWins | apply keeps_setReg | apply Keeps.ite | apply Keeps.foldl | apply Keeps.foldl1 | intro _ | split


theorem keeps_opJobRegions (f : Nat) (v : Nat) (h : Keeps s t) : Keeps s (Machine.opJobRegions t f v) := by
  unfold Machine.opJobRegions
  try dsimp only
  repeat' with_reducible first | exact h | exact Keeps.refl _ | apply keeps_rejectAlloc | apply keeps_wipeCoreWins | apply keeps_addZeroing | apply keeps_wipeCluWins | apply keeps_setReg | apply Keeps.ite | apply Keeps.foldl | apply Keeps.foldl1 | intro _ | split


theorem keeps_opJobMem (f : Nat) (n : Nat) (v : Nat) (h : Keeps s t) : Keeps s (Machine.opJobMem t f n v) := by
  unfold Machine.opJobMem
  try dsimp only
  repeat' with_reducible first | exact h | exact Keeps.refl _ | apply keeps_rejectAlloc | apply keeps_addZeroing | apply keeps_wipe | apply keeps_setReg | apply Keeps.ite | apply Keeps.foldl | apply Keeps.foldl1 | intro _ | split


theorem keeps_opJobSlow (f : Nat) (v : Nat) (h : Keeps s t) : Keeps s (Machine.opJobSlow t f v) := by
  unfold Machine.opJobSlow
  try dsimp only
  repeat' with_reducible first | exact h | exact Keeps.refl _ | apply keeps_rejectAlloc | apply keeps_addZeroing | apply keeps_wipe | apply keeps_setReg | apply Keeps.ite | apply Keeps.foldl | apply Keeps.foldl1 | intro _ | split


theorem keeps_opZeroed (z : Freed) (h : Keeps s t) : Keeps s (Machine.opZeroed t z) := by
  unfold Machine.opZeroed
  try dsimp only
  repeat' with_reducible first | exact h | (apply keeps_mk; first | exact h)


theorem keeps_opJobCtrl (f : Nat) (v : Nat) (h : Keeps s t) : Keeps s (Machine.opJobCtrl t f v) := by
  unfold Machine.opJobCtrl
  try dsimp only
  repeat' with_reducible first | exact h | apply keeps_setRegF | apply keeps_setReg | apply Keeps.ite | split


theorem keeps_savedOf (f : Nat) (core : Nat) (h : Keeps s t) : Keeps s (Machine.savedOf t f core).2 := by
  unfold Machine.savedOf
  try dsimp only
  repeat' with_reducible first | exact h | apply keeps_draw | apply Keeps.ite | split | (apply keeps_mk; first | exact h | apply keeps_draw | apply Keeps.ite | split)


theorem keeps_releaseOf (f : Nat) (core : Nat) (h : Keeps s t) : Keeps s (Machine.releaseOf t f core) := by
  unfold Machine.releaseOf
  try dsimp only
  repeat' with_reducible first | exact h | exact Keeps.refl _ | apply keeps_setMxa | apply keeps_venRelease | apply keeps_setEng | apply Keeps.ite | apply Keeps.foldl | apply Keeps.foldl1 | intro _ | split | (apply keeps_mk; first | exact h | exact Keeps.refl _ | apply keeps_setMxa | apply keeps_venRelease | apply keeps_setEng | apply Keeps.ite | apply Keeps.foldl | apply Keeps.foldl1 | split)


theorem keeps_suspBit (f : Nat) (core : Nat) (v : Nat) (h : Keeps s t) : Keeps s (Machine.suspBit t f core v) := by
  unfold Machine.suspBit
  try dsimp only
  repeat' with_reducible first | exact h | apply keeps_setRegF | apply Keeps.ite | split


theorem keeps_switchNs (x : Saved) (h : Keeps s t) : Keeps s (Machine.switchNs t x).2 := by
  unfold Machine.switchNs
  try dsimp only
  repeat' with_reducible first | exact h | apply keeps_draw | apply Keeps.ite | split


theorem keeps_switchOut (f : Nat) (core : Nat) (h : Keeps s t) : Keeps s (Machine.switchOut t f core).1 := by
  unfold Machine.switchOut
  try dsimp only
  repeat' with_reducible first | exact h | apply keeps_savedOf | apply keeps_switchNs | apply keeps_releaseOf | apply keeps_wrFab | apply keeps_suspBit | (apply keeps_mk; first | exact h | apply keeps_savedOf | apply keeps_switchNs | apply keeps_releaseOf | apply keeps_wrFab | apply keeps_suspBit)


theorem keeps_opPreempt (f : Nat) (h : Keeps s t) : Keeps s (Machine.opPreempt t f) := by
  unfold Machine.opPreempt
  try dsimp only
  repeat' with_reducible first | exact h | exact Keeps.refl _ | apply keeps_switchOut | apply keeps_raiseEvt | apply keeps_finish | apply Keeps.ite | apply Keeps.foldl | apply Keeps.foldl1 | intro _ | split


theorem keeps_restoreCmds (core : Nat) (x : Saved) (h : Keeps s t) : Keeps s (Machine.restoreCmds t core x) := by
  unfold Machine.restoreCmds
  try dsimp only
  repeat' with_reducible first | exact h | exact Keeps.refl _ | apply keeps_setEng | apply Keeps.ite | apply Keeps.foldl | apply Keeps.foldl1 | intro _ | split | (apply keeps_mk; first | exact h | exact Keeps.refl _ | apply keeps_setEng | apply Keeps.ite | apply Keeps.foldl | apply Keeps.foldl1 | split)


theorem keeps_switchIn (f : Nat) (core : Nat) (h : Keeps s t) : Keeps s (Machine.switchIn t f core).1 := by
  unfold Machine.switchIn
  try dsimp only
  repeat' with_reducible first | exact h | exact Keeps.refl _ | apply keeps_switchNs | apply keeps_setMxa | apply keeps_wrMem | apply keeps_setVen | apply keeps_restoreCmds | apply keeps_suspBit | apply Keeps.ite | apply Keeps.foldl | apply Keeps.foldl1 | intro _ | split | (apply keeps_mk; first | exact h | exact Keeps.refl _ | apply keeps_switchNs | apply keeps_setMxa | apply keeps_wrMem | apply keeps_setVen | apply keeps_restoreCmds | apply keeps_suspBit | apply Keeps.ite | apply Keeps.foldl | apply Keeps.foldl1 | split)


theorem keeps_opResumeJob (f : Nat) (h : Keeps s t) : Keeps s (Machine.opResumeJob t f) := by
  unfold Machine.opResumeJob
  try dsimp only
  repeat' with_reducible first | exact h | exact Keeps.refl _ | apply keeps_switchIn | apply keeps_finish | apply Keeps.ite | apply Keeps.foldl | apply Keeps.foldl1 | intro _ | split


theorem keeps_dropSaved (core : Nat) (x : Nat) (h : Keeps s t) : Keeps s (Machine.dropSaved t core x) := by
  unfold Machine.dropSaved
  try dsimp only
  repeat' with_reducible first | exact h | exact Keeps.refl _ | apply keeps_setEng | apply Keeps.ite | apply Keeps.foldl | apply Keeps.foldl1 | intro _ | split | (apply keeps_mk; first | exact h | exact Keeps.refl _ | apply keeps_setEng | apply Keeps.ite | apply Keeps.foldl | apply Keeps.foldl1 | split)


theorem keeps_opStopContext (core : Nat) (h : Keeps s t) : Keeps s (Machine.opStopContext t core) := by
  unfold Machine.opStopContext
  try dsimp only
  repeat' with_reducible first | exact h | apply keeps_finish | apply keeps_haltCtx | apply keeps_dropSaved | apply Keeps.ite | split


theorem keeps_startTask (r : Nat) (t1 : RCmd) (h : Keeps s t) : Keeps s (Machine.startTask t r t1) := by
  unfold Machine.startTask
  try dsimp only
  repeat' with_reducible first | exact h | apply keeps_setRun | apply keeps_setRegF | apply keeps_bump | apply keeps_finish | apply keeps_startCtx | apply Keeps.ite | split | (apply keeps_mk; first | exact h | apply keeps_setRun | apply keeps_setRegF | apply keeps_bump | apply keeps_finish | apply keeps_startCtx | apply Keeps.ite | split)


theorem keeps_opRgnTask (r : Nat) (h : Keeps s t) : Keeps s (Machine.opRgnTask t r) := by
  unfold Machine.opRgnTask
  try dsimp only
  repeat' with_reducible first | exact h | apply keeps_setRun | apply keeps_startTask | apply Keeps.ite | split | (apply keeps_mk; first | exact h | apply keeps_setRun | apply keeps_startTask | apply Keeps.ite | split)


theorem keeps_opRgnDispatch (r : Nat) (id : Nat) (h : Keeps s t) : Keeps s (Machine.opRgnDispatch t r id) := by
  unfold Machine.opRgnDispatch
  try dsimp only
  repeat' with_reducible first | exact h | apply keeps_startTask | apply Keeps.ite | split


theorem keeps_runImage (img : List Byte) (slot : Nat) (source : Nat) (h : Keeps s t) : Keeps s (Machine.runImage t img slot source) := by
  unfold Machine.runImage
  try dsimp only
  repeat' with_reducible first | exact h | (apply keeps_mk; first | exact h)


theorem keeps_owe (n : Nat) (page : Nat) (detail : List Byte) (h : Keeps s t) : Keeps s (Machine.owe t n page detail) := by
  unfold Machine.owe
  try dsimp only
  repeat' with_reducible first | exact h | (apply keeps_mk; first | exact h)


theorem keeps_payOwed  (h : Keeps s t) : Keeps s (Machine.payOwed t) := by
  unfold Machine.payOwed
  try dsimp only
  repeat' with_reducible first | exact h | exact Keeps.refl _ | apply keeps_deliver | apply Keeps.foldl | apply Keeps.foldl1 | intro _ | (apply keeps_mk; first | exact h | exact Keeps.refl _ | apply keeps_deliver | apply Keeps.foldl | apply Keeps.foldl1)


theorem keeps_enterRecovery (cause : Nat) (u1 : StartUp) (h : Keeps s t) : Keeps s (Machine.enterRecovery t cause u1) := by
  unfold Machine.enterRecovery
  try dsimp only
  repeat' with_reducible first | exact h | apply keeps_raiseErr | apply keeps_bump | apply keeps_owe | (apply keeps_mk; first | exact h | apply keeps_raiseErr | apply keeps_bump | apply keeps_owe)


theorem keeps_rcvStore (path : Nat) (off : Nat) (data : List Byte) (h : Keeps s t) : Keeps s (Machine.rcvStore t path off data) := by
  unfold Machine.rcvStore
  try dsimp only
  repeat' with_reducible first | exact h | apply keeps_wrMem | (apply keeps_mk; first | exact h | apply keeps_wrMem)


theorem keeps_rcvFail (cause : Nat) (h : Keeps s t) : Keeps s (Machine.rcvFail t cause) := by
  unfold Machine.rcvFail
  try dsimp only
  repeat' with_reducible first | exact h | (apply keeps_mk; first | exact h)


theorem keeps_answer (status : Nat) (data : List Byte) (h : Keeps s t) : Keeps s (Machine.answer t status data) := by
  unfold Machine.answer
  try dsimp only
  repeat' with_reducible first | exact h | (apply keeps_mk; first | exact h)


theorem keeps_opRcvWrite (args : List Byte) (h : Keeps s t) : Keeps s (Machine.opRcvWrite t args) := by
  unfold Machine.opRcvWrite
  try dsimp only
  repeat' with_reducible first | exact h | apply keeps_answer | apply keeps_rcvStore | apply Keeps.ite | split


theorem keeps_opTransferFw (off : Nat) (data : List Byte) (h : Keeps s t) : Keeps s (Machine.opTransferFw t off data) := by
  unfold Machine.opTransferFw
  try dsimp only
  repeat' with_reducible first | exact h | apply keeps_answer | apply keeps_rcvStore | apply Keeps.ite | split


theorem keeps_opGetFwInfo  (h : Keeps s t) : Keeps s (Machine.opGetFwInfo t) := by
  unfold Machine.opGetFwInfo
  try dsimp only
  repeat' with_reducible first | exact h | apply keeps_answer


theorem keeps_opOwnerTimeout  (h : Keeps s t) : Keeps s (Machine.opOwnerTimeout t) := by
  unfold Machine.opOwnerTimeout
  try dsimp only
  repeat' with_reducible first | exact h | apply Keeps.ite | split | (apply keeps_mk; first | exact h | apply Keeps.ite | split)


theorem keeps_spdm (needsId : Bool) (data : List Byte) (h : Keeps s t) : Keeps s (Machine.spdm t needsId data) := by
  unfold Machine.spdm
  try dsimp only
  repeat' with_reducible first | exact h | apply keeps_bump | apply keeps_answer | apply Keeps.ite | split


theorem keeps_opGetVersion  (h : Keeps s t) : Keeps s (Machine.opGetVersion t) := by
  unfold Machine.opGetVersion
  try dsimp only
  repeat' with_reducible first | exact h | apply keeps_spdm


theorem keeps_opGetCapabilities  (h : Keeps s t) : Keeps s (Machine.opGetCapabilities t) := by
  unfold Machine.opGetCapabilities
  try dsimp only
  repeat' with_reducible first | exact h | apply keeps_spdm


theorem keeps_opNegotiate  (h : Keeps s t) : Keeps s (Machine.opNegotiate t) := by
  unfold Machine.opNegotiate
  try dsimp only
  repeat' with_reducible first | exact h | apply keeps_spdm


theorem keeps_opGetDigests  (h : Keeps s t) : Keeps s (Machine.opGetDigests t) := by
  unfold Machine.opGetDigests
  try dsimp only
  repeat' with_reducible first | exact h | apply keeps_spdm


theorem keeps_opGetCertificate (slot : Nat) (off : Nat) (len : Nat) (h : Keeps s t) : Keeps s (Machine.opGetCertificate t slot off len) := by
  unfold Machine.opGetCertificate
  try dsimp only
  repeat' with_reducible first | exact h | apply keeps_spdm | apply Keeps.ite | split


theorem keeps_opChallenge (slot : Nat) (nonce : List Byte) (h : Keeps s t) : Keeps s (Machine.opChallenge t slot nonce) := by
  unfold Machine.opChallenge
  try dsimp only
  repeat' with_reducible first | exact h | apply keeps_spdm | (apply keeps_mk; first | exact h | apply keeps_spdm)


theorem keeps_opGetMeasurements (index : Nat) (nonce : List Byte) (h : Keeps s t) : Keeps s (Machine.opGetMeasurements t index nonce) := by
  unfold Machine.opGetMeasurements
  try dsimp only
  repeat' with_reducible first | exact h | apply keeps_spdm | apply Keeps.ite | split | (apply keeps_mk; first | exact h | apply keeps_spdm | apply Keeps.ite | split)


theorem keeps_ctrlRejected  (h : Keeps s t) : Keeps s (Machine.ctrlRejected t) := by
  unfold Machine.ctrlRejected
  try dsimp only
  repeat' with_reducible first | exact h | apply keeps_raiseErr


theorem keeps_opSvnCommit (h : Keeps s t) : Keeps s (Machine.opSvnCommit t) := by
  unfold Machine.opSvnCommit
  split
  · exact keeps_setRegF _ _ _ _ _
      (h.trans ⟨rfl, id, id, id, id, fun x => ⟨⟨Nat.le_refl _, Nat.le_max_left _ _, fun _ k => k⟩, x⟩⟩)
  · exact keeps_ctrlRejected h

theorem keeps_revokeSlot (k : Nat) (h : Keeps s t) : Keeps s (Machine.revokeSlot t k) := by
  unfold Machine.revokeSlot
  split
  · exact keeps_ctrlRejected h
  · exact keeps_setRegF _ _ _ _ _ (h.trans ⟨rfl, id, id, id, id, fun x => ⟨⟨Nat.le_refl _, Nat.le_refl _, fun i hi => by
      simp only [Nat.testBit_or, hi, Bool.true_or]⟩, x⟩⟩)

theorem keeps_opRevoke (b : Nat) (h : Keeps s t) : Keeps s (Machine.opRevoke t b) := by
  unfold Machine.opRevoke
  try dsimp only
  repeat' with_reducible first | exact h | exact Keeps.refl _ | apply keeps_revokeSlot | apply Keeps.foldl | apply Keeps.foldl1 | intro _


theorem keeps_lcsEnd (status : Nat) (dst : Nat) (h : Keeps s t) : Keeps s (Machine.lcsEnd t status dst) := by
  unfold Machine.lcsEnd
  try dsimp only
  repeat' with_reducible first | exact h | apply keeps_setReg | (apply keeps_mk; first | exact h | apply keeps_setReg)


theorem keeps_relevel  (h : Keeps s t) : Keeps s (Machine.relevel t) := by
  unfold Machine.relevel
  try dsimp only
  repeat' with_reducible first | exact h | apply keeps_setRegF | apply keeps_raiseEvt | apply Keeps.ite | split


theorem keeps_opPlevel (level : Nat) (h : Keeps s t) : Keeps s (Machine.opPlevel t level) := by
  unfold Machine.opPlevel
  try dsimp only
  repeat' with_reducible first | exact h | apply keeps_setRegF | apply keeps_relevel | apply Keeps.ite | split


theorem keeps_capTo (c : Nat) (h : Keeps s t) : Keeps s (Machine.capTo t c) := by
  unfold Machine.capTo
  try dsimp only
  repeat' with_reducible first | exact h | apply keeps_relevel | apply keeps_setRegF | (apply keeps_mk; first | exact h | apply keeps_relevel | apply keeps_setRegF)


theorem keeps_opPowerSample (watts : Nat) (h : Keeps s t) : Keeps s (Machine.opPowerSample t watts) := by
  unfold Machine.opPowerSample
  try dsimp only
  repeat' with_reducible first | exact h | apply keeps_setRegF | apply keeps_capTo | apply keeps_raiseErr | apply keeps_relevel | apply Keeps.ite | split | (apply keeps_mk; first | exact h | apply keeps_setRegF | apply keeps_capTo | apply keeps_raiseErr | apply keeps_relevel | apply Keeps.ite | split)


theorem keeps_opLevelStep  (h : Keeps s t) : Keeps s (Machine.opLevelStep t) := by
  unfold Machine.opLevelStep
  try dsimp only
  repeat' with_reducible first | exact h | apply Keeps.ite | split | (apply keeps_mk; first | exact h | apply Keeps.ite | split)


theorem keeps_vaonState (h : Keeps s t) : Keeps s (Machine.vaonState t) := by
  unfold Machine.vaonState
  extract_lets u
  have h1 : Keeps s u := h.trans
    ⟨rfl, fun _ => rfl, mapWf_mapKeep _, regsWf_filter _, fun _ => rfl, FusesGrow.refl _⟩
  clear_value u
  exact Keeps.foldl (keeps_setRegF _ _ _ _ _ h1) fun _ _ => keeps_retrainEnds _ (Keeps.refl _)

theorem keeps_markReshard (cause : Nat) (h : Keeps s t) : Keeps s (Machine.markReshard t cause) := by
  unfold Machine.markReshard
  try dsimp only
  repeat' with_reducible first | exact h | apply keeps_owe | apply keeps_setReg | apply Keeps.ite | split


theorem keeps_sampleStraps (u1 : StartUp) (h : Keeps s t) : Keeps s (Machine.sampleStraps t u1) := by
  unfold Machine.sampleStraps
  try dsimp only
  repeat' with_reducible first | exact h | apply keeps_setRegF | apply keeps_setReg | apply Keeps.ite | split


theorem keeps_startPorts (u1 : StartUp) (h : Keeps s t) : Keeps s (Machine.startPorts t u1) := by
  unfold Machine.startPorts
  try dsimp only
  repeat' with_reducible first | exact h | exact Keeps.refl _ | apply keeps_draw | apply keeps_opGdrDone | apply keeps_tierStart | apply Keeps.ite | apply Keeps.foldl | apply Keeps.foldl1 | intro _ | split


theorem keeps_testBundle (u1 : StartUp) (b : Nat) (h : Keeps s t) : Keeps s (Machine.testBundle u1 t b) := by
  unfold Machine.testBundle
  try dsimp only
  repeat' with_reducible first | exact h | exact Keeps.refl _ | apply keeps_raiseErr | apply keeps_bump | apply keeps_setRegF | apply Keeps.ite | apply Keeps.foldl | apply Keeps.foldl1 | intro _ | split | (apply keeps_mk; first | exact h | exact Keeps.refl _ | apply keeps_raiseErr | apply keeps_bump | apply keeps_setRegF | apply Keeps.ite | apply Keeps.foldl | apply Keeps.foldl1 | split)


theorem keeps_afterBoot (u1 : StartUp) (h : Keeps s t) : Keeps s (Machine.afterBoot t u1) := by
  unfold Machine.afterBoot
  try dsimp only
  repeat' with_reducible first | exact h | exact Keeps.refl _ | apply keeps_testBundle | apply keeps_fenceChan | apply keeps_setRegF | apply keeps_startPorts | apply Keeps.ite | apply Keeps.foldl | apply Keeps.foldl1 | intro _ | split | (apply keeps_mk; first | exact h | exact Keeps.refl _ | apply keeps_testBundle | apply keeps_fenceChan | apply keeps_setRegF | apply keeps_startPorts | apply Keeps.ite | apply Keeps.foldl | apply Keeps.foldl1 | split)


theorem keeps_bootRom (u1 : StartUp) (h : Keeps s t) : Keeps s (Machine.bootRom t u1) := by
  unfold Machine.bootRom
  try dsimp only
  repeat' with_reducible first | exact h | apply keeps_setRegF | apply keeps_enterRecovery | apply keeps_afterBoot | apply keeps_runImage | apply Keeps.ite | split | (apply keeps_mk; first | exact h | apply keeps_setRegF | apply keeps_enterRecovery | apply keeps_afterBoot | apply keeps_runImage | apply Keeps.ite | split)


theorem keeps_startUp (last : Nat) (u1 : StartUp) (h : Keeps s t) : Keeps s (Machine.startUp t last u1) := by
  unfold Machine.startUp
  try dsimp only
  repeat' with_reducible first | exact h | apply keeps_setReg | apply keeps_sampleStraps | apply keeps_bootRom | (apply keeps_mk; first | exact h | apply keeps_setReg | apply keeps_sampleStraps | apply keeps_bootRom)


theorem keeps_opColdReset (u1 : StartUp) (h : Keeps s t) : Keeps s (Machine.opColdReset t u1) := by
  unfold Machine.opColdReset
  try dsimp only
  repeat' with_reducible first | exact h | apply keeps_markReshard | apply keeps_startUp | apply keeps_setReg | apply keeps_vaonState | (apply keeps_mk; first | exact h | apply keeps_markReshard | apply keeps_startUp | apply keeps_setReg | apply keeps_vaonState)


theorem keeps_warmReset (last : Nat) (held : Bool) (u1 : StartUp) (h : Keeps s t) : Keeps s (Machine.warmReset t last held u1) := by
  unfold Machine.warmReset
  try dsimp only
  repeat' with_reducible first | exact h | apply keeps_vaonState | apply keeps_markReshard | apply keeps_setReg | apply keeps_startUp | apply keeps_bump | apply Keeps.ite | split | (apply keeps_mk; first | exact h | apply keeps_vaonState | apply keeps_markReshard | apply keeps_setReg | apply keeps_startUp | apply keeps_bump | apply Keeps.ite | split)


theorem keeps_askWarm (last : Nat) (held : Bool) (u1 : StartUp) (h : Keeps s t) : Keeps s (Machine.askWarm t last held u1) := by
  unfold Machine.askWarm
  try dsimp only
  repeat' with_reducible first | exact h | apply keeps_warmReset | apply Keeps.ite | split | (apply keeps_mk; first | exact h | apply keeps_warmReset | apply Keeps.ite | split)


theorem keeps_releaseTrace (u1 : Option StartUp) (h : Keeps s t) : Keeps s (Machine.releaseTrace t u1) := by
  unfold Machine.releaseTrace
  try dsimp only
  repeat' with_reducible first | exact h | apply keeps_setRegF | apply keeps_warmReset | apply Keeps.ite | split | (apply keeps_mk; first | exact h | apply keeps_setRegF | apply keeps_warmReset | apply Keeps.ite | split)


theorem keeps_opResetWait (u1 : StartUp) (h : Keeps s t) : Keeps s (Machine.opResetWait t u1) := by
  unfold Machine.opResetWait
  try dsimp only
  repeat' with_reducible first | exact h | apply keeps_warmReset | apply Keeps.ite | split


theorem keeps_opCxlReset (lowNs : Nat) (u1 : StartUp) (h : Keeps s t) : Keeps s (Machine.opCxlReset t lowNs u1) := by
  unfold Machine.opCxlReset
  try dsimp only
  repeat' with_reducible first | exact h | apply keeps_askWarm | apply Keeps.ite | split | (apply keeps_mk; first | exact h | apply keeps_askWarm | apply Keeps.ite | split)


theorem keeps_rcvActivate {source : Nat} {u : State} (h : Keeps s t) (e : Machine.rcvActivate t source = some u) :
    Keeps s u := by
  unfold Machine.rcvActivate at e
  split at e
  · rename_i k _
    injection e with e
    subst e
    split
    · exact keeps_afterBoot _ (keeps_runImage _ _ _ h)
    · exact keeps_runImage _ _ _ h
  · cases e

theorem keeps_opRcvActivate  (h : Keeps s t) : Keeps s (Machine.opRcvActivate t) := by
  unfold Machine.opRcvActivate
  try dsimp only
  repeat' with_reducible first | exact h | apply keeps_answer | apply keeps_rcvFail | apply Keeps.ite | split | exact keeps_rcvActivate h (by assumption)


theorem keeps_opActivateFw  (h : Keeps s t) : Keeps s (Machine.opActivateFw t) := by
  unfold Machine.opActivateFw
  try dsimp only
  repeat' with_reducible first | exact h | apply keeps_answer | apply keeps_rcvFail | apply Keeps.ite | split | exact keeps_rcvActivate h (by assumption)


theorem fuses_transition {a b : Nat} {x : Bool} (h : lcsSigned a b = some x) (ha : a ≤ 4) : a ≤ b ∧ b ≤ 4 := by
  unfold lcsSigned at h
  split at h
  · omega
  · split at h <;> simp_all

theorem fuses_status {d c : Nat} {b : List Byte} (h : Machine.lcsStatus t d c b = stOK) (ha : t.fuses.lcs ≤ 4) :
    t.fuses.lcs ≤ d ∧ d ≤ 4 := by
  unfold Machine.lcsStatus at h
  dsimp only at h
  split at h
  · simp [stAccess, stOK] at h
  · split at h
    · simp [stFormat, stOK] at h
    · exact fuses_transition ‹_› ha

theorem fuses_program {f : Fuses} {dst : Nat} (req : List Byte) (h : f.lcs ≤ 4 → f.lcs ≤ dst ∧ dst ≤ 4) :
    FusesGrow f (programState f dst req) :=
  fun ha => ⟨⟨(h ha).1, Nat.le_refl _, fun _ k => k⟩, (h ha).2⟩

theorem keeps_opLifecycle (req : List Byte) (u : StartUp) (h : Keeps s t) : Keeps s (Machine.opLifecycle t req u) := by
  have hs := fun d c (e : lcsStatus t d c req = stOK) => fuses_program req (fuses_status e)
  unfold Machine.opLifecycle
  dsimp only
  have h0 := keeps_setRegF pgLcs 0x130 16 2 0 h
  split
  · rename_i e
    exact keeps_setReg _ _ _ (keeps_warmReset _ _ _ (keeps_owe _ _ _ (keeps_aolAppend _ (keeps_lcsEnd _ _
      (h0.trans ⟨rfl, id, id, id, id, hs _ _ e⟩)))))
  · exact keeps_bump _ _ _ (keeps_lcsEnd _ _ h0)

theorem keeps_brownoutAll  (h : Keeps s t) : Keeps s (Machine.brownoutAll t) := by
  unfold Machine.brownoutAll
  try dsimp only
  repeat' with_reducible first | exact h | exact Keeps.refl _ | apply keeps_hostComplete | apply Keeps.ite | apply Keeps.foldl | apply Keeps.foldl1 | intro _ | split


theorem keeps_pwrLog (cause : Nat) (lost : Bool) (h : Keeps s t) : Keeps s (Machine.pwrLog t cause lost) := by
  unfold Machine.pwrLog
  try dsimp only
  repeat' with_reducible first | exact h | apply keeps_setRegF | apply Keeps.ite | split


theorem keeps_enterS3 (cause : Nat) (complete : Bool) (lost : Bool) (h : Keeps s t) : Keeps s (Machine.enterS3 t cause complete lost) := by
  unfold Machine.enterS3
  try dsimp only
  repeat' with_reducible first | exact h | apply keeps_brownoutAll | apply keeps_vaonState | apply keeps_markReshard | apply keeps_pwrLog | apply Keeps.ite | split | (apply keeps_mk; first | exact h | apply keeps_brownoutAll | apply keeps_vaonState | apply keeps_markReshard | apply keeps_pwrLog | apply Keeps.ite | split)


theorem keeps_opThermalTrip (tj : Nat) (h : Keeps s t) : Keeps s (Machine.opThermalTrip t tj) := by
  unfold Machine.opThermalTrip
  try dsimp only
  repeat' with_reducible first | exact h | apply keeps_setRegF | apply keeps_raiseErr | apply keeps_enterS3 | apply Keeps.ite | split | (apply keeps_mk; first | exact h | apply keeps_setRegF | apply keeps_raiseErr | apply keeps_enterS3 | apply Keeps.ite | split)


theorem keeps_tripMeets (tj : Nat) (h : Keeps s t) : Keeps s (Machine.tripMeets t tj) := by
  unfold Machine.tripMeets
  try dsimp only
  repeat' with_reducible first | exact h | apply keeps_setRegF | apply Keeps.ite | split | (apply keeps_mk; first | exact h | apply keeps_setRegF | apply Keeps.ite | split)


theorem keeps_opThermalSample (tj : Nat) (h : Keeps s t) : Keeps s (Machine.opThermalSample t tj) := by
  unfold Machine.opThermalSample
  try dsimp only
  repeat' with_reducible first | exact h | apply keeps_setRegF | apply keeps_opThermalTrip | apply keeps_relevel | apply Keeps.ite | split | (apply keeps_mk; first | exact h | apply keeps_setRegF | apply keeps_opThermalTrip | apply keeps_relevel | apply Keeps.ite | split)


theorem keeps_setRefused (b : Bool) (h : Keeps s t) : Keeps s (Machine.setRefused t b) := by
  unfold Machine.setRefused
  try dsimp only
  repeat' with_reducible first | exact h | apply keeps_setRegF


theorem keeps_opS0  (h : Keeps s t) : Keeps s (Machine.opS0 t) := by
  unfold Machine.opS0
  try dsimp only
  repeat' with_reducible first | exact h | apply keeps_setRefused | apply Keeps.ite | split | (apply keeps_mk; first | exact h | apply keeps_setRefused | apply Keeps.ite | split)


theorem keeps_opS1  (h : Keeps s t) : Keeps s (Machine.opS1 t) := by
  unfold Machine.opS1
  try dsimp only
  repeat' with_reducible first | exact h | apply keeps_setRefused | apply Keeps.ite | split | (apply keeps_mk; first | exact h | apply keeps_setRefused | apply Keeps.ite | split)


theorem keeps_linkDark (dir : Nat) (h : Keeps s t) : Keeps s (Machine.linkDark t dir) := by
  unfold Machine.linkDark
  try dsimp only
  repeat' with_reducible first | exact h | apply keeps_setLnk | apply Keeps.ite | split


theorem keeps_frost  (h : Keeps s t) : Keeps s (Machine.frost t) := by
  unfold Machine.frost
  try dsimp only
  repeat' with_reducible first | exact h | exact Keeps.refl _ | apply keeps_linkDark | apply keeps_setRefused | apply Keeps.foldl | apply Keeps.foldl1 | intro _ | (apply keeps_mk; first | exact h | exact Keeps.refl _ | apply keeps_linkDark | apply keeps_setRefused | apply Keeps.foldl | apply Keeps.foldl1)


theorem keeps_opS2  (h : Keeps s t) : Keeps s (Machine.opS2 t) := by
  unfold Machine.opS2
  try dsimp only
  repeat' with_reducible first | exact h | apply keeps_setRefused | apply keeps_raiseErr | apply keeps_frost | apply Keeps.ite | split


theorem keeps_thaw (h : Keeps s t) : Keeps s (Machine.thaw t) := by
  have h' := h.trans (t := t) (u := { t with
      mem := mapKeep t.mem (frostCell t), bad := t.bad.filter (frostCell t), vens := []
      mxas := t.mxas.map (fun e => (e.1, { inject := e.2.inject }))
      thawing := thawList t, pstate := 1, portReleased := true, timeRuns := reg t pgClk 0x108 == 0x3F })
    ⟨rfl, id, mapWf_mapKeep _, id, rising_filter _, FusesGrow.refl _⟩
  unfold Machine.thaw
  refine Keeps.foldl (keeps_tierStart h') fun u x => ?_
  split
  · exact keeps_startBringup _ (Keeps.refl _)
  · exact Keeps.refl _

theorem keeps_opWake (addr : Nat) (write : Bool) (u1 : StartUp) (h : Keeps s t) : Keeps s (Machine.opWake t addr write u1) := by
  unfold Machine.opWake
  try dsimp only
  repeat' with_reducible first | exact h | apply keeps_thaw | apply keeps_opColdReset | apply Keeps.ite | split


theorem keeps_opLowPower  (h : Keeps s t) : Keeps s (Machine.opLowPower t) := by
  unfold Machine.opLowPower
  try dsimp only
  repeat' with_reducible first | exact h | apply keeps_enterS3 | apply Keeps.ite | split


theorem keeps_opThawDone (p : ThawPart) (h : Keeps s t) : Keeps s (Machine.opThawDone t p) := by
  unfold Machine.opThawDone
  try dsimp only
  repeat' with_reducible first | exact h | (apply keeps_mk; first | exact h)


theorem keeps_opVaonLoss (h : Keeps s t) : Keeps s (Machine.opVaonLoss t) := by
  have k := keeps_vaonState h
  unfold Machine.opVaonLoss
  generalize Machine.vaonState t = u at k ⊢
  dsimp only
  generalize undefBytes _ _ = bs
  refine keeps_setReg _ _ _ (keeps_setReg _ _ _ ⟨k.pending, k.die, fun x => ?_, fun _ => rfl, k.bad, k.fuses⟩)
  exact mapWf_memWrite _ _ _ (mapWf_mapKeep _ (k.mem x))

theorem keeps_haltAll  (h : Keeps s t) : Keeps s (Machine.haltAll t) := by
  unfold Machine.haltAll
  try dsimp only
  repeat' with_reducible first | exact h | exact Keeps.refl _ | apply keeps_forceDown | apply Keeps.foldl | apply Keeps.foldl1 | intro _ | (apply keeps_mk; first | exact h | exact Keeps.refl _ | apply keeps_forceDown | apply Keeps.foldl | apply Keeps.foldl1)


theorem keeps_shedApply (row : Nat) (h : Keeps s t) : Keeps s (Machine.shedApply t row) := by
  unfold Machine.shedApply
  try dsimp only
  repeat' with_reducible first | exact h | exact Keeps.refl _ | apply keeps_bump | apply keeps_setRegF | apply keeps_relevel | apply keeps_narrowDir | apply keeps_drainStage | apply keeps_raiseErr | apply keeps_haltAll | apply keeps_enterS3 | apply Keeps.ite | apply Keeps.foldl | apply Keeps.foldl1 | intro _ | split


theorem keeps_opVinSample (mv : Nat) (h : Keeps s t) : Keeps s (Machine.opVinSample t mv) := by
  unfold Machine.opVinSample
  try dsimp only
  repeat' with_reducible first | exact h | exact Keeps.refl _ | apply keeps_setRegF | apply keeps_shedApply | apply Keeps.ite | apply Keeps.foldl | apply Keeps.foldl1 | intro _ | split | (apply keeps_mk; first | exact h | exact Keeps.refl _ | apply keeps_setRegF | apply keeps_shedApply | apply Keeps.ite | apply Keeps.foldl | apply Keeps.foldl1 | split)


theorem keeps_opShedUndo  (h : Keeps s t) : Keeps s (Machine.opShedUndo t) := by
  unfold Machine.opShedUndo
  try dsimp only
  repeat' with_reducible first | exact h | apply keeps_setRegF | apply keeps_relevel | apply Keeps.ite | split | (apply keeps_mk; first | exact h | apply keeps_setRegF | apply keeps_relevel | apply Keeps.ite | split)


theorem keeps_opVinIo  (h : Keeps s t) : Keeps s (Machine.opVinIo t) := by
  unfold Machine.opVinIo
  try dsimp only
  repeat' with_reducible first | exact h | apply keeps_enterS3 | apply keeps_setRegF | apply Keeps.ite | split


theorem keeps_opRefclkLoss  (h : Keeps s t) : Keeps s (Machine.opRefclkLoss t) := by
  unfold Machine.opRefclkLoss
  try dsimp only
  repeat' with_reducible first | exact h | exact Keeps.refl _ | apply keeps_setReg | apply keeps_raiseErr | apply keeps_bump | apply keeps_goDown | apply Keeps.ite | apply Keeps.foldl | apply Keeps.foldl1 | intro _ | split | (apply keeps_mk; first | exact h | exact Keeps.refl _ | apply keeps_setReg | apply keeps_raiseErr | apply keeps_bump | apply keeps_goDown | apply Keeps.ite | apply Keeps.foldl | apply Keeps.foldl1 | split)


theorem keeps_opRefclkLock  (h : Keeps s t) : Keeps s (Machine.opRefclkLock t) := by
  unfold Machine.opRefclkLock
  try dsimp only
  repeat' with_reducible first | exact h | apply keeps_setReg | (apply keeps_mk; first | exact h | apply keeps_setReg)


theorem keeps_opCxlDown  (h : Keeps s t) : Keeps s (Machine.opCxlDown t) := by
  unfold Machine.opCxlDown
  try dsimp only
  repeat' with_reducible first | exact h | (apply keeps_mk; first | exact h)


theorem keeps_opCxlUp  (h : Keeps s t) : Keeps s (Machine.opCxlUp t) := by
  unfold Machine.opCxlUp
  try dsimp only
  repeat' with_reducible first | exact h | apply Keeps.ite | split | (apply keeps_mk; first | exact h | apply Keeps.ite | split)


theorem keeps_opPortRelease  (h : Keeps s t) : Keeps s (Machine.opPortRelease t) := by
  unfold Machine.opPortRelease
  try dsimp only
  repeat' with_reducible first | exact h | (apply keeps_mk; first | exact h)


theorem keeps_flrQueues (f : Nat) (h : Keeps s t) : Keeps s (Machine.flrQueues t f) := by
  unfold Machine.flrQueues
  try dsimp only
  repeat' with_reducible first | exact h | exact Keeps.refl _ | apply keeps_queueReset | apply keeps_setReg | apply keeps_setRegF | apply Keeps.foldl | apply Keeps.foldl1 | intro _


theorem keeps_flrEngine (f : Nat) (e : Nat) (h : Keeps s t) : Keeps s (Machine.flrEngine t f e) := by
  unfold Machine.flrEngine
  try dsimp only
  repeat' with_reducible first | exact h | apply keeps_finishQueued | apply keeps_dropQueued | apply keeps_setEng | apply Keeps.ite | split | (apply keeps_mk; first | exact h | apply keeps_finishQueued | apply keeps_dropQueued | apply keeps_setEng | apply Keeps.ite | split)


theorem keeps_flrCore (f : Nat) (core : Nat) (h : Keeps s t) : Keeps s (Machine.flrCore t f core) := by
  unfold Machine.flrCore
  try dsimp only
  repeat' with_reducible first | exact h | exact Keeps.refl _ | apply keeps_haltCtx | apply keeps_unbindJob | apply keeps_wipe | apply keeps_suspBit | apply keeps_releaseOf | apply keeps_wipeCoreWins | apply Keeps.ite | apply Keeps.foldl | apply Keeps.foldl1 | intro _ | split | (apply keeps_mk; first | exact h | exact Keeps.refl _ | apply keeps_haltCtx | apply keeps_unbindJob | apply keeps_wipe | apply keeps_suspBit | apply keeps_releaseOf | apply keeps_wipeCoreWins | apply Keeps.ite | apply Keeps.foldl | apply Keeps.foldl1 | split)


theorem keeps_flrMemory (f : Nat) (h : Keeps s t) : Keeps s (Machine.flrMemory t f) := by
  unfold Machine.flrMemory
  try dsimp only
  repeat' with_reducible first | exact h | exact Keeps.refl _ | apply keeps_wipe | apply keeps_wipeCluWins | apply Keeps.ite | apply Keeps.foldl | apply Keeps.foldl1 | intro _ | split


theorem keeps_opFlr (f : Nat) (h : Keeps s t) : Keeps s (Machine.opFlr t f) := by
  unfold Machine.opFlr
  try dsimp only
  repeat' with_reducible first | exact h | exact Keeps.refl _ | apply keeps_setRegF | apply keeps_flrQueues | apply keeps_bump | apply keeps_flrEngine | apply keeps_flrCore | apply keeps_flrUpdates | apply keeps_flrStage | apply keeps_flrGxe | apply keeps_rsAbandon | apply keeps_flrMemory | apply Keeps.ite | apply Keeps.foldl | apply Keeps.foldl1 | intro _ | split | (apply keeps_mk; first | exact h | exact Keeps.refl _ | apply keeps_setRegF | apply keeps_flrQueues | apply keeps_bump | apply keeps_flrEngine | apply keeps_flrCore | apply keeps_flrUpdates | apply keeps_flrStage | apply keeps_flrGxe | apply keeps_rsAbandon | apply keeps_flrMemory | apply Keeps.ite | apply Keeps.foldl | apply Keeps.foldl1 | split)


theorem keeps_opFlrDone (f : Nat) (h : Keeps s t) : Keeps s (Machine.opFlrDone t f) := by
  unfold Machine.opFlrDone
  try dsimp only
  repeat' with_reducible first | exact h | apply keeps_setRegF


theorem keeps_opLinkReset (dir : Nat) (h : Keeps s t) : Keeps s (Machine.opLinkReset t dir) := by
  unfold Machine.opLinkReset
  try dsimp only
  repeat' with_reducible first | exact h | apply keeps_linkResetDir | apply keeps_bump | apply Keeps.ite | split


theorem keeps_opFabricOpen  (h : Keeps s t) : Keeps s (Machine.opFabricOpen t) := by
  unfold Machine.opFabricOpen
  try dsimp only
  repeat' with_reducible first | exact h | exact Keeps.refl _ | apply keeps_raiseErr | apply keeps_setReg | apply Keeps.ite | apply Keeps.foldl | apply Keeps.foldl1 | intro _ | split | (apply keeps_mk; first | exact h | exact Keeps.refl _ | apply keeps_raiseErr | apply keeps_setReg | apply Keeps.ite | apply Keeps.foldl | apply Keeps.foldl1 | split)


theorem keeps_checkRoles  (h : Keeps s t) : Keeps s (Machine.checkRoles t) := by
  unfold Machine.checkRoles
  try dsimp only
  repeat' with_reducible first | exact h | apply keeps_raiseErr | apply Keeps.ite | split | (apply keeps_mk; first | exact h | apply keeps_raiseErr | apply Keeps.ite | split)


theorem keeps_limitDir (dir : Nat) (h : Keeps s t) : Keeps s (Machine.limitDir t dir) := by
  unfold Machine.limitDir
  try dsimp only
  repeat' with_reducible first | exact h | apply keeps_linkOff | apply keeps_narrowDir | apply Keeps.ite | split


theorem keeps_opLaneFail (bridge : Nat) (bundle : Nat) (lane : Nat) (h : Keeps s t) : Keeps s (Machine.opLaneFail t bridge bundle lane) := by
  unfold Machine.opLaneFail
  try dsimp only
  repeat' with_reducible first | exact h | apply keeps_raiseErr | apply keeps_bump | apply keeps_setRegF | apply keeps_checkRoles | apply keeps_limitDir | apply Keeps.ite | split | (apply keeps_mk; first | exact h | apply keeps_raiseErr | apply keeps_bump | apply keeps_setRegF | apply keeps_checkRoles | apply keeps_limitDir | apply Keeps.ite | split)


theorem keeps_opUnitCrc (bridge : Nat) (bundle : Nat) (lane : Nat) (h : Keeps s t) : Keeps s (Machine.opUnitCrc t bridge bundle lane) := by
  unfold Machine.opUnitCrc
  try dsimp only
  repeat' with_reducible first | exact h | apply keeps_opLaneFail | apply Keeps.ite | split | (apply keeps_mk; first | exact h | apply keeps_opLaneFail | apply Keeps.ite | split)


theorem keeps_opDispatch (q : Nat) (bytes : List Byte) (h : Keeps s t) : Keeps s (Machine.opDispatch t q bytes) := by
  unfold Machine.opDispatch
  try dsimp only
  repeat' with_reducible first | exact h | apply keeps_setHq | apply keeps_hostComplete | apply keeps_enqueue | apply Keeps.ite | split | (apply keeps_mk; first | exact h | apply keeps_setHq | apply keeps_hostComplete | apply keeps_enqueue | apply Keeps.ite | split)


theorem keeps_traceIssue (core : Nat) (x : Nat) (engine : Nat) (op : Nat) (h : Keeps s t) : Keeps s (Machine.traceIssue t core x engine op) := by
  unfold Machine.traceIssue
  try dsimp only
  repeat' with_reducible first | exact h | apply keeps_trcEmit | apply Keeps.ite | split


theorem keeps_opIssue (core : Nat) (x : Nat) (engine : Nat) (op : Nat) (ra : Nat) (h : Keeps s t) : Keeps s (Machine.opIssue t core x engine op ra) := by
  unfold Machine.opIssue
  try dsimp only
  repeat' with_reducible first | exact h | exact Keeps.refl _ | apply keeps_instr | apply keeps_haltCtx | apply keeps_uncorrScratch | apply keeps_traceIssue | apply keeps_setCtx | apply keeps_enqueue | apply Keeps.ite | intro _ | split | (apply keeps_mk; first | exact h | exact Keeps.refl _ | apply keeps_instr | apply keeps_haltCtx | apply keeps_uncorrScratch | apply keeps_traceIssue | apply keeps_setCtx | apply keeps_enqueue | apply Keeps.ite | split)


theorem keeps_opIssueRelease (core : Nat) (x : Nat) (h : Keeps s t) : Keeps s (Machine.opIssueRelease t core x) := by
  unfold Machine.opIssueRelease
  try dsimp only
  repeat' with_reducible first | exact h | apply keeps_setCtx | apply keeps_haltCtx | apply keeps_enqueue | apply Keeps.ite | split | (apply keeps_mk; first | exact h | apply keeps_setCtx | apply keeps_haltCtx | apply keeps_enqueue | apply Keeps.ite | split)


theorem keeps_takeShadow (r : RCmd) (h : Keeps s t) : Keeps s (Machine.takeShadow t r) := by
  unfold Machine.takeShadow
  try dsimp only
  repeat' with_reducible first | exact h | apply keeps_setMxa | apply Keeps.ite | split | (apply keeps_mk; first | exact h | apply keeps_setMxa | apply Keeps.ite | split)


theorem keeps_opStart (e : Nat) (met : Decay) (h : Keeps s t) : Keeps s (Machine.opStart t e met) := by
  unfold Machine.opStart
  try dsimp only
  repeat' with_reducible first | exact h | exact Keeps.refl _ | apply keeps_setEng | apply keeps_decay | apply keeps_bump | apply keeps_takeShadow | apply Keeps.ite | apply Keeps.foldl | apply Keeps.foldl1 | intro _ | split | (apply keeps_mk; first | exact h | exact Keeps.refl _ | apply keeps_setEng | apply keeps_decay | apply keeps_bump | apply keeps_takeShadow | apply Keeps.ite | apply Keeps.foldl | apply Keeps.foldl1 | split)


theorem keeps_opComplete (e : Nat) (id : Nat) (h : Keeps s t) : Keeps s (Machine.opComplete t e id) := by
  unfold Machine.opComplete
  try dsimp only
  repeat' with_reducible first | exact h | apply keeps_setEng | apply keeps_syncPost | apply keeps_bump | apply keeps_mxaAfterEnd | apply keeps_hostComplete | apply keeps_haltCtx | apply Keeps.ite | split | (apply keeps_mk; first | exact h | apply keeps_setEng | apply keeps_syncPost | apply keeps_bump | apply keeps_mxaAfterEnd | apply keeps_hostComplete | apply keeps_haltCtx | apply Keeps.ite | split)


theorem keeps_opSpillResume (e : Nat) (id : Nat) (h : Keeps s t) : Keeps s (Machine.opSpillResume t e id) := by
  unfold Machine.opSpillResume
  try dsimp only
  repeat' with_reducible first | exact h | apply keeps_resumeMxa | apply keeps_resumeGmv | apply Keeps.ite | split


theorem keeps_readReg (fn : Nat) (page : Nat) (off : Nat) (h : Keeps s t) : Keeps s (Machine.readReg t fn page off).2 := by
  unfold Machine.readReg
  try dsimp only
  repeat' with_reducible first | exact h | apply keeps_draw | apply Keeps.ite | split


theorem keeps_violation (fn : Nat) (bar : Nat) (off : Nat) (len : Nat) (write : Bool) (b : Nat) (h : Keeps s t) : Keeps s (Machine.violation t fn bar off len write b) := by
  unfold Machine.violation
  try dsimp only
  repeat' with_reducible first | exact h | apply keeps_raiseErr | apply Keeps.ite | split


theorem keeps_enableQueue (q : Nat) (h : Keeps s t) : Keeps s (Machine.enableQueue t q) := by
  unfold Machine.enableQueue
  try dsimp only
  repeat' with_reducible first | exact h | apply keeps_setHq | apply keeps_stopQueue | apply Keeps.ite | split


theorem keeps_opQueueCtrl (q : Nat) (v : Nat) (h : Keeps s t) : Keeps s (Machine.opQueueCtrl t q v) := by
  unfold Machine.opQueueCtrl
  try dsimp only
  repeat' with_reducible first | exact h | apply keeps_setReg | apply keeps_queueReset | apply keeps_enableQueue | apply keeps_setHq | apply Keeps.ite | split | (apply keeps_mk; first | exact h | apply keeps_setReg | apply keeps_queueReset | apply keeps_enableQueue | apply keeps_setHq | apply Keeps.ite | split)


theorem keeps_opDrainDone (q : Nat) (h : Keeps s t) : Keeps s (Machine.opDrainDone t q) := by
  unfold Machine.opDrainDone
  try dsimp only
  repeat' with_reducible first | exact h | apply keeps_setReg | apply keeps_setHq | apply Keeps.ite | split | (apply keeps_mk; first | exact h | apply keeps_setReg | apply keeps_setHq | apply Keeps.ite | split)


theorem keeps_dropBell (q : Nat) (fn : Nat) (off : Nat) (h : Keeps s t) : Keeps s (Machine.dropBell t q fn off) := by
  unfold Machine.dropBell
  try dsimp only
  repeat' with_reducible first | exact h | apply keeps_raiseErr


theorem keeps_bellWake  (h : Keeps s t) : Keeps s (Machine.bellWake t) := by
  unfold Machine.bellWake
  try dsimp only
  repeat' with_reducible first | exact h | apply Keeps.ite | split | (apply keeps_mk; first | exact h | apply Keeps.ite | split)


theorem keeps_bellTail (fn : Nat) (slot : Nat) (v : Nat) (h : Keeps s t) : Keeps s (Machine.bellTail t fn slot v) := by
  unfold Machine.bellTail
  try dsimp only
  repeat' with_reducible first | exact h | apply keeps_bellWake | apply keeps_dropBell | apply keeps_stopQueue | apply keeps_setHq | apply Keeps.ite | split | (apply keeps_mk; first | exact h | apply keeps_bellWake | apply keeps_dropBell | apply keeps_stopQueue | apply keeps_setHq | apply Keeps.ite | split)


theorem keeps_bellHead (fn : Nat) (slot : Nat) (v : Nat) (h : Keeps s t) : Keeps s (Machine.bellHead t fn slot v) := by
  unfold Machine.bellHead
  try dsimp only
  repeat' with_reducible first | exact h | apply keeps_bellWake | apply keeps_dropBell | apply keeps_stopQueue | apply keeps_setHq | apply Keeps.ite | split | (apply keeps_mk; first | exact h | apply keeps_bellWake | apply keeps_dropBell | apply keeps_stopQueue | apply keeps_setHq | apply Keeps.ite | split)


theorem keeps_opRingFailed (q : Nat) (completion : Bool) (h : Keeps s t) : Keeps s (Machine.opRingFailed t q completion) := by
  unfold Machine.opRingFailed
  try dsimp only
  repeat' with_reducible first | exact h | apply keeps_setHq | apply keeps_stopQueue | apply Keeps.ite | split | (apply keeps_mk; first | exact h | apply keeps_setHq | apply keeps_stopQueue | apply Keeps.ite | split)


theorem keeps_opCoalTime (q : Nat) (h : Keeps s t) : Keeps s (Machine.opCoalTime t q) := by
  unfold Machine.opCoalTime
  try dsimp only
  repeat' with_reducible first | exact h | apply keeps_signal | apply keeps_setHq | apply Keeps.ite | split | (apply keeps_mk; first | exact h | apply keeps_signal | apply keeps_setHq | apply Keeps.ite | split)


theorem keeps_opQueueRange (f : Nat) (v : Nat) (h : Keeps s t) : Keeps s (Machine.opQueueRange t f v) := by
  unfold Machine.opQueueRange
  try dsimp only
  repeat' with_reducible first | exact h | apply keeps_raiseErr | apply keeps_setReg | apply Keeps.ite | split


theorem keeps_opEvtCfg (f : Nat) (v : Nat) (h : Keeps s t) : Keeps s (Machine.opEvtCfg t f v) := by
  unfold Machine.opEvtCfg
  try dsimp only
  repeat' with_reducible first | exact h | apply keeps_overflowRecord | apply keeps_setReg | apply keeps_payOwed | apply Keeps.ite | split


theorem keeps_opEvtHead (f : Nat) (v : Nat) (h : Keeps s t) : Keeps s (Machine.opEvtHead t f v) := by
  unfold Machine.opEvtHead
  try dsimp only
  repeat' with_reducible first | exact h | apply keeps_overflowRecord | apply keeps_setReg


theorem keeps_writeJob (f : Nat) (off : Nat) (v : Nat) (h : Keeps s t) : Keeps s (Machine.writeJob t f off v) := by
  unfold Machine.writeJob
  try dsimp only
  repeat' with_reducible first | exact h | apply keeps_opQueueRange | apply keeps_opEvtCfg | apply keeps_opEvtHead | apply keeps_setReg | apply keeps_opJobCtrl | apply keeps_opJobRegions | apply keeps_opJobSlow | apply keeps_opJobCores | apply keeps_opJobMem | apply Keeps.ite | split


theorem keeps_storeReg (b : Blk) (page : Nat) (off : Nat) (v : Nat) (h : Keeps s t) : Keeps s (Machine.storeReg t b page off v) := by
  unfold Machine.storeReg
  try dsimp only
  repeat' with_reducible first | exact h | apply keeps_setReg | apply keeps_rewritten | apply Keeps.ite | split


theorem keeps_storeIf (p : Bool) (b : Blk) (page : Nat) (off : Nat) (v : Nat) (h : Keeps s t) : Keeps s (Machine.storeIf p t b page off v) := by
  unfold Machine.storeIf
  try dsimp only
  repeat' with_reducible first | exact h | apply keeps_storeReg | apply Keeps.ite | split


theorem keeps_writePwrState (v : Nat) (h : Keeps s t) : Keeps s (Machine.writePwrState t v) := by
  unfold Machine.writePwrState
  try dsimp only
  repeat' with_reducible first | exact h | apply keeps_setReg | apply keeps_opS0 | apply keeps_opS1 | apply keeps_opS2 | apply keeps_enterS3 | apply Keeps.ite | split


theorem keeps_writePwr (off : Nat) (v : Nat) (h : Keeps s t) : Keeps s (Machine.writePwr t off v) := by
  unfold Machine.writePwr
  try dsimp only
  repeat' with_reducible first | exact h | apply keeps_storeIf | apply keeps_opPlevel | apply keeps_writePwrState | apply keeps_setRegF | apply keeps_storeReg | apply Keeps.ite | split


theorem keeps_writeRst (v : Nat) (h : Keeps s t) : Keeps s (Machine.writeRst t v) := by
  unfold Machine.writeRst
  try dsimp only
  repeat' with_reducible first | exact h | exact Keeps.refl _ | apply keeps_opFabricOpen | apply keeps_opLinkReset | apply keeps_askWarm | apply Keeps.ite | apply Keeps.foldl | apply Keeps.foldl1 | intro _ | split | (apply keeps_mk; first | exact h | exact Keeps.refl _ | apply keeps_opFabricOpen | apply keeps_opLinkReset | apply keeps_askWarm | apply Keeps.ite | apply Keeps.foldl | apply Keeps.foldl1 | split)


theorem keeps_writeSec (v : Nat) (h : Keeps s t) : Keeps s (Machine.writeSec t v) := by
  unfold Machine.writeSec
  try dsimp only
  repeat' with_reducible first | exact h | apply keeps_opSvnCommit | apply keeps_opRevoke | apply Keeps.ite | split


theorem keeps_writeLcsCtrl (v : Nat) (h : Keeps s t) : Keeps s (Machine.writeLcsCtrl t v) := by
  unfold Machine.writeLcsCtrl
  try dsimp only
  repeat' with_reducible first | exact h | apply keeps_setRegF | apply Keeps.ite | split


theorem keeps_clearCtr (page : Nat) (i : Nat) (h : Keeps s t) : Keeps s (Machine.clearCtr t page i) := by
  unfold Machine.clearCtr
  try dsimp only
  repeat' with_reducible first | exact h | apply Keeps.ite | split | (apply keeps_mk; first | exact h | apply Keeps.ite | split)


theorem keeps_writeCntClear (v : Nat) (h : Keeps s t) : Keeps s (Machine.writeCntClear t v) := by
  unfold Machine.writeCntClear
  try dsimp only
  repeat' with_reducible first | exact h | exact Keeps.refl _ | apply keeps_clearCtr | apply Keeps.ite | apply Keeps.foldl | apply Keeps.foldl1 | intro _ | split


theorem keeps_writeTraceCtrl (v : Nat) (h : Keeps s t) : Keeps s (Machine.writeTraceCtrl t v) := by
  unfold Machine.writeTraceCtrl
  try dsimp only
  repeat' with_reducible first | exact h | apply keeps_setRegF | apply keeps_freezeTrace | apply keeps_releaseTrace | apply Keeps.ite | split


theorem keeps_writeCnt (off : Nat) (v : Nat) (h : Keeps s t) : Keeps s (Machine.writeCnt t off v) := by
  unfold Machine.writeCnt
  try dsimp only
  repeat' with_reducible first | exact h | apply keeps_writeCntClear | apply keeps_writeTraceCtrl | apply keeps_storeIf | apply keeps_storeReg | apply Keeps.ite | split


theorem keeps_writePse (r : Nat) (off : Nat) (v : Nat) (h : Keeps s t) : Keeps s (Machine.writePse t r off v) := by
  unfold Machine.writePse
  try dsimp only
  repeat' with_reducible first | exact h | apply keeps_opStageCfg | apply keeps_storeIf | apply Keeps.ite | split


theorem keeps_writeCor (core : Nat) (off : Nat) (v : Nat) (h : Keeps s t) : Keeps s (Machine.writeCor t core off v) := by
  unfold Machine.writeCor
  try dsimp only
  repeat' with_reducible first | exact h | apply keeps_storeIf | apply Keeps.ite | split


theorem keeps_writeChn (core : Nat) (off : Nat) (v : Nat) (h : Keeps s t) : Keeps s (Machine.writeChn t core off v) := by
  unfold Machine.writeChn
  try dsimp only
  repeat' with_reducible first | exact h | apply keeps_storeIf | apply keeps_opOutCfg | apply keeps_opInCfg | apply Keeps.ite | split


theorem keeps_writeTrc (core : Nat) (off : Nat) (v : Nat) (h : Keeps s t) : Keeps s (Machine.writeTrc t core off v) := by
  unfold Machine.writeTrc
  try dsimp only
  repeat' with_reducible first | exact h | apply keeps_storeReg | apply keeps_storeIf | apply Keeps.ite | split


theorem keeps_writeDig (r : Nat) (off : Nat) (v : Nat) (h : Keeps s t) : Keeps s (Machine.writeDig t r off v) := by
  unfold Machine.writeDig
  try dsimp only
  repeat' with_reducible first | exact h | apply keeps_storeReg | apply Keeps.ite | split


theorem keeps_writeLnk (dir : Nat) (off : Nat) (v : Nat) (h : Keeps s t) : Keeps s (Machine.writeLnk t dir off v) := by
  unfold Machine.writeLnk
  try dsimp only
  repeat' with_reducible first | exact h | exact Keeps.refl _ | apply keeps_opLnkCfg | apply keeps_storeIf | apply keeps_storeReg | apply Keeps.ite | apply Keeps.foldl | apply Keeps.foldl1 | intro _ | split


theorem keeps_writeTor (off : Nat) (v : Nat) (h : Keeps s t) : Keeps s (Machine.writeTor t off v) := by
  unfold Machine.writeTor
  try dsimp only
  repeat' with_reducible first | exact h | apply keeps_opTorCoord | apply keeps_opJbox | apply keeps_storeIf | apply keeps_opTorAbsent | apply keeps_setRegF | apply Keeps.ite | split


theorem keeps_writeHqu (g : Nat) (off : Nat) (v : Nat) (h : Keeps s t) : Keeps s (Machine.writeHqu t g off v) := by
  unfold Machine.writeHqu
  try dsimp only
  repeat' with_reducible first | exact h | apply keeps_opQueueCtrl | apply keeps_storeIf | apply Keeps.ite | split


theorem keeps_writeGxe (off : Nat) (v : Nat) (h : Keeps s t) : Keeps s (Machine.writeGxe t off v) := by
  unfold Machine.writeGxe
  try dsimp only
  repeat' with_reducible first | exact h | apply keeps_gxeCfgWrite | apply Keeps.ite | split


theorem keeps_writeBlk (b : Blk) (i : Nat) (page : Nat) (off : Nat) (v : Nat) (h : Keeps s t) : Keeps s (Machine.writeBlk t b i page off v) := by
  unfold Machine.writeBlk
  try dsimp only
  repeat' with_reducible first | exact h | apply keeps_writePwr | apply keeps_storeIf | apply keeps_writeRst | apply keeps_writeSec | apply keeps_writeLcsCtrl | apply keeps_storeReg | apply keeps_writeHqu | apply keeps_writeJob | apply keeps_opCxlBase | apply keeps_opGdrCfg | apply keeps_writeCnt | apply keeps_opMemIlv | apply keeps_opMemEcc | apply keeps_opTgcCfg | apply keeps_opTgcReg | apply keeps_opCluWindow | apply keeps_writePse | apply keeps_writeCor | apply keeps_opInject | apply keeps_writeChn | apply keeps_writeTrc | apply keeps_writeDig | apply keeps_writeLnk | apply keeps_writeTor | apply keeps_writeGxe | apply Keeps.ite | split


theorem keeps_writePage (fn : Nat) (page : Nat) (off : Nat) (v : Nat) (h : Keeps s t) : Keeps s (Machine.writePage t fn page off v) := by
  unfold Machine.writePage
  try dsimp only
  repeat' with_reducible first | exact h | apply keeps_setReg | apply keeps_writeBlk | apply Keeps.ite | split | (apply keeps_mk; first | exact h | apply keeps_setReg | apply keeps_writeBlk | apply Keeps.ite | split)


theorem keeps_writeMsix (fn : Nat) (w : Nat) (v : Nat) (h : Keeps s t) : Keeps s (Machine.writeMsix t fn w v) := by
  unfold Machine.writeMsix
  try dsimp only
  repeat' with_reducible first | exact h | apply Keeps.ite | split | (apply keeps_mk; first | exact h | apply Keeps.ite | split)


theorem keeps_writeBar2 (fn : Nat) (off : Nat) (v : Nat) (h : Keeps s t) : Keeps s (Machine.writeBar2 t fn off v) := by
  unfold Machine.writeBar2
  try dsimp only
  repeat' with_reducible first | exact h | apply keeps_bellTail | apply keeps_bellHead | apply keeps_writeMsix | apply Keeps.ite | split


theorem keeps_mmioWrite (fn : Nat) (bar : Nat) (off : Nat) (len : Nat) (v : Nat) (h : Keeps s t) : Keeps s (Machine.mmioWrite t fn bar off len v) := by
  unfold Machine.mmioWrite
  try dsimp only
  repeat' with_reducible first | exact h | apply keeps_violation | apply keeps_writeBar2 | apply keeps_writePage | apply Keeps.ite | split


theorem keeps_hostWrite (fn : Nat) (page : Nat) (off : Nat) (v : Nat) (h : Keeps s t) : Keeps s (Machine.hostWrite t fn page off v) := by
  unfold Machine.hostWrite
  try dsimp only
  repeat' with_reducible first | exact h | apply keeps_mmioWrite


theorem keeps_opViolatingRead (fn : Nat) (bar : Nat) (off : Nat) (len : Nat) (h : Keeps s t) : Keeps s (Machine.opViolatingRead t fn bar off len) := by
  unfold Machine.opViolatingRead
  try dsimp only
  repeat' with_reducible first | exact h | apply keeps_violation | apply Keeps.ite | split | (apply keeps_mk; first | exact h | apply keeps_violation | apply Keeps.ite | split)


theorem keeps_sideband (f : State → State) (hf : ∀ u, Keeps u (f u)) (h : Keeps s t) : Keeps s (Machine.sideband t f) := by
  unfold Machine.sideband live
  split
  · exact h
  · exact (keeps_bump _ _ _ h).trans (hf _)

theorem keeps_opReadReg (args : List Byte) (h : Keeps s t) : Keeps s (Machine.opReadReg t args) := by
  unfold Machine.opReadReg
  try dsimp only
  repeat' with_reducible first | exact h | exact Keeps.refl _ | apply keeps_sideband | apply keeps_answer | apply keeps_readReg | apply Keeps.ite | intro _ | split


theorem keeps_opReadLog (args : List Byte) (h : Keeps s t) : Keeps s (Machine.opReadLog t args) := by
  unfold Machine.opReadLog
  try dsimp only
  repeat' with_reducible first | exact h | exact Keeps.refl _ | apply keeps_sideband | apply keeps_answer | apply Keeps.ite | intro _ | split


theorem keeps_opWarmSide (u1 : StartUp) (h : Keeps s t) : Keeps s (Machine.opWarmSide t u1) := by
  unfold Machine.opWarmSide
  try dsimp only
  repeat' with_reducible first | exact h | exact Keeps.refl _ | apply keeps_sideband | apply keeps_answer | apply keeps_askWarm | intro _


theorem keeps_opPowerOff  (h : Keeps s t) : Keeps s (Machine.opPowerOff t) := by
  unfold Machine.opPowerOff
  try dsimp only
  repeat' with_reducible first | exact h | exact Keeps.refl _ | apply keeps_sideband | apply keeps_answer | apply keeps_enterS3 | intro _


theorem keeps_opTraceFreeze  (h : Keeps s t) : Keeps s (Machine.opTraceFreeze t) := by
  unfold Machine.opTraceFreeze
  try dsimp only
  repeat' with_reducible first | exact h | exact Keeps.refl _ | apply keeps_sideband | apply keeps_answer | apply keeps_freezeTrace | intro _


theorem keeps_opTraceRelease (u1 : StartUp) (h : Keeps s t) : Keeps s (Machine.opTraceRelease t u1) := by
  unfold Machine.opTraceRelease
  try dsimp only
  repeat' with_reducible first | exact h | exact Keeps.refl _ | apply keeps_sideband | apply keeps_answer | apply keeps_releaseTrace | apply Keeps.ite | intro _ | split


theorem keeps_opTraceDump (args : List Byte) (h : Keeps s t) : Keeps s (Machine.opTraceDump t args) := by
  unfold Machine.opTraceDump
  try dsimp only
  repeat' with_reducible first | exact h | exact Keeps.refl _ | apply keeps_sideband | apply keeps_answer | apply Keeps.ite | intro _ | split


theorem keeps_opSideBad (op : Nat) (args : List Byte) (h : Keeps s t) : Keeps s (Machine.opSideBad t op args) := by
  unfold Machine.opSideBad
  try dsimp only
  repeat' with_reducible first | exact h | exact Keeps.refl _ | apply keeps_sideband | apply keeps_answer | apply Keeps.ite | intro _ | split


theorem keeps_dropPacket (k : Nat) (h : Keeps s t) : Keeps s (Machine.dropPacket t k) := by
  unfold Machine.dropPacket
  try dsimp only
  repeat' with_reducible first | exact h | exact Keeps.refl _ | apply keeps_draw | apply keeps_setTrace | apply keeps_trcPacket | apply keeps_trcSync | apply Keeps.ite | apply Keeps.foldl | apply Keeps.foldl1 | intro _ | split | (apply keeps_mk; first | exact h | exact Keeps.refl _ | apply keeps_draw | apply keeps_setTrace | apply keeps_trcPacket | apply keeps_trcSync | apply Keeps.ite | apply Keeps.foldl | apply Keeps.foldl1 | split)


theorem keeps_drainUnits (k : Nat) (ring : Nat) (size : Nat) (a0 : Nat) (h : Keeps s t) : Keeps s (Machine.drainUnits t k ring size a0) := by
  induction a0 generalizing t k ring size with
  | zero =>
    unfold Machine.drainUnits
    try dsimp only
    repeat' with_reducible first | exact h | apply keeps_wrFab | apply keeps_setTrace | apply Keeps.ite | split | (apply keeps_mk; first | exact h | apply keeps_wrFab | apply keeps_setTrace | apply Keeps.ite | split)
  | succ _ ih =>
    unfold Machine.drainUnits
    try dsimp only
    repeat' with_reducible first | exact h | apply ih | apply keeps_wrFab | apply keeps_setTrace | apply Keeps.ite | split | (apply keeps_mk; first | exact h | apply keeps_wrFab | apply keeps_setTrace | apply Keeps.ite | split)

theorem keeps_opTraceDrain (k : Nat) (h : Keeps s t) : Keeps s (Machine.opTraceDrain t k) := by
  unfold Machine.opTraceDrain
  try dsimp only
  repeat' with_reducible first | exact h | apply keeps_dropPacket | apply keeps_drainUnits | apply Keeps.ite | split


theorem keeps_opJtag (i : Nat) (h : Keeps s t) : Keeps s (Machine.opJtag t i) := by
  unfold Machine.opJtag
  try dsimp only
  repeat' with_reducible first | exact h | apply keeps_answer | apply Keeps.ite | split | (apply keeps_mk; first | exact h | apply keeps_answer | apply Keeps.ite | split)


end Sys2Proof.Laws
end

