-- ==== Sys2Proof/Laws/KeepStep.lean ====
section
/-! SUPPORT. What every command keeps: its effect leaves the queue, the canonical form and the fuses as the operations it
is made of do. -/
namespace Sys2Proof.Laws
open Sys2Proof.Machine

variable {s t : State}

theorem keeps_onHub {f : State → State} (hf : ∀ u, Keeps u (f u)) (h : Keeps s t) : Keeps s (onHub t f) :=
  Keeps.ite h (h.trans (hf _))

theorem keeps_live {f : State → State} (hf : ∀ u, Keeps u (f u)) (h : Keeps s t) : Keeps s (live t f) :=
  Keeps.ite h (h.trans (hf _))

theorem keeps_served {f : State → State} (hf : ∀ u, Keeps u (f u)) (h : Keeps s t) : Keeps s (served t f) :=
  Keeps.ite (h.trans (hf _)) h

theorem keeps_acting {d : Nat} {f : State → State} (hf : ∀ u, Keeps u (f u)) (h : Keeps s t) :
    Keeps s (acting t d f) := by
  have k := hf (setDie t (d + 1))
  refine Keeps.ite h ⟨k.pending.trans h.pending, fun _ => rfl, fun x => k.mem (h.mem x), fun x => k.regs (h.regs x),
    fun x => k.bad (h.bad x), h.fuses.trans k.fuses⟩

theorem keeps_onCore {d : Nat} {f : State → State} (hf : ∀ u, Keeps u (f u)) (h : Keeps s t) :
    Keeps s (onCore t d f) := keeps_acting hf h

theorem keeps_onRegion {d : Nat} {f : State → State} (hf : ∀ u, Keeps u (f u)) (h : Keeps s t) :
    Keeps s (onRegion t d f) := keeps_acting hf h

theorem keeps_onExchange {f : State → State} (hf : ∀ u, Keeps u (f u)) (h : Keeps s t) :
    Keeps s (onExchange t f) := keeps_acting hf h

/-- The command answers a next state, which keeps what the queue, the canonical form and the fuses ask. -/
def KeptBy (s : State) (o : Host.Outcome State Fault Refusal) : Prop := ∃ t, o = .next t ∧ Keeps s t

theorem kept_effect {f : State → State} (hf : Keeps s (f s)) : KeptBy s (effect s f) :=
  ⟨_, rfl, hf.rest (hf.pending ▸ rfl) rfl rfl rfl rfl rfl⟩

theorem kept_registerWrite (fn bar off len : Nat) (val : W64) : KeptBy s (execRegisterWrite fn bar off len val s) := by
  refine kept_effect ?_
  repeat' with_reducible first | exact Keeps.refl _ | apply keeps_mmioWrite | intro _

theorem kept_errStatusClear (fn page : Nat) (ones : W64) : KeptBy s (execErrStatusClear fn page ones s) := by
  refine kept_effect ?_
  repeat' with_reducible first | exact Keeps.refl _ | apply keeps_hostWrite | intro _

theorem kept_jobQueueRangeWrite (fn f : Nat) (val : W64) : KeptBy s (execJobQueueRangeWrite fn f val s) := by
  refine kept_effect ?_
  repeat' with_reducible first | exact Keeps.refl _ | apply keeps_hostWrite | intro _

theorem kept_jobEvtHeadWrite (fn f : Nat) (val : W64) : KeptBy s (execJobEvtHeadWrite fn f val s) := by
  refine kept_effect ?_
  repeat' with_reducible first | exact Keeps.refl _ | apply keeps_hostWrite | intro _

theorem kept_queueEnable (fn q : Nat) : KeptBy s (execQueueEnable fn q s) := by
  refine kept_effect ?_
  repeat' with_reducible first | exact Keeps.refl _ | apply keeps_hostWrite | intro _

theorem kept_queueDisable (fn q : Nat) : KeptBy s (execQueueDisable fn q s) := by
  refine kept_effect ?_
  repeat' with_reducible first | exact Keeps.refl _ | apply keeps_hostWrite | intro _

theorem kept_qreset (fn q : Nat) : KeptBy s (execQreset fn q s) := by
  refine kept_effect ?_
  repeat' with_reducible first | exact Keeps.refl _ | apply keeps_hostWrite | intro _

theorem kept_queueDrainDone (q : Nat) : KeptBy s (execQueueDrainDone q s) := by
  refine kept_effect ?_
  repeat' with_reducible first | exact Keeps.refl _ | apply keeps_opDrainDone | apply keeps_live | intro _

theorem kept_doorbellSqTail (fn slot : Nat) (val : W64) : KeptBy s (execDoorbellSqTail fn slot val s) := by
  refine kept_effect ?_
  repeat' with_reducible first | exact Keeps.refl _ | apply keeps_mmioWrite | intro _

theorem kept_doorbellCqHead (fn slot : Nat) (val : W64) : KeptBy s (execDoorbellCqHead fn slot val s) := by
  refine kept_effect ?_
  repeat' with_reducible first | exact Keeps.refl _ | apply keeps_mmioWrite | intro _

theorem kept_commandDispatch (q : Nat) (bytes : List Byte) : KeptBy s (execCommandDispatch q bytes s) := by
  refine kept_effect ?_
  repeat' with_reducible first | exact Keeps.refl _ | apply keeps_opDispatch | apply keeps_live | intro _

theorem kept_ringAccessFailed (q : RingOf) : KeptBy s (execRingAccessFailed q s) := by
  refine kept_effect ?_
  repeat' with_reducible first | exact Keeps.refl _ | apply keeps_opRingFailed | apply keeps_live | intro _

theorem kept_coalTimeExpiry (q : Nat) : KeptBy s (execCoalTimeExpiry q s) := by
  refine kept_effect ?_
  repeat' with_reducible first | exact Keeps.refl _ | apply keeps_opCoalTime | apply keeps_live | intro _

theorem kept_engineCommandStart (eng : EngineStart) : KeptBy s (execEngineCommandStart eng s) := by
  refine kept_effect ?_
  repeat' with_reducible first | exact Keeps.refl _ | apply keeps_opStart | apply keeps_onHub | intro _

theorem kept_engineCommandComplete (eng id : Nat) : KeptBy s (execEngineCommandComplete eng id s) := by
  refine kept_effect ?_
  repeat' with_reducible first | exact Keeps.refl _ | apply keeps_opComplete | apply keeps_live | intro _

theorem kept_spillContributionResume (eng id : Nat) : KeptBy s (execSpillContributionResume eng id s) := by
  refine kept_effect ?_
  repeat' with_reducible first | exact Keeps.refl _ | apply keeps_opSpillResume | apply keeps_onRegion | intro _

theorem kept_violatingRead (fn bar off len : Nat) : KeptBy s (execViolatingRead fn bar off len s) := by
  refine kept_effect ?_
  repeat' with_reducible first | exact Keeps.refl _ | apply keeps_opViolatingRead | intro _

theorem kept_loadImem (core : Nat) (hostData : List Byte) : KeptBy s (execLoadImem core hostData s) := by
  refine kept_effect ?_
  repeat' with_reducible first | exact Keeps.refl _ | apply keeps_opLoadImem | apply keeps_onCore | intro _

theorem kept_startContext (core : Nat) : KeptBy s (execStartContext core s) := by
  refine kept_effect ?_
  repeat' with_reducible first | exact Keeps.refl _ | apply keeps_opStartContext | apply keeps_onCore | intro _

theorem kept_stopContext (core : Nat) : KeptBy s (execStopContext core s) := by
  refine kept_effect ?_
  repeat' with_reducible first | exact Keeps.refl _ | apply keeps_opStopContext | apply keeps_onCore | intro _

theorem kept_syncSet (core : Nat) : KeptBy s (execSyncSet core s) := by
  refine kept_effect ?_
  repeat' with_reducible first | exact Keeps.refl _ | apply keeps_opSyncSet | apply keeps_onCore | intro _

theorem kept_tileMove (core : Nat) : KeptBy s (execTileMove core s) := by
  refine kept_effect ?_
  repeat' with_reducible first | exact Keeps.refl _ | apply keeps_opTileMove | apply keeps_onCore | intro _

theorem kept_halt (core ctx : Nat) : KeptBy s (execHalt core ctx s) := by
  refine kept_effect ?_
  repeat' with_reducible first | exact Keeps.refl _ | apply keeps_opHalt | apply keeps_onCore | intro _

theorem kept_nop (core ctx : Nat) : KeptBy s (execNop core ctx s) := by
  refine kept_effect ?_
  repeat' with_reducible first | exact Keeps.refl _ | apply keeps_opNop | apply keeps_onCore | intro _

theorem kept_readtime (core ctx rd : Nat) : KeptBy s (execReadtime core ctx rd s) := by
  refine kept_effect ?_
  repeat' with_reducible first | exact Keeps.refl _ | apply keeps_opReadTime | apply keeps_onCore | intro _

theorem kept_readctx (core ctx rd : Nat) : KeptBy s (execReadctx core ctx rd s) := by
  refine kept_effect ?_
  repeat' with_reducible first | exact Keeps.refl _ | apply keeps_opReadCtx | apply keeps_onCore | intro _

theorem kept_integerRForm (core ctx : Nat) (op : IntOp) (rd ra rb : Nat) : KeptBy s (execIntegerRForm core ctx op rd ra rb s) := by
  refine kept_effect ?_
  repeat' with_reducible first | exact Keeps.refl _ | apply keeps_opIntR | apply keeps_onCore | intro _

theorem kept_integerIForm (core ctx : Nat) (op : IntOpI) (rd ra : Nat) (imm : BitVec 16) : KeptBy s (execIntegerIForm core ctx op rd ra imm s) := by
  refine kept_effect ?_
  repeat' with_reducible first | exact Keeps.refl _ | apply keeps_opIntI | apply keeps_onCore | intro _

theorem kept_scratchLoad (core ctx log2 rd ra : Nat) (imm : BitVec 16) : KeptBy s (execScratchLoad core ctx log2 rd ra imm s) := by
  refine kept_effect ?_
  repeat' with_reducible first | exact Keeps.refl _ | apply keeps_opLoad | apply keeps_onCore | intro _

theorem kept_scratchStore (core ctx log2 rs ra : Nat) (imm : BitVec 16) : KeptBy s (execScratchStore core ctx log2 rs ra imm s) := by
  refine kept_effect ?_
  repeat' with_reducible first | exact Keeps.refl _ | apply keeps_opStore | apply keeps_onCore | intro _

theorem kept_atomicLoad (core ctx : Nat) (wide : Bool) (rd ra : Nat) : KeptBy s (execAtomicLoad core ctx wide rd ra s) := by
  refine kept_effect ?_
  repeat' with_reducible first | exact Keeps.refl _ | apply keeps_opAtomicLoad | apply keeps_onCore | intro _

theorem kept_atomicStore (core ctx : Nat) (wide : Bool) (ra rb : Nat) : KeptBy s (execAtomicStore core ctx wide ra rb s) := by
  refine kept_effect ?_
  repeat' with_reducible first | exact Keeps.refl _ | apply keeps_opAtomicStore | apply keeps_onCore | intro _

theorem kept_addI (core ctx : Nat) (wide : Bool) (rd ra rb : Nat) : KeptBy s (execAddI core ctx wide rd ra rb s) := by
  refine kept_effect ?_
  repeat' with_reducible first | exact Keeps.refl _ | apply keeps_opAtomicAdd | apply keeps_onCore | intro _

theorem kept_addF32 (core ctx rd ra rb : Nat) : KeptBy s (execAddF32 core ctx rd ra rb s) := by
  refine kept_effect ?_
  repeat' with_reducible first | exact Keeps.refl _ | apply keeps_opAtomicAddF | apply keeps_onCore | intro _

theorem kept_atomicMin (core ctx : Nat) (k : MmKind) (rd ra rb : Nat) : KeptBy s (execAtomicMin core ctx k rd ra rb s) := by
  refine kept_effect ?_
  repeat' with_reducible first | exact Keeps.refl _ | apply keeps_opAtomicMin | apply keeps_onCore | intro _

theorem kept_atomicMax (core ctx : Nat) (k : MmKind) (rd ra rb : Nat) : KeptBy s (execAtomicMax core ctx k rd ra rb s) := by
  refine kept_effect ?_
  repeat' with_reducible first | exact Keeps.refl _ | apply keeps_opAtomicMax | apply keeps_onCore | intro _

theorem kept_cas (core ctx : Nat) (wide : Bool) (rd ra rb : Nat) : KeptBy s (execCas core ctx wide rd ra rb s) := by
  refine kept_effect ?_
  repeat' with_reducible first | exact Keeps.refl _ | apply keeps_opCas | apply keeps_onCore | intro _

theorem kept_branch (core ctx : Nat) (c : Cond) (ra rb : Nat) (off : BitVec 16) : KeptBy s (execBranch core ctx c ra rb off s) := by
  refine kept_effect ?_
  repeat' with_reducible first | exact Keeps.refl _ | apply keeps_opBranch | apply keeps_onCore | intro _

theorem kept_jump (core ctx : Nat) (off : BitVec 16) : KeptBy s (execJump core ctx off s) := by
  refine kept_effect ?_
  repeat' with_reducible first | exact Keeps.refl _ | apply keeps_opJump | apply keeps_onCore | intro _

theorem kept_branchAndLink (core ctx : Nat) (off : BitVec 16) : KeptBy s (execBranchAndLink core ctx off s) := by
  refine kept_effect ?_
  repeat' with_reducible first | exact Keeps.refl _ | apply keeps_opBranchLink | apply keeps_onCore | intro _

theorem kept_jumpRegister (core ctx ra : Nat) : KeptBy s (execJumpRegister core ctx ra s) := by
  refine kept_effect ?_
  repeat' with_reducible first | exact Keeps.refl _ | apply keeps_opJumpReg | apply keeps_onCore | intro _

theorem kept_issue (core ctx engine op ra : Nat) : KeptBy s (execIssue core ctx engine op ra s) := by
  refine kept_effect ?_
  repeat' with_reducible first | exact Keeps.refl _ | apply keeps_opIssue | apply keeps_onCore | intro _

theorem kept_issueStallRelease (core ctx : Nat) : KeptBy s (execIssueStallRelease core ctx s) := by
  refine kept_effect ?_
  repeat' with_reducible first | exact Keeps.refl _ | apply keeps_opIssueRelease | apply keeps_onCore | intro _

theorem kept_syncwait (core ctx ra imm : Nat) : KeptBy s (execSyncwait core ctx ra imm s) := by
  refine kept_effect ?_
  repeat' with_reducible first | exact Keeps.refl _ | apply keeps_opSyncwait | apply keeps_onCore | intro _

theorem kept_syncwaitRelease (core ctx : Nat) : KeptBy s (execSyncwaitRelease core ctx s) := by
  refine kept_effect ?_
  repeat' with_reducible first | exact Keeps.refl _ | apply keeps_opSyncRelease | apply keeps_onCore | intro _

theorem kept_syncpost (core ctx ra imm : Nat) : KeptBy s (execSyncpost core ctx ra imm s) := by
  refine kept_effect ?_
  repeat' with_reducible first | exact Keeps.refl _ | apply keeps_opSyncpost | apply keeps_onCore | intro _

theorem kept_reservedOpcode (core ctx : Nat) : KeptBy s (execReservedOpcode core ctx s) := by
  refine kept_effect ?_
  repeat' with_reducible first | exact Keeps.refl _ | apply keeps_opReserved | apply keeps_onCore | intro _

theorem kept_scratchScrub (core addr : Nat) (o : Ecc) : KeptBy s (execScratchScrub core addr o s) := by
  refine kept_effect ?_
  repeat' with_reducible first | exact Keeps.refl _ | apply keeps_opScratchScrub | apply keeps_live | intro _

theorem kept_chnOutCfgWrite (fn core ch : Nat) (val : W64) : KeptBy s (execChnOutCfgWrite fn core ch val s) := by
  refine kept_effect ?_
  repeat' with_reducible first | exact Keeps.refl _ | apply keeps_hostWrite | intro _

theorem kept_chnInCfgWrite (fn core ch : Nat) (reel : Bool) (val : W64) : KeptBy s (execChnInCfgWrite fn core ch reel val s) := by
  refine kept_effect ?_
  repeat' with_reducible first | exact Keeps.refl _ | apply keeps_hostWrite | intro _ | split

theorem kept_chnSend (core : Nat) : KeptBy s (execChnSend core s) := by
  refine kept_effect ?_
  repeat' with_reducible first | exact Keeps.refl _ | apply keeps_opSend | apply keeps_onCore | intro _

theorem kept_chnRelease (core : Nat) : KeptBy s (execChnRelease core s) := by
  refine kept_effect ?_
  repeat' with_reducible first | exact Keeps.refl _ | apply keeps_opChnRelease | apply keeps_onCore | intro _

theorem kept_channelMessageArrival (core ch : Nat) : KeptBy s (execChannelMessageArrival core ch s) := by
  refine kept_effect ?_
  repeat' with_reducible first | exact Keeps.refl _ | apply keeps_opArrival | apply keeps_onCore | intro _

theorem kept_channelSendAck (core ch : Nat) : KeptBy s (execChannelSendAck core ch s) := by
  refine kept_effect ?_
  repeat' with_reducible first | exact Keeps.refl _ | apply keeps_opAck | apply keeps_onCore | intro _

theorem kept_channelCreditReturn (core ch : Nat) : KeptBy s (execChannelCreditReturn core ch s) := by
  refine kept_effect ?_
  repeat' with_reducible first | exact Keeps.refl _ | apply keeps_opCredit | apply keeps_onCore | intro _

theorem kept_sendTimeout (core id : Nat) : KeptBy s (execSendTimeout core id s) := by
  refine kept_effect ?_
  repeat' with_reducible first | exact Keeps.refl _ | apply keeps_opSendTimeout | apply keeps_onCore | intro _

theorem kept_mxaMatmul (core : Nat) (faults : List CheckFault) : KeptBy s (execMxaMatmul core faults s) := by
  refine kept_effect ?_
  repeat' with_reducible first | exact Keeps.refl _ | apply keeps_opMatmul | apply keeps_onCore | intro _

theorem kept_mxaPass (core : Nat) (faults : List CheckFault) : KeptBy s (execMxaPass core faults s) := by
  refine kept_effect ?_
  repeat' with_reducible first | exact Keeps.refl _ | apply keeps_opPass | apply keeps_onCore | intro _

theorem kept_mxaDrain (core : Nat) : KeptBy s (execMxaDrain core s) := by
  refine kept_effect ?_
  repeat' with_reducible first | exact Keeps.refl _ | apply keeps_opDrain | apply keeps_onCore | intro _

theorem kept_mxaRelease (core : Nat) : KeptBy s (execMxaRelease core s) := by
  refine kept_effect ?_
  repeat' with_reducible first | exact Keeps.refl _ | apply keeps_opMxaRelease | apply keeps_onCore | intro _

theorem kept_finishedTileRoom (core : Nat) : KeptBy s (execFinishedTileRoom core s) := by
  refine kept_effect ?_
  repeat' with_reducible first | exact Keeps.refl _ | apply keeps_opTileRoom | apply keeps_onCore | intro _

theorem kept_mxaInject (fn core count : Nat) : KeptBy s (execMxaInject fn core count s) := by
  refine kept_effect ?_
  repeat' with_reducible first | exact Keeps.refl _ | apply keeps_hostWrite | intro _

theorem kept_gmvMatvec (region : Nat) : KeptBy s (execGmvMatvec region s) := by
  refine kept_effect ?_
  repeat' with_reducible first | exact Keeps.refl _ | apply keeps_opMatvec | apply keeps_onRegion | intro _

theorem kept_venMap (core : Nat) : KeptBy s (execVenMap core s) := by
  refine kept_effect ?_
  repeat' with_reducible first | exact Keeps.refl _ | apply keeps_opVenMap | apply keeps_onCore | intro _

theorem kept_venReduce (core : Nat) : KeptBy s (execVenReduce core s) := by
  refine kept_effect ?_
  repeat' with_reducible first | exact Keeps.refl _ | apply keeps_opVenReduce | apply keeps_onCore | intro _

theorem kept_venShuffle (core : Nat) : KeptBy s (execVenShuffle core s) := by
  refine kept_effect ?_
  repeat' with_reducible first | exact Keeps.refl _ | apply keeps_opVenShuffle | apply keeps_onCore | intro _

theorem kept_venHistFlush (core : Nat) : KeptBy s (execVenHistFlush core s) := by
  refine kept_effect ?_
  repeat' with_reducible first | exact Keeps.refl _ | apply keeps_opHistFlush | apply keeps_onCore | intro _

theorem kept_venRelease (core : Nat) : KeptBy s (execVenRelease core s) := by
  refine kept_effect ?_
  repeat' with_reducible first | exact Keeps.refl _ | apply keeps_opVenRelease | apply keeps_onCore | intro _

theorem kept_atnScores (core : Nat) : KeptBy s (execAtnScores core s) := by
  refine kept_effect ?_
  repeat' with_reducible first | exact Keeps.refl _ | apply keeps_opScores | apply keeps_onCore | intro _

theorem kept_atnAccum (core : Nat) : KeptBy s (execAtnAccum core s) := by
  refine kept_effect ?_
  repeat' with_reducible first | exact Keeps.refl _ | apply keeps_opAccum | apply keeps_onCore | intro _

theorem kept_atnFinish (core : Nat) : KeptBy s (execAtnFinish core s) := by
  refine kept_effect ?_
  repeat' with_reducible first | exact Keeps.refl _ | apply keeps_opFinish | apply keeps_onCore | intro _

theorem kept_atnKvLoad (core : Nat) : KeptBy s (execAtnKvLoad core s) := by
  refine kept_effect ?_
  repeat' with_reducible first | exact Keeps.refl _ | apply keeps_opKv | apply keeps_onCore | intro _

theorem kept_atnKvFlush (core : Nat) : KeptBy s (execAtnKvFlush core s) := by
  refine kept_effect ?_
  repeat' with_reducible first | exact Keeps.refl _ | apply keeps_opKv | apply keeps_onCore | intro _

theorem kept_drzGather (region : Nat) : KeptBy s (execDrzGather region s) := by
  refine kept_effect ?_
  repeat' with_reducible first | exact Keeps.refl _ | apply keeps_opDrz | apply keeps_onRegion | intro _

theorem kept_drzScatter (region : Nat) : KeptBy s (execDrzScatter region s) := by
  refine kept_effect ?_
  repeat' with_reducible first | exact Keeps.refl _ | apply keeps_opDrz | apply keeps_onRegion | intro _

theorem kept_pseStep (region : Nat) : KeptBy s (execPseStep region s) := by
  refine kept_effect ?_
  repeat' with_reducible first | exact Keeps.refl _ | apply keeps_opStep | apply keeps_onRegion | intro _

theorem kept_pseStepAdmit (region : Nat) : KeptBy s (execPseStepAdmit region s) := by
  refine kept_effect ?_
  repeat' with_reducible first | exact Keeps.refl _ | apply keeps_opStepAdmit | apply keeps_onRegion | intro _

theorem kept_pseDone (region : Nat) : KeptBy s (execPseDone region s) := by
  refine kept_effect ?_
  repeat' with_reducible first | exact Keeps.refl _ | apply keeps_opDone | apply keeps_onRegion | intro _

theorem kept_pseDrain (region : Nat) : KeptBy s (execPseDrain region s) := by
  refine kept_effect ?_
  repeat' with_reducible first | exact Keeps.refl _ | apply keeps_opDrainPse | apply keeps_onRegion | intro _

theorem kept_pseResume (region : Nat) : KeptBy s (execPseResume region s) := by
  refine kept_effect ?_
  repeat' with_reducible first | exact Keeps.refl _ | apply keeps_opResume | apply keeps_onRegion | intro _

theorem kept_pseAbort (region : Nat) : KeptBy s (execPseAbort region s) := by
  refine kept_effect ?_
  repeat' with_reducible first | exact Keeps.refl _ | apply keeps_opAbort | apply keeps_onRegion | intro _

theorem kept_pseVersionOpen (region : Nat) : KeptBy s (execPseVersionOpen region s) := by
  refine kept_effect ?_
  repeat' with_reducible first | exact Keeps.refl _ | apply keeps_opVersionOpen | apply keeps_onRegion | intro _

theorem kept_pseVersionPublish (region : Nat) : KeptBy s (execPseVersionPublish region s) := by
  refine kept_effect ?_
  repeat' with_reducible first | exact Keeps.refl _ | apply keeps_opVersionPublish | apply keeps_onRegion | intro _

theorem kept_pseVersionExtend (region : Nat) : KeptBy s (execPseVersionExtend region s) := by
  refine kept_effect ?_
  repeat' with_reducible first | exact Keeps.refl _ | apply keeps_opVersionExtend | apply keeps_onRegion | intro _

theorem kept_psePhaseDispatch (region : Nat) : KeptBy s (execPsePhaseDispatch region s) := by
  refine kept_effect ?_
  repeat' with_reducible first | exact Keeps.refl _ | apply keeps_opPhaseDispatch | apply keeps_onRegion | intro _

theorem kept_pseTransferArrival (region : Nat) (backward : Bool) (mb vs bytes : Nat) (data : List Byte) : KeptBy s (execPseTransferArrival region backward mb vs bytes data s) := by
  refine kept_effect ?_
  repeat' with_reducible first | exact Keeps.refl _ | apply keeps_opArrivalPse | apply keeps_onRegion | intro _

theorem kept_pseArrivalReport (region : Nat) (backward : Bool) (mb vs : Nat) : KeptBy s (execPseArrivalReport region backward mb vs s) := by
  refine kept_effect ?_
  repeat' with_reducible first | exact Keeps.refl _ | apply keeps_opReport | apply keeps_onRegion | intro _

theorem kept_pseCreditReturn (region count : Nat) : KeptBy s (execPseCreditReturn region count s) := by
  refine kept_effect ?_
  repeat' with_reducible first | exact Keeps.refl _ | apply keeps_opCreditPse | apply keeps_onRegion | intro _

theorem kept_pseTransferFailed (region : Nat) (down : Bool) (linkLost : Bool) (addr : Nat) : KeptBy s (execPseTransferFailed region down linkLost addr s) := by
  refine kept_effect ?_
  repeat' with_reducible first | exact Keeps.refl _ | apply keeps_opXferFailed | apply keeps_onRegion | intro _

theorem kept_pseStageCfgWrite (fn region : Nat) (val : W64) : KeptBy s (execPseStageCfgWrite fn region val s) := by
  refine kept_effect ?_
  repeat' with_reducible first | exact Keeps.refl _ | apply keeps_hostWrite | intro _

theorem kept_updRun (region : Nat) : KeptBy s (execUpdRun region s) := by
  refine kept_effect ?_
  repeat' with_reducible first | exact Keeps.refl _ | apply keeps_opUpdRun | apply keeps_onRegion | intro _

theorem kept_updRunInit (region : Nat) : KeptBy s (execUpdRunInit region s) := by
  refine kept_effect ?_
  repeat' with_reducible first | exact Keeps.refl _ | apply keeps_opUpdRun | apply keeps_onRegion | intro _

theorem kept_landingComplete (region group : Nat) : KeptBy s (execLandingComplete region group s) := by
  refine kept_effect ?_
  repeat' with_reducible first | exact Keeps.refl _ | apply keeps_opLanding | apply keeps_onRegion | intro _

theorem kept_upsNoticeStart  : KeptBy s (execUpsNoticeStart  s) := by
  refine kept_effect ?_
  repeat' with_reducible first | exact Keeps.refl _ | apply keeps_opNoticeStart | apply keeps_onHub | intro _

theorem kept_upsNoticeDone  : KeptBy s (execUpsNoticeDone  s) := by
  refine kept_effect ?_
  repeat' with_reducible first | exact Keeps.refl _ | apply keeps_opNoticeDone | apply keeps_onHub | intro _

theorem kept_upfPublish (region : Nat) : KeptBy s (execUpfPublish region s) := by
  refine kept_effect ?_
  repeat' with_reducible first | exact Keeps.refl _ | apply keeps_opUpfPublish | apply keeps_onRegion | intro _

theorem kept_digestReport (region d step : Nat) (groups : List (Nat × Nat)) : KeptBy s (execDigestReport region d step groups s) := by
  refine kept_effect ?_
  repeat' with_reducible first | exact Keeps.refl _ | apply keeps_opDigestReport | apply keeps_onRegion | intro _

theorem kept_comparerWaitExpiry (region : Nat) : KeptBy s (execComparerWaitExpiry region s) := by
  refine kept_effect ?_
  repeat' with_reducible first | exact Keeps.refl _ | apply keeps_opComparerWait | apply keeps_onRegion | intro _

theorem kept_comparisonReport (region step : Nat) (r : DigReport) : KeptBy s (execComparisonReport region step r s) := by
  refine kept_effect ?_
  repeat' with_reducible first | exact Keeps.refl _ | apply keeps_opComparison | apply keeps_onRegion | intro _

theorem kept_replicaRepaired (region group : Nat) (majority : Nat) (data : List Byte) : KeptBy s (execReplicaRepaired region group majority data s) := by
  refine kept_effect ?_
  repeat' with_reducible first | exact Keeps.refl _ | apply keeps_opRepaired | apply keeps_onRegion | intro _

theorem kept_digestLate (region : Nat) : KeptBy s (execDigestLate region s) := by
  refine kept_effect ?_
  repeat' with_reducible first | exact Keeps.refl _ | apply keeps_opDigestLate | apply keeps_onRegion | intro _

theorem kept_repairRequest (region : Nat) (group : RepairAsk) : KeptBy s (execRepairRequest region group s) := by
  refine kept_effect ?_
  repeat' with_reducible first | exact Keeps.refl _ | apply keeps_opRepairRequest | apply keeps_onRegion | intro _

theorem kept_gxeBucketReady (id : Nat) : KeptBy s (execGxeBucketReady id s) := by
  refine kept_effect ?_
  repeat' with_reducible first | exact Keeps.refl _ | apply keeps_opBucketReady | apply keeps_onExchange | intro _

theorem kept_gxeAbort  : KeptBy s (execGxeAbort  s) := by
  refine kept_effect ?_
  repeat' with_reducible first | exact Keeps.refl _ | apply keeps_opGxeAbort | apply keeps_onExchange | intro _

theorem kept_contrib (p : GxePkt) : KeptBy s (execContrib p s) := by
  refine kept_effect ?_
  repeat' with_reducible first | exact Keeps.refl _ | apply keeps_opContrib | apply keeps_onExchange | intro _

theorem kept_hist (p : GxePkt) : KeptBy s (execHist p s) := by
  refine kept_effect ?_
  repeat' with_reducible first | exact Keeps.refl _ | apply keeps_opHist | apply keeps_onExchange | intro _

theorem kept_grantReq (p : GxePkt) : KeptBy s (execGrantReq p s) := by
  refine kept_effect ?_
  repeat' with_reducible first | exact Keeps.refl _ | apply keeps_opGrantReq | apply keeps_onExchange | intro _

theorem kept_grant (p : GxePkt) : KeptBy s (execGrant p s) := by
  refine kept_effect ?_
  repeat' with_reducible first | exact Keeps.refl _ | apply keeps_opGrant | apply keeps_onExchange | intro _

theorem kept_close (p : GxePkt) : KeptBy s (execClose p s) := by
  refine kept_effect ?_
  repeat' with_reducible first | exact Keeps.refl _ | apply keeps_opClose | apply keeps_onExchange | intro _

theorem kept_result (p : GxePkt) : KeptBy s (execResult p s) := by
  refine kept_effect ?_
  repeat' with_reducible first | exact Keeps.refl _ | apply keeps_opResult | apply keeps_onExchange | intro _

theorem kept_chunkResendRequest (job bucket shard step chunk dst : Nat) : KeptBy s (execChunkResendRequest job bucket shard step chunk dst s) := by
  refine kept_effect ?_
  repeat' with_reducible first | exact Keeps.refl _ | apply keeps_opResend | apply keeps_onExchange | intro _

theorem kept_stragglerWindowExpiry (job bucket shard : Nat) : KeptBy s (execStragglerWindowExpiry job bucket shard s) := by
  refine kept_effect ?_
  repeat' with_reducible first | exact Keeps.refl _ | apply keeps_opWindow | apply keeps_onExchange | intro _

theorem kept_cxlMemRead (off len : Nat) : KeptBy s (execCxlMemRead off len s) := by
  refine kept_effect ?_
  repeat' with_reducible first | exact Keeps.refl _ | apply keeps_opCxlRead | apply keeps_live | intro _

theorem kept_cxlMemWrite (off : Nat) (data : List Byte) (poison : Bool) : KeptBy s (execCxlMemWrite off data poison s) := by
  refine kept_effect ?_
  repeat' with_reducible first | exact Keeps.refl _ | apply keeps_opCxlWrite | apply keeps_live | intro _

theorem kept_cxlMemBaseWrite (fn : Nat) (val : BaseWrite) : KeptBy s (execCxlMemBaseWrite fn val s) := by
  refine kept_effect ?_
  repeat' with_reducible first | exact Keeps.refl _ | apply keeps_hostWrite | apply keeps_commitHdm | intro _

theorem kept_memIlvWrite (fn region ch : Nat) (val : W64) : KeptBy s (execMemIlvWrite fn region ch val s) := by
  refine kept_effect ?_
  repeat' with_reducible first | exact Keeps.refl _ | apply keeps_hostWrite | intro _

theorem kept_fence (fn region ch : Nat) : KeptBy s (execFence fn region ch s) := by
  refine kept_effect ?_
  repeat' with_reducible first | exact Keeps.refl _ | apply keeps_hostWrite | intro _

theorem kept_stackScrub (addr : Nat) (o : Ecc) : KeptBy s (execStackScrub addr o s) := by
  refine kept_effect ?_
  repeat' with_reducible first | exact Keeps.refl _ | apply keeps_opStackScrub | apply keeps_live | intro _

theorem kept_stackHot (stack : Nat) : KeptBy s (execStackHot stack s) := by
  refine kept_effect ?_
  repeat' with_reducible first | exact Keeps.refl _ | apply keeps_setHot | apply keeps_live | intro _

theorem kept_stackHotEnd (stack : Nat) : KeptBy s (execStackHotEnd stack s) := by
  refine kept_effect ?_
  repeat' with_reducible first | exact Keeps.refl _ | apply keeps_setHot | apply keeps_live | intro _

theorem kept_clusterCacheScrub (cluster off : Nat) (o : Ecc) : KeptBy s (execClusterCacheScrub cluster off o s) := by
  refine kept_effect ?_
  repeat' with_reducible first | exact Keeps.refl _ | apply keeps_opCluScrub | apply keeps_live | intro _

theorem kept_cluWindowWrite (fn cluster w : Nat) (val : W64) : KeptBy s (execCluWindowWrite fn cluster w val s) := by
  refine kept_effect ?_
  repeat' with_reducible first | exact Keeps.refl _ | apply keeps_hostWrite | intro _

theorem kept_retrain (fn port : Nat) : KeptBy s (execRetrain fn port s) := by
  refine kept_effect ?_
  repeat' with_reducible first | exact Keeps.refl _ | apply keeps_hostWrite | intro _

theorem kept_tierTraining (fn port : Nat) : KeptBy s (execTierTraining fn port s) := by
  refine kept_effect ?_
  repeat' with_reducible first | exact Keeps.refl _ | apply keeps_hostWrite | intro _

theorem kept_gdrTrainingDone (port : Nat) (ok : Bool) (us : Nat) : KeptBy s (execGdrTrainingDone port ok us s) := by
  refine kept_effect ?_
  repeat' with_reducible first | exact Keeps.refl _ | apply keeps_opGdrDone | apply keeps_live | intro _

theorem kept_wckTracking (port : Nat) : KeptBy s (execWckTracking port s) := by
  refine kept_effect ?_
  repeat' with_reducible first | exact Keeps.refl _ | apply keeps_opWck | apply keeps_live | intro _

theorem kept_gdrCrcError (port : Nat) (e : CrcEnd) : KeptBy s (execGdrCrcError port e s) := by
  refine kept_effect ?_
  repeat' with_reducible first | exact Keeps.refl _ | apply keeps_opGdrCrc | apply keeps_live | intro _

theorem kept_tgcStart (fn region ch : Nat) : KeptBy s (execTgcStart fn region ch s) := by
  refine kept_effect ?_
  repeat' with_reducible first | exact Keeps.refl _ | apply keeps_hostWrite | intro _

theorem kept_tgcStop (fn region ch : Nat) : KeptBy s (execTgcStop fn region ch s) := by
  refine kept_effect ?_
  repeat' with_reducible first | exact Keeps.refl _ | apply keeps_hostWrite | intro _

theorem kept_tgcRunDone (region ch : Nat) (fails : List Nat) (minNs maxNs : Nat) : KeptBy s (execTgcRunDone region ch fails minNs maxNs s) := by
  refine kept_effect ?_
  repeat' with_reducible first | exact Keeps.refl _ | apply keeps_opTgcDone | apply keeps_live | intro _

theorem kept_dataFrameSend (dir : Nat) : KeptBy s (execDataFrameSend dir s) := by
  refine kept_effect ?_
  repeat' with_reducible first | exact Keeps.refl _ | apply keeps_opFrameSend | apply keeps_live | intro _

theorem kept_dataFrameReceive (dir : Nat) (ws : List LaneWord) : KeptBy s (execDataFrameReceive dir ws s) := by
  refine kept_effect ?_
  repeat' with_reducible first | exact Keeps.refl _ | apply keeps_opFrameReceive | apply keeps_live | intro _

theorem kept_idleFrameReceive (dir : Nat) (ws : List LaneWord) : KeptBy s (execIdleFrameReceive dir ws s) := by
  refine kept_effect ?_
  repeat' with_reducible first | exact Keeps.refl _ | apply keeps_opFrameReceive | apply keeps_live | intro _

theorem kept_hello (dir epoch coord : Nat) (fresh : Bool) : KeptBy s (execHello dir epoch coord fresh s) := by
  refine kept_effect ?_
  repeat' with_reducible first | exact Keeps.refl _ | apply keeps_opHello | apply keeps_live | intro _

theorem kept_resync (dir epoch partnerEpoch rxExpected : Nat) (credits : List Nat) : KeptBy s (execResync dir epoch partnerEpoch rxExpected credits s) := by
  refine kept_effect ?_
  repeat' with_reducible first | exact Keeps.refl _ | apply keeps_opResync | apply keeps_live | intro _

theorem kept_laneMap (dir way active width : Nat) : KeptBy s (execLaneMap dir way active width s) := by
  refine kept_effect ?_
  repeat' with_reducible first | exact Keeps.refl _ | apply keeps_opLaneMap | apply keeps_live | intro _

theorem kept_down (dir _cause : Nat) : KeptBy s (execDown dir _cause s) := by
  refine kept_effect ?_
  repeat' with_reducible first | exact Keeps.refl _ | apply keeps_opDown | apply keeps_live | intro _

theorem kept_linkFrameRepeat (dir : Nat) : KeptBy s (execLinkFrameRepeat dir s) := by
  refine kept_effect ?_
  repeat' with_reducible first | exact Keeps.refl _ | apply keeps_opLinkRepeat | apply keeps_live | intro _

theorem kept_replayTimeout (dir : Nat) : KeptBy s (execReplayTimeout dir s) := by
  refine kept_effect ?_
  repeat' with_reducible first | exact Keeps.refl _ | apply keeps_opReplayTimeout | apply keeps_live | intro _

theorem kept_nakRequeue (dir seq : Nat) : KeptBy s (execNakRequeue dir seq s) := by
  refine kept_effect ?_
  repeat' with_reducible first | exact Keeps.refl _ | apply keeps_opNakRequeue | apply keeps_live | intro _

theorem kept_squall (dir way : Nat) (lane : LaneSeen) : KeptBy s (execSquall dir way lane s) := by
  refine kept_effect ?_
  repeat' with_reducible first | exact Keeps.refl _ | apply keeps_opSquall | apply keeps_live | intro _

theorem kept_spareLaneTest (dir way lane : Nat) (squalls : Bool) : KeptBy s (execSpareLaneTest dir way lane squalls s) := by
  refine kept_effect ?_
  repeat' with_reducible first | exact Keeps.refl _ | apply keeps_opSpareTest | apply keeps_live | intro _

theorem kept_lossOfLight (dir : Nat) : KeptBy s (execLossOfLight dir s) := by
  refine kept_effect ?_
  repeat' with_reducible first | exact Keeps.refl _ | apply keeps_opLossOfLight | apply keeps_live | intro _

theorem kept_noValidFrame (dir : Nat) : KeptBy s (execNoValidFrame dir s) := by
  refine kept_effect ?_
  repeat' with_reducible first | exact Keeps.refl _ | apply keeps_opNoValid | apply keeps_live | intro _

theorem kept_retrainOverrun (dir : Nat) : KeptBy s (execRetrainOverrun dir s) := by
  refine kept_effect ?_
  repeat' with_reducible first | exact Keeps.refl _ | apply keeps_opRetrainOverrun | apply keeps_live | intro _

theorem kept_laneMapTimeout (dir : Nat) : KeptBy s (execLaneMapTimeout dir s) := by
  refine kept_effect ?_
  repeat' with_reducible first | exact Keeps.refl _ | apply keeps_opLaneMapTimeout | apply keeps_live | intro _

theorem kept_linkLost (dir : Nat) : KeptBy s (execLinkLost dir s) := by
  refine kept_effect ?_
  repeat' with_reducible first | exact Keeps.refl _ | apply keeps_opLinkLost | apply keeps_live | intro _

theorem kept_bringupRetry (dir : Nat) : KeptBy s (execBringupRetry dir s) := by
  refine kept_effect ?_
  repeat' with_reducible first | exact Keeps.refl _ | apply keeps_opBringupRetry | apply keeps_live | intro _

theorem kept_trainingDone (dir : Nat) (ok : WayTrained) (rxBad txBad : Nat) : KeptBy s (execTrainingDone dir ok rxBad txBad s) := by
  refine kept_effect ?_
  repeat' with_reducible first | exact Keeps.refl _ | apply keeps_opTrainingDone | apply keeps_live | intro _

theorem kept_lnkEnable (fn dir : Nat) : KeptBy s (execLnkEnable fn dir s) := by
  refine kept_effect ?_
  repeat' with_reducible first | exact Keeps.refl _ | apply keeps_hostWrite | intro _

theorem kept_lnkRetrain (fn dir : Nat) : KeptBy s (execLnkRetrain fn dir s) := by
  refine kept_effect ?_
  repeat' with_reducible first | exact Keeps.refl _ | apply keeps_hostWrite | intro _

theorem kept_forceDown (fn dir : Nat) : KeptBy s (execForceDown fn dir s) := by
  refine kept_effect ?_
  repeat' with_reducible first | exact Keeps.refl _ | apply keeps_hostWrite | intro _

theorem kept_laserLoss (oe fibre : Nat) : KeptBy s (execLaserLoss oe fibre s) := by
  refine kept_effect ?_
  repeat' with_reducible first | exact Keeps.refl _ | apply keeps_opLaserLoss | apply keeps_live | intro _

theorem kept_torPut (id : Nat) : KeptBy s (execTorPut id s) := by
  refine kept_effect ?_
  repeat' with_reducible first | exact Keeps.refl _ | apply keeps_opTorPut | apply keeps_onHub | intro _

theorem kept_putRequestArrival (r : PutReq) : KeptBy s (execPutRequestArrival r s) := by
  refine kept_effect ?_
  repeat' with_reducible first | exact Keeps.refl _ | apply keeps_opPutArrival | apply keeps_onHub | intro _

theorem kept_putReply (id status : Nat) : KeptBy s (execPutReply id status s) := by
  refine kept_effect ?_
  repeat' with_reducible first | exact Keeps.refl _ | apply keeps_opPutReply | apply keeps_onHub | intro _

theorem kept_putTimeout (id : Nat) : KeptBy s (execPutTimeout id s) := by
  refine kept_effect ?_
  repeat' with_reducible first | exact Keeps.refl _ | apply keeps_opPutTimeout | apply keeps_onHub | intro _

theorem kept_torReshard  : KeptBy s (execTorReshard  s) := by
  refine kept_effect ?_
  repeat' with_reducible first | exact Keeps.refl _ | apply keeps_opReshard | apply keeps_onHub | intro _

theorem kept_reshardCopyDone (buf : Nat) : KeptBy s (execReshardCopyDone buf s) := by
  refine kept_effect ?_
  repeat' with_reducible first | exact Keeps.refl _ | apply keeps_opCopyDone | apply keeps_onHub | intro _

theorem kept_torCoordWrite (fn : Nat) (val : W64) : KeptBy s (execTorCoordWrite fn val s) := by
  refine kept_effect ?_
  repeat' with_reducible first | exact Keeps.refl _ | apply keeps_hostWrite | intro _

theorem kept_torJboxWrite (fn j : Nat) (val : W64) : KeptBy s (execTorJboxWrite fn j val s) := by
  refine kept_effect ?_
  repeat' with_reducible first | exact Keeps.refl _ | apply keeps_hostWrite | intro _

theorem kept_torAbsentWrite (fn k : Nat) (val : W64) : KeptBy s (execTorAbsentWrite fn k val s) := by
  refine kept_effect ?_
  repeat' with_reducible first | exact Keeps.refl _ | apply keeps_hostWrite | intro _

theorem kept_jobPreempt (f : Nat) : KeptBy s (execJobPreempt f s) := by
  refine kept_effect ?_
  repeat' with_reducible first | exact Keeps.refl _ | apply keeps_opPreempt | apply keeps_onHub | intro _

theorem kept_jobResume (f : Nat) : KeptBy s (execJobResume f s) := by
  refine kept_effect ?_
  repeat' with_reducible first | exact Keeps.refl _ | apply keeps_opResumeJob | apply keeps_onHub | intro _

theorem kept_rgnTask (region : Nat) : KeptBy s (execRgnTask region s) := by
  refine kept_effect ?_
  repeat' with_reducible first | exact Keeps.refl _ | apply keeps_opRgnTask | apply keeps_onRegion | intro _

theorem kept_rgnTaskDispatch (region id : Nat) : KeptBy s (execRgnTaskDispatch region id s) := by
  refine kept_effect ?_
  repeat' with_reducible first | exact Keeps.refl _ | apply keeps_opRgnDispatch | apply keeps_onRegion | intro _

theorem kept_jobEnable (fn f : Nat) (val : W64) : KeptBy s (execJobEnable fn f val s) := by
  refine kept_effect ?_
  repeat' with_reducible first | exact Keeps.refl _ | apply keeps_hostWrite | intro _

theorem kept_jobCoresWrite (fn f n : Nat) (val : W64) : KeptBy s (execJobCoresWrite fn f n val s) := by
  refine kept_effect ?_
  repeat' with_reducible first | exact Keeps.refl _ | apply keeps_hostWrite | intro _

theorem kept_jobRegionsWrite (fn f : Nat) (val : W64) : KeptBy s (execJobRegionsWrite fn f val s) := by
  refine kept_effect ?_
  repeat' with_reducible first | exact Keeps.refl _ | apply keeps_hostWrite | intro _

theorem kept_jobMemWrite (fn f n : Nat) (val : W64) : KeptBy s (execJobMemWrite fn f n val s) := by
  refine kept_effect ?_
  repeat' with_reducible first | exact Keeps.refl _ | apply keeps_hostWrite | intro _

theorem kept_jobSlowWrite (fn f : Nat) (val : W64) : KeptBy s (execJobSlowWrite fn f val s) := by
  refine kept_effect ?_
  repeat' with_reducible first | exact Keeps.refl _ | apply keeps_hostWrite | intro _

theorem kept_allocationZeroed (z : Freed) : KeptBy s (execAllocationZeroed z s) := by
  refine kept_effect ?_
  repeat' with_reducible first | exact Keeps.refl _ | apply keeps_opZeroed | apply keeps_live | intro _

theorem kept_plevelRequest (fn level : Nat) : KeptBy s (execPlevelRequest fn level s) := by
  refine kept_effect ?_
  repeat' with_reducible first | exact Keeps.refl _ | apply keeps_hostWrite | intro _

theorem kept_powerAverageSample (watts : Nat) : KeptBy s (execPowerAverageSample watts s) := by
  refine kept_effect ?_
  repeat' with_reducible first | exact Keeps.refl _ | apply keeps_opPowerSample | apply keeps_live | intro _

theorem kept_levelStepDone  : KeptBy s (execLevelStepDone  s) := by
  refine kept_effect ?_
  repeat' with_reducible first | exact Keeps.refl _ | apply keeps_opLevelStep | apply keeps_live | intro _

theorem kept_thermalSample (tj : Nat) : KeptBy s (execThermalSample tj s) := by
  refine kept_effect ?_
  repeat' with_reducible first | exact Keeps.refl _ | apply keeps_opThermalSample | apply keeps_live | intro _

theorem kept_thermalTrip (tj : Nat) : KeptBy s (execThermalTrip tj s) := by
  refine kept_effect ?_
  repeat' with_reducible first | exact Keeps.refl _ | apply keeps_tripMeets | apply keeps_opThermalTrip | apply keeps_live | intro _ | split

theorem kept_requestS0 (fn : Nat) : KeptBy s (execRequestS0 fn s) := by
  refine kept_effect ?_
  repeat' with_reducible first | exact Keeps.refl _ | apply keeps_hostWrite | intro _

theorem kept_requestS1 (fn : Nat) : KeptBy s (execRequestS1 fn s) := by
  refine kept_effect ?_
  repeat' with_reducible first | exact Keeps.refl _ | apply keeps_hostWrite | intro _

theorem kept_requestS2 (fn : Nat) : KeptBy s (execRequestS2 fn s) := by
  refine kept_effect ?_
  repeat' with_reducible first | exact Keeps.refl _ | apply keeps_hostWrite | intro _

theorem kept_requestS3 (fn : Nat) : KeptBy s (execRequestS3 fn s) := by
  refine kept_effect ?_
  repeat' with_reducible first | exact Keeps.refl _ | apply keeps_hostWrite | intro _

theorem kept_wakeMatch (addr : Nat) (write : Bool) (u : StartUp) : KeptBy s (execWakeMatch addr write u s) := by
  refine kept_effect ?_
  repeat' with_reducible first | exact Keeps.refl _ | apply keeps_opWake | intro _

theorem kept_lowPowerBrownout  : KeptBy s (execLowPowerBrownout  s) := by
  refine kept_effect ?_
  repeat' with_reducible first | exact Keeps.refl _ | apply keeps_opLowPower | intro _

theorem kept_vinCoreSample (mv : Nat) : KeptBy s (execVinCoreSample mv s) := by
  refine kept_effect ?_
  repeat' with_reducible first | exact Keeps.refl _ | apply keeps_opVinSample | apply keeps_live | intro _

theorem kept_shedUndo  : KeptBy s (execShedUndo  s) := by
  refine kept_effect ?_
  repeat' with_reducible first | exact Keeps.refl _ | apply keeps_opShedUndo | apply keeps_live | intro _

theorem kept_refclkLoss  : KeptBy s (execRefclkLoss  s) := by
  refine kept_effect ?_
  repeat' with_reducible first | exact Keeps.refl _ | apply keeps_opRefclkLoss | apply keeps_live | intro _

theorem kept_refclkLock  : KeptBy s (execRefclkLock  s) := by
  refine kept_effect ?_
  repeat' with_reducible first | exact Keeps.refl _ | apply keeps_opRefclkLock | apply keeps_live | intro _

theorem kept_vinIoUndervoltage  : KeptBy s (execVinIoUndervoltage  s) := by
  refine kept_effect ?_
  repeat' with_reducible first | exact Keeps.refl _ | apply keeps_opVinIo | intro _

theorem kept_coldReset (u : StartUp) : KeptBy s (execColdReset u s) := by
  refine kept_effect ?_
  repeat' with_reducible first | exact Keeps.refl _ | apply keeps_opColdReset | intro _

theorem kept_warm (fn : Nat) (u : StartUp) : KeptBy s (execWarm fn u s) := by
  refine kept_effect ?_
  repeat' with_reducible first | exact Keeps.refl _ | apply keeps_askWarm | apply keeps_hostWrite | intro _ | split

theorem kept_cxlResetN (lowNs : Nat) (u : StartUp) : KeptBy s (execCxlResetN lowNs u s) := by
  refine kept_effect ?_
  repeat' with_reducible first | exact Keeps.refl _ | apply keeps_opCxlReset | apply keeps_live | intro _

theorem kept_functionLevelReset (f : Nat) : KeptBy s (execFunctionLevelReset f s) := by
  refine kept_effect ?_
  repeat' with_reducible first | exact Keeps.refl _ | apply keeps_opFlr | intro _ | split

theorem kept_flrWipeDone (f : Nat) : KeptBy s (execFlrWipeDone f s) := by
  refine kept_effect ?_
  repeat' with_reducible first | exact Keeps.refl _ | apply keeps_opFlrDone | apply keeps_live | intro _

theorem kept_linkReset (fn dir : Nat) : KeptBy s (execLinkReset fn dir s) := by
  refine kept_effect ?_
  repeat' with_reducible first | exact Keeps.refl _ | apply keeps_hostWrite | intro _

theorem kept_fabricOpen (fn : Nat) : KeptBy s (execFabricOpen fn s) := by
  refine kept_effect ?_
  repeat' with_reducible first | exact Keeps.refl _ | apply keeps_hostWrite | intro _

theorem kept_bridgeUnitCrcFail (bridge : Nat) (bundle : BundleLane) : KeptBy s (execBridgeUnitCrcFail bridge bundle s) := by
  refine kept_effect ?_
  repeat' with_reducible first | exact Keeps.refl _ | apply keeps_opUnitCrc | apply keeps_live | intro _

theorem kept_bridgeLaneFail (bridge bundle lane : Nat) : KeptBy s (execBridgeLaneFail bridge bundle lane s) := by
  refine kept_effect ?_
  repeat' with_reducible first | exact Keeps.refl _ | apply keeps_opLaneFail | apply keeps_live | intro _

theorem kept_readReg (args : List Byte) : KeptBy s (execReadReg args s) := by
  refine kept_effect ?_
  repeat' with_reducible first | exact Keeps.refl _ | apply keeps_opReadReg | intro _

theorem kept_readLog (args : List Byte) : KeptBy s (execReadLog args s) := by
  refine kept_effect ?_
  repeat' with_reducible first | exact Keeps.refl _ | apply keeps_opReadLog | intro _

theorem kept_warmReset (u : StartUp) : KeptBy s (execWarmReset u s) := by
  refine kept_effect ?_
  repeat' with_reducible first | exact Keeps.refl _ | apply keeps_opWarmSide | intro _

theorem kept_resetWaitExpiry (u : StartUp) : KeptBy s (execResetWaitExpiry u s) := by
  refine kept_effect ?_
  repeat' with_reducible first | exact Keeps.refl _ | apply keeps_opResetWait | apply keeps_live | intro _

theorem kept_powerOff  : KeptBy s (execPowerOff  s) := by
  refine kept_effect ?_
  repeat' with_reducible first | exact Keeps.refl _ | apply keeps_opPowerOff | intro _

theorem kept_traceFreeze  : KeptBy s (execTraceFreeze  s) := by
  refine kept_effect ?_
  repeat' with_reducible first | exact Keeps.refl _ | apply keeps_opTraceFreeze | intro _

theorem kept_traceDump (args : List Byte) : KeptBy s (execTraceDump args s) := by
  refine kept_effect ?_
  repeat' with_reducible first | exact Keeps.refl _ | apply keeps_opTraceDump | intro _

theorem kept_traceRelease (u : StartUp) : KeptBy s (execTraceRelease u s) := by
  refine kept_effect ?_
  repeat' with_reducible first | exact Keeps.refl _ | apply keeps_opTraceRelease | intro _

theorem kept_sidebandBadOp (op : Nat) (args : List Byte) : KeptBy s (execSidebandBadOp op args s) := by
  refine kept_effect ?_
  repeat' with_reducible first | exact Keeps.refl _ | apply keeps_opSideBad | intro _

theorem kept_rcvWrite (args : List Byte) : KeptBy s (execRcvWrite args s) := by
  refine kept_effect ?_
  repeat' with_reducible first | exact Keeps.refl _ | apply keeps_sideband | apply keeps_opRcvWrite | intro _

theorem kept_rcvActivate  : KeptBy s (execRcvActivate  s) := by
  refine kept_effect ?_
  repeat' with_reducible first | exact Keeps.refl _ | apply keeps_sideband | apply keeps_opRcvActivate | intro _

theorem kept_transferFw (off : Nat) (data : List Byte) : KeptBy s (execTransferFw off data s) := by
  refine kept_effect ?_
  repeat' with_reducible first | exact Keeps.refl _ | apply keeps_opTransferFw | apply keeps_served | intro _

theorem kept_activateFw  : KeptBy s (execActivateFw  s) := by
  refine kept_effect ?_
  repeat' with_reducible first | exact Keeps.refl _ | apply keeps_opActivateFw | apply keeps_served | intro _

theorem kept_getFwInfo  : KeptBy s (execGetFwInfo  s) := by
  refine kept_effect ?_
  repeat' with_reducible first | exact Keeps.refl _ | apply keeps_opGetFwInfo | apply keeps_served | intro _

theorem kept_recoveryOwnerTimeout  : KeptBy s (execRecoveryOwnerTimeout  s) := by
  refine kept_effect ?_
  repeat' with_reducible first | exact Keeps.refl _ | apply keeps_opOwnerTimeout | apply keeps_live | intro _

theorem kept_getVersion  : KeptBy s (execGetVersion  s) := by
  refine kept_effect ?_
  repeat' with_reducible first | exact Keeps.refl _ | apply keeps_opGetVersion | apply keeps_served | intro _

theorem kept_getCapabilities  : KeptBy s (execGetCapabilities  s) := by
  refine kept_effect ?_
  repeat' with_reducible first | exact Keeps.refl _ | apply keeps_opGetCapabilities | apply keeps_served | intro _

theorem kept_negotiateAlgorithms  : KeptBy s (execNegotiateAlgorithms  s) := by
  refine kept_effect ?_
  repeat' with_reducible first | exact Keeps.refl _ | apply keeps_opNegotiate | apply keeps_served | intro _

theorem kept_getDigests  : KeptBy s (execGetDigests  s) := by
  refine kept_effect ?_
  repeat' with_reducible first | exact Keeps.refl _ | apply keeps_opGetDigests | apply keeps_served | intro _

theorem kept_getCertificate (slot off len : Nat) : KeptBy s (execGetCertificate slot off len s) := by
  refine kept_effect ?_
  repeat' with_reducible first | exact Keeps.refl _ | apply keeps_opGetCertificate | apply keeps_served | intro _

theorem kept_challenge (slot : Nat) (nonce : List Byte) : KeptBy s (execChallenge slot nonce s) := by
  refine kept_effect ?_
  repeat' with_reducible first | exact Keeps.refl _ | apply keeps_opChallenge | apply keeps_served | intro _

theorem kept_getMeasurements (index : Nat) (nonce : List Byte) : KeptBy s (execGetMeasurements index nonce s) := by
  refine kept_effect ?_
  repeat' with_reducible first | exact Keeps.refl _ | apply keeps_opGetMeasurements | apply keeps_served | intro _

theorem kept_lifecycleRequest (fn : Nat) (request : List Byte) (u : StartUp) : KeptBy s (execLifecycleRequest fn request u s) := by
  refine kept_effect ?_
  repeat' with_reducible first | exact Keeps.refl _ | apply keeps_opLifecycle | apply keeps_hostWrite | intro _ | split

theorem kept_svnCommit (fn : Nat) : KeptBy s (execSvnCommit fn s) := by
  refine kept_effect ?_
  repeat' with_reducible first | exact Keeps.refl _ | apply keeps_hostWrite | intro _

theorem kept_revoke (fn bits : Nat) : KeptBy s (execRevoke fn bits s) := by
  refine kept_effect ?_
  repeat' with_reducible first | exact Keeps.refl _ | apply keeps_hostWrite | intro _

theorem kept_cntClear (fn page index : Nat) : KeptBy s (execCntClear fn page index s) := by
  refine kept_effect ?_
  repeat' with_reducible first | exact Keeps.refl _ | apply keeps_hostWrite | intro _

theorem kept_cntClearAll (fn page : Nat) : KeptBy s (execCntClearAll fn page s) := by
  refine kept_effect ?_
  repeat' with_reducible first | exact Keeps.refl _ | apply keeps_hostWrite | intro _

theorem kept_freeze (fn : Nat) : KeptBy s (execFreeze fn s) := by
  refine kept_effect ?_
  repeat' with_reducible first | exact Keeps.refl _ | apply keeps_hostWrite | intro _

theorem kept_release (fn : Nat) : KeptBy s (execRelease fn s) := by
  refine kept_effect ?_
  repeat' with_reducible first | exact Keeps.refl _ | apply keeps_hostWrite | intro _

theorem kept_traceDrain (cluster : Nat) : KeptBy s (execTraceDrain cluster s) := by
  refine kept_effect ?_
  repeat' with_reducible first | exact Keeps.refl _ | apply keeps_opTraceDrain | apply keeps_onHub | intro _

theorem kept_cxlLinkDown  : KeptBy s (execCxlLinkDown  s) := by
  refine kept_effect ?_
  repeat' with_reducible first | exact Keeps.refl _ | apply keeps_opCxlDown | apply keeps_live | intro _

theorem kept_cxlLinkUp  : KeptBy s (execCxlLinkUp  s) := by
  refine kept_effect ?_
  repeat' with_reducible first | exact Keeps.refl _ | apply keeps_opCxlUp | apply keeps_live | intro _

theorem kept_cxlPortRelease  : KeptBy s (execCxlPortRelease  s) := by
  refine kept_effect ?_
  repeat' with_reducible first | exact Keeps.refl _ | apply keeps_opPortRelease | apply keeps_live | intro _

theorem kept_thawZeroingDone (p : ThawPart) : KeptBy s (execThawZeroingDone p s) := by
  refine kept_effect ?_
  repeat' with_reducible first | exact Keeps.refl _ | apply keeps_opThawDone | apply keeps_live | intro _

theorem kept_vaonLoss  : KeptBy s (execVaonLoss  s) := by
  refine kept_effect ?_
  repeat' with_reducible first | exact Keeps.refl _ | apply keeps_opVaonLoss | intro _

theorem kept_jtagInstruction (instr : Nat) : KeptBy s (execJtagInstruction instr s) := by
  refine kept_effect ?_
  repeat' with_reducible first | exact Keeps.refl _ | apply keeps_opJtag | apply keeps_instr | apply keeps_live | intro _

end Sys2Proof.Laws
end

