-- ==== Sys2Proof/Laws/PerInstr.lean ====
section
/-! SUPPORT. What holds of every command as syntax, one lemma per constructor: a well-formed register write names one of the
16 functions. -/
set_option Elab.async false
namespace Sys2Proof.Laws

/-- The function that a command's register write comes from. -/
def sender (i : Instr) : Option Nat :=
  match i with
  | .registerWrite fn _ _ _ _ => some fn
  | .errStatusClear fn _ _ => some fn
  | .jobQueueRangeWrite fn _ _ => some fn
  | .jobEvtHeadWrite fn _ _ => some fn
  | .queueEnable fn _ => some fn
  | .queueDisable fn _ => some fn
  | .qreset fn _ => some fn
  | .queueDrainDone _ => none
  | .doorbellSqTail fn _ _ => some fn
  | .doorbellCqHead fn _ _ => some fn
  | .commandDispatch _ _ => none
  | .ringAccessFailed _ => none
  | .coalTimeExpiry _ => none
  | .engineCommandStart _ => none
  | .engineCommandComplete _ _ => none
  | .loadImem _ _ => none
  | .startContext _ => none
  | .stopContext _ => none
  | .syncSet _ => none
  | .tileMove _ => none
  | .halt _ _ => none
  | .nop _ _ => none
  | .readtime _ _ _ => none
  | .readctx _ _ _ => none
  | .integerRForm _ _ _ _ _ _ => none
  | .integerIForm _ _ _ _ _ _ => none
  | .scratchLoad _ _ _ _ _ _ => none
  | .scratchStore _ _ _ _ _ _ => none
  | .atomicLoad _ _ _ _ _ => none
  | .atomicStore _ _ _ _ _ => none
  | .addI _ _ _ _ _ _ => none
  | .addF32 _ _ _ _ _ => none
  | .atomicMin _ _ _ _ _ _ => none
  | .atomicMax _ _ _ _ _ _ => none
  | .cas _ _ _ _ _ _ => none
  | .branch _ _ _ _ _ _ => none
  | .jump _ _ _ => none
  | .branchAndLink _ _ _ => none
  | .jumpRegister _ _ _ => none
  | .issue _ _ _ _ _ => none
  | .issueStallRelease _ _ => none
  | .syncwait _ _ _ _ => none
  | .syncwaitRelease _ _ => none
  | .syncpost _ _ _ _ => none
  | .reservedOpcode _ _ => none
  | .scratchScrub _ _ _ => none
  | .mxaMatmul _ _ => none
  | .mxaPass _ _ => none
  | .mxaDrain _ => none
  | .mxaRelease _ => none
  | .spillContributionResume _ _ => none
  | .finishedTileRoom _ => none
  | .mxaInject fn _ _ => some fn
  | .gmvMatvec _ => none
  | .venMap _ => none
  | .venReduce _ => none
  | .venShuffle _ => none
  | .venHistFlush _ => none
  | .venRelease _ => none
  | .atnScores _ => none
  | .atnAccum _ => none
  | .atnFinish _ => none
  | .atnKvLoad _ => none
  | .atnKvFlush _ => none
  | .chnSend _ => none
  | .chnRelease _ => none
  | .channelMessageArrival _ _ => none
  | .channelSendAck _ _ => none
  | .channelCreditReturn _ _ => none
  | .sendTimeout _ _ => none
  | .chnOutCfgWrite fn _ _ _ => some fn
  | .chnInCfgWrite fn _ _ _ _ => some fn
  | .pseStep _ => none
  | .pseStepAdmit _ => none
  | .pseDone _ => none
  | .pseDrain _ => none
  | .pseResume _ => none
  | .pseAbort _ => none
  | .pseVersionOpen _ => none
  | .pseVersionPublish _ => none
  | .pseVersionExtend _ => none
  | .psePhaseDispatch _ => none
  | .pseTransferArrival _ _ _ _ _ _ => none
  | .pseArrivalReport _ _ _ _ => none
  | .pseCreditReturn _ _ => none
  | .pseTransferFailed _ _ _ _ => none
  | .pseStageCfgWrite fn _ _ => some fn
  | .updRun _ => none
  | .updRunInit _ => none
  | .landingComplete _ _ => none
  | .upsNoticeStart => none
  | .upsNoticeDone => none
  | .upfPublish _ => none
  | .digestReport _ _ _ _ => none
  | .comparerWaitExpiry _ => none
  | .comparisonReport _ _ _ => none
  | .replicaRepaired _ _ _ _ => none
  | .digestLate _ => none
  | .gxeBucketReady _ => none
  | .gxeAbort => none
  | .contrib _ => none
  | .hist _ => none
  | .grantReq _ => none
  | .grant _ => none
  | .close _ => none
  | .result _ => none
  | .chunkResendRequest _ _ _ _ _ _ => none
  | .stragglerWindowExpiry _ _ _ => none
  | .drzGather _ => none
  | .drzScatter _ => none
  | .cxlMemRead _ _ => none
  | .cxlMemWrite _ _ _ => none
  | .cxlMemBaseWrite fn _ => some fn
  | .memIlvWrite fn _ _ _ => some fn
  | .fence fn _ _ => some fn
  | .stackScrub _ _ => none
  | .stackHot _ => none
  | .cluWindowWrite fn _ _ _ => some fn
  | .retrain fn _ => some fn
  | .tierTraining fn _ => some fn
  | .gdrTrainingDone _ _ _ => none
  | .wckTracking _ => none
  | .gdrCrcError _ _ => none
  | .tgcStart fn _ _ => some fn
  | .tgcStop fn _ _ => some fn
  | .tgcRunDone _ _ _ _ _ => none
  | .dataFrameSend _ => none
  | .dataFrameReceive _ _ => none
  | .idleFrameReceive _ _ => none
  | .hello _ _ _ _ => none
  | .resync _ _ _ _ _ => none
  | .laneMap _ _ _ _ => none
  | .down _ _ => none
  | .linkFrameRepeat _ => none
  | .replayTimeout _ => none
  | .nakRequeue _ _ => none
  | .squall _ _ _ => none
  | .spareLaneTest _ _ _ _ => none
  | .lossOfLight _ => none
  | .noValidFrame _ => none
  | .retrainOverrun _ => none
  | .laneMapTimeout _ => none
  | .linkLost _ => none
  | .trainingDone _ _ _ _ => none
  | .bringupRetry _ => none
  | .lnkEnable fn _ => some fn
  | .lnkRetrain fn _ => some fn
  | .forceDown fn _ => some fn
  | .laserLoss _ _ => none
  | .torPut _ => none
  | .putRequestArrival _ => none
  | .putReply _ _ => none
  | .putTimeout _ => none
  | .torReshard => none
  | .reshardCopyDone _ => none
  | .torCoordWrite fn _ => some fn
  | .torJboxWrite fn _ _ => some fn
  | .torAbsentWrite fn _ _ => some fn
  | .jobPreempt _ => none
  | .jobResume _ => none
  | .rgnTask _ => none
  | .rgnTaskDispatch _ _ => none
  | .jobEnable fn _ _ => some fn
  | .jobCoresWrite fn _ _ _ => some fn
  | .jobRegionsWrite fn _ _ => some fn
  | .jobMemWrite fn _ _ _ => some fn
  | .jobSlowWrite fn _ _ => some fn
  | .allocationZeroed _ => none
  | .plevelRequest fn _ => some fn
  | .powerAverageSample _ => none
  | .levelStepDone => none
  | .thermalSample _ => none
  | .thermalTrip _ => none
  | .requestS0 fn => some fn
  | .requestS1 fn => some fn
  | .requestS2 fn => some fn
  | .requestS3 fn => some fn
  | .wakeMatch _ _ _ => none
  | .lowPowerBrownout => none
  | .vinCoreSample _ => none
  | .shedUndo => none
  | .refclkLoss => none
  | .refclkLock => none
  | .vinIoUndervoltage => none
  | .coldReset _ => none
  | .warm fn _ => some fn
  | .cxlResetN _ _ => none
  | .functionLevelReset _ => none
  | .flrWipeDone _ => none
  | .linkReset fn _ => some fn
  | .fabricOpen fn => some fn
  | .bridgeUnitCrcFail _ _ => none
  | .bridgeLaneFail _ _ _ => none
  | .readReg _ => none
  | .readLog _ => none
  | .warmReset _ => none
  | .resetWaitExpiry _ => none
  | .powerOff => none
  | .traceFreeze => none
  | .traceDump _ => none
  | .traceRelease _ => none
  | .sidebandBadOp _ _ => none
  | .rcvWrite _ => none
  | .rcvActivate => none
  | .transferFw _ _ => none
  | .activateFw => none
  | .getFwInfo => none
  | .recoveryOwnerTimeout => none
  | .getVersion => none
  | .getCapabilities => none
  | .negotiateAlgorithms => none
  | .getDigests => none
  | .getCertificate _ _ _ => none
  | .challenge _ _ => none
  | .getMeasurements _ _ => none
  | .lifecycleRequest fn _ _ => some fn
  | .svnCommit fn => some fn
  | .revoke fn _ => some fn
  | .cntClear fn _ _ => some fn
  | .cntClearAll fn _ => some fn
  | .freeze fn => some fn
  | .release fn => some fn
  | .traceDrain _ => none
  | .violatingRead fn _ _ _ => some fn
  | .cxlLinkDown => none
  | .cxlLinkUp => none
  | .cxlPortRelease => none
  | .stackHotEnd _ => none
  | .clusterCacheScrub _ _ _ => none
  | .thawZeroingDone _ => none
  | .vaonLoss => none
  | .jtagInstruction _ => none
  | .repairRequest _ _ => none

/-- A well-formed command that a function sends comes from one of the functions 0 to 15. -/
def Sender.Statement (i : Instr) : Prop := i.wf = true → ∀ f, sender i = some f → f < 16

theorem Sender.registerWrite (fn : Nat) (bar : Nat) (off : Nat) (len : Nat) (val : W64) : Sender.Statement (.registerWrite fn bar off len val) := by
  intro h f e
  cases e
  simp_all [Instr.wf, lt]
theorem Sender.errStatusClear (fn : Nat) (page : Nat) (ones : W64) : Sender.Statement (.errStatusClear fn page ones) := by
  intro h f e
  cases e
  simp_all [Instr.wf, lt]
theorem Sender.jobQueueRangeWrite (fn : Nat) (f : Nat) (val : W64) : Sender.Statement (.jobQueueRangeWrite fn f val) := by
  intro h f e
  cases e
  simp_all [Instr.wf, lt]
theorem Sender.jobEvtHeadWrite (fn : Nat) (f : Nat) (val : W64) : Sender.Statement (.jobEvtHeadWrite fn f val) := by
  intro h f e
  cases e
  simp_all [Instr.wf, lt]
theorem Sender.queueEnable (fn : Nat) (q : Nat) : Sender.Statement (.queueEnable fn q) := by
  intro h f e
  cases e
  simp_all [Instr.wf, lt]
theorem Sender.queueDisable (fn : Nat) (q : Nat) : Sender.Statement (.queueDisable fn q) := by
  intro h f e
  cases e
  simp_all [Instr.wf, lt]
theorem Sender.qreset (fn : Nat) (q : Nat) : Sender.Statement (.qreset fn q) := by
  intro h f e
  cases e
  simp_all [Instr.wf, lt]
theorem Sender.queueDrainDone (q : Nat) : Sender.Statement (.queueDrainDone q) := fun _ _ h => nomatch h
theorem Sender.doorbellSqTail (fn : Nat) (slot : Nat) (val : W64) : Sender.Statement (.doorbellSqTail fn slot val) := by
  intro h f e
  cases e
  simp_all [Instr.wf, lt]
theorem Sender.doorbellCqHead (fn : Nat) (slot : Nat) (val : W64) : Sender.Statement (.doorbellCqHead fn slot val) := by
  intro h f e
  cases e
  simp_all [Instr.wf, lt]
theorem Sender.commandDispatch (q : Nat) (bytes : List Byte) : Sender.Statement (.commandDispatch q bytes) := fun _ _ h => nomatch h
theorem Sender.ringAccessFailed (q : RingOf) : Sender.Statement (.ringAccessFailed q) := fun _ _ h => nomatch h
theorem Sender.coalTimeExpiry (q : Nat) : Sender.Statement (.coalTimeExpiry q) := fun _ _ h => nomatch h
theorem Sender.engineCommandStart (eng : EngineStart) : Sender.Statement (.engineCommandStart eng) := fun _ _ h => nomatch h
theorem Sender.engineCommandComplete (eng : Nat) (id : Nat) : Sender.Statement (.engineCommandComplete eng id) := fun _ _ h => nomatch h
theorem Sender.loadImem (core : Nat) (hostData : List Byte) : Sender.Statement (.loadImem core hostData) := fun _ _ h => nomatch h
theorem Sender.startContext (core : Nat) : Sender.Statement (.startContext core) := fun _ _ h => nomatch h
theorem Sender.stopContext (core : Nat) : Sender.Statement (.stopContext core) := fun _ _ h => nomatch h
theorem Sender.syncSet (core : Nat) : Sender.Statement (.syncSet core) := fun _ _ h => nomatch h
theorem Sender.tileMove (core : Nat) : Sender.Statement (.tileMove core) := fun _ _ h => nomatch h
theorem Sender.halt (core : Nat) (ctx : Nat) : Sender.Statement (.halt core ctx) := fun _ _ h => nomatch h
theorem Sender.nop (core : Nat) (ctx : Nat) : Sender.Statement (.nop core ctx) := fun _ _ h => nomatch h
theorem Sender.readtime (core : Nat) (ctx : Nat) (rd : Nat) : Sender.Statement (.readtime core ctx rd) := fun _ _ h => nomatch h
theorem Sender.readctx (core : Nat) (ctx : Nat) (rd : Nat) : Sender.Statement (.readctx core ctx rd) := fun _ _ h => nomatch h
theorem Sender.integerRForm (core : Nat) (ctx : Nat) (op : IntOp) (rd : Nat) (ra : Nat) (rb : Nat) : Sender.Statement (.integerRForm core ctx op rd ra rb) := fun _ _ h => nomatch h
theorem Sender.integerIForm (core : Nat) (ctx : Nat) (op : IntOpI) (rd : Nat) (ra : Nat) (imm : BitVec 16) : Sender.Statement (.integerIForm core ctx op rd ra imm) := fun _ _ h => nomatch h
theorem Sender.scratchLoad (core : Nat) (ctx : Nat) (log2 : Nat) (rd : Nat) (ra : Nat) (imm : BitVec 16) : Sender.Statement (.scratchLoad core ctx log2 rd ra imm) := fun _ _ h => nomatch h
theorem Sender.scratchStore (core : Nat) (ctx : Nat) (log2 : Nat) (rs : Nat) (ra : Nat) (imm : BitVec 16) : Sender.Statement (.scratchStore core ctx log2 rs ra imm) := fun _ _ h => nomatch h
theorem Sender.atomicLoad (core : Nat) (ctx : Nat) (wide : Bool) (rd : Nat) (ra : Nat) : Sender.Statement (.atomicLoad core ctx wide rd ra) := fun _ _ h => nomatch h
theorem Sender.atomicStore (core : Nat) (ctx : Nat) (wide : Bool) (ra : Nat) (rb : Nat) : Sender.Statement (.atomicStore core ctx wide ra rb) := fun _ _ h => nomatch h
theorem Sender.addI (core : Nat) (ctx : Nat) (wide : Bool) (rd : Nat) (ra : Nat) (rb : Nat) : Sender.Statement (.addI core ctx wide rd ra rb) := fun _ _ h => nomatch h
theorem Sender.addF32 (core : Nat) (ctx : Nat) (rd : Nat) (ra : Nat) (rb : Nat) : Sender.Statement (.addF32 core ctx rd ra rb) := fun _ _ h => nomatch h
theorem Sender.atomicMin (core : Nat) (ctx : Nat) (k : MmKind) (rd : Nat) (ra : Nat) (rb : Nat) : Sender.Statement (.atomicMin core ctx k rd ra rb) := fun _ _ h => nomatch h
theorem Sender.atomicMax (core : Nat) (ctx : Nat) (k : MmKind) (rd : Nat) (ra : Nat) (rb : Nat) : Sender.Statement (.atomicMax core ctx k rd ra rb) := fun _ _ h => nomatch h
theorem Sender.cas (core : Nat) (ctx : Nat) (wide : Bool) (rd : Nat) (ra : Nat) (rb : Nat) : Sender.Statement (.cas core ctx wide rd ra rb) := fun _ _ h => nomatch h
theorem Sender.branch (core : Nat) (ctx : Nat) (c : Cond) (ra : Nat) (rb : Nat) (off : BitVec 16) : Sender.Statement (.branch core ctx c ra rb off) := fun _ _ h => nomatch h
theorem Sender.jump (core : Nat) (ctx : Nat) (off : BitVec 16) : Sender.Statement (.jump core ctx off) := fun _ _ h => nomatch h
theorem Sender.branchAndLink (core : Nat) (ctx : Nat) (off : BitVec 16) : Sender.Statement (.branchAndLink core ctx off) := fun _ _ h => nomatch h
theorem Sender.jumpRegister (core : Nat) (ctx : Nat) (ra : Nat) : Sender.Statement (.jumpRegister core ctx ra) := fun _ _ h => nomatch h
theorem Sender.issue (core : Nat) (ctx : Nat) (engine : Nat) (op : Nat) (ra : Nat) : Sender.Statement (.issue core ctx engine op ra) := fun _ _ h => nomatch h
theorem Sender.issueStallRelease (core : Nat) (ctx : Nat) : Sender.Statement (.issueStallRelease core ctx) := fun _ _ h => nomatch h
theorem Sender.syncwait (core : Nat) (ctx : Nat) (ra : Nat) (imm : Nat) : Sender.Statement (.syncwait core ctx ra imm) := fun _ _ h => nomatch h
theorem Sender.syncwaitRelease (core : Nat) (ctx : Nat) : Sender.Statement (.syncwaitRelease core ctx) := fun _ _ h => nomatch h
theorem Sender.syncpost (core : Nat) (ctx : Nat) (ra : Nat) (imm : Nat) : Sender.Statement (.syncpost core ctx ra imm) := fun _ _ h => nomatch h
theorem Sender.reservedOpcode (core : Nat) (ctx : Nat) : Sender.Statement (.reservedOpcode core ctx) := fun _ _ h => nomatch h
theorem Sender.scratchScrub (core : Nat) (addr : Nat) (o : Ecc) : Sender.Statement (.scratchScrub core addr o) := fun _ _ h => nomatch h
theorem Sender.mxaMatmul (core : Nat) (faults : List CheckFault) : Sender.Statement (.mxaMatmul core faults) := fun _ _ h => nomatch h
theorem Sender.mxaPass (core : Nat) (faults : List CheckFault) : Sender.Statement (.mxaPass core faults) := fun _ _ h => nomatch h
theorem Sender.mxaDrain (core : Nat) : Sender.Statement (.mxaDrain core) := fun _ _ h => nomatch h
theorem Sender.mxaRelease (core : Nat) : Sender.Statement (.mxaRelease core) := fun _ _ h => nomatch h
theorem Sender.spillContributionResume (eng : Nat) (id : Nat) : Sender.Statement (.spillContributionResume eng id) := fun _ _ h => nomatch h
theorem Sender.finishedTileRoom (core : Nat) : Sender.Statement (.finishedTileRoom core) := fun _ _ h => nomatch h
theorem Sender.mxaInject (fn : Nat) (core : Nat) (count : Nat) : Sender.Statement (.mxaInject fn core count) := by
  intro h f e
  cases e
  simp_all [Instr.wf, lt]
theorem Sender.gmvMatvec (region : Nat) : Sender.Statement (.gmvMatvec region) := fun _ _ h => nomatch h
theorem Sender.venMap (core : Nat) : Sender.Statement (.venMap core) := fun _ _ h => nomatch h
theorem Sender.venReduce (core : Nat) : Sender.Statement (.venReduce core) := fun _ _ h => nomatch h
theorem Sender.venShuffle (core : Nat) : Sender.Statement (.venShuffle core) := fun _ _ h => nomatch h
theorem Sender.venHistFlush (core : Nat) : Sender.Statement (.venHistFlush core) := fun _ _ h => nomatch h
theorem Sender.venRelease (core : Nat) : Sender.Statement (.venRelease core) := fun _ _ h => nomatch h
theorem Sender.atnScores (core : Nat) : Sender.Statement (.atnScores core) := fun _ _ h => nomatch h
theorem Sender.atnAccum (core : Nat) : Sender.Statement (.atnAccum core) := fun _ _ h => nomatch h
theorem Sender.atnFinish (core : Nat) : Sender.Statement (.atnFinish core) := fun _ _ h => nomatch h
theorem Sender.atnKvLoad (core : Nat) : Sender.Statement (.atnKvLoad core) := fun _ _ h => nomatch h
theorem Sender.atnKvFlush (core : Nat) : Sender.Statement (.atnKvFlush core) := fun _ _ h => nomatch h
theorem Sender.chnSend (core : Nat) : Sender.Statement (.chnSend core) := fun _ _ h => nomatch h
theorem Sender.chnRelease (core : Nat) : Sender.Statement (.chnRelease core) := fun _ _ h => nomatch h
theorem Sender.channelMessageArrival (core : Nat) (ch : Nat) : Sender.Statement (.channelMessageArrival core ch) := fun _ _ h => nomatch h
theorem Sender.channelSendAck (core : Nat) (ch : Nat) : Sender.Statement (.channelSendAck core ch) := fun _ _ h => nomatch h
theorem Sender.channelCreditReturn (core : Nat) (ch : Nat) : Sender.Statement (.channelCreditReturn core ch) := fun _ _ h => nomatch h
theorem Sender.sendTimeout (core : Nat) (id : Nat) : Sender.Statement (.sendTimeout core id) := fun _ _ h => nomatch h
theorem Sender.chnOutCfgWrite (fn : Nat) (core : Nat) (ch : Nat) (val : W64) : Sender.Statement (.chnOutCfgWrite fn core ch val) := by
  intro h f e
  cases e
  simp_all [Instr.wf, lt]
theorem Sender.chnInCfgWrite (fn : Nat) (core : Nat) (ch : Nat) (reel : Bool) (val : W64) : Sender.Statement (.chnInCfgWrite fn core ch reel val) := by
  intro h f e
  cases e
  simp_all [Instr.wf, lt]
theorem Sender.pseStep (region : Nat) : Sender.Statement (.pseStep region) := fun _ _ h => nomatch h
theorem Sender.pseStepAdmit (region : Nat) : Sender.Statement (.pseStepAdmit region) := fun _ _ h => nomatch h
theorem Sender.pseDone (region : Nat) : Sender.Statement (.pseDone region) := fun _ _ h => nomatch h
theorem Sender.pseDrain (region : Nat) : Sender.Statement (.pseDrain region) := fun _ _ h => nomatch h
theorem Sender.pseResume (region : Nat) : Sender.Statement (.pseResume region) := fun _ _ h => nomatch h
theorem Sender.pseAbort (region : Nat) : Sender.Statement (.pseAbort region) := fun _ _ h => nomatch h
theorem Sender.pseVersionOpen (region : Nat) : Sender.Statement (.pseVersionOpen region) := fun _ _ h => nomatch h
theorem Sender.pseVersionPublish (region : Nat) : Sender.Statement (.pseVersionPublish region) := fun _ _ h => nomatch h
theorem Sender.pseVersionExtend (region : Nat) : Sender.Statement (.pseVersionExtend region) := fun _ _ h => nomatch h
theorem Sender.psePhaseDispatch (region : Nat) : Sender.Statement (.psePhaseDispatch region) := fun _ _ h => nomatch h
theorem Sender.pseTransferArrival (region : Nat) (backward : Bool) (mb : Nat) (vs : Nat) (bytes : Nat) (data : List Byte) : Sender.Statement (.pseTransferArrival region backward mb vs bytes data) := fun _ _ h => nomatch h
theorem Sender.pseArrivalReport (region : Nat) (backward : Bool) (mb : Nat) (vs : Nat) : Sender.Statement (.pseArrivalReport region backward mb vs) := fun _ _ h => nomatch h
theorem Sender.pseCreditReturn (region : Nat) (count : Nat) : Sender.Statement (.pseCreditReturn region count) := fun _ _ h => nomatch h
theorem Sender.pseTransferFailed (region : Nat) (down : Bool) (linkLost : Bool) (addr : Nat) : Sender.Statement (.pseTransferFailed region down linkLost addr) := fun _ _ h => nomatch h
theorem Sender.pseStageCfgWrite (fn : Nat) (region : Nat) (val : W64) : Sender.Statement (.pseStageCfgWrite fn region val) := by
  intro h f e
  cases e
  simp_all [Instr.wf, lt]
theorem Sender.updRun (region : Nat) : Sender.Statement (.updRun region) := fun _ _ h => nomatch h
theorem Sender.updRunInit (region : Nat) : Sender.Statement (.updRunInit region) := fun _ _ h => nomatch h
theorem Sender.landingComplete (region : Nat) (group : Nat) : Sender.Statement (.landingComplete region group) := fun _ _ h => nomatch h
theorem Sender.upsNoticeStart : Sender.Statement .upsNoticeStart := fun _ _ h => nomatch h
theorem Sender.upsNoticeDone : Sender.Statement .upsNoticeDone := fun _ _ h => nomatch h
theorem Sender.upfPublish (region : Nat) : Sender.Statement (.upfPublish region) := fun _ _ h => nomatch h
theorem Sender.digestReport (region : Nat) (d : Nat) (step : Nat) (groups : List (Nat × Nat)) : Sender.Statement (.digestReport region d step groups) := fun _ _ h => nomatch h
theorem Sender.comparerWaitExpiry (region : Nat) : Sender.Statement (.comparerWaitExpiry region) := fun _ _ h => nomatch h
theorem Sender.comparisonReport (region : Nat) (step : Nat) (r : DigReport) : Sender.Statement (.comparisonReport region step r) := fun _ _ h => nomatch h
theorem Sender.replicaRepaired (region : Nat) (group : Nat) (majority : Nat) (data : List Byte) : Sender.Statement (.replicaRepaired region group majority data) := fun _ _ h => nomatch h
theorem Sender.digestLate (region : Nat) : Sender.Statement (.digestLate region) := fun _ _ h => nomatch h
theorem Sender.gxeBucketReady (id : Nat) : Sender.Statement (.gxeBucketReady id) := fun _ _ h => nomatch h
theorem Sender.gxeAbort : Sender.Statement .gxeAbort := fun _ _ h => nomatch h
theorem Sender.contrib (p : GxePkt) : Sender.Statement (.contrib p) := fun _ _ h => nomatch h
theorem Sender.hist (p : GxePkt) : Sender.Statement (.hist p) := fun _ _ h => nomatch h
theorem Sender.grantReq (p : GxePkt) : Sender.Statement (.grantReq p) := fun _ _ h => nomatch h
theorem Sender.grant (p : GxePkt) : Sender.Statement (.grant p) := fun _ _ h => nomatch h
theorem Sender.close (p : GxePkt) : Sender.Statement (.close p) := fun _ _ h => nomatch h
theorem Sender.result (p : GxePkt) : Sender.Statement (.result p) := fun _ _ h => nomatch h
theorem Sender.chunkResendRequest (job : Nat) (bucket : Nat) (shard : Nat) (step : Nat) (chunk : Nat) (dst : Nat) : Sender.Statement (.chunkResendRequest job bucket shard step chunk dst) := fun _ _ h => nomatch h
theorem Sender.stragglerWindowExpiry (job : Nat) (bucket : Nat) (shard : Nat) : Sender.Statement (.stragglerWindowExpiry job bucket shard) := fun _ _ h => nomatch h
theorem Sender.drzGather (region : Nat) : Sender.Statement (.drzGather region) := fun _ _ h => nomatch h
theorem Sender.drzScatter (region : Nat) : Sender.Statement (.drzScatter region) := fun _ _ h => nomatch h
theorem Sender.cxlMemRead (off : Nat) (len : Nat) : Sender.Statement (.cxlMemRead off len) := fun _ _ h => nomatch h
theorem Sender.cxlMemWrite (off : Nat) (data : List Byte) (poison : Bool) : Sender.Statement (.cxlMemWrite off data poison) := fun _ _ h => nomatch h
theorem Sender.cxlMemBaseWrite (fn : Nat) (val : BaseWrite) : Sender.Statement (.cxlMemBaseWrite fn val) := by
  intro h f e
  cases e
  simp_all [Instr.wf, lt]
theorem Sender.memIlvWrite (fn : Nat) (region : Nat) (ch : Nat) (val : W64) : Sender.Statement (.memIlvWrite fn region ch val) := by
  intro h f e
  cases e
  simp_all [Instr.wf, lt]
theorem Sender.fence (fn : Nat) (region : Nat) (ch : Nat) : Sender.Statement (.fence fn region ch) := by
  intro h f e
  cases e
  simp_all [Instr.wf, lt]
theorem Sender.stackScrub (addr : Nat) (o : Ecc) : Sender.Statement (.stackScrub addr o) := fun _ _ h => nomatch h
theorem Sender.stackHot (stack : Nat) : Sender.Statement (.stackHot stack) := fun _ _ h => nomatch h
theorem Sender.cluWindowWrite (fn : Nat) (cluster : Nat) (w : Nat) (val : W64) : Sender.Statement (.cluWindowWrite fn cluster w val) := by
  intro h f e
  cases e
  simp_all [Instr.wf, lt]
theorem Sender.retrain (fn : Nat) (port : Nat) : Sender.Statement (.retrain fn port) := by
  intro h f e
  cases e
  simp_all [Instr.wf, lt]
theorem Sender.tierTraining (fn : Nat) (port : Nat) : Sender.Statement (.tierTraining fn port) := by
  intro h f e
  cases e
  simp_all [Instr.wf, lt]
theorem Sender.gdrTrainingDone (port : Nat) (ok : Bool) (us : Nat) : Sender.Statement (.gdrTrainingDone port ok us) := fun _ _ h => nomatch h
theorem Sender.wckTracking (port : Nat) : Sender.Statement (.wckTracking port) := fun _ _ h => nomatch h
theorem Sender.gdrCrcError (port : Nat) (e : CrcEnd) : Sender.Statement (.gdrCrcError port e) := fun _ _ h => nomatch h
theorem Sender.tgcStart (fn : Nat) (region : Nat) (ch : Nat) : Sender.Statement (.tgcStart fn region ch) := by
  intro h f e
  cases e
  simp_all [Instr.wf, lt]
theorem Sender.tgcStop (fn : Nat) (region : Nat) (ch : Nat) : Sender.Statement (.tgcStop fn region ch) := by
  intro h f e
  cases e
  simp_all [Instr.wf, lt]
theorem Sender.tgcRunDone (region : Nat) (ch : Nat) (fails : List Nat) (minNs : Nat) (maxNs : Nat) : Sender.Statement (.tgcRunDone region ch fails minNs maxNs) := fun _ _ h => nomatch h
theorem Sender.dataFrameSend (dir : Nat) : Sender.Statement (.dataFrameSend dir) := fun _ _ h => nomatch h
theorem Sender.dataFrameReceive (dir : Nat) (ws : List LaneWord) : Sender.Statement (.dataFrameReceive dir ws) := fun _ _ h => nomatch h
theorem Sender.idleFrameReceive (dir : Nat) (ws : List LaneWord) : Sender.Statement (.idleFrameReceive dir ws) := fun _ _ h => nomatch h
theorem Sender.hello (dir : Nat) (epoch : Nat) (coord : Nat) (fresh : Bool) : Sender.Statement (.hello dir epoch coord fresh) := fun _ _ h => nomatch h
theorem Sender.resync (dir : Nat) (epoch : Nat) (partnerEpoch : Nat) (rxExpected : Nat) (credits : List Nat) : Sender.Statement (.resync dir epoch partnerEpoch rxExpected credits) := fun _ _ h => nomatch h
theorem Sender.laneMap (dir : Nat) (way : Nat) (active : Nat) (width : Nat) : Sender.Statement (.laneMap dir way active width) := fun _ _ h => nomatch h
theorem Sender.down (dir : Nat) (cause : Nat) : Sender.Statement (.down dir cause) := fun _ _ h => nomatch h
theorem Sender.linkFrameRepeat (dir : Nat) : Sender.Statement (.linkFrameRepeat dir) := fun _ _ h => nomatch h
theorem Sender.replayTimeout (dir : Nat) : Sender.Statement (.replayTimeout dir) := fun _ _ h => nomatch h
theorem Sender.nakRequeue (dir : Nat) (seq : Nat) : Sender.Statement (.nakRequeue dir seq) := fun _ _ h => nomatch h
theorem Sender.squall (dir : Nat) (way : Nat) (lane : LaneSeen) : Sender.Statement (.squall dir way lane) := fun _ _ h => nomatch h
theorem Sender.spareLaneTest (dir : Nat) (way : Nat) (lane : Nat) (squalls : Bool) : Sender.Statement (.spareLaneTest dir way lane squalls) := fun _ _ h => nomatch h
theorem Sender.lossOfLight (dir : Nat) : Sender.Statement (.lossOfLight dir) := fun _ _ h => nomatch h
theorem Sender.noValidFrame (dir : Nat) : Sender.Statement (.noValidFrame dir) := fun _ _ h => nomatch h
theorem Sender.retrainOverrun (dir : Nat) : Sender.Statement (.retrainOverrun dir) := fun _ _ h => nomatch h
theorem Sender.laneMapTimeout (dir : Nat) : Sender.Statement (.laneMapTimeout dir) := fun _ _ h => nomatch h
theorem Sender.linkLost (dir : Nat) : Sender.Statement (.linkLost dir) := fun _ _ h => nomatch h
theorem Sender.trainingDone (dir : Nat) (ok : WayTrained) (rxBad : Nat) (txBad : Nat) : Sender.Statement (.trainingDone dir ok rxBad txBad) := fun _ _ h => nomatch h
theorem Sender.bringupRetry (dir : Nat) : Sender.Statement (.bringupRetry dir) := fun _ _ h => nomatch h
theorem Sender.lnkEnable (fn : Nat) (dir : Nat) : Sender.Statement (.lnkEnable fn dir) := by
  intro h f e
  cases e
  simp_all [Instr.wf, lt]
theorem Sender.lnkRetrain (fn : Nat) (dir : Nat) : Sender.Statement (.lnkRetrain fn dir) := by
  intro h f e
  cases e
  simp_all [Instr.wf, lt]
theorem Sender.forceDown (fn : Nat) (dir : Nat) : Sender.Statement (.forceDown fn dir) := by
  intro h f e
  cases e
  simp_all [Instr.wf, lt]
theorem Sender.laserLoss (oe : Nat) (fibre : Nat) : Sender.Statement (.laserLoss oe fibre) := fun _ _ h => nomatch h
theorem Sender.torPut (id : Nat) : Sender.Statement (.torPut id) := fun _ _ h => nomatch h
theorem Sender.putRequestArrival (r : PutReq) : Sender.Statement (.putRequestArrival r) := fun _ _ h => nomatch h
theorem Sender.putReply (id : Nat) (status : Nat) : Sender.Statement (.putReply id status) := fun _ _ h => nomatch h
theorem Sender.putTimeout (id : Nat) : Sender.Statement (.putTimeout id) := fun _ _ h => nomatch h
theorem Sender.torReshard : Sender.Statement .torReshard := fun _ _ h => nomatch h
theorem Sender.reshardCopyDone (buf : Nat) : Sender.Statement (.reshardCopyDone buf) := fun _ _ h => nomatch h
theorem Sender.torCoordWrite (fn : Nat) (val : W64) : Sender.Statement (.torCoordWrite fn val) := by
  intro h f e
  cases e
  simp_all [Instr.wf, lt]
theorem Sender.torJboxWrite (fn : Nat) (j : Nat) (val : W64) : Sender.Statement (.torJboxWrite fn j val) := by
  intro h f e
  cases e
  simp_all [Instr.wf, lt]
theorem Sender.torAbsentWrite (fn : Nat) (k : Nat) (val : W64) : Sender.Statement (.torAbsentWrite fn k val) := by
  intro h f e
  cases e
  simp_all [Instr.wf, lt]
theorem Sender.jobPreempt (f : Nat) : Sender.Statement (.jobPreempt f) := fun _ _ h => nomatch h
theorem Sender.jobResume (f : Nat) : Sender.Statement (.jobResume f) := fun _ _ h => nomatch h
theorem Sender.rgnTask (region : Nat) : Sender.Statement (.rgnTask region) := fun _ _ h => nomatch h
theorem Sender.rgnTaskDispatch (region : Nat) (id : Nat) : Sender.Statement (.rgnTaskDispatch region id) := fun _ _ h => nomatch h
theorem Sender.jobEnable (fn : Nat) (f : Nat) (val : W64) : Sender.Statement (.jobEnable fn f val) := by
  intro h f e
  cases e
  simp_all [Instr.wf, lt]
theorem Sender.jobCoresWrite (fn : Nat) (f : Nat) (n : Nat) (val : W64) : Sender.Statement (.jobCoresWrite fn f n val) := by
  intro h f e
  cases e
  simp_all [Instr.wf, lt]
theorem Sender.jobRegionsWrite (fn : Nat) (f : Nat) (val : W64) : Sender.Statement (.jobRegionsWrite fn f val) := by
  intro h f e
  cases e
  simp_all [Instr.wf, lt]
theorem Sender.jobMemWrite (fn : Nat) (f : Nat) (n : Nat) (val : W64) : Sender.Statement (.jobMemWrite fn f n val) := by
  intro h f e
  cases e
  simp_all [Instr.wf, lt]
theorem Sender.jobSlowWrite (fn : Nat) (f : Nat) (val : W64) : Sender.Statement (.jobSlowWrite fn f val) := by
  intro h f e
  cases e
  simp_all [Instr.wf, lt]
theorem Sender.allocationZeroed (z : Freed) : Sender.Statement (.allocationZeroed z) := fun _ _ h => nomatch h
theorem Sender.plevelRequest (fn : Nat) (level : Nat) : Sender.Statement (.plevelRequest fn level) := by
  intro h f e
  cases e
  simp_all [Instr.wf, lt]
theorem Sender.powerAverageSample (watts : Nat) : Sender.Statement (.powerAverageSample watts) := fun _ _ h => nomatch h
theorem Sender.levelStepDone : Sender.Statement .levelStepDone := fun _ _ h => nomatch h
theorem Sender.thermalSample (tj : Nat) : Sender.Statement (.thermalSample tj) := fun _ _ h => nomatch h
theorem Sender.thermalTrip (tj : Nat) : Sender.Statement (.thermalTrip tj) := fun _ _ h => nomatch h
theorem Sender.requestS0 (fn : Nat) : Sender.Statement (.requestS0 fn) := by
  intro h f e
  cases e
  simp_all [Instr.wf, lt]
theorem Sender.requestS1 (fn : Nat) : Sender.Statement (.requestS1 fn) := by
  intro h f e
  cases e
  simp_all [Instr.wf, lt]
theorem Sender.requestS2 (fn : Nat) : Sender.Statement (.requestS2 fn) := by
  intro h f e
  cases e
  simp_all [Instr.wf, lt]
theorem Sender.requestS3 (fn : Nat) : Sender.Statement (.requestS3 fn) := by
  intro h f e
  cases e
  simp_all [Instr.wf, lt]
theorem Sender.wakeMatch (addr : Nat) (write : Bool) (u : StartUp) : Sender.Statement (.wakeMatch addr write u) := fun _ _ h => nomatch h
theorem Sender.lowPowerBrownout : Sender.Statement .lowPowerBrownout := fun _ _ h => nomatch h
theorem Sender.vinCoreSample (mv : Nat) : Sender.Statement (.vinCoreSample mv) := fun _ _ h => nomatch h
theorem Sender.shedUndo : Sender.Statement .shedUndo := fun _ _ h => nomatch h
theorem Sender.refclkLoss : Sender.Statement .refclkLoss := fun _ _ h => nomatch h
theorem Sender.refclkLock : Sender.Statement .refclkLock := fun _ _ h => nomatch h
theorem Sender.vinIoUndervoltage : Sender.Statement .vinIoUndervoltage := fun _ _ h => nomatch h
theorem Sender.coldReset (u : StartUp) : Sender.Statement (.coldReset u) := fun _ _ h => nomatch h
theorem Sender.warm (fn : Nat) (u : StartUp) : Sender.Statement (.warm fn u) := by
  intro h f e
  cases e
  simp_all [Instr.wf, lt]
theorem Sender.cxlResetN (lowNs : Nat) (u : StartUp) : Sender.Statement (.cxlResetN lowNs u) := fun _ _ h => nomatch h
theorem Sender.functionLevelReset (f : Nat) : Sender.Statement (.functionLevelReset f) := fun _ _ h => nomatch h
theorem Sender.flrWipeDone (f : Nat) : Sender.Statement (.flrWipeDone f) := fun _ _ h => nomatch h
theorem Sender.linkReset (fn : Nat) (dir : Nat) : Sender.Statement (.linkReset fn dir) := by
  intro h f e
  cases e
  simp_all [Instr.wf, lt]
theorem Sender.fabricOpen (fn : Nat) : Sender.Statement (.fabricOpen fn) := by
  intro h f e
  cases e
  simp_all [Instr.wf, lt]
theorem Sender.bridgeUnitCrcFail (bridge : Nat) (bundle : BundleLane) : Sender.Statement (.bridgeUnitCrcFail bridge bundle) := fun _ _ h => nomatch h
theorem Sender.bridgeLaneFail (bridge : Nat) (bundle : Nat) (lane : Nat) : Sender.Statement (.bridgeLaneFail bridge bundle lane) := fun _ _ h => nomatch h
theorem Sender.readReg (args : List Byte) : Sender.Statement (.readReg args) := fun _ _ h => nomatch h
theorem Sender.readLog (args : List Byte) : Sender.Statement (.readLog args) := fun _ _ h => nomatch h
theorem Sender.warmReset (u : StartUp) : Sender.Statement (.warmReset u) := fun _ _ h => nomatch h
theorem Sender.resetWaitExpiry (u : StartUp) : Sender.Statement (.resetWaitExpiry u) := fun _ _ h => nomatch h
theorem Sender.powerOff : Sender.Statement .powerOff := fun _ _ h => nomatch h
theorem Sender.traceFreeze : Sender.Statement .traceFreeze := fun _ _ h => nomatch h
theorem Sender.traceDump (args : List Byte) : Sender.Statement (.traceDump args) := fun _ _ h => nomatch h
theorem Sender.traceRelease (u : StartUp) : Sender.Statement (.traceRelease u) := fun _ _ h => nomatch h
theorem Sender.sidebandBadOp (op : Nat) (args : List Byte) : Sender.Statement (.sidebandBadOp op args) := fun _ _ h => nomatch h
theorem Sender.rcvWrite (args : List Byte) : Sender.Statement (.rcvWrite args) := fun _ _ h => nomatch h
theorem Sender.rcvActivate : Sender.Statement .rcvActivate := fun _ _ h => nomatch h
theorem Sender.transferFw (off : Nat) (data : List Byte) : Sender.Statement (.transferFw off data) := fun _ _ h => nomatch h
theorem Sender.activateFw : Sender.Statement .activateFw := fun _ _ h => nomatch h
theorem Sender.getFwInfo : Sender.Statement .getFwInfo := fun _ _ h => nomatch h
theorem Sender.recoveryOwnerTimeout : Sender.Statement .recoveryOwnerTimeout := fun _ _ h => nomatch h
theorem Sender.getVersion : Sender.Statement .getVersion := fun _ _ h => nomatch h
theorem Sender.getCapabilities : Sender.Statement .getCapabilities := fun _ _ h => nomatch h
theorem Sender.negotiateAlgorithms : Sender.Statement .negotiateAlgorithms := fun _ _ h => nomatch h
theorem Sender.getDigests : Sender.Statement .getDigests := fun _ _ h => nomatch h
theorem Sender.getCertificate (slot : Nat) (off : Nat) (len : Nat) : Sender.Statement (.getCertificate slot off len) := fun _ _ h => nomatch h
theorem Sender.challenge (slot : Nat) (nonce : List Byte) : Sender.Statement (.challenge slot nonce) := fun _ _ h => nomatch h
theorem Sender.getMeasurements (index : Nat) (nonce : List Byte) : Sender.Statement (.getMeasurements index nonce) := fun _ _ h => nomatch h
theorem Sender.lifecycleRequest (fn : Nat) (request : List Byte) (u : StartUp) : Sender.Statement (.lifecycleRequest fn request u) := by
  intro h f e
  cases e
  simp_all [Instr.wf, lt]
theorem Sender.svnCommit (fn : Nat) : Sender.Statement (.svnCommit fn) := by
  intro h f e
  cases e
  simp_all [Instr.wf, lt]
theorem Sender.revoke (fn : Nat) (bits : Nat) : Sender.Statement (.revoke fn bits) := by
  intro h f e
  cases e
  simp_all [Instr.wf, lt]
theorem Sender.cntClear (fn : Nat) (page : Nat) (index : Nat) : Sender.Statement (.cntClear fn page index) := by
  intro h f e
  cases e
  simp_all [Instr.wf, lt]
theorem Sender.cntClearAll (fn : Nat) (page : Nat) : Sender.Statement (.cntClearAll fn page) := by
  intro h f e
  cases e
  simp_all [Instr.wf, lt]
theorem Sender.freeze (fn : Nat) : Sender.Statement (.freeze fn) := by
  intro h f e
  cases e
  simp_all [Instr.wf, lt]
theorem Sender.release (fn : Nat) : Sender.Statement (.release fn) := by
  intro h f e
  cases e
  simp_all [Instr.wf, lt]
theorem Sender.traceDrain (cluster : Nat) : Sender.Statement (.traceDrain cluster) := fun _ _ h => nomatch h
theorem Sender.violatingRead (fn : Nat) (bar : Nat) (off : Nat) (len : Nat) : Sender.Statement (.violatingRead fn bar off len) := by
  intro h f e
  cases e
  simp_all [Instr.wf, lt]
theorem Sender.cxlLinkDown : Sender.Statement .cxlLinkDown := fun _ _ h => nomatch h
theorem Sender.cxlLinkUp : Sender.Statement .cxlLinkUp := fun _ _ h => nomatch h
theorem Sender.cxlPortRelease : Sender.Statement .cxlPortRelease := fun _ _ h => nomatch h
theorem Sender.stackHotEnd (stack : Nat) : Sender.Statement (.stackHotEnd stack) := fun _ _ h => nomatch h
theorem Sender.clusterCacheScrub (cluster : Nat) (off : Nat) (o : Ecc) : Sender.Statement (.clusterCacheScrub cluster off o) := fun _ _ h => nomatch h
theorem Sender.thawZeroingDone (p : ThawPart) : Sender.Statement (.thawZeroingDone p) := fun _ _ h => nomatch h
theorem Sender.vaonLoss : Sender.Statement .vaonLoss := fun _ _ h => nomatch h
theorem Sender.jtagInstruction (instr : Nat) : Sender.Statement (.jtagInstruction instr) := fun _ _ h => nomatch h
theorem Sender.repairRequest (region : Nat) (group : RepairAsk) : Sender.Statement (.repairRequest region group) := fun _ _ h => nomatch h

end Sys2Proof.Laws
end

