-- ==== Sys2Proof/Tests/Slice0.lean ====
section
/-! SUPPORT. The model's own tests: ill-formed commands, single commands on small states, and for every statement with
hypotheses concrete states and operands that meet them, one group of hypotheses for each clause. -/
namespace Sys2Proof.Tests
set_option Elab.async false
open Sys2Proof.Machine

/-! ### Small states -/


/-- A 48-byte body from fields (offset in the command, bytes, value). -/
def bodyOf (fs : List (Nat × Nat × Nat)) : List Byte :=
  fs.foldl (fun b f => b.take (f.1 - 16) ++ leBytes f.2.1 f.2.2 ++ b.drop (f.1 - 16 + f.2.1)) (List.replicate 48 0)
/-- A command of context 2 of a core, for job 1, with number 9. -/
def cmdOf (page op core : Nat) (fs : List (Nat × Nat × Nat)) : QCmd :=
  { id := 9, page := page, op := op, body := bodyOf fs, src := .ctx, fn := 1, job := 1, core := core, ctx := 2 }
def rcOf (page op core : Nat) (fs : List (Nat × Nat × Nat)) : RCmd := { cmd := cmdOf page op core fs }
/-- The engine of a command's page works on it. -/
def running (r : RCmd) (s : State) : State := setEng s (engKey r.cmd.page r.cmd.op) { running := [r] }

/-- Context 2 of core 70 is bound to job 1: an instruction window of 64 KiB from 8 KiB, a scratch window of 64 KiB from
16 KiB, a window of its cluster cache; the job is enabled. -/
def core70 (c : Ctx) : State :=
  setCtx (setReg (setReg (setReg (setReg State.reset (pgCor 70) 0x180 0x40080011) (pgCor 70) 0x188 0x100004)
    (pgClu 8) 0x108 0x02010003) (pgJob 1) 0x140 1) 70 2 c
def ctx70 : Ctx :=
  { st := 1, pc := 100, g := [(3, 0x1010008#64), (4, 5#64), (5, 0xFFFFFFFFFFFFFFFE#64), (6, 0x4100#64), (7, 200#64), (8, 0x1010003#64)] }
def w1 : State := wrMem (core70 ctx70) (spClu 8 + 0x10008) [1, 2, 3, 0, 0, 0, 0, 0x80]
/-- An R-form word, and one with two register fields and 16 more bits. -/
def rW (op a b c low : Nat) : Nat := op * 2 ^ 26 + a * 2 ^ 21 + b * 2 ^ 16 + c * 2 ^ 11 + low
def iW (op a b imm : Nat) : Nat := op * 2 ^ 26 + a * 2 ^ 21 + b * 2 ^ 16 + imm
/-- The instruction word at the PC of context 2 of core 70. -/
def prog (w : Nat) (s : State) : State := wrNum s (spImem 70 + winBase s 70 2 + (ctxOf s 70 2).pc) 4 w
/-- The queue of the vector engine of core 70 is full. -/
def wFull : State := setEng w1 (pgVen 70 * 2) { queue := List.replicate 32 {} }
/-- VEN_RELEASE of core 70. -/
def venRel : QCmd := cmdOf (pgVen 70) 5 70 []
/-- The context waits for room, or for a sync counter. -/
def wStall : State := core70 { ctx70 with st := 2, stall := some venRel }
def wWait (v : Nat) : State := core70 { ctx70 with st := 2, wait := some (3, v), sync := [(3, 10)] }
def wSync : State := core70 { ctx70 with sync := [(4, 40000), (5, 5)] }
def cor70 (op : Nat) (fs : List (Nat × Nat × Nat)) : RCmd := rcOf (pgCor 70) op 70 fs
def corOn (c : Ctx) (r : RCmd) : State := running r (core70 c)

/-- The CXL link is up and the fabric open; function 1 owns the queue groups 2 and 3 and core 70. -/
def host : State :=
  setReg (setReg (setReg { State.reset with cxlUp := true, fabricOpen := true } (pgJob 1) 0x100 0x20002) (pgJob 1) 0x208 0x40)
    (pgJob 1) 0x148 2
/-- Queue 33 has rings of 16 and 32 entries. -/
def queue33 (h : HQueue) : State := setHq (setReg host (pgHqu 33) (hqOff 33 + 0x10) 0x100000504) 33 h
def vecCmd : List Byte := [5, 0x1A, 0, 0, 0x66, 0x22, 0, 0, 1, 0, 0, 0, 0, 0, 0, 0, 3] ++ List.replicate 43 0 ++ [2, 0, 0, 0]
def ctxBoundHost (s : State) : State := setReg s (pgCor 70) 0x180 0x40080011
def engStart (c : QCmd) : State := setEng (core70 {}) (pgVen 70 * 2) { queue := [{ c with id := 1, job := 2, core := 70, ctx := 1, body := bodyOf [(56,2,0x110)] }, c] }
def hostDone (sync st : Nat) : RCmd :=
  { cmd := { cmdOf (pgVen 70) 5 70 [(59,1,sync)] with src := .host 33 1 7 false false }, fin := some (st, []) }
def w2c : State := { host with fabricOpen := false }

def ramp (n : Nat) : List Byte := (upTo n).map (fun i => BitVec.ofNat 8 (0x40 + i))
/-- The engine of a command's page works on it, over scratch bytes, and the records of array and vector engine of core 70. -/
def on70 (m : Mxa) (v : Ven) (r : RCmd) : State :=
  setReg (running r (setVen (setMxa (wrMem (core70 {}) (spScratch 70 + 0x4000) (ramp 64)) 70 m) 70 v)) (pgMxa 70) 0x100 0
/-- TILE_MOVE of 1 by 8 BF16 (format 3), of MXFP8 to the shadow set. -/
def tile (fs : List (Nat × Nat × Nat)) : RCmd := rcOf (pgCor 70) 4 70 fs
def tileCopy : RCmd := tile [(16,8,0x4000),(24,8,0x5000),(32,2,1),(34,2,8),(36,4,16),(40,4,16),(44,1,3)]
def tileLoadCmd : RCmd := tile [(16,8,0x4000),(32,2,32),(34,2,16),(36,4,32),(40,4,32),(44,1,3),(46,1,0xC)]
/-- MATMUL 2 by 4 by 8 of BF16 into the finished-tile queue, shape 0. -/
def matmul : RCmd := rcOf (pgMxa 70) 1 70
  [(16,4,0x4000),(20,4,0x4000),(28,2,2),(30,2,4),(32,2,8),(36,4,32),(40,4,32),(48,1,3),(49,1,3),(50,1,0)]
def fullSet : StatSet := { st := 2, job := 1, fmt := 3, shape := 0, vals := [[.fin false 3 (-1)]] }
def mxPass (f : Nat) : RCmd := rcOf (pgMxa 70) 2 70 [(16,4,0x4000),(20,4,64),(24,2,2),(26,2,1),(28,1,3),(29,1,f)]
def drainCmd (fs : List (Nat × Nat × Nat)) : RCmd := rcOf (pgMxa 70) 3 70 ([(18,2,2)] ++ fs)
def outBlk : OutBlk := { row := 0, col := 0, buf := 0, last := true, bufLast := true, vals := [[1, 0x3F800000]] }
def spillCmd : RCmd := { drainCmd [(17,1,2),(20,4,0x10000),(24,4,64),(28,2,3)] with outs := [outBlk] }
def wSpill : State :=
  wrMem (setEng (on70 { buf0 := { st := 1, job := 1, width := 2 } } {} spillCmd) (pgMxa 70 * 2) { aside := [spillCmd] }) (spClu 8 + 0x10000) [3]
/-- VEN commands over one entry of the finished-tile queue of 2 by 16 values; descriptors: offset, format << 23, space << 27. -/
def ent : FtqEntry := { slot := 1, job := 1, rows := 2, width := 16, int := false }
def ven70 (op : Nat) (fs : List (Nat × Nat × Nat)) : RCmd := rcOf (pgVen 70) op 70 fs
def onV (r : RCmd) : State := wrMem (on70 {} { ftq := [ent] } r) (spFtq 70 1) (ramp 128)
def vMap : RCmd := ven70 1 [(16,4,2 * 2^27),(20,4,0x4000 + 3 * 2^23),(28,4,0x5000 + 3 * 2^23),(32,2,32),(34,2,16),(36,2,16),(38,2,16),(40,2,16),(42,1,0),(43,1,0x40)]
def vRed (func : Nat) : RCmd := ven70 2 [(16,4,0x4000 + 3 * 2^23),(28,4,0x100 + 2^27),(32,2,16),(34,2,16),(36,2,16),(40,2,1),(42,1,func)]
def vShuf : RCmd := ven70 3 [(16,4,0x4000 + 3 * 2^23),(28,4,0x100 + 2^27),(32,2,32),(34,2,16),(36,2,16),(40,2,2)]
/-- One row: a sum with an immediate, and a reversal of FP32 values, each into a tile buffer. -/
def vMapI : RCmd := ven70 1 [(16,4,0x4000 + 3 * 2^23),(28,4,0x100 + 2^27),(32,2,16),(34,2,16),(36,2,32),(40,2,64),(42,1,1),(43,1,3),(48,4,0x3F800000)]
def vRev : RCmd := ven70 3 [(16,4,0x4000 + 4 * 2^23),(28,4,0x100 + 2^27),(32,2,16),(34,2,16),(36,2,64),(40,2,64),(42,1,1)]
def atn70 (op : Nat) (fs : List (Nat × Nat × Nat)) : RCmd := rcOf (pgAtn 70) op 70 fs
def atnAcc : RCmd := atn70 2 [(16,4,0x200),(24,2,2),(26,2,16),(28,1,1)]
def atnFin : RCmd := atn70 3 [(16,4,0x200),(20,4,0x1000),(24,4,0x5000 + 3 * 2^23),(28,4,0x6000),(32,2,2),(34,2,16),(36,2,16),(38,1,1)]
def atnSc : RCmd := atn70 1 [(16,4,0x5000 + 3 * 2^23),(20,4,0x1000),(24,4,0x4000),(28,4,0x4020),(32,2,2),(34,2,16),(44,2,16),(48,4,0x3F800000),(52,4,0x4000)]
/-- The same of one row, FINISH without LSE_OUT. -/
def atnFin1 : RCmd := atn70 3 [(16,4,0x200),(20,4,0x1000),(24,4,0x5000 + 3 * 2^23),(32,2,1),(34,2,16),(36,2,32)]
def atnSc1 : RCmd := atn70 1 [(16,4,0x5000 + 3 * 2^23),(20,4,0x1000),(24,4,0x4000),(28,4,0x4020),(32,2,1),(34,2,16),(44,2,32),(48,4,0x3F800000),(52,4,0x4000)]
def ent1 : FtqEntry := { ent with rows := 1 }
def onV1 (r : RCmd) : State := wrMem (on70 {} { ftq := [ent1] } r) (spFtq 70 1) (ramp 64)
/-- A key page at 64 KiB, of rows of 8 BF16 elements; page table at 0x4100 of scratch; staged at 0x5000. -/
def kv (op : Nat) : RCmd := atn70 op [(16,4,0x4100),(20,4,0x5000 + 3 * 2^23),(28,4,3),(32,2,1),(34,2,8),(36,1,3),(42,2,8)]
def onKv (r : RCmd) : State :=
  setReg (wrMem (wrMem (on70 {} {} r) (spScratch 70 + 0x4100) (leBytes 8 0x10000)) 0x10060 (ramp 16)) (pgJob 1) 0x300 1
def mvCmd (fs : List (Nat × Nat × Nat)) : RCmd := rcOf (pgGmv 1) 1 70 ([(16,8,0x10000),(24,4,0x10000),(28,4,0x11000),(32,2,32),(34,2,32),(36,4,64),(40,1,1),(41,1,0),(42,1,0)] ++ fs)
def onG (r : RCmd) : State := wrMem (wrMem (on70 {} {} r) (spClu 8 + 0x10000) (ramp 64)) 0x10000 (ramp 250)

/-- Outbound channel 3 of core 70 is bound to inbound channel 5 of core 100, with a reel of 8 KiB at 16 KiB of scratch. -/
def chans (o : OutCh) (i : InCh) : State :=
  setIn (setOut (setReg (setReg (setReg (setReg (core70 {}) (pgCor 100) 0x108 0x100004) (pgChn 70) 0x160 0x50640005) (pgChn 100) 0x3A0 0x11) (pgChn 100) 0x3A8 0x20004)
    70 3 o) 100 5 { i with peer := 70 * 16 + 3 + 1 }
def send (len : Nat) : RCmd := rcOf (pgChn 70) 1 70 [(16,4,0x4000),(20,4,len),(24,1,3),(28,4,77)]
def relCmd : RCmd := rcOf (pgChn 100) 2 100 [(16,1,5),(18,2,1)]
def msg : Msg := { off := 64, len := 64, seq := 4, tag := 77, payload := [1, 2, 3], sender := 70 * 16 + 3, id := 9 }
def wSendTimeout : State :=
  setEng { chans {} {} with time := 1000000000000 } (pgChn 70 * 2) { aside := [{ send 100 with since := 5 }] }
def chanHost (s : State) : State := { s with cxlUp := true }

/-- The stage of region 1: job 1, leader context 2 of core 70, its counter 3, work ring at 0x5000, at most 4 phases in
flight; stage 1 of 3 between P links; four pools of 4 buffers of 64 KiB. -/
def stage1 (p : Pse) : State :=
  setPse ([(0x100, 1 + 2 + 6 * 2 ^ 8 + 2 * 2 ^ 14 + 3 * 2 ^ 16 + 5 * 2 ^ 20 + 4 * 2 ^ 29), (0x110, 0x30001), (0x120, 3), (0x128, 2),
    (0x130, 0x100000), (0x138, 0x10004), (0x140, 0x200000), (0x148, 0x10004), (0x150, 0x300000), (0x158, 0x10004),
    (0x160, 0x400000), (0x168, 0x10004), (0x180, 0x500000), (0x1A0, 0x600000)].foldl
    (fun s e => setReg s (pgPse 1) e.1 e.2) (setReg (core70 {}) (pgJob 1) 0x300 1)) 1 p
/-- The last of three stages. -/
def lastStage (p : Pse) : State := setReg (stage1 p) (pgPse 1) 0x110 0x30002
def pse1 (op : Nat) (fs : List (Nat × Nat × Nat)) : RCmd := rcOf (pgPse 1) op 70 fs
def stp : PStep := { num := 7, nmb := 2, lag := 1, id := 3, r := some 6 }
def pub6 : SMap VSlot := [(0, { st := 2, first := 6, last := 6 })]
def p7 : Pse := { st := 1, cur := some stp, slots := pub6, firstTag := some 6, lastNum := some 7 }
def flt : PFlight := { wid := 4, ph := 0, mb := 1, v := 0, buf := 0 }

/-- A group descriptor of 32 by 32 elements; class G where `g` is 1. -/
def gdesc (g : Nat) : List Byte :=
  leBytes 6 0 ++ leBytes 1 0 ++ leBytes 1 g ++ leBytes 2 32 ++ leBytes 2 32 ++ leBytes 2 0x7F80 ++ leBytes 2 0 ++
    leBytes 8 0x710000 ++ leBytes 8 0x720000 ++ leBytes 8 0x730000 ++ leBytes 8 0x740000 ++ leBytes 4 0 ++ leBytes 4 0 ++
    leBytes 8 (g * 0x750000)
/-- The stage of region 1 with a program of END alone, a group table with group 5, and a digest table. -/
def upd1 (p : Pse) (u : Upf) : State :=
  setUpf (wrMem (setReg (setReg (stage1 p) (pgUpf 1) 0x800 0xFC000000) (pgDig 1) 0x108 0x7F0000) (0x700000 + 64 * 5) (gdesc 0)) 1 u
def updCmd (step init : Nat) : RCmd := rcOf (pgUpf 1) (if init = 1 then 1 else 1) 70 [(16,8,step),(24,8,99),(32,8,0x700000),(40,2,5),(42,2,1),(44,1,2 * init),(45,1,1)]
/-- A job box of D length 3; own coordinate d = 1; comparisons every 4 steps; region 1's comparer at d = 1. -/
def dig1 (g : Dig) (u : Upf) : State :=
  setDig (setReg (setReg (setReg (upd1 { slots := [(1, { st := 1, first := 8, last := 8 })], firstTag := some 8 } u) pgTor 0x100 0x02000001) pgTor 0x118 0x1000000000080) (pgDig 1) 0x100 0xA010004) 1 g
def pub8 : PubRun := { step := 8, descs := [(5, gdesc 0)] }
def nGrp : NGroup := { idx := 5, desc := gdesc 1, dec := 2, norm := 0 }
def ntc : Notice := { region := 1, job := 1, step := 8, d := 1, groups := [nGrp], slotAddr := 0x500000, prevAddr := some 0x600000 }

/-- The exchange set of job 1: replicas 0 to 2, this one 1; buckets 0 and 1; bucket 1 is one extent of three blocks of group 5. -/
def gxe1 (g : Gxe) : State :=
  setGxe (wrMem (wrMem (wrMem ([(0x140, 0x201), (0x150, 0x800000), (0x158, 0x820000), (0x160, 0x900000), (0x168, 0x100000002),
      (0x170, 0xA00004), (0x178, 0xA10004), (0x148, 0x3E800000000)].foldl (fun s e => setReg s pgGxe e.1 e.2)
    (setReg (setReg (upd1 {} {}) pgTor 0x100 0x02000001) pgTor 0x118 0x1000000000080))
    0x800040 (leBytes 1 1 ++ leBytes 7 0 ++ leBytes 8 0x810000 ++ leBytes 8 0x700000))
    0x810000 (leBytes 4 5 ++ leBytes 4 0 ++ leBytes 4 96 ++ leBytes 2 0x80 ++ leBytes 2 0 ++ leBytes 8 0x830000 ++ leBytes 8 0x840000))
    0x820040 (leBytes 8 8)) 1 g
def bktCmd (step : Nat) : RCmd := rcOf pgGxe 1 70 [(16,8,step),(24,2,1)]
def pkt (src shard chunk : Nat) : GxePkt :=
  { bs1 := false, blocks := 0, job := 1, bucket := 1, src := src, shard := shard, stepLo := 8, chunk := chunk, nonfinite := 0
    check := 0, payload := [] }
/-- The replica's RESULT chunk: 32 values and a scale, with its check. -/
def resPkt (good : Bool) : GxePkt :=
  { pkt 0 0 0 with blocks := 1, payload := ramp 33, check := (checkOf 0 (chunkInts false 1 (ramp 33)) + checkOf 96 [0x60]) % p61 + if good then 0 else 1 }
/-- The extent of bucket 1. -/
def extD : Ext := { group := 5, clu := false, cluster := 0, nrec := 0, e0 := 0, len := 96, fcst := 0x80, src := 0, err := 0, recs := 0 }

/-- A gather or scatter of one row of 64 bytes of a table in region 1, whose index is `k`. -/
def drzCmd (op : Nat) : RCmd :=
  rcOf (pgDrz 1) op 70 [(16, 8, 0x400000000), (24, 4, 0x4100), (28, 4, 0x4200), (32, 2, 1), (34, 2, 64), (36, 4, 128), (40, 4, 100)]
def drz1 (k : Nat) (op : Nat) : State :=
  running (drzCmd op) (wrMem (wrMem (wrNum (core70 {}) (spScratch 70 + 0x4100) 4 k) (0x400000000 + 128 * k) (ramp 64)) (spScratch 70 + 0x4200) (ramp 64))
def gdrOn (n st : Nat) : State :=
  (upTo n).foldl (fun s p => setReg (setReg s (pgGdr p) 0x100 1) (pgGdr p) 0x108 st) host

/-- Direction 1 of a package at coordinate 1 of an axis of length 4 (pitch axis D), its other axes of length 1; the optical
bundles are good. -/
def lnk1 (l : Lnk) : State :=
  setLnk { setReg (setReg (setReg (setReg (setReg host pgTor 0x100 0x3000001) pgDtd 0x110 0xFFFFFFFF000000) (pgLnk 1) 0x100 0x0B)
    (pgLnk 1) 0x120 0x0404040404040404) (pgLnk 1) 0x108 1000 with time := 5000000 } 1 l
def lUp : Lnk :=
  { st := 2, rxActive := 0xFFFFFFFF, txActive := 0xFFFFFFFF, rxWidth := 32, txWidth := 32, rxMap := List.range 32,
    txMap := List.range 32, txNext := 7, rxNext := 9, epoch := 3, pEpoch := 5 }
def txf (seq : Nat) : TxFrame := { dest := 0, src := 2, payload := ramp 40, seq := seq, inDir := 1 }
def frm (ty seq : Nat) : Frame :=
  { ty := ty, vc := 0, dateline := false, resend := false, seq := seq, len := 40, reqEpoch := 0, linkEpoch := 5, dest := 1,
    src := 2, payload := ramp 48, ackSeq := 6, ackValid := true, nakSeq := 0, nakValid := false, credCount := 0, credPool := 0,
    credValid := false }
/-- The words of a frame, each on its lane of 0 to 31, with its codeword's symbol errors. -/
def wordsOf (f : Frame) (errs : Nat) : List LaneWord :=
  (chunks 8 256 (frameBytes f)).mapIdx (fun j w => { lane := j, bytes := w, errors := errs })

def upInit : StartUp :=
  { strapCoord := 5, strapLen := 7, strapWake := 3, badChannels := [9], badLanes := [(3, 5)], failedPorts := [], flashAnswers := true, image := [] }
/-- Job 1 of `core70` with the allocations of function 1; a save area in region 1. -/
def jobS (c : Ctx) : State :=
  setReg (setReg (setReg (setReg (core70 c) (pgJob 1) 0x208 0x40) (pgJob 1) 0x148 2) (pgJob 1) 0x300 0x10000) (pgJob 1) 0x150 0x400000000
def preCmd (op : Nat) : RCmd :=
  { cmd := { cmdOf (pgJob 1) op 70 [(17, 1, 1), (24, 8, 0x40)] with src := .host 0 0 0 false false, fn := 0 } }
def tskCmd (pc mask : Nat) : RCmd := rcOf (pgRgn 1) 1 70 [(16, 8, mask), (24, 2, pc), (26, 1, 2), (32, 8, 0x1111), (40, 8, 0x2222)]

/-! ### States, commands and operands of the witnesses -/

def s1_0 := prog (rW 0 9 0 0 5) { w1 with time := 77 }
def s1_1 := corOn { ctx70 with st := 3 } (cor70 2 [(16,1,2),(18,2,8),(24,8,5),(48,8,6)])
def s1_2 := corOn {} (cor70 1 [(24,2,2048),(26,2,2),(29,1,2)])
def s1_3 := corOn {} (cor70 1 [(16,8,65536),(24,2,2048),(26,2,2),(28,1,1),(29,1,2)])
def s1_4 := corOn {} (cor70 3 [(16,1,2)])
def s1_5 := corOn {} (cor70 5 [(16,1,2),(17,1,4),(18,2,500)])
def s2_0 := queue33 { st := 1 }
def s3_0 := queue33 {}
def s3_1 := queue33 {st := 1}
def s3_2 := queue33 {st := 3}
def s3_3 := queue33 {st := 2, cause := 4}
def s3_4 := setReg (queue33 {}) (pgHqu 33) (hqOff 33 + 0x10) 0x100000502
def s3_5 := setReg (queue33 {}) (pgHqu 33) (hqOff 33 + 0x10) 0x100001105
def s3_6 := queue33 {st := 1, cqHead := 30, cqTail := 3}
def s3_7 := setReg (queue33 {}) (pgJob 0) 0x100 0x10000
def s3_8 := setReg (ctxBoundHost (queue33 {st := 1, sqTail := 3})) (pgJob 1) 0x140 1
def s3_9 := setEng (setReg (ctxBoundHost (queue33 {st := 1, sqTail := 3})) (pgJob 1) 0x140 1) (pgVen 70 * 2) { queue := List.replicate 32 {} }
def s3_10 := queue33 {st := 1, unsig := 2, coalAt := 1 }
def s3_11 := { queue33 {st := 1, unsig := 2, coalAt := 1 } with time := 5 }
def s3_12 := setReg (setEng (core70 {}) (pgVen 70 * 2) { queue := [venRel] }) (pgCor 70) 0x200 1
def met3_13 : Decay := { soft := [], lost := [spScratch 70] }
def met3_14 : Decay := { soft := [spScratch 70], lost := [] }
def s3_15 := running (hostDone 0x12 0) (ctxBoundHost (queue33 {st := 1, outstanding := 2}))
def s3_16 := running {cmd := venRel, fin := some (0, [])} (core70 ctx70)
def r3_17 : RCmd := {cmd := venRel, fin := some (0, [])}
def s3_18 := running {cmd := venRel, fin := some (4, [])} (core70 ctx70)
def r3_19 : RCmd := {cmd := venRel, fin := some (4, [])}
def s4_0 := on70 {} {} tileCopy
def s4_1 := on70 {} {} tileLoadCmd
def s4_2 := on70 {} {} matmul
def s4_3 := on70 {} {} {matmul with prog := 1}
def r4_4 := {matmul with prog := 1}
def s4_5 := on70 {} {} {matmul with sets := true}
def r4_6 := {matmul with sets := true}
def s4_7 := on70 {shadow := fullSet} {} (mxPass 0x05)
def s4_8 := wrMem (on70 {active := fullSet, buf1 := { st := 1, job := 1, width := 16}} {} (mxPass 0x08)) (accAddr 70 1 16 2 0) [0, 0, 0x80, 0x3F]
def s4_9 := wrMem (on70 {buf0 := { st := 1, job := 1, width := 16}} {} (drainCmd [])) (accAddr 70 0 16 1 3) [1, 0, 0x80, 0x3F]
def s4_10 := on70 {buf0 := { st := 1, job := 1, width := 2}} {} {drainCmd [] with outs := [outBlk]}
def r4_11 := {drainCmd [] with outs := [outBlk]}
def s4_12 := on70 {shadow := fullSet, buf0 := { st := 1, job := 1, width := 16}, buf1 := { st := 1, job := 2, width := 16}} {} (rcOf (pgMxa 70) 4 70 [])
def s4_13 := on70 {} {hs := [(2, {tagged := true, job := 1, ctr := [(0, 7), (66, 2^33)], sat := true})]} (rcOf (pgVen 70) 4 70 [(16,1,6),(20,4,0x4008)])
def s4_14 := on70 {} {occ := [(0, 2), (1, 3), (2,2)]} (rcOf (pgVen 70) 5 70 [(16,1,7)])
def s6_0 := running (send 100) (wrMem (chans { seq := 2, tail := 8128, used := 64, head := 8064 } {used := 64}) (spScratch 70 + 0x4000) (ramp 100))
def s6_1 := running (send 100) (chans { tail := 64, used := 8192 } {used := 8192})
def s6_2 := running relCmd (chans {} { head := 8128, used := 192, recs := [(64, true), (64, false), (64, false)] })
def s6_3 := chans {} { flight := [msg, {msg with seq := 5}] }
def ms6_4 := [{msg with seq := 5}]
def s6_5 := running {send 100 with prog := 1} (chans { acks := [(9, 4, 64)] } {})
def r6_6 := {send 100 with prog := 1}
def s6_7 := chans { returns := [64, 128], head := 8064, used := 500 } {}
def r6_8 := {send 100 with since := 5}
def s6_9 := chanHost (chans {} {})
def s6_10 := setReg (chanHost (chans {} {})) (pgChn 101) 0x3C0 0x11
def s6_11 := chanHost (chans {} {used := 64})
def sc := pse1 1 [(16,8,8),(24,2,2),(26,1,1)]
def s7_0 := running sc (stage1 {})
def s7_1 := stage1 { st := 1, wait := some { stp with num := 8 } }
def c7_2 := { stp with num := 8 }
def s7_3 := running (pse1 3 []) (stage1 {})
def s7_4 := running (pse1 3 []) (stage1 {p7 with inflight := [flt]})
def s7_5 := running (pse1 4 []) (stage1 {p7 with st := 3})
def s7_6 := running (pse1 4 []) (stage1 {st := 3})
def s7_7 := running (pse1 5 []) (stage1 {p7 with inflight := [flt]})
def s7_8 := setUpf (running (pse1 5 []) (stage1 {p7 with inflight := [flt]})) 1 {run := some { pass := 2 }}
def s7_9 := chanHost (stage1 {})
def s7_10 := chanHost (setPse (stage1 {}) 1 {firstTag := some 6, wid := 4})
def s7_11 := setUpf (chanHost (setPse (stage1 {}) 1 {aborting := true})) 1 {run := some { pass := 2 }}
def s7_12 := running (pse1 2 [(16,4,4)]) (lastStage { p7 with inflight := [flt], recs := [(1, {f := 1})] })
def s7_13 := running (pse1 2 [(16,4,4),(24,1,9)]) (lastStage { p7 with inflight := [flt], recs := [(1, {f := 1})] })
def s7_14 := running (pse1 6 [(16,8,7)]) (stage1 {p7 with slots := [0,1,2,3].map (fun n => (n, {st := 2, first := n, last := n}))})
def s7_15 := running (pse1 7 [(16,8,7)]) (stage1 {p7 with slots := pub6 ++ [(2, {st := 1, first := 7, last := 7})]})
def s7_16 := stage1 {p7 with outF := [{mb := 1, v := 0, dv := 0, bytes := 8, buf := 2}], held := [(4096*2+2, 1)]}
def x7_17 : Xfer := {mb := 1, v := 0, dv := 0, bytes := 8, buf := 2}
def s7_18 := stage1 {p7 with outB := [{mb := 1, v := 0, dv := 0, bytes := 8, buf := 2}], held := [(4096*3+2, 1)]}
def s7_19 := stage1 {p7 with outF := [{mb := 1, v := 0, dv := 0, bytes := 8, buf := 2}]}
def s7_20 := stage1 {p7 with outB := [{mb := 1, v := 0, dv := 0, bytes := 8, buf := 2}]}
def s8_0 := running (updCmd 8 0) (upd1 {} {})
def s8_1 := running (updCmd 8 1) (upd1 {} {})
def s8_2 := running (updCmd 8 0) (upd1 {} {newest := some 5})
def s8_3 := { upd1 {} {} with landReports := [(1, 5, 8)] }
def s8_4 := { upd1 {} {run := some {step := 8, first := 5, descs := [gdesc 0], prog := [0xFC000000]}} with landReports := [(1, 5, 8)] }
def s8_5 := { upd1 {} {} with notices := [ntc] }
def p8_6 : PubRun := {}
def s8_7 := { upd1 {} {pubs := [{pub8 with notice := 1}]} with notices := [{ntc with started := true}], mboxHeld := [slowBase + 0x750000, slowBase + 0x750000 + 36864] }
def n8_8 := {ntc with started := true}
def p8_9 := {pub8 with notice := 1}
def s8_10 := upd1 { slots := [(1, { st := 1, first := 8, last := 8 })], firstTag := some 8 } {pubs := [pub8]}
def s8_11 := upd1 { slots := [(1, { st := 1, first := 8, last := 8 })], firstTag := some 8 } {pubs := [{pub8 with cmp := 1}]}
def p8_12 := {pub8 with cmp := 1}
def snt : DigSent := { step := 8, at_ := 0, groups := [5] }
def s9_0 := dig1 { reports := [(8, 0, [(5, 3)]), (4, 2, [])], firstAt := [(4, 1), (8, 2)] } {}
def s9_1 := dig1 { reports := [(8, 0, [(5, 3)]), (8, 3, [(5, 4)])], firstAt := [(4, 1), (8, 2)] } {}
def s9_2 := dig1 { sent := [snt] } {}
def s9_3 := { dig1 { reports := [(8, 0, [(5, 3)])], firstAt := [(8, 2)] } {} with time := 100000 }
def s9_4 := dig1 { sent := [snt], decided := [(8, DigReport.agreed)] } {pubs := [{pub8 with cmp := 1}]}
def s9_5 := dig1 { sent := [snt], decided := [(8, DigReport.repaired [(5, 1, 2), (6, 0, 2)])] } {pubs := [{pub8 with cmp := 1}]}
def s9_6 := dig1 { sent := [snt], decided := [(8, DigReport.split 5 2 3 1)] } {pubs := [{pub8 with cmp := 1}]}
def s9_7 := dig1 {} {pubs := [{pub8 with cmp := 2, repairs := [5]}]}
def p9_8 := {pub8 with cmp := 2, repairs := [5]}
def s9_9 := { dig1 { sent := [snt] } {pubs := [{pub8 with cmp := 1}]} with time := 1000000 }
def s9_10 := dig1 {} {lastDescs := [(5, gdesc 0)]}
def s9_11 := spoil (dig1 {} {lastDescs := [(5, gdesc 0)]}) 0x710040
def ga : GContrib := { src := 0, granted := true }
def gs : GShard := {bucket := 1, step := 8, slot := 1, contribs := [ga]}
def s10_0 := running (bktCmd 7) (gxe1 {})
def s10_1 := running (bktCmd 8) (gxe1 {})
def s10_2 := setLnk (running (bktCmd 8) (gxe1 {})) 0 { st := 5 }
def s10_3 := running (bktCmd 9) (gxe1 {})
def s10_4 := running (bktCmd 9) (gxe1 { vals := [(1, 9, List.replicate 16 5)] })
def s10_5 := running (rcOf pgGxe 2 70 []) (gxe1 {ready := [{id := 3}], shards := [{}]})
def s10_6 := gxe1 {}
def s10_7 := setReg (setReg (gxe1 {}) pgTor 0x100 0x02000000) pgGxe 0x140 0x201
def s10_8 := gxe1 {shards := [{bucket := 1, step := 8, slot := 1, hists := [(1,[])]}]}
def s10_9 := gxe1 {shards := [{bucket := 1, step := 8, slot := 1, contribs := [ga]}]}
def s10_10 := gxe1 {closed := [(1, 8, 5)]}
def s10_11 := wrNum (gxe1 {shards := [gs]}) 0x810008 4 16384
def s10_12 := {gxe1 {shards := [{bucket := 1, step := 8, slot := 1, firstAt := 5, w := 10}]} with time := 1000}
def x10_13 : GShard := {bucket := 1, step := 8, slot := 1, firstAt := 5, w := 10}
def rdy : BReady := {id := 3, bucket := 1, step := 8, chunksOf := [(0, [pkt 1 0 0]), (2, [pkt 1 2 0, pkt 1 2 1])]}
def s10_14 := gxe1 {ready := [rdy]}
def e10_15 : Ext := { group := 5, clu := false, cluster := 0, nrec := 0, e0 := 0, len := 96, fcst := 0x80, src := 0, err := 0, recs := 0}
def p10_16 := { pkt 2 2 0 with payload := ramp 64 }
def p10_17 := { pkt 0 0 0 with payload := ramp 64 }
def s10_18 := gxe1 {results := [(1, 8, [pkt 1 1 0, pkt 1 1 2])]}
def s11_0 := { drz1 3 2 with bad := [0x400000000 + 128*3] }
def s11_1 := wrMem { host with cxlUp := true } 64 (ramp 64)
def s11_2 := { host with bad := [64] }
def s11_3 := {host with hdm := true}
def gOn (d : Bool) : State := { setReg (setReg host (pgMem 1 0) 0x108 0x10) (pgMem 1 1) 0x108 0x10 with bad := if d then [0x400000020, spScratch 70 + 8, spClu 8 + 16] else [] }
def tgc (st : Nat) : State := setReg (setReg (setReg host (pgTgc 5 3) 0x120 st) (pgTgc 5 3) 0x108 256) (pgTgc 5 3) 0x110 300
def s11_4 := { gdrOn 4 2 with tierPorts := 4, tierGib := 8 }
def frI : Frame := { frm 2 0 with len := 0 }
def frL : Frame := { frm 3 0 with len := 0, payload := [2] }
def frD : Frame := frameOf (frameBytes (frm 1 9))
def frO : Frame := frameOf (frameBytes { frm 1 9 with linkEpoch := 4 })
def frIW : Frame := frameOf (frameBytes frI)
def frLW : Frame := frameOf (frameBytes frL)
def s12_0 := lnk1 { lUp with outQ := [txf 0] }
def s12_1 := lnk1 { lUp with resend := [3, 4], replay := [txf 3, txf 4] }
def s12_2 := lnk1 { lUp with replay := [txf 6, txf 3] }
def ws12_3 := wordsOf { frm 1 9 with linkEpoch := 4 } 15
def s12_4 := {lnk1 lUp with pstate := 1}
def s12_5 := lnk1 { lUp with linkOut := [1, 3] }
def s12_6 := lnk1 { lUp with heldF := [(12, txf 12)] }
def s12_7 := lnk1 { lUp with st := 3, txRetrain := true, replay := [txf 3, txf 4], resend := [3] }
def s12_8 := lnk1 { lUp with rxBad := 0xF00000000}
def s12_9 := setReg (lnk1 { lUp with rxBad := 0xF00000000}) (pgLnk 1) 0x100 1
def s12_10 := lnk1 { lUp with linkOut := [3]}
def s12_11 := lnk1 { lUp with st := 3, rxRetrain := true, linkOut := [3]}
def s12_12 := lnk1 { lUp with st := 4, lullAt := 5, replay := [txf 3], outQ := [txf 0], heldF := [(3, txf 3)]}
def s12_13 := lnk1 {}
def s12_14 := setReg (lnk1 { st := 5 }) (pgLnk 1) 0x100 0x3B
def s12_15 := lnk1 { st := 1, linkOut := [1] }
def s12_16 := lnk1 { st := 1, trained := true, fails := 7 }
def s12_17 := lnk1 { lUp with st := 4, lullAt := 4999999, replay := [txf 3, txf 4] }
def s12_18 := setReg (lnk1 {}) (pgOpt 2) 0x100 3
def s12_19 := lnk1 { lUp with st := 3, rxRetrain := true, txRetrain := true }
def s12_20 := lnk1 { lUp with st := 3, rxRetrain := true, rxTrained := true }
def ptr : RCmd := rcOf pgTor 1 70 [(16,8,0x400000000),(24,8,0x400001000),(32,4,64),(36,3,0)]
def torS (s : State) : State := setReg (setReg (setReg (setReg (setReg s (pgJob 1) 0x300 0x10000) (pgJob 1) 0x148 2) (pgJob 1) 0x140 1) pgTor 0x118 0x1000000000080) (pgCor 70) 0x180 0x40080011
def tput : State := setEng (torS (lnk1 lUp)) (pgTor * 2) { running := [{ptr with cmd := {ptr.cmd with page := pgTor}}] }
def req (post : Bool) : PutReq := { src := 0, reqEpoch := 3, job := 1, dst := 0x400000040, data := ramp 64, post := post, core := 70, ctx := 2, ctr := 3 }
def po : PutOut := { id := 9, job := 1, dest := 0, dir := 1, left := 0, sentAt := 1 }
def po2 : PutOut := { po with id := 10, dest := 2 }
def p13_0 := {po with left := 1, sentAt := 5000000}
def s13_1 := setLnk tput 1 {st := 5}
def s13_2 := {tput with puts := [po2]}
def s13_3 := setCtx (torS (lnk1 lUp)) 70 2 {sync := [(3, 65535)]}
def q13_4 := {req true with job := 2}
def q13_5 := {req false with src := 5}
def s13_6 := setCtx (torS (lnk1 lUp)) 70 2 {st := 2, wait := some (3, 1)}
def s13_7 := {tput with puts := [po, po2]}
def s13_8 := {tput with puts := [po, po2], time := 20000000}
def rsc : RCmd := rcOf pgTor 2 70 [(16,8,0x400010000),(24,8,0x400020000),(32,4,3),(36,4,4),(40,8,0x400030000),(48,1,1),(49,1,1)]
def rsh (perm : List Nat) : State := setCtx (running rsc (wrMem (wrMem (torS (lnk1 lUp)) 0x400010000 (perm.flatMap (leBytes 4)))
  0x400020000 ([0x400040000, 0x400041000, 0x400042000].flatMap (leBytes 8)))) 70 2 {}
def xr (i : Nat) : Reshard := { id := 9, job := 1, perm := [1, 0, 2], blocks := [0x400040000, 0x400041000, 0x400042000], size := 4096, stage := 0x400030000, bufs := 1, active := [(0, 0, i, 0)], moved := [0, 1] }
def xr2 : Reshard := { xr 2 with active := [(0, 1, 2, 0)] }
def src1 (x : Reshard) : State := { wrMem (rsh [1, 0, 2]) 0x400040010 (ramp 64) with reshard := some x }
def jh (s : State) : State := { s with cxlUp := true, fabricOpen := true }
def j2 : State := setReg (jh (jobS {})) (pgJob 2) 0x208 0x80
def jdis (s : State) : State := setReg s (pgJob 1) 0x140 0
def jp (s : State) (op : Nat) : State := running (preCmd op) s
def sv : State := suspBit { jp (jobS {st := 1, pc := 100}) 2 with saves := [(saveKey 70 1, {tbufs := [(0, [1])]})] } 1 70 1
def s14_0 := jp (jobS {st := 1, pc := 100}) 1
def s14_1 := setVen { sv with saves := mapPut {} sv.saves (saveKey 70 1) {tbufs := [(0, [])]}} 70 {occ := [(0,3)]}
def s14_2 := jp (jobS {}) 2
def s14_3 := running (tskCmd 0x10 0x40) (jobS {})
def s14_4 := running (tskCmd 0x10 0x20) (jobS {})
def s14_5 := setEng (jobS {}) (pgRgn 1 * 2) { running := [tskCmd 0x10 0x40, { tskCmd 0x10 0x40 with prog := 1 }] }
def s14_6 := running {tskCmd 0x10 0x40 with prog := 1} (jobS {})
def y14_7 := {tskCmd 0x10 0x40 with prog := 1}
def s14c_0 := { setReg (setReg (jdis j2) (pgJob 1) 0x158 0x0201) (pgJob 2) 0x158 0x0203 with tierGib := 8, zeroing := [.slow 6, .slow 2, .coreWin 5] }
def pw (pstate : Nat) (v108 v110 : Nat) : State := { setReg (setReg { host with pstate := pstate, time := 50000000 } pgPwr 0x108 v108) pgPwr 0x110 v110 with pwr := { above := [(1, 1), (2, 5), (3, 5), (4, 5), (5, 5)] } }
def s15_0 := { (setCtx (pw 1 0 0) 70 2 {st := 1}) with cxlUp := true }
def s15_1 := { (setCtx (pw 0 0 0) 70 2 {st := 1}) with cxlUp := true }
def s15_2 := { (pw 0 0x102 0) with pwr := { lowSince := 1 } }
def s15_3 := { (pw 0 0x322 0) with pwr := { capAt := 1 } }
def s15_4 := { (pw 0 0x42 0) with pwr := {ceil := 2, rail := 3} }
def s15_5 := { (pw 0 0x12 0) with pwr := {ceil := 2, rail := 1} }
def s15_6 := { (pw 0 0x12 0) with pwr := {ceil := 2, rail := 2} }
def s15_7 := { (pw 0 0x42 0) with pwr := {ceil := 2, rail := 2} }
def s15_8 := { (pw 0 0x42 0) with pwr := {ceil := 2, rail := 1} }
def s15_9 := { (pw 0 0x842 0) with pwr := { coolSince := 1 } }
def s15_10 := { setReg (pw 3 0 0) pgPwr 0x148 5 with pwr := { offNow := true } }
def s15_11 := {pw 1 0x0141 (2^44*5) with halted := true}
def s15_12 := {lnk1 lUp with portReleased := true, thawing := [.slowTier, .unit 1 2]}
def s15_13 := { setReg (pw 3 0 0) pgPwr 0x148 2 with pwr := { offNow := true } }
def u15_14 := {upInit with flashAnswers := false}
def s15_15 := {pw 2 0 0 with fuses := {lcs := 4}}
def s15_16 := {pw 1 0 0 with fuses := {lcs := 4}}
def s15_17 := {pw 0 0 0 with traceFrozen := true}
def s15_18 := {pw 0 0 0 with traceFrozen := true, resetWait := some (3, 4, upInit), time := 20000000000}
def s15_19 := jobS {st := 1, pc := 100}
def s15_20 := {setReg host pgDtd 0x110 0xFF000F with fabricOpen := false}
def s15_21 := {setReg host pgDtd 0x110 0xF0000F with fabricOpen := false}
def s15_22 := {lnk1 lUp with bundles := (upTo 60).map (fun k => (k, { spares := [], crc := [(3, List.replicate 15 5000000)] }))}
def hf (s : State) : State := { s with time := 70000000000 }
def aj : List Byte := leBytes 4 0x1108 
def s16_0 := {hf host with traceFrozen := true, pstate := 1}
def s16_1 := setTrace (setReg (setReg (setReg host (pgTrc 16) 0x108 2) (pgTrc 16) 0x110 0x400000000) (pgTrc 16) 0x118 6) 2 { pend := 27, drained := 5, write := 40 }
def s16_2 := setTrace (setReg (setReg (setReg host (pgTrc 16) 0x108 2) (pgTrc 16) 0x110 0x400000000) (pgTrc 16) 0x118 6) 2 { pend := 8, drained := 5, write := 40 }
def s16_3 := setTrace (setReg (setReg (setReg host (pgTrc 16) 0x108 2) (pgTrc 16) 0x110 0x400000000) (pgTrc 16) 0x118 6) 2 { }
def s16_4 := {setReg host pgCnt 0x108 0x6 with traceFrozen := true}
def rcv (o : Nat) : State := { wrMem (hf host) spRcv (ramp 8) with sec := { st := 2, cause := 1, start := some upInit, owner := o, ownAt := 5 } }
def ran (m : Nat) (d : Bool) : State := { hf host with sec := { st := m, svn := 5, debug := d, meas := [ramp 64, ramp 64, ramp 64] }, fuses := { lcs := 1, svn := 3 } }
def s16_5 := setReg { ran 1 false with fuses := {} } pgLcs 0x130 0x01
def s16_6 := {ran 1 true with fuses := {revoked := 3, lcs := 1}}

/-! ### Well-formedness: one ill-formed command for each check, and well-formed ones -/

theorem test_illFormedCommandsAreRefused1 : ([
    .registerWrite 16 0 0 0 0, .registerWrite 0 1 0 0 0, .registerWrite 0 0 134217728 0 0, .errStatusClear 16 0 0,
    .errStatusClear 0 32768 0, .jobQueueRangeWrite 16 0 0, .jobQueueRangeWrite 0 16 0, .jobEvtHeadWrite 16 0 0,
    .jobEvtHeadWrite 0 16 0, .queueEnable 16 0, .queueEnable 0 4096, .queueDisable 16 0, .queueDisable 0 4096,
    .qreset 16 0, .qreset 0 4096, .queueDrainDone 4096, .doorbellSqTail 16 0 0, .doorbellSqTail 0 256 0,
    .doorbellCqHead 16 0 0, .doorbellCqHead 0 256 0, .commandDispatch 4096 [], .ringAccessFailed ⟨4096, false⟩,
    .coalTimeExpiry 4096, .engineCommandStart ⟨65536, { soft := [], lost := [] }⟩, .engineCommandComplete 65536 0,
    .loadImem 2048 [], .startContext 2048, .stopContext 2048, .syncSet 2048, .tileMove 2048, .halt 2048 0, .halt 0 4,
    .nop 2048 0, .nop 0 4, .readtime 2048 0 0, .readtime 0 4 0, .readtime 0 0 32, .readctx 2048 0 0, .readctx 0 4 0,
    .readctx 0 0 32, .integerRForm 2048 0 .add 0 0 0, .integerRForm 0 4 .add 0 0 0, .integerRForm 0 0 .add 32 0 0,
    .integerRForm 0 0 .add 0 32 0, .integerRForm 0 0 .add 0 0 32, .integerIForm 2048 0 .lui 0 0 0,
    .integerIForm 0 4 .lui 0 0 0, .integerIForm 0 0 .lui 32 0 0, .integerIForm 0 0 .lui 0 32 0,
    .scratchLoad 2048 0 0 0 0 0, .scratchLoad 0 4 0 0 0 0, .scratchLoad 0 0 4 0 0 0, .scratchLoad 0 0 0 32 0 0,
    .scratchLoad 0 0 0 0 32 0, .scratchStore 2048 0 0 0 0 0, .scratchStore 0 4 0 0 0 0, .scratchStore 0 0 4 0 0 0,
    .scratchStore 0 0 0 32 0 0, .scratchStore 0 0 0 0 32 0, .atomicLoad 2048 0 false 0 0, .atomicLoad 0 4 false 0 0,
    .atomicLoad 0 0 false 32 0, .atomicLoad 0 0 false 0 32] : List Instr).all (fun i => !i.wf) = true := by decide +kernel

theorem test_illFormedCommandsAreRefused2 : ([
    .atomicStore 2048 0 false 0 0, .atomicStore 0 4 false 0 0, .atomicStore 0 0 false 32 0,
    .atomicStore 0 0 false 0 32, .addI 2048 0 false 0 0 0, .addI 0 4 false 0 0 0, .addI 0 0 false 32 0 0,
    .addI 0 0 false 0 32 0, .addI 0 0 false 0 0 32, .addF32 2048 0 0 0 0, .addF32 0 4 0 0 0, .addF32 0 0 32 0 0,
    .addF32 0 0 0 32 0, .addF32 0 0 0 0 32, .atomicMin 2048 0 .u32 0 0 0, .atomicMin 0 4 .u32 0 0 0,
    .atomicMin 0 0 .u32 32 0 0, .atomicMin 0 0 .u32 0 32 0, .atomicMin 0 0 .u32 0 0 32, .atomicMax 2048 0 .u32 0 0 0,
    .atomicMax 0 4 .u32 0 0 0, .atomicMax 0 0 .u32 32 0 0, .atomicMax 0 0 .u32 0 32 0, .atomicMax 0 0 .u32 0 0 32,
    .cas 2048 0 false 0 0 0, .cas 0 4 false 0 0 0, .cas 0 0 false 32 0 0, .cas 0 0 false 0 32 0,
    .cas 0 0 false 0 0 32, .branch 2048 0 .eq 0 0 0, .branch 0 4 .eq 0 0 0, .branch 0 0 .eq 32 0 0,
    .branch 0 0 .eq 0 32 0, .jump 2048 0 0, .jump 0 4 0, .branchAndLink 2048 0 0, .branchAndLink 0 4 0,
    .jumpRegister 2048 0 0, .jumpRegister 0 4 0, .jumpRegister 0 0 32, .issue 2048 0 0 0 0, .issue 0 4 0 0 0,
    .issue 0 0 256 0 0, .issue 0 0 0 256 0, .issue 0 0 0 0 32, .issueStallRelease 2048 0, .issueStallRelease 0 4,
    .syncwait 2048 0 0 0, .syncwait 0 4 0 0, .syncwait 0 0 32 0, .syncwait 0 0 0 65536, .syncwaitRelease 2048 0,
    .syncwaitRelease 0 4, .syncpost 2048 0 0 0, .syncpost 0 4 0 0, .syncpost 0 0 32 0, .syncpost 0 0 0 65536,
    .reservedOpcode 2048 0, .reservedOpcode 0 4, .scratchScrub 2048 0 .clean] : List Instr).all (fun i => !i.wf) = true := by decide +kernel

theorem test_illFormedCommandsAreRefused3 : ([
    .mxaMatmul 2048 [], .mxaPass 2048 [], .mxaDrain 2048, .mxaRelease 2048, .spillContributionResume 65536 0,
    .finishedTileRoom 2048, .mxaInject 16 0 0, .mxaInject 0 2048 0, .mxaInject 0 0 4, .gmvMatvec 32, .venMap 2048,
    .venReduce 2048, .venShuffle 2048, .venHistFlush 2048, .venRelease 2048, .atnScores 2048, .atnAccum 2048,
    .atnFinish 2048, .atnKvLoad 2048, .atnKvFlush 2048, .chnSend 2048, .chnRelease 2048,
    .channelMessageArrival 2048 0, .channelMessageArrival 0 16, .channelSendAck 2048 0, .channelSendAck 0 16,
    .channelCreditReturn 2048 0, .channelCreditReturn 0 16, .sendTimeout 2048 0, .chnOutCfgWrite 16 0 0 0,
    .chnOutCfgWrite 0 2048 0 0, .chnOutCfgWrite 0 0 16 0, .chnInCfgWrite 16 0 0 false 0,
    .chnInCfgWrite 0 2048 0 false 0, .chnInCfgWrite 0 0 16 false 0, .pseStep 32, .pseStepAdmit 32, .pseDone 32,
    .pseDrain 32, .pseResume 32, .pseAbort 32, .pseVersionOpen 32, .pseVersionPublish 32, .pseVersionExtend 32,
    .psePhaseDispatch 32, .pseTransferArrival 32 false 0 0 0 [], .pseTransferArrival 0 false 4096 0 0 [],
    .pseTransferArrival 0 false 0 4 0 [], .pseTransferArrival 0 false 0 0 1 [], .pseArrivalReport 32 false 0 0,
    .pseArrivalReport 0 false 4096 0, .pseArrivalReport 0 false 0 4, .pseCreditReturn 32 0,
    .pseTransferFailed 32 false false 0, .pseStageCfgWrite 16 0 0, .pseStageCfgWrite 0 32 0, .updRun 32,
    .updRunInit 32, .landingComplete 32 0, .upfPublish 32] : List Instr).all (fun i => !i.wf) = true := by decide +kernel

theorem test_illFormedCommandsAreRefused4 : ([
    .digestReport 32 0 0 [], .comparerWaitExpiry 32, .comparisonReport 32 0 .agreed, .replicaRepaired 32 0 0 [],
    .digestLate 32, .contrib { pkt 0 1 0 with blocks := 256 }, .contrib { pkt 0 1 0 with job := 16 },
    .contrib { pkt 0 1 0 with bucket := 65536 }, .contrib { pkt 0 1 0 with src := 64 },
    .contrib { pkt 0 1 0 with shard := 64 }, .contrib { pkt 0 1 0 with stepLo := 4294967296 },
    .contrib { pkt 0 1 0 with chunk := 65536 }, .contrib { pkt 0 1 0 with nonfinite := 2 ^ 64 },
    .contrib { pkt 0 1 0 with check := 2 ^ 61 }, .hist { pkt 0 1 0 with blocks := 256 },
    .grantReq { pkt 0 1 0 with blocks := 256 }, .grant { pkt 0 1 0 with blocks := 256 },
    .close { pkt 0 1 0 with blocks := 256 }, .result { pkt 0 1 0 with blocks := 256 },
    .chunkResendRequest 16 0 0 0 0 0, .stragglerWindowExpiry 16 0 0, .drzGather 32, .drzScatter 32,
    .cxlMemBaseWrite 16 ⟨0, false⟩, .memIlvWrite 16 0 0 0, .memIlvWrite 0 32 0 0, .memIlvWrite 0 0 8 0, .fence 16 0 0,
    .fence 0 32 0, .fence 0 0 8, .stackHot 8, .cluWindowWrite 16 0 0 0, .cluWindowWrite 0 256 0 0,
    .cluWindowWrite 0 0 8 0, .retrain 16 0, .retrain 0 16, .tierTraining 16 0, .tierTraining 0 16,
    .gdrTrainingDone 16 false 0, .wckTracking 16, .gdrCrcError 16 ((.eccCorrected 0)), .tgcStart 16 0 0,
    .tgcStart 0 32 0, .tgcStart 0 0 8, .tgcStop 16 0 0, .tgcStop 0 32 0, .tgcStop 0 0 8, .tgcRunDone 32 0 [] 0 0,
    .tgcRunDone 0 8 [] 0 0, .dataFrameSend 8, .dataFrameReceive 8 [],
    .dataFrameReceive 0 (List.replicate 33 { lane := 1, bytes := ramp 8, errors := 0 }),
    .dataFrameReceive 0 [{ lane := 36, bytes := ramp 8, errors := 0 }],
    .dataFrameReceive 0 [{ lane := 1, bytes := [], errors := 0 }], .idleFrameReceive 8 [],
    .idleFrameReceive 0 (List.replicate 33 { lane := 1, bytes := ramp 8, errors := 0 }),
    .idleFrameReceive 0 [{ lane := 36, bytes := ramp 8, errors := 0 }],
    .idleFrameReceive 0 [{ lane := 1, bytes := [], errors := 0 }], .hello 8 0 0 false, .hello 0 256 0 false,
    .hello 0 0 16777216 false] : List Instr).all (fun i => !i.wf) = true := by decide +kernel

theorem test_illFormedCommandsAreRefused5 : ([
    .resync 8 0 0 0 [], .resync 0 256 0 0 [], .resync 0 0 256 0 [], .resync 0 0 0 1048576 [], .laneMap 8 0 0 0,
    .laneMap 0 2 0 0, .down 8 0, .down 0 8, .linkFrameRepeat 8, .replayTimeout 8, .nakRequeue 8 0,
    .nakRequeue 0 1048576, .squall 8 0 ⟨0, .noLock⟩, .squall 0 2 ⟨0, .noLock⟩, .squall 0 0 ⟨36, .noLock⟩,
    .spareLaneTest 8 0 0 false, .spareLaneTest 0 2 0 false, .spareLaneTest 0 0 36 false, .lossOfLight 8,
    .noValidFrame 8, .retrainOverrun 8, .laneMapTimeout 8, .linkLost 8, .trainingDone 8 ⟨0, true⟩ 0 0,
    .trainingDone 0 ⟨2, true⟩ 0 0, .bringupRetry 8, .lnkEnable 16 0, .lnkEnable 0 8, .lnkRetrain 16 0,
    .lnkRetrain 0 8, .forceDown 16 0, .forceDown 0 8, .laserLoss 4 0, .laserLoss 0 18,
    .putRequestArrival { req false with job := 16 }, .putRequestArrival { req false with core := 2048 },
    .putRequestArrival { req false with ctx := 4 }, .putRequestArrival { req false with ctr := 16 },
    .putRequestArrival { req false with reqEpoch := 256 }, .torCoordWrite 16 0, .torJboxWrite 16 0 0,
    .torJboxWrite 0 16 0, .torAbsentWrite 16 0 0, .torAbsentWrite 0 8 0, .jobPreempt 16, .jobResume 16, .rgnTask 32,
    .rgnTaskDispatch 32 0, .jobEnable 16 0 0, .jobEnable 0 16 0, .jobCoresWrite 16 0 0 0, .jobCoresWrite 0 16 0 0,
    .jobCoresWrite 0 0 32 0, .jobRegionsWrite 16 0 0, .jobRegionsWrite 0 16 0, .jobMemWrite 16 0 0 0,
    .jobMemWrite 0 16 0 0, .jobMemWrite 0 0 8 0, .jobSlowWrite 16 0 0, .jobSlowWrite 0 16 0] : List Instr).all (fun i => !i.wf) = true := by decide +kernel

theorem test_illFormedCommandsAreRefused6 : ([
    .allocationZeroed (.unit 32 0), .allocationZeroed (.unit 0 16), .allocationZeroed (.slow 128),
    .allocationZeroed (.coreWin 2048), .allocationZeroed (.regionClu 32), .plevelRequest 16 0, .plevelRequest 0 8,
    .requestS0 16, .requestS1 16, .requestS2 16, .requestS3 16,
    .wakeMatch 0 false { upInit with badChannels := [256] }, .wakeMatch 0 false { upInit with failedPorts := [16] },
    .wakeMatch 0 false { upInit with badLanes := [(56, 0)] },
    .wakeMatch 0 false { upInit with badLanes := [(0, 68)] }, .coldReset { upInit with badChannels := [256] },
    .warm 16 upInit, .warm 0 { upInit with badChannels := [256] }, .cxlResetN 0 { upInit with badChannels := [256] },
    .functionLevelReset 16, .flrWipeDone 16, .linkReset 16 0, .linkReset 0 8, .fabricOpen 16,
    .bridgeUnitCrcFail 7 ⟨0, 0⟩, .bridgeUnitCrcFail 0 ⟨16, 0⟩, .bridgeUnitCrcFail 0 ⟨0, 68⟩, .bridgeLaneFail 7 0 0,
    .bridgeLaneFail 0 16 0, .bridgeLaneFail 0 0 68, .warmReset { upInit with badChannels := [256] },
    .resetWaitExpiry { upInit with badChannels := [256] }, .traceRelease { upInit with badChannels := [256] },
    .sidebandBadOp 256 [], .getCertificate 8 0 0, .challenge 8 [], .lifecycleRequest 16 [] upInit,
    .lifecycleRequest 0 [] { upInit with badChannels := [256] }, .svnCommit 16, .revoke 16 0, .revoke 0 8,
    .cntClear 16 0 0, .cntClear 0 32768 0, .cntClear 0 0 65536, .cntClearAll 16 0, .cntClearAll 0 32768, .freeze 16,
    .release 16, .traceDrain 256, .violatingRead 16 0 0 0, .violatingRead 0 1 0 0, .stackHotEnd 8,
    .clusterCacheScrub 256 0 .clean, .thawZeroingDone (.unit 32 0), .thawZeroingDone (.unit 0 16),
    .repairRequest 32 ⟨0, 0⟩, .repairRequest 0 ⟨0, 64⟩] : List Instr).all (fun i => !i.wf) = true := by decide +kernel

theorem test_wellFormedCommandsAreTaken1 : ([
    .registerWrite 0 0 0 0 0, .errStatusClear 0 0 0, .jobQueueRangeWrite 0 0 0, .jobEvtHeadWrite 0 0 0,
    .queueEnable 0 0, .queueDisable 0 0, .qreset 0 0, .queueDrainDone 0, .doorbellSqTail 0 0 0, .doorbellCqHead 0 0 0,
    .commandDispatch 0 [], .ringAccessFailed ⟨0, false⟩, .coalTimeExpiry 0,
    .engineCommandStart ⟨0, { soft := [], lost := [] }⟩, .engineCommandComplete 0 0, .loadImem 0 [], .startContext 0,
    .stopContext 0, .syncSet 0, .tileMove 0, .halt 0 0, .nop 0 0, .readtime 0 0 0, .readctx 0 0 0,
    .integerRForm 0 0 .add 0 0 0, .integerIForm 0 0 .lui 0 0 0, .scratchLoad 0 0 0 0 0 0, .scratchStore 0 0 0 0 0 0,
    .atomicLoad 0 0 false 0 0, .atomicStore 0 0 false 0 0, .addI 0 0 false 0 0 0, .addF32 0 0 0 0 0,
    .atomicMin 0 0 .u32 0 0 0, .atomicMax 0 0 .u32 0 0 0, .cas 0 0 false 0 0 0, .branch 0 0 .eq 0 0 0, .jump 0 0 0,
    .branchAndLink 0 0 0, .jumpRegister 0 0 0, .issue 0 0 0 0 0, .issueStallRelease 0 0, .syncwait 0 0 0 0,
    .syncwaitRelease 0 0, .syncpost 0 0 0 0, .reservedOpcode 0 0, .scratchScrub 0 0 .clean, .mxaMatmul 0 [],
    .mxaPass 0 [], .mxaDrain 0, .mxaRelease 0, .spillContributionResume 0 0, .finishedTileRoom 0, .mxaInject 0 0 0,
    .gmvMatvec 0, .venMap 0, .venReduce 0, .venShuffle 0, .venHistFlush 0, .venRelease 0, .atnScores 0, .atnAccum 0,
    .atnFinish 0, .atnKvLoad 0, .atnKvFlush 0, .chnSend 0, .chnRelease 0, .channelMessageArrival 0 0,
    .channelSendAck 0 0, .channelCreditReturn 0 0, .sendTimeout 0 0, .chnOutCfgWrite 0 0 0 0,
    .chnInCfgWrite 0 0 0 false 0, .pseStep 0, .pseStepAdmit 0, .pseDone 0] : List Instr).all Instr.wf = true := by decide +kernel

theorem test_wellFormedCommandsAreTaken2 : ([
    .pseDrain 0, .pseResume 0, .pseAbort 0, .pseVersionOpen 0, .pseVersionPublish 0, .pseVersionExtend 0,
    .psePhaseDispatch 0, .pseTransferArrival 0 false 0 0 0 [], .pseArrivalReport 0 false 0 0, .pseCreditReturn 0 0,
    .pseTransferFailed 0 false false 0, .pseStageCfgWrite 0 0 0, .updRun 0, .updRunInit 0, .landingComplete 0 0,
    .upfPublish 0, .digestReport 0 0 0 [], .comparerWaitExpiry 0, .comparisonReport 0 0 .agreed,
    .replicaRepaired 0 0 0 [], .digestLate 0, .contrib (pkt 0 1 0), .hist (pkt 0 1 0), .grantReq (pkt 0 1 0),
    .grant (pkt 0 1 0), .close (pkt 0 1 0), .result (pkt 0 1 0), .chunkResendRequest 0 0 0 0 0 0,
    .stragglerWindowExpiry 0 0 0, .drzGather 0, .drzScatter 0, .cxlMemBaseWrite 0 ⟨0, false⟩, .memIlvWrite 0 0 0 0,
    .fence 0 0 0, .stackHot 0, .cluWindowWrite 0 0 0 0, .retrain 0 0, .tierTraining 0 0, .gdrTrainingDone 0 false 0,
    .wckTracking 0, .gdrCrcError 0 ((.eccCorrected 0)), .tgcStart 0 0 0, .tgcStop 0 0 0, .tgcRunDone 0 0 [] 0 0,
    .dataFrameSend 0, .dataFrameReceive 0 [], .idleFrameReceive 0 [], .hello 0 0 0 false, .resync 0 0 0 0 [],
    .laneMap 0 0 0 0, .down 0 0, .linkFrameRepeat 0, .replayTimeout 0, .nakRequeue 0 0, .squall 0 0 ⟨0, .noLock⟩,
    .spareLaneTest 0 0 0 false, .lossOfLight 0, .noValidFrame 0, .retrainOverrun 0, .laneMapTimeout 0, .linkLost 0,
    .trainingDone 0 ⟨0, true⟩ 0 0, .bringupRetry 0, .lnkEnable 0 0, .lnkRetrain 0 0, .forceDown 0 0, .laserLoss 0 0,
    .putRequestArrival (req false), .torCoordWrite 0 0, .torJboxWrite 0 0 0, .torAbsentWrite 0 0 0, .jobPreempt 0,
    .jobResume 0, .rgnTask 0, .rgnTaskDispatch 0 0] : List Instr).all Instr.wf = true := by decide +kernel

theorem test_wellFormedCommandsAreTaken3 : ([
    .jobEnable 0 0 0, .jobCoresWrite 0 0 0 0, .jobRegionsWrite 0 0 0, .jobMemWrite 0 0 0 0, .jobSlowWrite 0 0 0,
    .allocationZeroed (.slow 0), .plevelRequest 0 0, .requestS0 0, .requestS1 0, .requestS2 0, .requestS3 0,
    .wakeMatch 0 false upInit, .coldReset upInit, .warm 0 upInit, .cxlResetN 0 upInit, .functionLevelReset 0,
    .flrWipeDone 0, .linkReset 0 0, .fabricOpen 0, .bridgeUnitCrcFail 0 ⟨0, 0⟩, .bridgeLaneFail 0 0 0,
    .warmReset upInit, .resetWaitExpiry upInit, .traceRelease upInit, .sidebandBadOp 0 [], .getCertificate 0 0 0,
    .challenge 0 [], .lifecycleRequest 0 [] upInit, .svnCommit 0, .revoke 0 0, .cntClear 0 0 0, .cntClearAll 0 0,
    .freeze 0, .release 0, .traceDrain 0, .violatingRead 0 0 0 0, .stackHotEnd 0, .clusterCacheScrub 0 0 .clean,
    .thawZeroingDone .slowTier, .repairRequest 0 ⟨0, 0⟩] : List Instr).all Instr.wf = true := by decide +kernel

/-! ### What single commands do, with values worked out from the spec's tables -/

/-- The state after a command. -/
def after (o : Host.Outcome State Fault Refusal) : State :=
  match o with
  | .next t => t
  | _ => State.reset

/-- A register after the instruction whose word is `w`. -/
def regAfter (w : Nat) (i : Instr) (r : Nat) : Nat := getReg (ctxOf (after (exec i (prog w w1))) 70 2) r

/- R73: 2^64 - 2 plus 5 wraps to 3; g0 discards (R72); comparisons are signed and unsigned. -/
theorem test_addWraps : regAfter (rW 1 3 5 4 0) (.integerRForm 70 2 .add 3 5 4) 3 = 3 := by decide +kernel
theorem test_g0Discards : regAfter (rW 1 0 5 4 0) (.integerRForm 70 2 .add 0 5 4) 0 = 0 := by decide +kernel
theorem test_setLtSigned : regAfter (rW 1 3 5 4 0) (.integerRForm 70 2 .setLt 3 5 4) 3 = 1 := by decide +kernel
theorem test_setLtuUnsigned : regAfter (rW 1 3 5 4 0) (.integerRForm 70 2 .setLtu 3 5 4) 3 = 0 := by decide +kernel
theorem test_immediateSignExtends : regAfter (iW 8 3 4 0xFFFF) (.integerIForm 70 2 (.op .add) 3 4 0xFFFF#16) 3 = 4 := by decide +kernel
/- R78: a store moves the low bytes, the lowest address first. -/
theorem test_storeIsLittleEndian :
    rdMem (after (exec (.scratchStore 70 2 1 7 6 0#16) (prog (iW 16 7 6 0) (wrMem w1 (spScratch 70 + 0x4100) [9, 9, 9]))))
      (spScratch 70 + 0x4100) 3 = [200, 0, 9] := by decide +kernel
/- R339: an atomic returns the old word. -/
theorem test_atomicReturnsTheOldWord : regAfter (rW 0x18 9 3 4 0x10) (.addI 70 2 false 9 3 4) 9 = 0x030201 := by decide +kernel
/- Table 3-3: a reserved opcode halts with BAD_COMMAND; HALT halts with OK. -/
theorem test_reservedOpcodeHalts :
    (ctxOf (after (exec (.reservedOpcode 70 2) (prog (rW 0x2B 0 0 0 0) w1))) 70 2).haltStatus = stBadCommand := by decide +kernel
theorem test_haltHaltsWithOk : (ctxOf (after (exec (.halt 70 2) (prog 0 w1))) 70 2).haltStatus = 0 := by decide +kernel
/- R47: a queue size out of range stops the queue with CAUSE 5. -/
theorem test_badQueueSizeStops :
    (let t := after (exec (.queueEnable 1 33) (setReg host (pgHqu 33) (hqOff 33 + 0x10) 0x100000502))
     ((hqOf t 33).st, (hqOf t 33).cause)) = (2, 5) := by decide +kernel
/- R50: a tail at the ring's size is out of range and stops the queue. -/
theorem test_badTailStops : (hqOf (after (exec (.doorbellSqTail 1 1 0x10#64) (queue33 { st := 1 }))) 33).st = 2 := by
  decide +kernel
/- R41: read-only bits keep their value. -/
theorem test_readOnlyRegisterIsKept :
    reg (after (exec (.registerWrite 0 0 (4096 * pgHub + 0x18) 8 0xFFFFFFFFFFFFFFFF#64) host)) pgHub 0x18 = reg host pgHub 0x18 := by
  decide +kernel
/- R367: SEQ 2^20 - 1 precedes 0, and 0 does not precede it. -/
theorem test_seqPrecedesAcrossTheWrap : (precedes 0xFFFFF 0, precedes 0 0xFFFFF) = (true, false) := by decide +kernel
/- R394: two hops either way on an axis of 4 go X+; the T axis comes before the D axis. -/
theorem test_equalHopsGoPlus : routeDir (lnk1 {}) 0 2 = some 0 := by decide +kernel
/- R360: the frame check is the IEEE 802.3 CRC-32, whose check value over the nine digits is published. -/
theorem test_crcOfTheNineDigits : crc32 [49, 50, 51, 52, 53, 54, 55, 56, 57] = 0xCBF43926 := by decide +kernel
/- R356: 15 symbol errors are corrected; 16 mark the bytes of the codeword, and the frame is discarded. -/
set_option maxRecDepth 100000 in
theorem test_fifteenSymbolErrorsAreCorrected :
    (rxFrame (List.range 32) 0 (wordsOf frI 15)).map (·.ackSeq) = some 6 := by decide +kernel
theorem test_sixteenSymbolErrorsDropTheFrame : rxFrame (List.range 32) 0 (wordsOf frI 16) = none := by decide +kernel
/- R388: the neighbour of coordinate 1 in X- is 0, and of 0 it is 3. -/
theorem test_neighbourWraps : (neighbour (lnk1 {}) 1 1, neighbour (lnk1 {}) 0 1) = (0, 3) := by decide +kernel
/- R391: a box that does not hold the own coordinate is not VALID. -/
theorem test_boxWithoutOwnCoordinate :
    bit (jboxOf (after (exec (.torJboxWrite 0 2 0x1000000000002#64) (lnk1 {}))) 2) 48 = false := by decide +kernel
/- R429: the level granted is the highest number of the request and the caps. -/
theorem test_thermalCapBinds : pwrG (after (exec (.plevelRequest 0 0) (pw 0 0x1800 0))) = 3 := by decide +kernel
/- R443: at 1,690 mV the first two rows are applied, and G is at least 3. -/
theorem test_shedRowsApply :
    (let t := after (exec (.vinCoreSample 1690) (pw 0 0 0)); (shedRows t, pwrG t)) = (2, 3) := by decide +kernel
/- R520: CXL_RESET_N low for 1 µs resets; in S3 it is ignored. -/
theorem test_cxlResetIgnoredInS3 : after (exec (.cxlResetN 5000 upInit) (pw 3 0 0)) = pw 3 0 0 := by decide +kernel
/- R495: a flash that does not answer leads to recovery with cause 1. -/
theorem test_noFlashEntersRecovery :
    (let t := after (exec (.coldReset { upInit with flashAnswers := false }) State.reset); (t.sec.st, t.sec.cause)) = (2, 1) := by
  decide +kernel
/- R485: an image without the magic number has cause 2. -/
theorem test_imageWithoutMagic : checkImage State.reset [] = (2, 0) := by decide +kernel
/- R504: only error counters are cleared. -/
theorem test_cntClearKeepsOthers :
    (let t := after (exec (.cntClearAll 0 pgSec) (bump (bump host pgSec 0 5) pgSec 1 7)); mapGet 0 t.ctrs (ctrKey pgSec 1)) = 7 := by
  decide +kernel
/- R523: the JTAG identification code. -/
theorem test_jtagIdcode :
    (after (exec (.jtagInstruction Config.jtagIdcode) State.reset)).reply.data = [0x4F, 0x0E, 0x72, 0x20] := by
  have h : exec (.jtagInstruction Config.jtagIdcode) State.reset = .next (answer State.reset stOK (leBytes 4 0x20720E4F)) := by
    simp [exec, execJtagInstruction, effect, live, opJtag, State.reset, setPending]
    rfl
  rw [h]
  decide +kernel
/- With nothing waiting a step is one nanosecond; a command in front is run. -/
theorem test_idleStepIsOneNanosecond : (after (step State.reset)).time = 1 := by decide +kernel
theorem test_stepTakesTheFrontCommand :
    (after (step { host with pending := [.cxlLinkDown, .cxlLinkUp] })).pending = [.cxlLinkUp] := by decide +kernel
/- No row of the table carries bits, so no word spells a command. -/
theorem test_noWordSpellsACommand : decodeTableWord 32 5 = none := rfl

/-- A property of each of `n` addresses holds in their range. -/
theorem ranged (lo n : Nat) (P : Nat → Prop) (h : ∀ k, k < n → P (lo + k)) : ∀ a, lo ≤ a → a < lo + n → P a := by
  intro a h1 h2
  have := h (a - lo) (by omega)
  rwa [Nat.add_sub_cancel' h1] at this

/-- The time clock stands. -/
def idleStopped : State := { State.reset with timeRuns := false }

/-! ### Witnesses: each statement's hypotheses hold together -/

theorem witness_IntegerInstructionsWriteRd :
    (Executes (prog (rW 1 3 5 4 0) w1) 70 2 (rWord 1 7 3 5 4) ∧
      Stated.intStated IntOp.add (BitVec.ofNat 64 (getReg (ctxOf (prog (rW 1 3 5 4 0) w1) 70 2) 5))
          (BitVec.ofNat 64 (getReg (ctxOf (prog (rW 1 3 5 4 0) w1) 70 2) 4)) =
        some
          ((Stated.intStated IntOp.add (BitVec.ofNat 64 (getReg (ctxOf w1 70 2) 5))
                (BitVec.ofNat 64 (getReg (ctxOf w1 70 2) 4))).getD
            0)) ∧
    (Executes (prog (iW 8 3 5 65520) w1) 70 2 (iWord 8 15 3 5 (65520#16).toNat) ∧
      Stated.intStated IntOp.add (BitVec.ofNat 64 (getReg (ctxOf (prog (iW 8 3 5 65520) w1) 70 2) 5))
          (BitVec.signExtend 64 65520#16) =
        some
          ((Stated.intStated IntOp.add (BitVec.ofNat 64 (getReg (ctxOf w1 70 2) 5))
                (BitVec.signExtend 64 65520#16)).getD
            0)) := by
  and_intros <;> decide +kernel

theorem witness_NopReadtimeReadctxGoOn :
    (Executes (prog 0 w1) 70 2 sysWord) ∧
    (Executes (prog 0 w1) 70 2 fun w => sysWord w && fieldA w == 0 % 32) := by
  and_intros <;> decide +kernel

theorem witness_HaltAndReservedOpcodeHalt :
    (Executes (prog 1 w1) 70 2 sysWord) ∧
    (Executes (prog (rW 43 9 0 0 5) w1) 70 2 reservedWord) := by
  and_intros <;> decide +kernel

theorem witness_ScratchLoadAndStoreMoveBytes :
    (Executes (prog (iW 16 5 6 0) w1) 70 2 (iWord 16 23 5 6 (0#16).toNat) ∧
      Stated.scratchEa (prog (iW 16 5 6 0) w1) 70 2 6 0#16 % 2 ^ 3 = 0 ∧
      scratchOk (prog (iW 16 5 6 0) w1) 70 2 (Stated.scratchEa (prog (iW 16 5 6 0) w1) 70 2 6 0#16) (2 ^ 3) = true ∧
      badIn (prog (iW 16 5 6 0) w1) (spScratch 70 + Stated.scratchEa (prog (iW 16 5 6 0) w1) 70 2 6 0#16) (2 ^ 3) =
        none) ∧
    (Executes (prog (iW 16 5 6 0) w1) 70 2 (iWord 16 23 5 6 (0#16).toNat) ∧
      Stated.scratchEa (prog (iW 16 5 6 0) w1) 70 2 6 0#16 % 2 ^ 0 = 0 ∧
      scratchOk (prog (iW 16 5 6 0) w1) 70 2 (Stated.scratchEa (prog (iW 16 5 6 0) w1) 70 2 6 0#16) (2 ^ 0) = true ∧
      badIn (prog (iW 16 5 6 0) w1) (spScratch 70 + Stated.scratchEa (prog (iW 16 5 6 0) w1) 70 2 6 0#16) (2 ^ 0) =
        none ∧
      (0 < spScratch 70 + Stated.scratchEa (prog (iW 16 5 6 0) w1) 70 2 6 0#16 ∨
        spScratch 70 + Stated.scratchEa (prog (iW 16 5 6 0) w1) 70 2 6 0#16 + 2 ^ 0 ≤ 0)) := by
  and_intros <;> decide +kernel

theorem witness_AtomicsReplaceOneWord :
    (Stated.AtomicOk (prog (rW 24 4 3 5 1) w1) 70 2 3 false
        (atomWord (if false = true then 2 else 1) 3 (some 4) none)) ∧
    (Stated.AtomicOk (prog (rW 24 4 3 5 3) w1) 70 2 3 false
        (atomWord (if false = true then 4 else 3) 3 none (some 5))) ∧
    (Stated.AtomicOk (prog (rW 24 4 3 5 16) w1) 70 2 3 false
        (atomWord (if false = true then 17 else 16) 3 (some 4) (some 5))) ∧
    (Stated.AtomicOk (prog (rW 24 4 3 5 18) w1) 70 2 3 false (atomWord 18 3 (some 4) (some 5))) ∧
    (Stated.AtomicOk (prog (rW 24 4 3 5 48) w1) 70 2 3 false
        (atomWord (if false = true then 49 else 48) 3 (some 4) (some 5))) := by
  and_intros <;> decide +kernel

theorem witness_AtomicMinAndMaxOrderTheirOperands :
    (Stated.AtomicOk (prog (rW 24 4 3 5 32) w1) 70 2 3 (mmWide MmKind.s32)
        (atomWord (32 + mmCode MmKind.s32) 3 (some 4) (some 5))) ∧
    (Stated.AtomicOk (prog (rW 24 4 3 5 33) w1) 70 2 3 (mmWide MmKind.s64)
        (atomWord (32 + mmCode MmKind.s64) 3 (some 4) (some 5))) ∧
    (Stated.AtomicOk (prog (rW 24 4 3 5 34) w1) 70 2 3 (mmWide MmKind.u32)
        (atomWord (32 + mmCode MmKind.u32) 3 (some 4) (some 5))) ∧
    (Stated.AtomicOk (prog (rW 24 4 3 5 35) w1) 70 2 3 (mmWide MmKind.u64)
        (atomWord (32 + mmCode MmKind.u64) 3 (some 4) (some 5))) ∧
    (Stated.AtomicOk (prog (rW 24 4 3 5 36) w1) 70 2 3 (mmWide MmKind.f32)
        (atomWord (32 + mmCode MmKind.f32) 3 (some 4) (some 5))) ∧
    (Stated.AtomicOk (prog (rW 24 4 3 5 40) w1) 70 2 3 (mmWide MmKind.s32)
        (atomWord (40 + mmCode MmKind.s32) 3 (some 4) (some 5))) ∧
    (Stated.AtomicOk (prog (rW 24 4 3 5 41) w1) 70 2 3 (mmWide MmKind.s64)
        (atomWord (40 + mmCode MmKind.s64) 3 (some 4) (some 5))) ∧
    (Stated.AtomicOk (prog (rW 24 4 3 5 42) w1) 70 2 3 (mmWide MmKind.u32)
        (atomWord (40 + mmCode MmKind.u32) 3 (some 4) (some 5))) ∧
    (Stated.AtomicOk (prog (rW 24 4 3 5 43) w1) 70 2 3 (mmWide MmKind.u64)
        (atomWord (40 + mmCode MmKind.u64) 3 (some 4) (some 5))) ∧
    (Stated.AtomicOk (prog (rW 24 4 3 5 44) w1) 70 2 3 (mmWide MmKind.f32)
        (atomWord (40 + mmCode MmKind.f32) 3 (some 4) (some 5))) := by
  and_intros <;> decide +kernel

theorem witness_BranchesGoToTheirTargets :
    (Executes (prog (iW 32 7 7 4) w1) 70 2 (iWord 32 39 7 7 (4#16).toNat) ∧
      condHolds Cond.ne (getReg (ctxOf (prog (iW 32 7 7 4) w1) 70 2) 7)
          (getReg (ctxOf (prog (iW 32 7 7 4) w1) 70 2) 7) =
        false ∧
      traced (prog (iW 32 7 7 4) w1) 70 2 = false) ∧
    (Executes (prog (iW 32 7 7 4) w1) 70 2 (iWord 32 39 7 7 (4#16).toNat) ∧
      condHolds Cond.eq (getReg (ctxOf (prog (iW 32 7 7 4) w1) 70 2) 7)
          (getReg (ctxOf (prog (iW 32 7 7 4) w1) 70 2) 7) =
        true ∧
      ((target (ctxOf (prog (iW 32 7 7 4) w1) 70 2) 4#16 < winSize (prog (iW 32 7 7 4) w1) 70 2 ∧
            target (ctxOf (prog (iW 32 7 7 4) w1) 70 2) 4#16 % 4 = 0)) ∧
      traced (prog (iW 32 7 7 4) w1) 70 2 = false) ∧
    (Executes (prog (iW 32 7 7 32768) w1) 70 2 (iWord 32 39 7 7 (32768#16).toNat) ∧
      condHolds Cond.eq (getReg (ctxOf (prog (iW 32 7 7 32768) w1) 70 2) 7)
          (getReg (ctxOf (prog (iW 32 7 7 32768) w1) 70 2) 7) =
        true ∧
      (¬(target (ctxOf (prog (iW 32 7 7 32768) w1) 70 2) 32768#16 < winSize (prog (iW 32 7 7 32768) w1) 70 2 ∧
          target (ctxOf (prog (iW 32 7 7 32768) w1) 70 2) 32768#16 % 4 = 0))) ∧
    (Executes (prog (iW 32 7 7 4) w1) 70 2 (jWord (4#16).toNat) ∧
      ((target (ctxOf (prog (iW 32 7 7 4) w1) 70 2) 4#16 < winSize (prog (iW 32 7 7 4) w1) 70 2 ∧
            target (ctxOf (prog (iW 32 7 7 4) w1) 70 2) 4#16 % 4 = 0))) ∧
    (Executes (prog (iW 32 7 7 32768) w1) 70 2 (jWord (32768#16).toNat) ∧
      (¬(target (ctxOf (prog (iW 32 7 7 32768) w1) 70 2) 32768#16 < winSize (prog (iW 32 7 7 32768) w1) 70 2 ∧
          target (ctxOf (prog (iW 32 7 7 32768) w1) 70 2) 32768#16 % 4 = 0))) ∧
    (Executes (prog (iW 32 7 7 4) w1) 70 2 fun w => within (opcode w) 32 39 && fieldA w == 7 % 32 ∧
      ((getReg (ctxOf (prog (iW 32 7 7 4) w1) 70 2) 7 < winSize (prog (iW 32 7 7 4) w1) 70 2 ∧
            getReg (ctxOf (prog (iW 32 7 7 4) w1) 70 2) 7 % 4 = 0)) ∧
      traced (prog (iW 32 7 7 4) w1) 70 2 = false) ∧
    (Executes (prog (iW 32 5 7 0) w1) 70 2 fun w => within (opcode w) 32 39 && fieldA w == 5 % 32 ∧
      (¬(getReg (ctxOf (prog (iW 32 5 7 0) w1) 70 2) 5 < winSize (prog (iW 32 5 7 0) w1) 70 2 ∧
          getReg (ctxOf (prog (iW 32 5 7 0) w1) 70 2) 5 % 4 = 0))) := by
  and_intros <;> first | decide +kernel | (unfold target; generalize Config.branchFromNext = b; cases b <;> decide +kernel)

theorem witness_GeneralRegistersOfAContext :
    (Executes (prog (iW 32 7 7 4) w1) 70 2 (jWord (4#16).toNat) ∧
      target (ctxOf (prog (iW 32 7 7 4) w1) 70 2) 4#16 < winSize (prog (iW 32 7 7 4) w1) 70 2 ∧
      target (ctxOf (prog (iW 32 7 7 4) w1) 70 2) 4#16 % 4 = 0) ∧
    (Stated.CoreOn s1_1 70 ∧
      (engRun s1_1 (pgCor 70 * 2 + 1) fun r => r.cmd.op == 2 && r.prog == 0) =
        some (cor70 2 [(16, 1, 2), (18, 2, 8), (24, 8, 5), (48, 8, 6)]) ∧
      (cor70 2 [(16, 1, 2), (18, 2, 8), (24, 8, 5), (48, 8, 6)]).cmd.op = 2 ∧
      ctxBound s1_1 70 (corCtx (cor70 2 [(16, 1, 2), (18, 2, 8), (24, 8, 5), (48, 8, 6)]).cmd) = true ∧
      jobEnabled s1_1 (ctxJob s1_1 70 (corCtx (cor70 2 [(16, 1, 2), (18, 2, 8), (24, 8, 5), (48, 8, 6)]).cmd)) =
        true ∧
      ((ctxOf s1_1 70 (corCtx (cor70 2 [(16, 1, 2), (18, 2, 8), (24, 8, 5), (48, 8, 6)]).cmd)).st = 0 ∨
        (ctxOf s1_1 70 (corCtx (cor70 2 [(16, 1, 2), (18, 2, 8), (24, 8, 5), (48, 8, 6)]).cmd)).st = 3) ∧
      bf (cor70 2 [(16, 1, 2), (18, 2, 8), (24, 8, 5), (48, 8, 6)]).cmd 18 2 <
        winSize s1_1 70 (corCtx (cor70 2 [(16, 1, 2), (18, 2, 8), (24, 8, 5), (48, 8, 6)]).cmd) ∧
      bf (cor70 2 [(16, 1, 2), (18, 2, 8), (24, 8, 5), (48, 8, 6)]).cmd 18 2 % 4 = 0) := by
  and_intros <;> first | decide +kernel | (unfold target; generalize Config.branchFromNext = b; cases b <;> decide +kernel)

theorem witness_IssueQueuesItsCommand :
    (Executes (prog (iW 40 0 6 1306) w1) 70 2 (issueWord 26 5 6) ∧
      getReg (ctxOf (prog (iW 40 0 6 1306) w1) 70 2) 6 % 64 = 0 ∧
      scratchOk (prog (iW 40 0 6 1306) w1) 70 2 (getReg (ctxOf (prog (iW 40 0 6 1306) w1) 70 2) 6) 48 = true ∧
      badIn (prog (iW 40 0 6 1306) w1) (spScratch 70 + getReg (ctxOf (prog (iW 40 0 6 1306) w1) 70 2) 6) 48 = none ∧
      chkIssue (Stated.onDie (prog (iW 40 0 6 1306) w1) (70 / 1024)) 26 5
          (Stated.issued (prog (iW 40 0 6 1306) w1) 70 2 26 5 6) =
        none ∧
      bit (reg (prog (iW 40 0 6 1306) w1) (pgTrc 70) 256) 1 = false ∧
      queueFull (prog (iW 40 0 6 1306) w1) (Stated.issued (prog (iW 40 0 6 1306) w1) 70 2 26 5 6) = false) ∧
    (Executes (prog (iW 40 0 6 6661) wFull) 70 2 (issueWord 26 5 6) ∧
      getReg (ctxOf (prog (iW 40 0 6 6661) wFull) 70 2) 6 % 64 = 0 ∧
      scratchOk (prog (iW 40 0 6 6661) wFull) 70 2 (getReg (ctxOf (prog (iW 40 0 6 6661) wFull) 70 2) 6) 48 = true ∧
      badIn (prog (iW 40 0 6 6661) wFull) (spScratch 70 + getReg (ctxOf (prog (iW 40 0 6 6661) wFull) 70 2) 6) 48 =
        none ∧
      chkIssue (Stated.onDie (prog (iW 40 0 6 6661) wFull) (70 / 1024)) 26 5
          (Stated.issued (prog (iW 40 0 6 6661) wFull) 70 2 26 5 6) =
        none ∧
      bit (reg (prog (iW 40 0 6 6661) wFull) (pgTrc 70) 256) 1 = false ∧
      queueFull (prog (iW 40 0 6 6661) wFull) (Stated.issued (prog (iW 40 0 6 6661) wFull) 70 2 26 5 6) = true) ∧
    (Stated.WaitingOn wStall 70 2 ∧
      (ctxOf wStall 70 2).stall = some venRel ∧
      queueFull wStall venRel = false ∧
      onFenced wStall venRel = false) ∧
    (Stated.WaitingOn (setReg wStall (pgCor 70) 512 1) 70 2 ∧
      (ctxOf (setReg wStall (pgCor 70) 512 1) 70 2).stall = some venRel ∧
      queueFull (setReg wStall (pgCor 70) 512 1) venRel = false ∧
      onFenced (setReg wStall (pgCor 70) 512 1) venRel = true) := by
  and_intros <;> decide +kernel

theorem witness_SyncInstructionsWaitAndPost :
    (5 % 32 < 16 ∧
      Executes (prog (iW 41 0 4 5) wSync) 70 2 (syncInstr 41 4 5) ∧
      (syncCtr (prog (iW 41 0 4 5) wSync) 70 2 (5 % 32) + 65536 -
            getReg (ctxOf (prog (iW 41 0 4 5) wSync) 70 2) 4 % 65536) %
          65536 <
        32768) ∧
    (4 % 32 < 16 ∧
      Executes (prog (iW 41 0 4 4) wSync) 70 2 (syncInstr 41 4 4) ∧
      32768 ≤
        (syncCtr (prog (iW 41 0 4 4) wSync) 70 2 (4 % 32) + 65536 -
            getReg (ctxOf (prog (iW 41 0 4 4) wSync) 70 2) 4 % 65536) %
          65536) ∧
    (3 % 32 < 16 ∧
      Executes (prog (iW 42 0 4 3) wSync) 70 2 (syncInstr 42 4 3) ∧
      0 ≠ 3 % 32) ∧
    (Stated.WaitingOn (wWait 10) 70 2 ∧
      (ctxOf (wWait 10) 70 2).wait = some (3, 10) ∧
      (syncCtr (wWait 10) 70 2 3 + 65536 - 10 % 65536) % 65536 < 32768) := by
  and_intros <;> decide +kernel

theorem witness_ControlQueueCommandsActOnContexts :
    (Stated.CoreOn s1_2 70 ∧
      runOp s1_2 (pgCor 70) 1 = some (cor70 1 [(24, 2, 2048), (26, 2, 2), (29, 1, 2)]) ∧
      bf (cor70 1 [(24, 2, 2048), (26, 2, 2), (29, 1, 2)]).cmd 24 2 +
          4 * bf (cor70 1 [(24, 2, 2048), (26, 2, 2), (29, 1, 2)]).cmd 26 2 ≤
        winSize s1_2 70 (corCtx (cor70 1 [(24, 2, 2048), (26, 2, 2), (29, 1, 2)]).cmd) ∧
      imemIdle s1_2 70
          (winBase s1_2 70 (corCtx (cor70 1 [(24, 2, 2048), (26, 2, 2), (29, 1, 2)]).cmd) +
            bf (cor70 1 [(24, 2, 2048), (26, 2, 2), (29, 1, 2)]).cmd 24 2)
          (4 * bf (cor70 1 [(24, 2, 2048), (26, 2, 2), (29, 1, 2)]).cmd 26 2) =
        true ∧
      bit (bf (cor70 1 [(24, 2, 2048), (26, 2, 2), (29, 1, 2)]).cmd 28 1) 0 = false ∧
      (List.replicate 8 7).length = 4 * bf (cor70 1 [(24, 2, 2048), (26, 2, 2), (29, 1, 2)]).cmd 26 2) ∧
    (Stated.CoreOn s1_3 70 ∧
      runOp s1_3 (pgCor 70) 1 = some (cor70 1 [(16, 8, 65536), (24, 2, 2048), (26, 2, 2), (28, 1, 1), (29, 1, 2)]) ∧
      bf (cor70 1 [(16, 8, 65536), (24, 2, 2048), (26, 2, 2), (28, 1, 1), (29, 1, 2)]).cmd 24 2 +
          4 * bf (cor70 1 [(16, 8, 65536), (24, 2, 2048), (26, 2, 2), (28, 1, 1), (29, 1, 2)]).cmd 26 2 ≤
        winSize s1_3 70 (corCtx (cor70 1 [(16, 8, 65536), (24, 2, 2048), (26, 2, 2), (28, 1, 1), (29, 1, 2)]).cmd) ∧
      imemIdle s1_3 70
          (winBase s1_3 70
              (corCtx (cor70 1 [(16, 8, 65536), (24, 2, 2048), (26, 2, 2), (28, 1, 1), (29, 1, 2)]).cmd) +
            bf (cor70 1 [(16, 8, 65536), (24, 2, 2048), (26, 2, 2), (28, 1, 1), (29, 1, 2)]).cmd 24 2)
          (4 * bf (cor70 1 [(16, 8, 65536), (24, 2, 2048), (26, 2, 2), (28, 1, 1), (29, 1, 2)]).cmd 26 2) =
        true ∧
      bit (bf (cor70 1 [(16, 8, 65536), (24, 2, 2048), (26, 2, 2), (28, 1, 1), (29, 1, 2)]).cmd 28 1) 0 = true ∧
      fabBad (Stated.onDie s1_3 (70 / 1024))
          (bf (cor70 1 [(16, 8, 65536), (24, 2, 2048), (26, 2, 2), (28, 1, 1), (29, 1, 2)]).cmd 16 8)
          (4 * bf (cor70 1 [(16, 8, 65536), (24, 2, 2048), (26, 2, 2), (28, 1, 1), (29, 1, 2)]).cmd 26 2) =
        none) ∧
    (Stated.CoreOn s1_1 70 ∧
      (engRun s1_1 (pgCor 70 * 2 + 1) fun r => r.cmd.op == 2 && r.prog == 0) =
        some (cor70 2 [(16, 1, 2), (18, 2, 8), (24, 8, 5), (48, 8, 6)]) ∧
      (cor70 2 [(16, 1, 2), (18, 2, 8), (24, 8, 5), (48, 8, 6)]).cmd.op = 2 ∧
      ctxBound s1_1 70 (corCtx (cor70 2 [(16, 1, 2), (18, 2, 8), (24, 8, 5), (48, 8, 6)]).cmd) = true ∧
      regF s1_1 (pgJob (ctxJob s1_1 70 (corCtx (cor70 2 [(16, 1, 2), (18, 2, 8), (24, 8, 5), (48, 8, 6)]).cmd))) 320
          0 1 =
        1 ∧
      ((ctxOf s1_1 70 (corCtx (cor70 2 [(16, 1, 2), (18, 2, 8), (24, 8, 5), (48, 8, 6)]).cmd)).st = 0 ∨
        (ctxOf s1_1 70 (corCtx (cor70 2 [(16, 1, 2), (18, 2, 8), (24, 8, 5), (48, 8, 6)]).cmd)).st = 3) ∧
      bf (cor70 2 [(16, 1, 2), (18, 2, 8), (24, 8, 5), (48, 8, 6)]).cmd 18 2 <
        winSize s1_1 70 (corCtx (cor70 2 [(16, 1, 2), (18, 2, 8), (24, 8, 5), (48, 8, 6)]).cmd) ∧
      bf (cor70 2 [(16, 1, 2), (18, 2, 8), (24, 8, 5), (48, 8, 6)]).cmd 18 2 % 4 = 0 ∧
      0 ≠ corCtx (cor70 2 [(16, 1, 2), (18, 2, 8), (24, 8, 5), (48, 8, 6)]).cmd) ∧
    (Stated.CoreOn (corOn ctx70 (cor70 3 [(16, 1, 2)])) 70 ∧
      runOp (corOn ctx70 (cor70 3 [(16, 1, 2)])) (pgCor 70) 3 = some (cor70 3 [(16, 1, 2)]) ∧
      ((ctxOf (corOn ctx70 (cor70 3 [(16, 1, 2)])) 70 (corCtx (cor70 3 [(16, 1, 2)]).cmd)).st = 1 ∨
        (ctxOf (corOn ctx70 (cor70 3 [(16, 1, 2)])) 70 (corCtx (cor70 3 [(16, 1, 2)]).cmd)).st = 2) ∧
      0 ≠ corCtx (cor70 3 [(16, 1, 2)]).cmd) ∧
    (Stated.CoreOn s1_4 70 ∧
      runOp s1_4 (pgCor 70) 3 = some (cor70 3 [(16, 1, 2)]) ∧
      ((ctxOf s1_4 70 (corCtx (cor70 3 [(16, 1, 2)]).cmd)).st = 0 ∨
        (ctxOf s1_4 70 (corCtx (cor70 3 [(16, 1, 2)]).cmd)).st = 3)) ∧
    (Stated.CoreOn s1_5 70 ∧
      runOp s1_5 (pgCor 70) 5 = some (cor70 5 [(16, 1, 2), (17, 1, 4), (18, 2, 500)]) ∧
      ((ctxOf s1_5 70 (corCtx (cor70 5 [(16, 1, 2), (17, 1, 4), (18, 2, 500)]).cmd)).st = 0 ∨
        (ctxOf s1_5 70 (corCtx (cor70 5 [(16, 1, 2), (17, 1, 4), (18, 2, 500)]).cmd)).st = 3)) := by
  and_intros <;> decide +kernel

theorem witness_RegisterWriteStoresWritableBits :
    (Stated.HostReach host (pgUpf 3) ∧
      pageBlk (pgUpf 3) = some (Blk.upf, 3) ∧
      256 % 8 = 0 ∧
      regRow Blk.upf 256 = some ((regRow Blk.upf 256).getD { off := 256 }) ∧
      regKey 0 0 ≠ regKey (pgUpf 3) 256) := by
  and_intros <;> decide +kernel

theorem witness_ErrStatusClearsTheWrittenOnes :
    (Stated.HostReach (setReg host (pgVen 70) 32 775) (pgVen 70)) := by
  and_intros <;> decide +kernel

theorem witness_ViolationsAreLoggedAndHaveNoEffect :
    (host.cxlUp = true ∧
      pageBlk ((4096 * pgVen 70 + 256) / 4096) ≠ none ∧
      broken host 0 0 (4096 * pgVen 70 + 256) 4 true = some 0) ∧
    (host.cxlUp = true ∧
      pageBlk ((4096 * pgVen 70 + 256) / 4096) ≠ none ∧
      broken host 0 0 (4096 * pgVen 70 + 256) 4 false = some 0) ∧
    (host.cxlUp = true ∧
      pageBlk ((4096 * pgVen 70 + 256) / 4096) ≠ none ∧
      (4 ≠ 8 ∨ (4096 * pgVen 70 + 256) % 8 ≠ 0)) ∧
    (w2c.cxlUp = true ∧
      pageBlk ((4096 * pgVen 70 + 256) / 4096) ≠ none ∧
      (4096 * pgVen 70 + 256) % 8 = 0 ∧
      w2c.fabricOpen = false) := by
  and_intros <;> decide +kernel

theorem witness_QueueRangeAndEventHeadWrites :
    (Stated.HostReach host (pgJob 0) ∧
      ((196624#64).toNat / 65536 % 32 ≤ 16 ∧
        (196624#64).toNat % 256 + (196624#64).toNat / 65536 % 32 ≤ 256 ∧
          ((upTo 16).any fun g =>
                g != 0 &&
                  rangesMeet ((196624#64).toNat % 256) ((196624#64).toNat / 65536 % 32)
                    (regF host (pgJob g) 256 0 8) (regF host (pgJob g) 256 16 5)) =
              false ∧
            ((upTo (16 * regF host (pgJob 0) 256 16 5)).any fun i =>
                (hqOf host (16 * regF host (pgJob 0) 256 0 8 + i)).st != 0) =
              false)) ∧
    (Stated.HostReach host (pgJob 0) ∧
      (16 < (1114112#64).toNat / 65536 % 32 ∨
        256 < (1114112#64).toNat % 256 + (1114112#64).toNat / 65536 % 32 ∨
          ((upTo 16).any fun g =>
                g != 0 &&
                  rangesMeet ((1114112#64).toNat % 256) ((1114112#64).toNat / 65536 % 32)
                    (regF host (pgJob g) 256 0 8) (regF host (pgJob g) 256 16 5)) =
              true ∨
            ((upTo (16 * regF host (pgJob 0) 256 16 5)).any fun i =>
                (hqOf host (16 * regF host (pgJob 0) 256 0 8 + i)).st != 0) =
              true)) ∧
    (Stated.HostReach host (pgJob 0)) ∧
    (Stated.HostReach host (pgJob 0) ∧
      regF host (pgJob 0) 288 32 32 = 0) := by
  and_intros <;> decide +kernel

theorem witness_HostQueueControl :
    (Stated.HostReach s3_0 (pgHqu 33) ∧
      (hqOf s3_0 33).qreset = false ∧
      (hqOf s3_0 33).st = 0 ∧
      (4 ≤ reg s3_0 (pgHqu 33) (hqOff 33 + 16) % 32 ∧ reg s3_0 (pgHqu 33) (hqOff 33 + 16) % 32 ≤ 16) ∧
      (4 ≤ reg s3_0 (pgHqu 33) (hqOff 33 + 16) / 256 % 32 ∧ reg s3_0 (pgHqu 33) (hqOff 33 + 16) / 256 % 32 ≤ 16)) ∧
    (Stated.HostReach s3_1 (pgHqu 33) ∧
      (hqOf s3_1 33).qreset = false ∧
      (hqOf s3_1 33).st ≠ 0 ∧
      (0 = 0 ∨ 0 = 8 ∨ 0 = 16)) ∧
    (Stated.HostReach s3_4 (pgHqu 33) ∧
      (hqOf s3_4 33).qreset = false ∧
      (hqOf s3_4 33).st = 0 ∧
      (reg s3_4 (pgHqu 33) (hqOff 33 + 16) % 32 < 4 ∨
        16 < reg s3_4 (pgHqu 33) (hqOff 33 + 16) % 32 ∨
          reg s3_4 (pgHqu 33) (hqOff 33 + 16) / 256 % 32 < 4 ∨ 16 < reg s3_4 (pgHqu 33) (hqOff 33 + 16) / 256 % 32)) ∧
    (Stated.HostReach s3_1 (pgHqu 33) ∧
      (hqOf s3_1 33).qreset = false ∧
      (hqOf s3_1 33).st = 1) ∧
    (Stated.HostReach s3_2 (pgHqu 33) ∧
      (hqOf s3_2 33).qreset = false ∧
      (hqOf s3_2 33).st = 3 ∧
      (hqOf s3_2 33).outstanding = 0 ∧
      s3_2.pstate < 2) := by
  and_intros <;> decide +kernel

theorem witness_DoorbellsMoveTheRingIndices :
    (Stated.BellReach s3_6 1 1 ∧
      (hqOf s3_6 (slotQueue s3_6 1 1)).st = 1 ∧
      (15#64).toNat % 65536 < 2 ^ regF s3_6 (pgHqu (slotQueue s3_6 1 1)) (hqOff (slotQueue s3_6 1 1) + 16) 0 5) ∧
    (Stated.BellReach s3_6 1 1 ∧
      (hqOf s3_6 (slotQueue s3_6 1 1)).st = 1 ∧
      2 ^ regF s3_6 (pgHqu (slotQueue s3_6 1 1)) (hqOff (slotQueue s3_6 1 1) + 16) 0 5 ≤ (16#64).toNat % 65536) ∧
    (Stated.BellReach s3_6 1 1 ∧
      (hqOf s3_6 (slotQueue s3_6 1 1)).st = 1 ∧
      (3#64).toNat % 65536 < 2 ^ regF s3_6 (pgHqu (slotQueue s3_6 1 1)) (hqOff (slotQueue s3_6 1 1) + 16) 8 5 ∧
      ((3#64).toNat % 65536 + 2 ^ regF s3_6 (pgHqu (slotQueue s3_6 1 1)) (hqOff (slotQueue s3_6 1 1) + 16) 8 5 -
            (hqOf s3_6 (slotQueue s3_6 1 1)).cqHead) %
          2 ^ regF s3_6 (pgHqu (slotQueue s3_6 1 1)) (hqOff (slotQueue s3_6 1 1) + 16) 8 5 ≤
        ((hqOf s3_6 (slotQueue s3_6 1 1)).cqTail +
              2 ^ regF s3_6 (pgHqu (slotQueue s3_6 1 1)) (hqOff (slotQueue s3_6 1 1) + 16) 8 5 -
            (hqOf s3_6 (slotQueue s3_6 1 1)).cqHead) %
          2 ^ regF s3_6 (pgHqu (slotQueue s3_6 1 1)) (hqOff (slotQueue s3_6 1 1) + 16) 8 5) ∧
    (Stated.BellReach s3_2 1 1 ∧
      (hqOf s3_2 (slotQueue s3_2 1 1)).st ≠ 1) := by
  and_intros <;> decide +kernel

theorem witness_HostQueueEvents :
    (s3_9.pstate < 2 ∧
      vecCmd.length = 64 ∧
      mayDispatch s3_9 33 (bit (num vecCmd 2 1) 0) = true ∧
      chkHost s3_9 vecCmd
          { id := s3_9.nextId, page := num vecCmd 4 2 % 2 ^ 15, op := num vecCmd 0 1, body := List.drop 16 vecCmd,
            src :=
              Src.host 33 (hqOf s3_9 33).sqHead (num vecCmd 8 8) (bit (num vecCmd 2 1) 1) (bit (num vecCmd 2 1) 2),
            fn := fnOfQueue s3_9 33 } =
        ((chkHost s3_9 vecCmd
              { id := s3_9.nextId, page := num vecCmd 4 2 % 2 ^ 15, op := num vecCmd 0 1,
                body := List.drop 16 vecCmd,
                src :=
                  Src.host 33 (hqOf s3_9 33).sqHead (num vecCmd 8 8) (bit (num vecCmd 2 1) 1)
                    (bit (num vecCmd 2 1) 2),
                fn := fnOfQueue s3_9 33 }).fst,
          none) ∧
      queueFull s3_9
          (chkHost s3_9 vecCmd
              { id := s3_9.nextId, page := num vecCmd 4 2 % 2 ^ 15, op := num vecCmd 0 1,
                body := List.drop 16 vecCmd,
                src :=
                  Src.host 33 (hqOf s3_9 33).sqHead (num vecCmd 8 8) (bit (num vecCmd 2 1) 1)
                    (bit (num vecCmd 2 1) 2),
                fn := fnOfQueue s3_9 33 }).fst =
        true) ∧
    (s3_8.pstate < 2 ∧
      vecCmd.length = 64 ∧
      mayDispatch s3_8 33 (bit (num vecCmd 2 1) 0) = true ∧
      chkHost s3_8 vecCmd
          { id := s3_8.nextId, page := num vecCmd 4 2 % 2 ^ 15, op := num vecCmd 0 1, body := List.drop 16 vecCmd,
            src :=
              Src.host 33 (hqOf s3_8 33).sqHead (num vecCmd 8 8) (bit (num vecCmd 2 1) 1) (bit (num vecCmd 2 1) 2),
            fn := fnOfQueue s3_8 33 } =
        ((chkHost s3_8 vecCmd
              { id := s3_8.nextId, page := num vecCmd 4 2 % 2 ^ 15, op := num vecCmd 0 1,
                body := List.drop 16 vecCmd,
                src :=
                  Src.host 33 (hqOf s3_8 33).sqHead (num vecCmd 8 8) (bit (num vecCmd 2 1) 1)
                    (bit (num vecCmd 2 1) 2),
                fn := fnOfQueue s3_8 33 }).fst,
          none) ∧
      queueFull s3_8
          (chkHost s3_8 vecCmd
              { id := s3_8.nextId, page := num vecCmd 4 2 % 2 ^ 15, op := num vecCmd 0 1,
                body := List.drop 16 vecCmd,
                src :=
                  Src.host 33 (hqOf s3_8 33).sqHead (num vecCmd 8 8) (bit (num vecCmd 2 1) 1)
                    (bit (num vecCmd 2 1) 2),
                fn := fnOfQueue s3_8 33 }).fst =
        false) ∧
    (s3_1.pstate < 2 ∧
      (hqOf s3_1 33).st = 1) ∧
    (s3_11.pstate < 2 ∧
      (hqOf s3_11 33).unsig ≠ 0 ∧
      (hqOf s3_11 33).coalAt ≠ 0 ∧
      (hqOf s3_11 33).coalAt ≤ s3_11.time ∧
      bit (reg s3_11 (pgHqu 33) (hqOff 33 + 16)) 32 = true) := by
  and_intros <;> decide +kernel

theorem witness_EngineCommandsStartAndComplete :
    (FabricOn s3_12 ∧
      List.filter (startable s3_12 (pgVen 70 * 2)) (queueHeads (engOf s3_12 (pgVen 70 * 2))) = [venRel] ∧
      onFenced s3_12 venRel = true) ∧
    (FabricOn (engStart venRel) ∧
      List.filter (startable (engStart venRel) (pgVen 70 * 2))
          (queueHeads (engOf (engStart venRel) (pgVen 70 * 2))) =
        [venRel] ∧
      onFenced (engStart venRel) venRel = false ∧
      (¬(cmdBlk venRel = some Blk.mxa ∧ venRel.op = 1 ∧ (mxaOf (engStart venRel) venRel.core).shadow.st ≠ 0))) ∧
    (FabricOn (engStart venRel) ∧
      List.filter (startable (engStart venRel) (pgVen 70 * 2))
          (queueHeads (engOf (engStart venRel) (pgVen 70 * 2))) =
        [venRel] ∧
      3 ≠ pgVen 70 * 2) ∧
    (FabricOn (engStart venRel) ∧
      List.filter (startable (engStart venRel) (pgVen 70 * 2))
          (queueHeads (engOf (engStart venRel) (pgVen 70 * 2))) =
        [venRel] ∧
      met3_13.soft = []) ∧
    (s3_15.pstate < 2 ∧
      List.find? (fun r => r.cmd.id == 9 && r.fin.isSome)
          ((engOf s3_15 (pgVen 70 * 2)).running ++ (engOf s3_15 (pgVen 70 * 2)).aside) =
        some (hostDone 18 0) ∧
      (hostDone 18 0).fin = some (0, [])) ∧
    (s3_16.pstate < 2 ∧
      List.find? (fun r => r.cmd.id == 9 && r.fin.isSome)
          ((engOf s3_16 (pgVen 70 * 2)).running ++ (engOf s3_16 (pgVen 70 * 2)).aside) =
        some r3_17 ∧
      r3_17.fin = some (0, []) ∧
      r3_17.cmd.src = Src.ctx ∧
      0 = stOK) ∧
    (s3_18.pstate < 2 ∧
      List.find? (fun r => r.cmd.id == 9 && r.fin.isSome)
          ((engOf s3_18 (pgVen 70 * 2)).running ++ (engOf s3_18 (pgVen 70 * 2)).aside) =
        some r3_19 ∧
      r3_19.fin = some (4, []) ∧
      r3_19.cmd.src = Src.ctx ∧
      4 ≠ stOK ∧
      ((ctxOf s3_18 r3_19.cmd.core r3_19.cmd.ctx).st = 1 ∨ (ctxOf s3_18 r3_19.cmd.core r3_19.cmd.ctx).st = 2)) := by
  and_intros <;> decide +kernel

theorem witness_TileMoveStoresOrLoadsItsTile :
    (Stated.CoreOn s4_1 70 ∧
      runOp s4_1 (pgCor 70) 4 = some tileLoadCmd ∧
      operandBad (Stated.onDie s4_1 (70 / 1024))
          (tileBase 70 (tileOf tileLoadCmd.cmd).sp (tileOf tileLoadCmd.cmd).src) (tileOf tileLoadCmd.cmd).ss
          (tileOf tileLoadCmd.cmd).fmt (tileOf tileLoadCmd.cmd).rows (tileOf tileLoadCmd.cmd).cols =
        none ∧
      (tileOf tileLoadCmd.cmd).dp = 3 ∧
      (mxaOf s4_1 70).shadow.drop = false) ∧
    (Stated.CoreOn s4_0 70 ∧
      runOp s4_0 (pgCor 70) 4 = some tileCopy ∧
      operandBad (Stated.onDie s4_0 (70 / 1024)) (tileBase 70 (tileOf tileCopy.cmd).sp (tileOf tileCopy.cmd).src)
          (tileOf tileCopy.cmd).ss (tileOf tileCopy.cmd).fmt (tileOf tileCopy.cmd).rows (tileOf tileCopy.cmd).cols =
        none ∧
      (tileOf tileCopy.cmd).dp ≠ 3 ∧
      tileDstBad (Stated.onDie s4_0 (70 / 1024)) 70 (tileOf tileCopy.cmd) = none ∧
      (tileOf tileCopy.cmd).rows = 1 ∧
      (tileOf tileCopy.cmd).tr = false ∧
      (tileOf tileCopy.cmd).fmt ≠ 5 ∧
      (0 < tileBase 70 (tileOf tileCopy.cmd).dp (tileOf tileCopy.cmd).dst ∨
        tileBase 70 (tileOf tileCopy.cmd).dp (tileOf tileCopy.cmd).dst +
            rowBytes (tileOf tileCopy.cmd).fmt (tileOf tileCopy.cmd).cols ≤
          0)) := by
  and_intros <;> decide +kernel

theorem witness_MatmulBeginsGoesOnAndPushesItsRows :
    (Stated.CoreOn s4_2 70 ∧
      runOp s4_2 (pgMxa 70) 1 = some matmul ∧
      matmul.prog = 0 ∧
      (¬((mxaOf s4_2 70).buf0.st = 1 ∧ (mxaOf s4_2 70).buf0.job = matmul.cmd.job)) ∧
      (¬((mxaOf s4_2 70).buf1.st = 1 ∧ (mxaOf s4_2 70).buf1.job = matmul.cmd.job)) ∧
      ((matmulOf matmul.cmd).dest = 2 →
        slotNext s4_2 (spClu (70 / 8) + (matmulOf matmul.cmd).out) ≤ (matmulOf matmul.cmd).seq) ∧
      operandBad (Stated.onDie s4_2 (70 / 1024)) (spScratch 70 + (matmulOf matmul.cmd).a) (matmulOf matmul.cmd).as
          (matmulOf matmul.cmd).af (matmulOf matmul.cmd).m (matmulOf matmul.cmd).k =
        none ∧
      operandBad (Stated.onDie s4_2 (70 / 1024)) (spScratch 70 + (matmulOf matmul.cmd).b) (matmulOf matmul.cmd).bs
          (matmulOf matmul.cmd).bfmt (bRows (matmulOf matmul.cmd)) (bCols (matmulOf matmul.cmd)) =
        none) ∧
    (Stated.CoreOn s4_3 70 ∧
      runOp s4_3 (pgMxa 70) 1 = some r4_4 ∧
      r4_4.prog ≠ 0) ∧
    (Stated.CoreOn s4_5 70 ∧
      runOp s4_5 (pgMxa 70) 1 = some r4_6 ∧
      r4_6.prog = 0 ∧
      r4_6.outs = [] ∧
      r4_6.sets = true ∧
      r4_6.onSib = false ∧
      r4_6.passes = 0 ∧
      r4_6.blocks = 0 ∧
      (mxaOf s4_5 70).buf0.st = 0 ∧
      (mxaOf s4_5 70).buf1.st = 0 ∧
      (matmulOf r4_6.cmd).dest = 0 ∧
      (matmulOf r4_6.cmd).m410 = false ∧
      bit (reg s4_5 (pgMxa 70) 256) 0 = false ∧
      shapeDW (matmulOf r4_6.cmd).bfmt (mmShape (matmulOf r4_6.cmd)) = some (32, 16) ∧
      0 < (matmulOf r4_6.cmd).m ∧
      (matmulOf r4_6.cmd).m ≤ 64 ∧
      (matmulOf r4_6.cmd).m ≤ bufRows 16 ∧
      0 < (matmulOf r4_6.cmd).n ∧
      (matmulOf r4_6.cmd).n ≤ 16 ∧
      0 < (matmulOf r4_6.cmd).k ∧
      (matmulOf r4_6.cmd).k ≤ 32 ∧
      ftqFree (venOf s4_5 70) = some 0 ∧
      operandBad (Stated.onDie s4_5 (70 / 1024)) (spScratch 70 + (matmulOf r4_6.cmd).a) (matmulOf r4_6.cmd).as
          (matmulOf r4_6.cmd).af (matmulOf r4_6.cmd).m (matmulOf r4_6.cmd).k =
        none ∧
      operandBad (Stated.onDie s4_5 (70 / 1024)) (spScratch 70 + (matmulOf r4_6.cmd).b) (matmulOf r4_6.cmd).bs
          (matmulOf r4_6.cmd).bfmt (bRows (matmulOf r4_6.cmd)) (bCols (matmulOf r4_6.cmd)) =
        none) := by
  and_intros <;> decide +kernel

theorem witness_PassAddsItsRowsToTheBuffer :
    (Stated.CoreOn s4_7 70 ∧
      runOp s4_7 (pgMxa 70) 2 = some (mxPass 5) ∧
      (if bit (bf (mxPass 5).cmd 29 1) 0 = true then (mxaOf s4_7 70).shadow else (mxaOf s4_7 70).active).st = 2 ∧
      (if bit (bf (mxPass 5).cmd 29 1) 0 = true then (mxaOf s4_7 70).shadow else (mxaOf s4_7 70).active).job =
        (mxPass 5).cmd.job ∧
      shapeDW (if bit (bf (mxPass 5).cmd 29 1) 0 = true then (mxaOf s4_7 70).shadow else (mxaOf s4_7 70).active).fmt
          (if bit (bf (mxPass 5).cmd 29 1) 0 = true then (mxaOf s4_7 70).shadow else (mxaOf s4_7 70).active).shape =
        some (32, 16) ∧
      pairOk (if bit (bf (mxPass 5).cmd 29 1) 0 = true then (mxaOf s4_7 70).shadow else (mxaOf s4_7 70).active).fmt
          (bf (mxPass 5).cmd 28 1) =
        true ∧
      (bit (bf (mxPass 5).cmd 29 1) 4 = true →
        (if bit (bf (mxPass 5).cmd 29 1) 0 = true then (mxaOf s4_7 70).shadow else (mxaOf s4_7 70).active).fmt = 3 ∧
          (if bit (bf (mxPass 5).cmd 29 1) 0 = true then (mxaOf s4_7 70).shadow else (mxaOf s4_7 70).active).shape =
            0) ∧
      bf (mxPass 5).cmd 26 2 + bf (mxPass 5).cmd 24 2 ≤ bufRows 16 ∧
      bf (mxPass 5).cmd 20 4 % 32 = 0 ∧
      rowBytes (bf (mxPass 5).cmd 28 1) 32 ≤ bf (mxPass 5).cmd 20 4 ∧
      ((bufOf (mxaOf s4_7 70) (bits (bf (mxPass 5).cmd 29 1) 3 1)).st = 0 ∨
        (bufOf (mxaOf s4_7 70) (bits (bf (mxPass 5).cmd 29 1) 3 1)).job = (mxPass 5).cmd.job ∧
          (bufOf (mxaOf s4_7 70) (bits (bf (mxPass 5).cmd 29 1) 3 1)).width = 16 ∧
            (bufOf (mxaOf s4_7 70) (bits (bf (mxPass 5).cmd 29 1) 3 1)).int =
              ((if bit (bf (mxPass 5).cmd 29 1) 0 = true then (mxaOf s4_7 70).shadow
                  else (mxaOf s4_7 70).active).fmt ==
                2)) ∧
      scratchOk s4_7 70 (mxPass 5).cmd.ctx (bf (mxPass 5).cmd 16 4)
          (operandBytes (bf (mxPass 5).cmd 28 1) (bf (mxPass 5).cmd 24 2) 32 (bf (mxPass 5).cmd 20 4)) =
        true ∧
      operandBad (Stated.onDie s4_7 (70 / 1024)) (spScratch 70 + bf (mxPass 5).cmd 16 4) (bf (mxPass 5).cmd 20 4)
          (bf (mxPass 5).cmd 28 1) (bf (mxPass 5).cmd 24 2) 32 =
        none ∧
      bit (reg s4_7 (pgMxa 70) 256) 0 = false ∧
      (mxPass 5).onSib = false ∧
      (bufOf (mxaOf s4_7 70) (bits (bf (mxPass 5).cmd 29 1) 3 1)).st = 0) := by
  and_intros <;> decide +kernel

theorem witness_DrainsFillTheQueueOrTheirSlot :
    (Stated.CoreOn s4_9 70 ∧
      runOp s4_9 (pgMxa 70) 3 = some (drainCmd []) ∧
      (drainCmd []).outs = [] ∧
      (drainCmd []).prog = 0 ∧
      (bufOf (mxaOf s4_9 70) (bits (bf (drainCmd []).cmd 16 1) 0 1)).st = 1 ∧
      (bufOf (mxaOf s4_9 70) (bits (bf (drainCmd []).cmd 16 1) 0 1)).job = (drainCmd []).cmd.job ∧
      (bufOf (mxaOf s4_9 70) (bits (bf (drainCmd []).cmd 16 1) 0 1)).m410 = false ∧
      0 < bf (drainCmd []).cmd 18 2 ∧
      bf (drainCmd []).cmd 18 2 ≤ 64 ∧
      bf (drainCmd []).cmd 18 2 ≤ bufRows (bufOf (mxaOf s4_9 70) (bits (bf (drainCmd []).cmd 16 1) 0 1)).width ∧
      bits (bf (drainCmd []).cmd 17 1) 0 2 = 0 ∧
      badIn s4_9
          (accAddr 70 (bits (bf (drainCmd []).cmd 16 1) 0 1)
            (bufOf (mxaOf s4_9 70) (bits (bf (drainCmd []).cmd 16 1) 0 1)).width 0 0)
          (4 * bf (drainCmd []).cmd 18 2 * (bufOf (mxaOf s4_9 70) (bits (bf (drainCmd []).cmd 16 1) 0 1)).width) =
        none ∧
      ftqFree (venOf s4_9 70) = some 0 ∧
      0 < (bufOf (mxaOf s4_9 70) (bits (bf (drainCmd []).cmd 16 1) 0 1)).width) ∧
    (Stated.CoreOn s4_10 70 ∧
      (engRun s4_10 (pgMxa 70 * 2) fun r => !r.outs.isEmpty) = some r4_11 ∧
      r4_11.cmd.op = 3 ∧
      cmdKey r4_11.cmd = pgMxa 70 * 2 ∧
      r4_11.outs = [outBlk] ∧
      r4_11.prog = 0 ∧
      outBlk.bufLast = true ∧
      blkBad s4_10 70 outBlk = none ∧
      bits (bf r4_11.cmd 17 1) 0 2 = 0 ∧
      (bufOf (mxaOf s4_10 70) (bits (bf r4_11.cmd 16 1) 0 1)).m410 = false ∧
      ftqFree (venOf s4_10 70) = some 0 ∧
      0 < outBlk.vals.length) ∧
    (Stated.CoreOn wSpill 70 ∧
      List.find? (fun r => r.cmd.id == 9 && r.fin.isNone) (engOf wSpill (pgMxa 70 * 2)).aside = some spillCmd ∧
      (∀ (y : RCmd), y ∈ (engOf wSpill (pgMxa 70 * 2)).running → y.cmd.id ≠ 9) ∧
      ((engOf wSpill (pgMxa 70 * 2)).running.any fun y => y.began && y.fin.isNone) = false ∧
      spillCmd.cmd.page = pgMxa 70 ∧
      spillCmd.cmd.op = 3 ∧
      spillCmd.outs = [outBlk] ∧
      spillCmd.prog = 0 ∧
      blkBad wSpill 70 outBlk = none ∧
      outBlk.last = true ∧
      outBlk.bufLast = true ∧
      outBlk.idx = 0 ∧
      (drainOut spillCmd.cmd (bufOf (mxaOf wSpill 70) (bits (bf spillCmd.cmd 16 1) 0 1))).dest = 2 ∧
      0 < (drainOut spillCmd.cmd (bufOf (mxaOf wSpill 70) (bits (bf spillCmd.cmd 16 1) 0 1))).seq ∧
      slotNext wSpill
          (spClu (70 / 8) +
            (drainOut spillCmd.cmd (bufOf (mxaOf wSpill 70) (bits (bf spillCmd.cmd 16 1) 0 1))).out) =
        (drainOut spillCmd.cmd (bufOf (mxaOf wSpill 70) (bits (bf spillCmd.cmd 16 1) 0 1))).seq ∧
      slotDone wSpill
          (spClu (70 / 8) +
            (drainOut spillCmd.cmd (bufOf (mxaOf wSpill 70) (bits (bf spillCmd.cmd 16 1) 0 1))).out) =
        0 ∧
      badIn wSpill
          (spClu (70 / 8) + (drainOut spillCmd.cmd (bufOf (mxaOf wSpill 70) (bits (bf spillCmd.cmd 16 1) 0 1))).out)
          16 =
        none ∧
      slotBad wSpill
          (spClu (70 / 8) +
                  (drainOut spillCmd.cmd (bufOf (mxaOf wSpill 70) (bits (bf spillCmd.cmd 16 1) 0 1))).out +
                64 +
              outBlk.row * (drainOut spillCmd.cmd (bufOf (mxaOf wSpill 70) (bits (bf spillCmd.cmd 16 1) 0 1))).os +
            4 * outBlk.col)
          (drainOut spillCmd.cmd (bufOf (mxaOf wSpill 70) (bits (bf spillCmd.cmd 16 1) 0 1))).os outBlk.vals.length
          (4 * (outBlk.vals.headD []).length) =
        none ∧
      outBlk.vals = [[1, 1065353216]]) := by
  and_intros <;> decide +kernel

theorem witness_ReleasesGiveUpWhatTheirJobHolds :
    (Stated.CoreOn s4_12 70 ∧
      runOp s4_12 (pgMxa 70) 4 = some (rcOf (pgMxa 70) 4 70 []) ∧
      Stated.Alone s4_12 (pgMxa 70 * 2) (rcOf (pgMxa 70) 4 70 []) ∧
      List.filter (fun y => y.fin.isNone && y.cmd.job == (rcOf (pgMxa 70) 4 70 []).cmd.job)
          (engOf s4_12 (pgMxa 70 * 2)).running =
        [rcOf (pgMxa 70) 4 70 []]) ∧
    (Stated.HostReach host (pgMxa 70)) ∧
    (Stated.CoreOn s4_13 70 ∧
      runOp s4_13 (pgVen 70) 4 = some (rcOf (pgVen 70) 4 70 [(16, 1, 6), (20, 4, 16392)]) ∧
      bit (bf (rcOf (pgVen 70) 4 70 [(16, 1, 6), (20, 4, 16392)]).cmd 16 1) 2 = true ∧
      writeBad (Stated.onDie s4_13 (70 / 1024))
          (spScratch 70 + bf (rcOf (pgVen 70) 4 70 [(16, 1, 6), (20, 4, 16392)]).cmd 20 4) 272 =
        none ∧
      (0 < spScratch 70 + bf (rcOf (pgVen 70) 4 70 [(16, 1, 6), (20, 4, 16392)]).cmd 20 4 ∨
        spScratch 70 + bf (rcOf (pgVen 70) 4 70 [(16, 1, 6), (20, 4, 16392)]).cmd 20 4 + 272 ≤ 0)) ∧
    (Stated.CoreOn s4_14 70 ∧
      runOp s4_14 (pgVen 70) 5 = some (rcOf (pgVen 70) 5 70 [(16, 1, 7)])) := by
  and_intros <;> decide +kernel

theorem witness_MatvecWritesItsOutput :
    (Stated.RegionOn (onG (mvCmd [])) 1 ∧
      runOp (onG (mvCmd [])) (pgGmv 1) 1 = some (mvCmd []) ∧
      operandBad (Stated.onDie (onG (mvCmd [])) (1 / 16)) (matvecOf (mvCmd []).cmd).w (matvecOf (mvCmd []).cmd).ws
          (matvecOf (mvCmd []).cmd).wf (mvRows (matvecOf (mvCmd []).cmd)) (mvCols (matvecOf (mvCmd []).cmd)) =
        none ∧
      operandBad (Stated.onDie (onG (mvCmd [])) (1 / 16))
          (spClu (8 * 1 + (matvecOf (mvCmd []).cmd).xc) + (matvecOf (mvCmd []).cmd).x)
          (mvXs (matvecOf (mvCmd []).cmd)) (matvecOf (mvCmd []).cmd).xf (matvecOf (mvCmd []).cmd).v
          (matvecOf (mvCmd []).cmd).k =
        none ∧
      badIn (onG (mvCmd [])) (spVec 1) (up64 ((matvecOf (mvCmd []).cmd).v * mvXs (matvecOf (mvCmd []).cmd))) = none ∧
      (matvecOf (mvCmd []).cmd).dest = 0 ∧
      rowsPartial (Stated.onDie (onG (mvCmd [])) (1 / 16)) (matvecOf (mvCmd []).cmd).v
          (spClu (8 * 1 + (matvecOf (mvCmd []).cmd).yc) + (matvecOf (mvCmd []).cmd).y)
          (up64 (2 * (matvecOf (mvCmd []).cmd).n)) (2 * (matvecOf (mvCmd []).cmd).n) =
        none ∧
      0 < (matvecOf (mvCmd []).cmd).v ∧
      0 < (matvecOf (mvCmd []).cmd).n) ∧
    (Stated.RegionOn (onG (mvCmd [])) 1 ∧
      runOp (onG (mvCmd [])) (pgGmv 1) 1 = some (mvCmd []) ∧
      operandBad (Stated.onDie (onG (mvCmd [])) (1 / 16)) (matvecOf (mvCmd []).cmd).w (matvecOf (mvCmd []).cmd).ws
          (matvecOf (mvCmd []).cmd).wf (mvRows (matvecOf (mvCmd []).cmd)) (mvCols (matvecOf (mvCmd []).cmd)) =
        none ∧
      operandBad (Stated.onDie (onG (mvCmd [])) (1 / 16))
          (spClu (8 * 1 + (matvecOf (mvCmd []).cmd).xc) + (matvecOf (mvCmd []).cmd).x)
          (mvXs (matvecOf (mvCmd []).cmd)) (matvecOf (mvCmd []).cmd).xf (matvecOf (mvCmd []).cmd).v
          (matvecOf (mvCmd []).cmd).k =
        none ∧
      badIn (onG (mvCmd [])) (spVec 1) (up64 ((matvecOf (mvCmd []).cmd).v * mvXs (matvecOf (mvCmd []).cmd))) = none ∧
      (matvecOf (mvCmd []).cmd).dest = 0 ∧
      rowsPartial (Stated.onDie (onG (mvCmd [])) (1 / 16)) (matvecOf (mvCmd []).cmd).v
          (spClu (8 * 1 + (matvecOf (mvCmd []).cmd).yc) + (matvecOf (mvCmd []).cmd).y)
          (up64 (2 * (matvecOf (mvCmd []).cmd).n)) (2 * (matvecOf (mvCmd []).cmd).n) =
        none ∧
      (∀ (v : Nat),
        v < (matvecOf (mvCmd []).cmd).v →
          65536 <
              spClu (8 * 1 + (matvecOf (mvCmd []).cmd).yc) + (matvecOf (mvCmd []).cmd).y +
                v * up64 (2 * (matvecOf (mvCmd []).cmd).n) ∨
            spClu (8 * 1 + (matvecOf (mvCmd []).cmd).yc) + (matvecOf (mvCmd []).cmd).y +
                  v * up64 (2 * (matvecOf (mvCmd []).cmd).n) +
                2 * (matvecOf (mvCmd []).cmd).n ≤
              65536) ∧
      (65536 < spVec 1 ∨ spVec 1 + up64 ((matvecOf (mvCmd []).cmd).v * mvXs (matvecOf (mvCmd []).cmd)) ≤ 65536)) ∧
    (Stated.RegionOn (onG (mvCmd [(44, 1, 1)])) 1 ∧
      runOp (onG (mvCmd [(44, 1, 1)])) (pgGmv 1) 1 = some (mvCmd [(44, 1, 1)]) ∧
      operandBad (Stated.onDie (onG (mvCmd [(44, 1, 1)])) (1 / 16)) (matvecOf (mvCmd [(44, 1, 1)]).cmd).w
          (matvecOf (mvCmd [(44, 1, 1)]).cmd).ws (matvecOf (mvCmd [(44, 1, 1)]).cmd).wf
          (mvRows (matvecOf (mvCmd [(44, 1, 1)]).cmd)) (mvCols (matvecOf (mvCmd [(44, 1, 1)]).cmd)) =
        none ∧
      operandBad (Stated.onDie (onG (mvCmd [(44, 1, 1)])) (1 / 16))
          (spClu (8 * 1 + (matvecOf (mvCmd [(44, 1, 1)]).cmd).xc) + (matvecOf (mvCmd [(44, 1, 1)]).cmd).x)
          (mvXs (matvecOf (mvCmd [(44, 1, 1)]).cmd)) (matvecOf (mvCmd [(44, 1, 1)]).cmd).xf
          (matvecOf (mvCmd [(44, 1, 1)]).cmd).v (matvecOf (mvCmd [(44, 1, 1)]).cmd).k =
        none ∧
      badIn (onG (mvCmd [(44, 1, 1)])) (spVec 1)
          (up64 ((matvecOf (mvCmd [(44, 1, 1)]).cmd).v * mvXs (matvecOf (mvCmd [(44, 1, 1)]).cmd))) =
        none ∧
      (matvecOf (mvCmd [(44, 1, 1)]).cmd).dest ≠ 0 ∧
      ((matvecOf (mvCmd [(44, 1, 1)]).cmd).dest = 1 →
        slotNext (onG (mvCmd [(44, 1, 1)]))
            (spClu (8 * 1 + (matvecOf (mvCmd [(44, 1, 1)]).cmd).yc) + (matvecOf (mvCmd [(44, 1, 1)]).cmd).y) ≤
          (matvecOf (mvCmd [(44, 1, 1)]).cmd).seq)) ∧
    (Stated.RegionOn (wrNum (onG (mvCmd [(44, 1, 1), (46, 2, 3)])) (spClu 8 + 69632) 8 3) 1 ∧
      runOp (wrNum (onG (mvCmd [(44, 1, 1), (46, 2, 3)])) (spClu 8 + 69632) 8 3) (pgGmv 1) 1 =
        some (mvCmd [(44, 1, 1), (46, 2, 3)]) ∧
      operandBad (Stated.onDie (wrNum (onG (mvCmd [(44, 1, 1), (46, 2, 3)])) (spClu 8 + 69632) 8 3) (1 / 16))
          (matvecOf (mvCmd [(44, 1, 1), (46, 2, 3)]).cmd).w (matvecOf (mvCmd [(44, 1, 1), (46, 2, 3)]).cmd).ws
          (matvecOf (mvCmd [(44, 1, 1), (46, 2, 3)]).cmd).wf
          (mvRows (matvecOf (mvCmd [(44, 1, 1), (46, 2, 3)]).cmd))
          (mvCols (matvecOf (mvCmd [(44, 1, 1), (46, 2, 3)]).cmd)) =
        none ∧
      operandBad (Stated.onDie (wrNum (onG (mvCmd [(44, 1, 1), (46, 2, 3)])) (spClu 8 + 69632) 8 3) (1 / 16))
          (spClu (8 * 1 + (matvecOf (mvCmd [(44, 1, 1), (46, 2, 3)]).cmd).xc) +
            (matvecOf (mvCmd [(44, 1, 1), (46, 2, 3)]).cmd).x)
          (mvXs (matvecOf (mvCmd [(44, 1, 1), (46, 2, 3)]).cmd)) (matvecOf (mvCmd [(44, 1, 1), (46, 2, 3)]).cmd).xf
          (matvecOf (mvCmd [(44, 1, 1), (46, 2, 3)]).cmd).v (matvecOf (mvCmd [(44, 1, 1), (46, 2, 3)]).cmd).k =
        none ∧
      badIn (wrNum (onG (mvCmd [(44, 1, 1), (46, 2, 3)])) (spClu 8 + 69632) 8 3) (spVec 1)
          (up64
            ((matvecOf (mvCmd [(44, 1, 1), (46, 2, 3)]).cmd).v *
              mvXs (matvecOf (mvCmd [(44, 1, 1), (46, 2, 3)]).cmd))) =
        none ∧
      (matvecOf (mvCmd [(44, 1, 1), (46, 2, 3)]).cmd).dest ≠ 0 ∧
      ((matvecOf (mvCmd [(44, 1, 1), (46, 2, 3)]).cmd).dest = 1 →
        0 < (matvecOf (mvCmd [(44, 1, 1), (46, 2, 3)]).cmd).seq ∧
          slotNext (wrNum (onG (mvCmd [(44, 1, 1), (46, 2, 3)])) (spClu 8 + 69632) 8 3)
                (spClu (8 * 1 + (matvecOf (mvCmd [(44, 1, 1), (46, 2, 3)]).cmd).yc) +
                  (matvecOf (mvCmd [(44, 1, 1), (46, 2, 3)]).cmd).y) =
              (matvecOf (mvCmd [(44, 1, 1), (46, 2, 3)]).cmd).seq ∧
            slotDone (wrNum (onG (mvCmd [(44, 1, 1), (46, 2, 3)])) (spClu 8 + 69632) 8 3)
                (spClu (8 * 1 + (matvecOf (mvCmd [(44, 1, 1), (46, 2, 3)]).cmd).yc) +
                  (matvecOf (mvCmd [(44, 1, 1), (46, 2, 3)]).cmd).y) =
              0) ∧
      0 < (matvecOf (mvCmd [(44, 1, 1), (46, 2, 3)]).cmd).n ∧
      (matvecOf (mvCmd [(44, 1, 1), (46, 2, 3)]).cmd).n ≤
        (mvShape (matvecOf (mvCmd [(44, 1, 1), (46, 2, 3)]).cmd)).snd ∧
      0 < (matvecOf (mvCmd [(44, 1, 1), (46, 2, 3)]).cmd).v ∧
      badIn (wrNum (onG (mvCmd [(44, 1, 1), (46, 2, 3)])) (spClu 8 + 69632) 8 3)
          (spClu (8 * 1 + (matvecOf (mvCmd [(44, 1, 1), (46, 2, 3)]).cmd).yc) +
            (matvecOf (mvCmd [(44, 1, 1), (46, 2, 3)]).cmd).y)
          16 =
        none ∧
      slotBad (wrNum (onG (mvCmd [(44, 1, 1), (46, 2, 3)])) (spClu 8 + 69632) 8 3)
          (spClu (8 * 1 + (matvecOf (mvCmd [(44, 1, 1), (46, 2, 3)]).cmd).yc) +
              (matvecOf (mvCmd [(44, 1, 1), (46, 2, 3)]).cmd).y +
            64)
          (up64 (4 * (matvecOf (mvCmd [(44, 1, 1), (46, 2, 3)]).cmd).n))
          (matvecOf (mvCmd [(44, 1, 1), (46, 2, 3)]).cmd).v
          (4 * (matvecOf (mvCmd [(44, 1, 1), (46, 2, 3)]).cmd).n) =
        none ∧
      (matvecOf (mvCmd [(44, 1, 1), (46, 2, 3)]).cmd).dest = 1) ∧
    (Stated.RegionOn (wrNum (onG (mvCmd [(44, 1, 1), (46, 2, 3)])) (spClu 8 + 69632) 8 3) 1 ∧
      runOp (wrNum (onG (mvCmd [(44, 1, 1), (46, 2, 3)])) (spClu 8 + 69632) 8 3) (pgGmv 1) 1 =
        some (mvCmd [(44, 1, 1), (46, 2, 3)]) ∧
      operandBad (Stated.onDie (wrNum (onG (mvCmd [(44, 1, 1), (46, 2, 3)])) (spClu 8 + 69632) 8 3) (1 / 16))
          (matvecOf (mvCmd [(44, 1, 1), (46, 2, 3)]).cmd).w (matvecOf (mvCmd [(44, 1, 1), (46, 2, 3)]).cmd).ws
          (matvecOf (mvCmd [(44, 1, 1), (46, 2, 3)]).cmd).wf
          (mvRows (matvecOf (mvCmd [(44, 1, 1), (46, 2, 3)]).cmd))
          (mvCols (matvecOf (mvCmd [(44, 1, 1), (46, 2, 3)]).cmd)) =
        none ∧
      operandBad (Stated.onDie (wrNum (onG (mvCmd [(44, 1, 1), (46, 2, 3)])) (spClu 8 + 69632) 8 3) (1 / 16))
          (spClu (8 * 1 + (matvecOf (mvCmd [(44, 1, 1), (46, 2, 3)]).cmd).xc) +
            (matvecOf (mvCmd [(44, 1, 1), (46, 2, 3)]).cmd).x)
          (mvXs (matvecOf (mvCmd [(44, 1, 1), (46, 2, 3)]).cmd)) (matvecOf (mvCmd [(44, 1, 1), (46, 2, 3)]).cmd).xf
          (matvecOf (mvCmd [(44, 1, 1), (46, 2, 3)]).cmd).v (matvecOf (mvCmd [(44, 1, 1), (46, 2, 3)]).cmd).k =
        none ∧
      badIn (wrNum (onG (mvCmd [(44, 1, 1), (46, 2, 3)])) (spClu 8 + 69632) 8 3) (spVec 1)
          (up64
            ((matvecOf (mvCmd [(44, 1, 1), (46, 2, 3)]).cmd).v *
              mvXs (matvecOf (mvCmd [(44, 1, 1), (46, 2, 3)]).cmd))) =
        none ∧
      (matvecOf (mvCmd [(44, 1, 1), (46, 2, 3)]).cmd).dest ≠ 0 ∧
      ((matvecOf (mvCmd [(44, 1, 1), (46, 2, 3)]).cmd).dest = 1 →
        0 < (matvecOf (mvCmd [(44, 1, 1), (46, 2, 3)]).cmd).seq ∧
          slotNext (wrNum (onG (mvCmd [(44, 1, 1), (46, 2, 3)])) (spClu 8 + 69632) 8 3)
                (spClu (8 * 1 + (matvecOf (mvCmd [(44, 1, 1), (46, 2, 3)]).cmd).yc) +
                  (matvecOf (mvCmd [(44, 1, 1), (46, 2, 3)]).cmd).y) =
              (matvecOf (mvCmd [(44, 1, 1), (46, 2, 3)]).cmd).seq ∧
            slotDone (wrNum (onG (mvCmd [(44, 1, 1), (46, 2, 3)])) (spClu 8 + 69632) 8 3)
                (spClu (8 * 1 + (matvecOf (mvCmd [(44, 1, 1), (46, 2, 3)]).cmd).yc) +
                  (matvecOf (mvCmd [(44, 1, 1), (46, 2, 3)]).cmd).y) =
              0) ∧
      0 < (matvecOf (mvCmd [(44, 1, 1), (46, 2, 3)]).cmd).n ∧
      (matvecOf (mvCmd [(44, 1, 1), (46, 2, 3)]).cmd).n ≤
        (mvShape (matvecOf (mvCmd [(44, 1, 1), (46, 2, 3)]).cmd)).snd ∧
      0 < (matvecOf (mvCmd [(44, 1, 1), (46, 2, 3)]).cmd).v ∧
      badIn (wrNum (onG (mvCmd [(44, 1, 1), (46, 2, 3)])) (spClu 8 + 69632) 8 3)
          (spClu (8 * 1 + (matvecOf (mvCmd [(44, 1, 1), (46, 2, 3)]).cmd).yc) +
            (matvecOf (mvCmd [(44, 1, 1), (46, 2, 3)]).cmd).y)
          16 =
        none ∧
      slotBad (wrNum (onG (mvCmd [(44, 1, 1), (46, 2, 3)])) (spClu 8 + 69632) 8 3)
          (spClu (8 * 1 + (matvecOf (mvCmd [(44, 1, 1), (46, 2, 3)]).cmd).yc) +
              (matvecOf (mvCmd [(44, 1, 1), (46, 2, 3)]).cmd).y +
            64)
          (up64 (4 * (matvecOf (mvCmd [(44, 1, 1), (46, 2, 3)]).cmd).n))
          (matvecOf (mvCmd [(44, 1, 1), (46, 2, 3)]).cmd).v
          (4 * (matvecOf (mvCmd [(44, 1, 1), (46, 2, 3)]).cmd).n) =
        none ∧
      (matvecOf (mvCmd [(44, 1, 1), (46, 2, 3)]).cmd).v = 1) := by
  and_intros <;> decide +kernel

theorem witness_VectorCommandsWriteTheirResults :
    (Stated.CoreOn (onV vMap) 70 ∧
      runOp (onV vMap) (pgVen 70) 1 = some vMap ∧
      entryOk (venEntry (onV vMap) vMap.cmd) (vSources 1 (venCmdOf vMap.cmd)) = true ∧
      opsBad (Stated.onDie (onV vMap) (70 / 1024)) 70 (venEntry (onV vMap) vMap.cmd).slot
          (vSources 1 (venCmdOf vMap.cmd)) =
        none ∧
      opsPartial (Stated.onDie (onV vMap) (70 / 1024)) 70 (vDests 1 (venCmdOf vMap.cmd)) = none) ∧
    (Stated.CoreOn (onV vMapI) 70 ∧
      runOp (onV vMapI) (pgVen 70) 1 = some vMapI ∧
      entryOk (venEntry (onV vMapI) vMapI.cmd) (vSources 1 (venCmdOf vMapI.cmd)) = true ∧
      opsBad (Stated.onDie (onV vMapI) (70 / 1024)) 70 (venEntry (onV vMapI) vMapI.cmd).slot
          (vSources 1 (venCmdOf vMapI.cmd)) =
        none ∧
      opsPartial (Stated.onDie (onV vMapI) (70 / 1024)) 70 (vDests 1 (venCmdOf vMapI.cmd)) = none ∧
      vMapI.cmd.core = 70 ∧
      (venCmdOf vMapI.cmd).d.space = 1 ∧
      vRows (venCmdOf vMapI.cmd) = 1 ∧
      0 < (venCmdOf vMapI.cmd).l ∧
      (venCmdOf vMapI.cmd).func ≠ 63 ∧
      (venCmdOf vMapI.cmd).func ≠ 4 ∧
      (venCmdOf vMapI.cmd).bMode = 3) ∧
    (Stated.CoreOn (onV (vRed 0)) 70 ∧
      runOp (onV (vRed 0)) (pgVen 70) 2 = some (vRed 0) ∧
      entryOk (venEntry (onV (vRed 0)) (vRed 0).cmd) (vSources 2 (venCmdOf (vRed 0).cmd)) = true ∧
      opsBad (Stated.onDie (onV (vRed 0)) (70 / 1024)) 70 (venEntry (onV (vRed 0)) (vRed 0).cmd).slot
          (vSources 2 (venCmdOf (vRed 0).cmd)) =
        none ∧
      opsPartial (Stated.onDie (onV (vRed 0)) (70 / 1024)) 70 (vDests 2 (venCmdOf (vRed 0).cmd)) = none ∧
      (vRed 0).cmd.core = 70 ∧
      (venCmdOf (vRed 0).cmd).d.space = 1 ∧
      vRows (venCmdOf (vRed 0).cmd) = 1) ∧
    (Stated.CoreOn (onV vShuf) 70 ∧
      runOp (onV vShuf) (pgVen 70) 3 = some vShuf ∧
      entryOk (venEntry (onV vShuf) vShuf.cmd) (vSources 3 (venCmdOf vShuf.cmd)) = true ∧
      opsBad (Stated.onDie (onV vShuf) (70 / 1024)) 70 (venEntry (onV vShuf) vShuf.cmd).slot
          (vSources 3 (venCmdOf vShuf.cmd)) =
        none ∧
      opsPartial (Stated.onDie (onV vShuf) (70 / 1024)) 70 (vDests 3 (venCmdOf vShuf.cmd)) = none) ∧
    (Stated.CoreOn (onV vRev) 70 ∧
      runOp (onV vRev) (pgVen 70) 3 = some vRev ∧
      entryOk (venEntry (onV vRev) vRev.cmd) (vSources 3 (venCmdOf vRev.cmd)) = true ∧
      opsBad (Stated.onDie (onV vRev) (70 / 1024)) 70 (venEntry (onV vRev) vRev.cmd).slot
          (vSources 3 (venCmdOf vRev.cmd)) =
        none ∧
      opsPartial (Stated.onDie (onV vRev) (70 / 1024)) 70 (vDests 3 (venCmdOf vRev.cmd)) = none ∧
      vRev.cmd.core = 70 ∧
      (venCmdOf vRev.cmd).d.space = 1 ∧
      vRows (venCmdOf vRev.cmd) = 1 ∧
      0 < (venCmdOf vRev.cmd).l ∧
      (venCmdOf vRev.cmd).func = 1 ∧
      sameFmt (venCmdOf vRev.cmd) (venEntry (onV vRev) vRev.cmd) = true) := by
  and_intros <;> decide +kernel

theorem witness_AttentionCommandsComplete :
    (Stated.CoreOn (onV atnAcc) 70 ∧
      runOp (onV atnAcc) (pgAtn 70) 2 = some atnAcc ∧
      takeEntries (jobEntries (onV atnAcc) 70 atnAcc.cmd.job) (bf atnAcc.cmd 26 2) = some [ent] ∧
      entriesFit [ent] (bf atnAcc.cmd 24 2) (bf atnAcc.cmd 26 2) = true ∧
      entriesBad (onV atnAcc) 70 [ent] = none ∧
      (bit (bf atnAcc.cmd 28 1) 0 = false →
        badIn (onV atnAcc) (spTbuf 70 + bf atnAcc.cmd 16 4) (4 * bf atnAcc.cmd 24 2 * bf atnAcc.cmd 26 2) = none ∧
          badIn (onV atnAcc) (spTbuf 70 + (bf atnAcc.cmd 20 4 + 512)) (4 * bf atnAcc.cmd 24 2) = none) ∧
      0 < bf atnAcc.cmd 24 2 ∧
      0 < bf atnAcc.cmd 26 2) ∧
    (Stated.CoreOn (onV atnFin1) 70 ∧
      runOp (onV atnFin1) (pgAtn 70) 3 = some atnFin1 ∧
      badIn (onV atnFin1) (spTbuf 70 + bf atnFin1.cmd 16 4) (4 * bf atnFin1.cmd 32 2 * bf atnFin1.cmd 34 2) = none ∧
      badIn (onV atnFin1) (spTbuf 70 + bf atnFin1.cmd 20 4) (256 + 4 * bf atnFin1.cmd 32 2) = none ∧
      dPartial (Stated.onDie (onV atnFin1) (70 / 1024)) 70 (descOf (bf atnFin1.cmd 24 4)) (bf atnFin1.cmd 36 2)
          (bf atnFin1.cmd 32 2) (bf atnFin1.cmd 34 2) =
        none ∧
      (bit (bf atnFin1.cmd 38 1) 0 = true →
        writeBad (Stated.onDie (onV atnFin1) (70 / 1024)) (spScratch 70 + bf atnFin1.cmd 28 4)
            (2 * bf atnFin1.cmd 32 2) =
          none) ∧
      bf atnFin1.cmd 32 2 ≤ 64 ∧
      bit (bf atnFin1.cmd 38 1) 0 = false ∧
      (descOf (bf atnFin1.cmd 24 4)).space = 0 ∧
      bf atnFin1.cmd 32 2 = 1) ∧
    (Stated.CoreOn (onV atnFin) 70 ∧
      runOp (onV atnFin) (pgAtn 70) 3 = some atnFin ∧
      badIn (onV atnFin) (spTbuf 70 + bf atnFin.cmd 16 4) (4 * bf atnFin.cmd 32 2 * bf atnFin.cmd 34 2) = none ∧
      badIn (onV atnFin) (spTbuf 70 + bf atnFin.cmd 20 4) (256 + 4 * bf atnFin.cmd 32 2) = none ∧
      dPartial (Stated.onDie (onV atnFin) (70 / 1024)) 70 (descOf (bf atnFin.cmd 24 4)) (bf atnFin.cmd 36 2)
          (bf atnFin.cmd 32 2) (bf atnFin.cmd 34 2) =
        none ∧
      (bit (bf atnFin.cmd 38 1) 0 = true →
        writeBad (Stated.onDie (onV atnFin) (70 / 1024)) (spScratch 70 + bf atnFin.cmd 28 4)
            (2 * bf atnFin.cmd 32 2) =
          none) ∧
      bf atnFin.cmd 32 2 ≤ 64 ∧
      bit (bf atnFin.cmd 38 1) 0 = true) ∧
    (Stated.CoreOn (onV1 atnSc1) 70 ∧
      runOp (onV1 atnSc1) (pgAtn 70) 1 = some atnSc1 ∧
      takeEntries (jobEntries (onV1 atnSc1) 70 atnSc1.cmd.job) (scoresOf atnSc1.cmd).kcols = some [ent1] ∧
      entriesFit [ent1] (scoresOf atnSc1.cmd).rows (scoresOf atnSc1.cmd).kcols = true ∧
      (scoresOf atnSc1.cmd).rows ≤ 64 ∧
      ((scoresOf atnSc1.cmd).segEn = true ∨ (scoresOf atnSc1.cmd).lse = true →
        readBad (Stated.onDie (onV1 atnSc1) (70 / 1024)) (spScratch 70 + (scoresOf atnSc1.cmd).segq)
            (2 * (scoresOf atnSc1.cmd).rows) =
          none) ∧
      ((scoresOf atnSc1.cmd).segEn = true →
        readBad (Stated.onDie (onV1 atnSc1) (70 / 1024)) (spScratch 70 + (scoresOf atnSc1.cmd).segk)
            (2 * (scoresOf atnSc1.cmd).kcols) =
          none) ∧
      ((scoresOf atnSc1.cmd).bias = 1 →
        readBad (Stated.onDie (onV1 atnSc1) (70 / 1024)) (spScratch 70 + (scoresOf atnSc1.cmd).table) 512 = none) ∧
      entriesBad (onV1 atnSc1) 70 [ent1] = none ∧
      ((scoresOf atnSc1.cmd).lse = false →
        (scoresOf atnSc1.cmd).first = false →
          badIn (onV1 atnSc1) (spTbuf 70 + (scoresOf atnSc1.cmd).state) 512 = none) ∧
      dPartial (Stated.onDie (onV1 atnSc1) (70 / 1024)) 70 (scoresOf atnSc1.cmd).p (scoresOf atnSc1.cmd).ps
          (scoresOf atnSc1.cmd).rows (scoresOf atnSc1.cmd).kcols =
        none ∧
      (scoresOf atnSc1.cmd).p.space = 0 ∧
      (scoresOf atnSc1.cmd).rows = 1) ∧
    (Stated.CoreOn (onV1 atnSc1) 70 ∧
      runOp (onV1 atnSc1) (pgAtn 70) 1 = some atnSc1 ∧
      takeEntries (jobEntries (onV1 atnSc1) 70 atnSc1.cmd.job) (scoresOf atnSc1.cmd).kcols = some [ent1] ∧
      entriesFit [ent1] (scoresOf atnSc1.cmd).rows (scoresOf atnSc1.cmd).kcols = true ∧
      (scoresOf atnSc1.cmd).rows ≤ 64 ∧
      ((scoresOf atnSc1.cmd).segEn = true ∨ (scoresOf atnSc1.cmd).lse = true →
        readBad (Stated.onDie (onV1 atnSc1) (70 / 1024)) (spScratch 70 + (scoresOf atnSc1.cmd).segq)
            (2 * (scoresOf atnSc1.cmd).rows) =
          none) ∧
      ((scoresOf atnSc1.cmd).segEn = true →
        readBad (Stated.onDie (onV1 atnSc1) (70 / 1024)) (spScratch 70 + (scoresOf atnSc1.cmd).segk)
            (2 * (scoresOf atnSc1.cmd).kcols) =
          none) ∧
      ((scoresOf atnSc1.cmd).bias = 1 →
        readBad (Stated.onDie (onV1 atnSc1) (70 / 1024)) (spScratch 70 + (scoresOf atnSc1.cmd).table) 512 = none) ∧
      entriesBad (onV1 atnSc1) 70 [ent1] = none ∧
      ((scoresOf atnSc1.cmd).lse = false →
        (scoresOf atnSc1.cmd).first = false →
          badIn (onV1 atnSc1) (spTbuf 70 + (scoresOf atnSc1.cmd).state) 512 = none) ∧
      dPartial (Stated.onDie (onV1 atnSc1) (70 / 1024)) 70 (scoresOf atnSc1.cmd).p (scoresOf atnSc1.cmd).ps
          (scoresOf atnSc1.cmd).rows (scoresOf atnSc1.cmd).kcols =
        none ∧
      (scoresOf atnSc1.cmd).lse = false) := by
  and_intros <;> decide +kernel

theorem witness_KvCommandsMoveTokenRows :
    (Stated.CoreOn (onKv (kv 4)) 70 ∧
      runOp (onKv (kv 4)) (pgAtn 70) 4 = some (kv 4) ∧
      readBad (Stated.onDie (onKv (kv 4)) (70 / 1024))
          (spScratch 70 + (kvOf (kv 4).cmd).table + 8 * kvPage0 (kvOf (kv 4).cmd)) (8 * kvPages (kvOf (kv 4).cmd)) =
        none ∧
      ((kvOf (kv 4).cmd).expand = true →
        readBad (Stated.onDie (onKv (kv 4)) (70 / 1024)) (spScratch 70 + (kvOf (kv 4).cmd).up)
            (2 * (kvOf (kv 4).cmd).rank * (kvOf (kv 4).cmd).dout) =
          none) ∧
      kvCheck (onKv (kv 4)) 70 (kv 4).cmd.job (kvOf (kv 4).cmd) = none ∧
      (kvOf (kv 4).cmd).tokens = 1 ∧
      fabBad (Stated.onDie (onKv (kv 4)) (70 / 1024))
          (kvAddr (onKv (kv 4)) 70 (kvOf (kv 4).cmd) (kvOf (kv 4).cmd).t0) (kvRow (kvOf (kv 4).cmd)) =
        none ∧
      writeBad (Stated.onDie (onKv (kv 4)) (70 / 1024)) (spScratch 70 + (kvOf (kv 4).cmd).st.off)
          (rowBytes (kvOf (kv 4).cmd).st.fmt (kvCols (kvOf (kv 4).cmd))) =
        none ∧
      (0 < spScratch 70 + (kvOf (kv 4).cmd).st.off ∨
        spScratch 70 + (kvOf (kv 4).cmd).st.off +
            (encRow (kvOf (kv 4).cmd).st.fmt
                (kvStaged (onKv (kv 4)) 70 (kvOf (kv 4).cmd)
                  (kvAddr (onKv (kv 4)) 70 (kvOf (kv 4).cmd) (kvOf (kv 4).cmd).t0))).length ≤
          0)) ∧
    (Stated.CoreOn (onKv (kv 5)) 70 ∧
      runOp (onKv (kv 5)) (pgAtn 70) 5 = some (kv 5) ∧
      readBad (Stated.onDie (onKv (kv 5)) (70 / 1024))
          (spScratch 70 + (kvOf (kv 5).cmd).table + 8 * kvPage0 (kvOf (kv 5).cmd)) (8 * kvPages (kvOf (kv 5).cmd)) =
        none ∧
      ((kvOf (kv 5).cmd).expand = true →
        readBad (Stated.onDie (onKv (kv 5)) (70 / 1024)) (spScratch 70 + (kvOf (kv 5).cmd).up)
            (2 * (kvOf (kv 5).cmd).rank * (kvOf (kv 5).cmd).dout) =
          none) ∧
      kvCheck (onKv (kv 5)) 70 (kv 5).cmd.job (kvOf (kv 5).cmd) = none ∧
      (kvOf (kv 5).cmd).tokens = 1 ∧
      readBad (Stated.onDie (onKv (kv 5)) (70 / 1024)) (spScratch 70 + (kvOf (kv 5).cmd).st.off)
          (rowBytes (kvOf (kv 5).cmd).st.fmt (kvOf (kv 5).cmd).width) =
        none ∧
      writeBad (Stated.onDie (onKv (kv 5)) (70 / 1024))
          (kvAddr (onKv (kv 5)) 70 (kvOf (kv 5).cmd) (kvOf (kv 5).cmd).t0)
          ((kvOf (kv 5).cmd).width * elemBytes (kvOf (kv 5).cmd).pfmt) =
        none ∧
      (0 < kvAddr (onKv (kv 5)) 70 (kvOf (kv 5).cmd) (kvOf (kv 5).cmd).t0 ∨
        kvAddr (onKv (kv 5)) 70 (kvOf (kv 5).cmd) (kvOf (kv 5).cmd).t0 +
            (List.flatMap
                (fun j =>
                  encPlain (kvOf (kv 5).cmd).pfmt
                    (elemAt (onKv (kv 5)) (spScratch 70 + (kvOf (kv 5).cmd).st.off)
                      (dStride (kvOf (kv 5).cmd).st (kvOf (kv 5).cmd).ss (kvOf (kv 5).cmd).width)
                      (kvOf (kv 5).cmd).st.fmt 1 (kvOf (kv 5).cmd).width 0 j))
                (upTo (kvOf (kv 5).cmd).width)).length ≤
          0)) := by
  and_intros <;> decide +kernel

theorem witness_MessagesAreSentStoredAndReleased :
    (Stated.CoreOn s6_0 70 ∧
      (engRun s6_0 (pgChn 70 * 2) fun r => r.cmd.op == 1 && r.prog == 0) = some (send 100) ∧
      outBound s6_0 70 (bits (bf (send 100).cmd 24 1) 0 4) (send 100).cmd.job = true ∧
      sendForm s6_0 70 (bits (bf (send 100).cmd 24 1) 0 4) (bf (send 100).cmd 20 4)
          (bit (bf (send 100).cmd 25 1) 0) =
        true ∧
      reelOk s6_0 70 (bits (bf (send 100).cmd 24 1) 0 4) = true ∧
      fenced s6_0 (outDst s6_0 70 (bits (bf (send 100).cmd 24 1) 0 4)) = false ∧
      sendCut s6_0 70 (bits (bf (send 100).cmd 24 1) 0 4) = false ∧
      (¬(bit (outCfg s6_0 70 (bits (bf (send 100).cmd 24 1) 0 4)) 1 = true ∧
          (inOf s6_0 70 (outPair s6_0 70 (bits (bf (send 100).cmd 24 1) 0 4))).res = 0)) ∧
      sendReady s6_0 70 (send 100) (engOf s6_0 (pgChn 70 * 2)).aside = true ∧
      badIn s6_0 (spScratch 70 + bf (send 100).cmd 16 4) (bf (send 100).cmd 20 4) = none) ∧
    (Stated.CoreOn s6_1 70 ∧
      (engRun s6_1 (pgChn 70 * 2) fun r => r.cmd.op == 1 && r.prog == 0) = some (send 100) ∧
      outBound s6_1 70 (bits (bf (send 100).cmd 24 1) 0 4) (send 100).cmd.job = true ∧
      sendForm s6_1 70 (bits (bf (send 100).cmd 24 1) 0 4) (bf (send 100).cmd 20 4)
          (bit (bf (send 100).cmd 25 1) 0) =
        true ∧
      reelOk s6_1 70 (bits (bf (send 100).cmd 24 1) 0 4) = true ∧
      fenced s6_1 (outDst s6_1 70 (bits (bf (send 100).cmd 24 1) 0 4)) = false ∧
      sendCut s6_1 70 (bits (bf (send 100).cmd 24 1) 0 4) = false ∧
      (¬(bit (outCfg s6_1 70 (bits (bf (send 100).cmd 24 1) 0 4)) 1 = true ∧
          (inOf s6_1 70 (outPair s6_1 70 (bits (bf (send 100).cmd 24 1) 0 4))).res = 0)) ∧
      sendReady s6_1 70 (send 100) (engOf s6_1 (pgChn 70 * 2)).aside = false) ∧
    (Stated.CoreOn s6_2 100 ∧
      runOp s6_2 (pgChn 100) 2 = some relCmd ∧
      bit (inCfg s6_2 100 (bits (bf relCmd.cmd 16 1) 0 4)) 0 = true ∧
      bits (inCfg s6_2 100 (bits (bf relCmd.cmd 16 1) 0 4)) 4 4 = relCmd.cmd.job ∧
      takeRecs (bf relCmd.cmd 18 2) (inOf s6_2 100 (bits (bf relCmd.cmd 16 1) 0 4)).recs 0 =
        some (128, [(64, false)]) ∧
      (inOf s6_2 100 (bits (bf relCmd.cmd 16 1) 0 4)).peer ≠ 0) ∧
    (Stated.CoreOn s6_3 100 ∧
      (inOf s6_3 100 5).flight = msg :: ms6_4 ∧
      msg.isPad = false ∧
      16 + msg.payload.length ≤ msg.len ∧
      scratchSaved s6_3 100 (bits (inReel s6_3 100 5) 0 9 * 4096) (reelSize s6_3 100 5) = false) ∧
    (Stated.CoreOn s6_5 70 ∧
      (outOf s6_5 70 3).acks = [(9, 4, 64)] ∧
      (engRun s6_5 (pgChn 70 * 2) fun r => r.cmd.id == 9 && r.prog == 1) = some r6_6 ∧
      cmdKey r6_6.cmd = pgChn 70 * 2) ∧
    (Stated.CoreOn s6_7 70 ∧
      (outOf s6_7 70 3).returns = [64, 128] ∧
      (engOf s6_7 (pgChn 70 * 2)).aside = []) ∧
    (Stated.CoreOn wSendTimeout 70 ∧
      List.find? (fun r => r.cmd.id == 9) (engOf wSendTimeout (pgChn 70 * 2)).aside = some r6_8 ∧
      fenced wSendTimeout (outDst wSendTimeout 70 (bits (bf r6_8.cmd 24 1) 0 4)) = false ∧
      r6_8.since + 1000 * regF wSendTimeout (pgChn 70) 1280 0 32 ≤ wSendTimeout.time) := by
  and_intros <;> decide +kernel

theorem witness_ChannelBindingTakesUnusedChannels :
    (Stated.HostReach s6_10 (pgChn 70) ∧
      outBusy s6_10 70 4 = false ∧
      bit (1617231877#64).toNat 0 = true ∧
      targetMatches s6_10 ((1617231877#64).toNat &&& 68585193535) = true ∧
      (inOf s6_10 (bits (1617231877#64).toNat 16 11) (bits (1617231877#64).toNat 28 4)).peer = 0) ∧
    (Stated.HostReach s6_11 (pgChn 70) ∧
      outBusy s6_11 70 3 = true) ∧
    (Stated.HostReach s6_9 (pgChn 70) ∧
      inBusy s6_9 70 4 = false ∧
      reelLegal (1617231877#64).toNat = true) ∧
    (Stated.HostReach s6_9 (pgChn 70) ∧
      inBusy s6_9 70 4 = false ∧
      reelLegal (1610612741#64).toNat = false) ∧
    (Stated.HostReach s6_11 (pgChn 100) ∧
      inBusy s6_11 100 5 = true) := by
  and_intros <;> decide +kernel

theorem witness_StageStepsDrainsResumesAndAborts :
    (Stated.RegionOn s7_0 1 ∧
      (engRun s7_0 (pgPse 1 * 2) fun x => x.cmd.op == 1 && x.prog == 0) = some sc ∧
      stepForm s7_0 1 sc.cmd = true ∧
      stepAccess s7_0 1 sc.cmd = true ∧
      (pseOf s7_0 1).st = 0 ∧
      (pseOf s7_0 1).cur = none ∧
      (pseOf s7_0 1).failed = false) ∧
    (Stated.RegionOn (running sc (stage1 p7)) 1 ∧
      (engRun (running sc (stage1 p7)) (pgPse 1 * 2) fun x => x.cmd.op == 1 && x.prog == 0) = some sc ∧
      stepForm (running sc (stage1 p7)) 1 sc.cmd = true ∧
      stepAccess (running sc (stage1 p7)) 1 sc.cmd = true ∧
      (pseOf (running sc (stage1 p7)) 1).st ≠ 0) ∧
    (Stated.RegionOn s7_1 1 ∧
      (pseOf s7_1 1).wait = some c7_2 ∧
      (pseOf s7_1 1).cur = none ∧
      (pseOf s7_1 1).st ≤ 1 ∧
      (pseOf s7_1 1).failed = false ∧
      readsBelow (pseOf s7_1 1) c7_2.num c7_2.lag = false) ∧
    (Stated.RegionOn s7_3 1 ∧
      (engRun s7_3 (pgPse 1 * 2) fun x => x.cmd.op == 3 && x.prog == 0) = some (pse1 3 []) ∧
      ((pseOf s7_3 1).st = 0 ∨ (pseOf s7_3 1).st = 3)) ∧
    (Stated.RegionOn s7_4 1 ∧
      (engRun s7_4 (pgPse 1 * 2) fun x => x.cmd.op == 3 && x.prog == 0) = some (pse1 3 []) ∧
      Stated.StageRuns s7_4 1 stp ∧
      (pseOf s7_4 1).inflight ≠ []) ∧
    (Stated.RegionOn s7_5 1 ∧
      runOp s7_5 (pgPse 1) 4 = some (pse1 4 []) ∧
      (pseOf s7_5 1).st = 3 ∧
      (pseOf s7_5 1).failed = false ∧
      (pseOf s7_5 1).cur ≠ none) ∧
    (Stated.RegionOn s7_6 1 ∧
      runOp s7_6 (pgPse 1) 4 = some (pse1 4 []) ∧
      (pseOf s7_6 1).st = 3 ∧
      (pseOf s7_6 1).failed = false ∧
      (pseOf s7_6 1).cur = none ∧
      (pseOf s7_6 1).wait = none) ∧
    (Stated.RegionOn s7_7 1 ∧
      (engRun s7_7 (pgPse 1 * 2) fun x => x.cmd.op == 5 && x.prog == 0) = some (pse1 5 []) ∧
      cmdKey (pse1 5 []).cmd = pgPse 1 * 2 ∧
      Stated.Alone s7_7 (pgPse 1 * 2) (pse1 5 []) ∧
      upfQuiet s7_7 1 = true) ∧
    (Stated.HostReach (chanHost (stage1 p7)) (pgPse 1) ∧
      (pseOf (chanHost (stage1 p7)) 1).st ≠ 0) ∧
    (Stated.HostReach s7_9 (pgPse 1) ∧
      (pseOf s7_9 1).st = 0 ∧
      1 ≤ bits (536870914#64).toNat 29 7 ∧
      bits (536870914#64).toNat 29 7 ≤ 64 ∧
      (pseOf s7_9 1).aborting = false ∧
      bit (536870914#64).toNat 0 ≠ bit (pseCfg s7_9 1) 0) ∧
    (Stated.HostReach s7_11 (pgPse 1) ∧
      (pseOf s7_11 1).st = 0 ∧
      1 ≤ bits (536870914#64).toNat 29 7 ∧
      bits (536870914#64).toNat 29 7 ≤ 64 ∧
      (pseOf s7_11 1).aborting = true ∧
      upfQuiet s7_11 1 = false ∧
      bit (536870914#64).toNat 0 ≠ bit (pseCfg s7_11 1) 0) := by
  and_intros <;> decide +kernel

theorem witness_PhasesAreDispatchedAndVersionsOpened :
    (Stated.RegionOn (setReg (stage1 p7) (pgPse 1) 272 196608) 1 ∧
      nextPhase (setReg (stage1 p7) (pgPse 1) 272 196608) 1 = some (0, 0, 0) ∧
      (pseOf (setReg (stage1 p7) (pgPse 1) 272 196608) 1).cur = some stp ∧
      stp.seg = 0 ∧
      scratchSaved (setReg (stage1 p7) (pgPse 1) 272 196608)
          (64 * 1 + bits (pseCfg (setReg (stage1 p7) (pgPse 1) 272 196608) 1) 8 6)
          (bits (pseCfg (setReg (stage1 p7) (pgPse 1) 272 196608) 1) 20 9 * 4096) 4096 =
        false ∧
      (0 <
          spScratch (64 * 1 + bits (pseCfg (setReg (stage1 p7) (pgPse 1) 272 196608) 1) 8 6) +
              bits (pseCfg (setReg (stage1 p7) (pgPse 1) 272 196608) 1) 20 9 * 4096 +
            64 * ((pseOf (setReg (stage1 p7) (pgPse 1) 272 196608) 1).wid % 64) ∨
        spScratch (64 * 1 + bits (pseCfg (setReg (stage1 p7) (pgPse 1) 272 196608) 1) 8 6) +
                bits (pseCfg (setReg (stage1 p7) (pgPse 1) 272 196608) 1) 20 9 * 4096 +
              64 * ((pseOf (setReg (stage1 p7) (pgPse 1) 272 196608) 1).wid % 64) +
            64 ≤
          0)) ∧
    (Stated.RegionOn s7_12 1 ∧
      runOp s7_12 (pgPse 1) 2 = some (pse1 2 [(16, 4, 4)]) ∧
      List.find? (fun f => f.wid == bf (pse1 2 [(16, 4, 4)]).cmd 16 4) (pseOf s7_12 1).inflight = some flt ∧
      (flt.buf ≠ 0 → bf (pse1 2 [(16, 4, 4)]).cmd 20 4 ≤ poolSize s7_12 1 (if flt.ph = 0 then 2 else 3)) ∧
      bf (pse1 2 [(16, 4, 4)]).cmd 24 1 = stOK ∧
      flt.ph = 0 ∧
      pseL s7_12 1 flt.v + 1 = pseNL s7_12 1 ∧
      Stated.StageRuns s7_12 1 stp) ∧
    (Stated.RegionOn s7_13 1 ∧
      runOp s7_13 (pgPse 1) 2 = some (pse1 2 [(16, 4, 4), (24, 1, 9)]) ∧
      List.find? (fun f => f.wid == bf (pse1 2 [(16, 4, 4), (24, 1, 9)]).cmd 16 4) (pseOf s7_13 1).inflight =
        some flt ∧
      (flt.buf ≠ 0 → bf (pse1 2 [(16, 4, 4), (24, 1, 9)]).cmd 20 4 ≤ poolSize s7_13 1 (if flt.ph = 0 then 2 else 3)) ∧
      bf (pse1 2 [(16, 4, 4), (24, 1, 9)]).cmd 24 1 ≠ stOK ∧
      (pseOf s7_13 1).cur ≠ none) ∧
    (Stated.RegionOn (running (pse1 6 [(16, 8, 7)]) (stage1 p7)) 1 ∧
      (pseCmds (running (pse1 6 [(16, 8, 7)]) (stage1 p7)) 1 6).head? = some (pse1 6 [(16, 8, 7)]) ∧
      vslotFree (pseOf (running (pse1 6 [(16, 8, 7)]) (stage1 p7)) 1) = some 1 ∧
      openJudge (pseOf (running (pse1 6 [(16, 8, 7)]) (stage1 p7)) 1) (bf (pse1 6 [(16, 8, 7)]).cmd 16 8) = true ∧
      stackedOk (running (pse1 6 [(16, 8, 7)]) (stage1 p7)) (pseJob (running (pse1 6 [(16, 8, 7)]) (stage1 p7)) 1)
          (vslotAddr (running (pse1 6 [(16, 8, 7)]) (stage1 p7)) 1 1) 64 =
        true) ∧
    (Stated.RegionOn s7_14 1 ∧
      (pseCmds s7_14 1 6).head? = some (pse1 6 [(16, 8, 7)]) ∧
      vslotFree (pseOf s7_14 1) = none) ∧
    (Stated.RegionOn s7_15 1 ∧
      List.find? (fun y => (fillingOf (pseOf s7_15 1) (bf y.cmd 16 8)).isSome || !openWaits s7_15 1 (bf y.cmd 16 8))
          (List.filter (fun y => !bit (bf y.cmd 24 1) 0) (pseCmds s7_15 1 7)) =
        some (pse1 7 [(16, 8, 7)]) ∧
      fillingOf (pseOf s7_15 1) (bf (pse1 7 [(16, 8, 7)]).cmd 16 8) = some 2) ∧
    (Stated.RegionOn (running (pse1 7 [(16, 8, 7), (24, 1, 1)]) (stage1 p7)) 1 ∧
      List.find? (fun y => bit (bf y.cmd 24 1) 0)
          (pseCmds (running (pse1 7 [(16, 8, 7), (24, 1, 1)]) (stage1 p7)) 1 7) =
        some (pse1 7 [(16, 8, 7), (24, 1, 1)]) ∧
      newestSlot (pseOf (running (pse1 7 [(16, 8, 7), (24, 1, 1)]) (stage1 p7)) 1) = some 0 ∧
      (slotAt (pseOf (running (pse1 7 [(16, 8, 7), (24, 1, 1)]) (stage1 p7)) 1) 0).st = 2 ∧
      bf (pse1 7 [(16, 8, 7), (24, 1, 1)]).cmd 16 8 =
        (slotAt (pseOf (running (pse1 7 [(16, 8, 7), (24, 1, 1)]) (stage1 p7)) 1) 0).last + 1) := by
  and_intros <;> decide +kernel

theorem witness_StageTransfersMoveBuffers :
    (Stated.RegionOn (stage1 p7) 1 ∧
      pseValid (stage1 p7) 1 = true ∧
      (linkKind (pseLink (stage1 p7) 1 false) = 2 ∨ linkKind (pseLink (stage1 p7) 1 false) = 3) ∧
      freeBufOf (stage1 p7) 1 (pseOf (stage1 p7) 1) 0 = some 0 ∧
      fabBadW (Stated.onDie (stage1 p7) (1 / 16)) (bufAddr (stage1 p7) 1 0 0) 8 = none ∧
      Stated.StageRuns (stage1 p7) 1 stp ∧
      stp.ended = false ∧
      1 < stp.nmb ∧
      0 < pseV (stage1 p7) 1 ∧
      (recOf (pseOf (stage1 p7) 1) 1 0).f = 0 ∧
      (recOf (pseOf (stage1 p7) 1) 1 0).act = 0 ∧
      (0 < bufAddr (stage1 p7) 1 0 0 ∨ bufAddr (stage1 p7) 1 0 0 + 8 ≤ 0)) ∧
    (Stated.RegionOn s7_16 1 ∧
      List.find? (fun x => x.mb == 1 && x.dv == 0 && (x.arrived || !linkKind (pseLink s7_16 1 !false) == 1))
          (if false = true then (pseOf s7_16 1).outB else (pseOf s7_16 1).outF) =
        some x7_17 ∧
      (linkCut s7_16 1 !false) = false) ∧
    (Stated.RegionOn (stage1 p7) 1 ∧
      pseValid (stage1 p7) 1 = true ∧
      (linkKind (pseLink (stage1 p7) 1 true) = 2 ∨ linkKind (pseLink (stage1 p7) 1 true) = 3) ∧
      (pseOf (stage1 p7) 1).fwdWait = []) ∧
    (Stated.RegionOn s7_19 1 ∧
      (linkKind (pseLink s7_19 1 true) = 2 ∨ linkKind (pseLink s7_19 1 true) = 3) ∧
      (if true = true then (pseOf s7_19 1).outF else (pseOf s7_19 1).outB) ≠ []) := by
  and_intros <;> decide +kernel

theorem witness_UpdateRunsNoticesAndPublications :
    (Stated.RegionOn s8_0 1 ∧
      (engRun s8_0 (pgUpf 1 * 2) fun y => bit (bf y.cmd 44 1) 1 == false) = some (updCmd 8 0) ∧
      (updCmd 8 0).prog = 0 ∧
      (upfOf s8_0 1).pubs.length < 3 ∧
      runCheck (Stated.onDie s8_0 (1 / 16)) 1 (updCmd 8 0).cmd (runOf s8_0 1 (updCmd 8 0).cmd) = none ∧
      1 ≤ bf (updCmd 8 0).cmd 42 2 ∧
      (upfOf s8_0 1).landed.contains ((runOf s8_0 1 (updCmd 8 0).cmd).first, (runOf s8_0 1 (updCmd 8 0).cmd).step) =
        false ∧
      (runOf s8_0 1 (updCmd 8 0).cmd).init = false) ∧
    (Stated.RegionOn s8_2 1 ∧
      (engRun s8_2 (pgUpf 1 * 2) fun y => bit (bf y.cmd 44 1) 1 == false) = some (updCmd 8 0) ∧
      (updCmd 8 0).prog = 0 ∧
      (upfOf s8_2 1).pubs.length < 3 ∧
      runCheck (Stated.onDie s8_2 (1 / 16)) 1 (updCmd 8 0).cmd (runOf s8_2 1 (updCmd 8 0).cmd) =
        some (stFormat, none)) ∧
    (Stated.RegionOn s8_3 1 ∧
      List.find? (fun l => l.fst == 1 && l.snd.fst == 5) s8_3.landReports = some (1, 5, 8) ∧
      (upfOf s8_3 1).run = none) ∧
    (FabricOn s8_5 ∧
      s8_5.notices = [ntc] ∧
      ntc.started = false ∧
      s8_5.tierDown = false ∧
      s8_5.tierTraining = false ∧
      tierHolds s8_5 = false ∧
      repairOpen s8_5 ntc.region ntc.step = false ∧
      ntc.groups = [nGrp] ∧
      nGrp.dec = 2 ∧
      ntc.prevAddr = some 6291456 ∧
      fabBad s8_5 (6291456 + (gdescOf nGrp.desc).sq8) (sq8Bytes (gdescOf nGrp.desc)) = none ∧
      fabBadW s8_5 (ntc.slotAddr + (gdescOf nGrp.desc).sq8) (sq8Bytes (gdescOf nGrp.desc)) = none) ∧
    (FabricOn s8_7 ∧
      s8_7.notices = [n8_8] ∧
      n8_8.started = true) ∧
    (Stated.RegionOn s8_10 1 ∧
      (upfOf s8_10 1).pubs = [pub8] ∧
      pub8.notice = 0 ∧
      (pub8.cmp = 0 ∨ pub8.cmp = 2) ∧
      pub8.repairs = [] ∧
      fillingOf (pseOf s8_10 1) pub8.step = some 1) ∧
    (Stated.RegionOn s8_11 1 ∧
      (upfOf s8_11 1).pubs = [p8_12] ∧
      (p8_12.notice ≠ 0 ∨ p8_12.cmp = 1 ∨ p8_12.cmp = 3 ∨ p8_12.repairs ≠ [])) := by
  and_intros <;> decide +kernel

theorem witness_DigestsAreComparedAndRepaired :
    (Stated.RegionOn s9_0 1 ∧
      isComparer s9_0 1 = true ∧
      (2 ≠ ownD s9_0 ∨
        ∃ w, List.find? (fun t => t.step == 8) (digOf s9_0 1).sent = some w ∧ [(5, 3)] = ownDigests s9_0 1 w.groups) ∧
      ((digOf s9_0 1).reports.any fun t => t.fst == 8 && t.snd.fst == 2) = false ∧
      ((digOf s9_0 1).decided.any fun t => t.fst == 8) = false ∧
      ((digOf s9_0 1).reports.filter (fun t : Nat × Nat × List (Nat × Nat) => t.fst == 8) ++ [(8, 2, [(5, 3)])]).length <
        jobDLen s9_0 (pseJob s9_0 1)) ∧
    (Stated.RegionOn s9_1 1 ∧
      isComparer s9_1 1 = true ∧
      (2 ≠ ownD s9_1 ∨
        ∃ w, List.find? (fun t => t.step == 8) (digOf s9_1 1).sent = some w ∧ [(5, 3)] = ownDigests s9_1 1 w.groups) ∧
      ((digOf s9_1 1).reports.any fun t => t.fst == 8 && t.snd.fst == 2) = false ∧
      ((digOf s9_1 1).decided.any fun t => t.fst == 8) = false ∧
      jobDLen s9_1 (pseJob s9_1 1) ≤
        ((digOf s9_1 1).reports.filter (fun t : Nat × Nat × List (Nat × Nat) => t.fst == 8) ++ [(8, 2, [(5, 3)])]).length) ∧
    (Stated.RegionOn s9_3 1 ∧
      List.find? (fun e => decide (e.snd - 1 + 1000 * regF s9_3 (pgDig 1) 256 24 16 ≤ s9_3.time))
          (digOf s9_3 1).firstAt =
        some (8, 2)) ∧
    (Stated.RegionOn s9_4 1 ∧
      8 < 2 ^ 64 ∧
      (isComparer s9_4 1 = false ∨ (digOf s9_4 1).decided.contains (8, DigReport.agreed) = true) ∧
      ((digOf s9_4 1).sent.any fun t => t.step == 8) = true) ∧
    (Stated.RegionOn s9_5 1 ∧
      8 < 2 ^ 64 ∧
      (isComparer s9_5 1 = false ∨
        (digOf s9_5 1).decided.contains (8, DigReport.repaired [(5, 1, 2), (6, 0, 2)]) = true) ∧
      ((digOf s9_5 1).sent.any fun t => t.step == 8) = true) ∧
    (Stated.RegionOn s9_6 1 ∧
      8 < 2 ^ 64 ∧
      (isComparer s9_6 1 = false ∨ (digOf s9_6 1).decided.contains (8, DigReport.split 5 2 3 1) = true) ∧
      ((digOf s9_6 1).sent.any fun t => t.step == 8) = true ∧
      pseValid s9_6 1 = true) ∧
    (Stated.RegionOn s9_7 1 ∧
      (upfOf s9_7 1).run = none ∧
      mapGet 0 s9_7.ctrs (ctrKey (pgDig 1) 1) < 4294967294 ∧
      List.find? (fun p => p.repairs.contains 5) (upfOf s9_7 1).pubs = some p9_8 ∧
      p9_8.repairs = [5]) ∧
    (Stated.RegionOn s9_7 1 ∧
      (upfOf s9_7 1).run = none ∧
      mapGet 0 s9_7.ctrs (ctrKey (pgDig 1) 1) < 4294967294 ∧
      List.find? (fun p => p.repairs.contains 5) (upfOf s9_7 1).pubs = some p9_8 ∧
      rdNum
          (writeRepair s9_7 1 5 p9_8.step
            (match fillingOf (pseOf s9_7 1) p9_8.step with
            | some n => vslotAddr s9_7 1 n
            | none => 0)
            (pseJob s9_7 1) (gdescOf (descOfGroup p9_8.descs 5)) [1, 2, 3])
          (digEntry s9_7 1 5) 8 ≠
        18446744073709551616) ∧
    (Stated.RegionOn s9_9 1 ∧
      List.find? (fun t => decide (t.at_ + 2000 * regF s9_9 (pgDig 1) 256 24 16 ≤ s9_9.time)) (digOf s9_9 1).sent =
        some snt) ∧
    (Stated.RegionOn s9_10 1 ∧
      List.find? (fun e => e.fst == 5) (upfOf s9_10 1).lastDescs = some (5, gdesc 0) ∧
      stateBad s9_10 (gdescOf (gdesc 0)) = none ∧
      1 = ownD s9_10) ∧
    (Stated.RegionOn s9_11 1 ∧
      List.find? (fun e => e.fst == 5) (upfOf s9_11 1).lastDescs = some (5, gdesc 0) ∧
      stateBad s9_11 (gdescOf (gdesc 0)) ≠ none) := by
  and_intros <;> first | with_reducible exact Laws.rdNum_ne_max _ _ | decide +kernel

theorem witness_ExchangeCommandsAndOwnerPackets :
    (FabricOn s10_0 ∧
      (engRun s10_0 (pgGxe * 2) fun y => y.cmd.id == 9 && y.cmd.op == 1 && decide (y.prog ≤ 1)) = some (bktCmd 7) ∧
      (bktCmd 7).prog = 0 ∧
      readyForm (Stated.onDie s10_0 2) (bktCmd 7).cmd.job (bf (bktCmd 7).cmd 16 8) (bf (bktCmd 7).cmd 24 2) = false) ∧
    (FabricOn s10_2 ∧
      (engRun s10_2 (pgGxe * 2) fun y => y.cmd.id == 9 && y.cmd.op == 1 && decide (y.prog ≤ 1)) = some (bktCmd 8) ∧
      (bktCmd 8).prog = 0 ∧
      readyForm (Stated.onDie s10_2 2) (bktCmd 8).cmd.job (bf (bktCmd 8).cmd 16 8) (bf (bktCmd 8).cmd 24 2) = true ∧
      readyAccess (Stated.onDie s10_2 2) (bktCmd 8).cmd.job (bf (bktCmd 8).cmd 24 2) = true ∧
      readyBad (Stated.onDie s10_2 2) (bktCmd 8).cmd.job (bf (bktCmd 8).cmd 24 2) = none ∧
      dAbsent s10_2 (bktCmd 8).cmd.job = true) ∧
    (FabricOn s10_1 ∧
      (engRun s10_1 (pgGxe * 2) fun y => y.cmd.id == 9 && y.cmd.op == 1 && decide (y.prog ≤ 1)) = some (bktCmd 8) ∧
      (bktCmd 8).prog = 0 ∧
      readyForm (Stated.onDie s10_1 2) (bktCmd 8).cmd.job (bf (bktCmd 8).cmd 16 8) (bf (bktCmd 8).cmd 24 2) = true ∧
      readyAccess (Stated.onDie s10_1 2) (bktCmd 8).cmd.job (bf (bktCmd 8).cmd 24 2) = true ∧
      readyBad (Stated.onDie s10_1 2) (bktCmd 8).cmd.job (bf (bktCmd 8).cmd 24 2) = none ∧
      dAbsent s10_1 (bktCmd 8).cmd.job = false ∧
      (fcstStep s10_1 (bktCmd 8).cmd.job (bf (bktCmd 8).cmd 24 2) = bf (bktCmd 8).cmd 16 8 ∨
        fcstStep s10_1 (bktCmd 8).cmd.job (bf (bktCmd 8).cmd 24 2) = 2 ^ 64 - 1) ∧
      List.find? (fun v => v.fst == bf (bktCmd 8).cmd 24 2 && v.snd.fst == bf (bktCmd 8).cmd 16 8)
          (gxeOf s10_1 (bktCmd 8).cmd.job).vals =
        none) ∧
    (FabricOn s10_3 ∧
      (engRun s10_3 (pgGxe * 2) fun y => y.cmd.id == 9 && y.cmd.op == 1 && decide (y.prog ≤ 1)) = some (bktCmd 9) ∧
      (bktCmd 9).prog = 0 ∧
      readyForm (Stated.onDie s10_3 2) (bktCmd 9).cmd.job (bf (bktCmd 9).cmd 16 8) (bf (bktCmd 9).cmd 24 2) = true ∧
      readyAccess (Stated.onDie s10_3 2) (bktCmd 9).cmd.job (bf (bktCmd 9).cmd 24 2) = true ∧
      readyBad (Stated.onDie s10_3 2) (bktCmd 9).cmd.job (bf (bktCmd 9).cmd 24 2) = none ∧
      dAbsent s10_3 (bktCmd 9).cmd.job = false ∧
      fcstStep s10_3 (bktCmd 9).cmd.job (bf (bktCmd 9).cmd 24 2) < bf (bktCmd 9).cmd 16 8 ∧
      List.find? (fun v => v.fst == bf (bktCmd 9).cmd 24 2 && v.snd.fst == bf (bktCmd 9).cmd 16 8)
          (gxeOf s10_3 (bktCmd 9).cmd.job).vals =
        none) ∧
    (FabricOn s10_4 ∧
      (engRun s10_4 (pgGxe * 2) fun y => y.cmd.id == 9 && y.cmd.op == 1 && decide (y.prog ≤ 1)) = some (bktCmd 9) ∧
      (bktCmd 9).prog = 0 ∧
      readyForm (Stated.onDie s10_4 2) (bktCmd 9).cmd.job (bf (bktCmd 9).cmd 16 8) (bf (bktCmd 9).cmd 24 2) = true ∧
      readyAccess (Stated.onDie s10_4 2) (bktCmd 9).cmd.job (bf (bktCmd 9).cmd 24 2) = true ∧
      readyBad (Stated.onDie s10_4 2) (bktCmd 9).cmd.job (bf (bktCmd 9).cmd 24 2) = none ∧
      dAbsent s10_4 (bktCmd 9).cmd.job = false ∧
      fcstStep s10_4 (bktCmd 9).cmd.job (bf (bktCmd 9).cmd 24 2) < bf (bktCmd 9).cmd 16 8 ∧
      List.find? (fun v => v.fst == bf (bktCmd 9).cmd 24 2 && v.snd.fst == bf (bktCmd 9).cmd 16 8)
          (gxeOf s10_4 (bktCmd 9).cmd.job).vals =
        some (1, 9, List.replicate 16 5) ∧
      fcstStep
          (writeFcst (Stated.onDie s10_4 2) (bktCmd 9).cmd.job (bf (bktCmd 9).cmd 24 2) (bf (bktCmd 9).cmd 16 8)
            (1, 9, List.replicate 16 5).snd.snd)
          (bktCmd 9).cmd.job (bf (bktCmd 9).cmd 24 2) =
        bf (bktCmd 9).cmd 16 8) ∧
    (FabricOn s10_5 ∧
      (engRun s10_5 (pgGxe * 2) fun y => y.cmd.op == 2) = some (rcOf pgGxe 2 70 []) ∧
      cmdKey (rcOf pgGxe 2 70 []).cmd = pgGxe * 2 ∧
      Stated.Alone s10_5 (pgGxe * 2) (rcOf pgGxe 2 70 [])) ∧
    (FabricOn s10_6 ∧
      pktBad s10_6 (pkt 3 0 0) = true) ∧
    (FabricOn s10_7 ∧
      Stated.PktTaken s10_7 (pkt 2 0 0) ∧
      jOwn s10_7 (pkt 2 0 0).job = 0 ∧
      isClosed (gxeOf s10_7 (pkt 2 0 0).job) (pkt 2 0 0).bucket
          (fullStep (gxeOf s10_7 (pkt 2 0 0).job) (pkt 2 0 0).stepLo) =
        false) ∧
    (FabricOn s10_7 ∧
      Stated.PktTaken s10_7 (pkt 2 0 0) ∧
      (pkt 2 0 0).shard = jOwn s10_7 (pkt 2 0 0).job ∧
      (gxeOf s10_7 (pkt 2 0 0).job).shards.any (windowOver s10_7) = false ∧
      isClosed (gxeOf s10_7 (pkt 2 0 0).job) (pkt 2 0 0).bucket
          (fullStep (gxeOf s10_7 (pkt 2 0 0).job) (pkt 2 0 0).stepLo) =
        false ∧
      ((shardOf (gxeOf s10_7 (pkt 2 0 0).job) (pkt 2 0 0).bucket
                (fullStep (gxeOf s10_7 (pkt 2 0 0).job) (pkt 2 0 0).stepLo)).contribs.any
          fun c => !c.deferred && c.src == (pkt 2 0 0).src) =
        false ∧
      (List.filter (fun c => !c.deferred)
              (shardOf (gxeOf s10_7 (pkt 2 0 0).job) (pkt 2 0 0).bucket
                  (fullStep (gxeOf s10_7 (pkt 2 0 0).job) (pkt 2 0 0).stepLo)).contribs).length +
          1 <
        jLen s10_7 (pkt 2 0 0).job) ∧
    (FabricOn s10_10 ∧
      Stated.PktTaken s10_10 (pkt 2 1 0) ∧
      (pkt 2 1 0).shard = jOwn s10_10 (pkt 2 1 0).job ∧
      (gxeOf s10_10 (pkt 2 1 0).job).shards.any (windowOver s10_10) = false ∧
      isClosed (gxeOf s10_10 (pkt 2 1 0).job) (pkt 2 1 0).bucket
          (fullStep (gxeOf s10_10 (pkt 2 1 0).job) (pkt 2 1 0).stepLo) =
        true ∧
      (bucketOf s10_10 (pkt 2 1 0).job (pkt 2 1 0).bucket).drop = false ∧
      isClosed (gxeOf s10_10 (pkt 2 1 0).job) (pkt 2 1 0).bucket
          (fullStep (gxeOf s10_10 (pkt 2 1 0).job) (pkt 2 1 0).stepLo + 1) =
        false ∧
      ((shardOf (gxeOf s10_10 (pkt 2 1 0).job) (pkt 2 1 0).bucket
                (fullStep (gxeOf s10_10 (pkt 2 1 0).job) (pkt 2 1 0).stepLo + 1)).contribs.any
          fun c => c.deferred && c.src == (pkt 2 1 0).src) =
        false) ∧
    (FabricOn s10_9 ∧
      Stated.PktTaken s10_9 (pkt 0 1 0) ∧
      (pkt 0 1 0).shard = jOwn s10_9 (pkt 0 1 0).job ∧
      List.find?
          (fun x =>
            shardKey (pkt 0 1 0).bucket (fullStep (gxeOf s10_9 (pkt 0 1 0).job) (pkt 0 1 0).stepLo) x &&
              x.contribs.any fun c => c.src == (pkt 0 1 0).src && c.deferred == false && c.granted)
          (gxeOf s10_9 (pkt 0 1 0).job).shards =
        some gs ∧
      gs.closedAt = 0 ∧
      ga ∈ gs.contribs ∧
      ga.src = (pkt 0 1 0).src ∧
      ga.deferred = false ∧
      (ga.chunks.any fun q => q.chunk == (pkt 0 1 0).chunk) = false) ∧
    (FabricOn s10_11 ∧
      Stated.PktTaken s10_11 (pkt 0 1 0) ∧
      (pkt 0 1 0).shard = jOwn s10_11 (pkt 0 1 0).job ∧
      List.find?
          (fun x =>
            shardKey (pkt 0 1 0).bucket (fullStep (gxeOf s10_11 (pkt 0 1 0).job) (pkt 0 1 0).stepLo) x &&
              x.contribs.any fun c => c.src == (pkt 0 1 0).src && c.deferred == false && c.granted)
          (gxeOf s10_11 (pkt 0 1 0).job).shards =
        some gs ∧
      gs.closedAt = 0 ∧
      ga ∈ gs.contribs ∧
      ga.src = (pkt 0 1 0).src ∧
      ga.deferred = false ∧
      (ga.chunks.any fun q => q.chunk == (pkt 0 1 0).chunk) = false ∧
      ga.chunks.length + 1 ≠
        shardChunks (jLen s10_11 (pkt 0 1 0).job)
          (bucketN (extsOf s10_11 (bucketOf s10_11 (pkt 0 1 0).job (pkt 0 1 0).bucket)) / 32)
          (jOwn s10_11 (pkt 0 1 0).job)) ∧
    (FabricOn s10_12 ∧
      List.find? (fun x => x.bucket == 1 && windowOver s10_12 x) (gxeOf s10_12 1).shards = some x10_13) := by
  and_intros <;> decide +kernel

theorem witness_GrantedChunksLandAtTheReplicas :
    (FabricOn s10_14 ∧
      Stated.PktTaken s10_14 (pkt 2 2 0) ∧
      List.find?
          (fun r =>
            r.bucket == (pkt 2 2 0).bucket &&
                r.step == fullStep (gxeOf s10_14 (pkt 2 2 0).job) (pkt 2 2 0).stepLo &&
              r.chunksOf.any fun t => t.fst == (pkt 2 2 0).shard)
          (gxeOf s10_14 (pkt 2 2 0).job).ready =
        some rdy) ∧
    (FabricOn s10_14 ∧
      Stated.PktTaken s10_14 (pkt 2 2 0) ∧
      (landOf (gxeOf s10_14 (pkt 2 2 0).job) (pkt 2 2 0).bucket (pkt 2 2 0).shard
              (num (pkt 2 2 0).payload 24 8)).got.length <
        shardChunks (jLen s10_14 (pkt 2 2 0).job)
          (bucketN (extsOf s10_14 (bucketOf s10_14 (pkt 2 2 0).job (pkt 2 2 0).bucket)) / 32) (pkt 2 2 0).shard ∧
      ((pkt 2 2 0).shard = 0 →
        ((gxeOf s10_14 (pkt 2 2 0).job).used.any fun v =>
            v.fst == (pkt 2 2 0).bucket && v.snd.fst == num (pkt 2 2 0).payload 24 8) =
          false) ∧
      List.find? (shardKey (pkt 2 2 0).bucket (num (pkt 2 2 0).payload 24 8 + 1))
          (gxeOf s10_14 (pkt 2 2 0).job).shards =
        none) ∧
    (FabricOn s10_14 ∧
      Stated.PktTaken s10_14 (pkt 2 2 0) ∧
      (pkt 2 2 0).shard < jLen s10_14 (pkt 2 2 0).job ∧
      (landOf (gxeOf s10_14 (pkt 2 2 0).job) (pkt 2 2 0).bucket (pkt 2 2 0).shard
            (fullStep (gxeOf s10_14 (pkt 2 2 0).job) (pkt 2 2 0).stepLo)).failed =
        false ∧
      (landOf (gxeOf s10_14 (pkt 2 2 0).job) (pkt 2 2 0).bucket (pkt 2 2 0).shard
                (fullStep (gxeOf s10_14 (pkt 2 2 0).job) (pkt 2 2 0).stepLo)).got.contains
          (pkt 2 2 0).chunk =
        false ∧
      (landOf (gxeOf s10_14 (pkt 2 2 0).job) (pkt 2 2 0).bucket (pkt 2 2 0).shard
                (fullStep (gxeOf s10_14 (pkt 2 2 0).job) (pkt 2 2 0).stepLo)).asked.contains
          (pkt 2 2 0).chunk =
        false ∧
      ((gxeOf s10_14 (pkt 2 2 0).job).landed.any fun l =>
          l.fst == (pkt 2 2 0).bucket && l.snd.fst == (pkt 2 2 0).shard &&
            l.snd.snd.fst == fullStep (gxeOf s10_14 (pkt 2 2 0).job) (pkt 2 2 0).stepLo) =
        false ∧
      (checkOf
              (32 *
                (shardLo (jLen s10_14 (pkt 2 2 0).job)
                    (bucketN (extsOf s10_14 (bucketOf s10_14 (pkt 2 2 0).job (pkt 2 2 0).bucket)) / 32)
                    (pkt 2 2 0).shard +
                  64 * (pkt 2 2 0).chunk))
              (chunkInts false (pkt 2 2 0).blocks (pkt 2 2 0).payload) +
            checkOf
              (bucketN (extsOf s10_14 (bucketOf s10_14 (pkt 2 2 0).job (pkt 2 2 0).bucket)) +
                  shardLo (jLen s10_14 (pkt 2 2 0).job)
                    (bucketN (extsOf s10_14 (bucketOf s10_14 (pkt 2 2 0).job (pkt 2 2 0).bucket)) / 32)
                    (pkt 2 2 0).shard +
                64 * (pkt 2 2 0).chunk)
              (List.map (fun i => ↑(num (pkt 2 2 0).payload (32 * (pkt 2 2 0).blocks + i) 1))
                (upTo (pkt 2 2 0).blocks))) %
          p61 =
        (pkt 2 2 0).check ∧
      (landOf (gxeOf s10_14 (pkt 2 2 0).job) (pkt 2 2 0).bucket (pkt 2 2 0).shard
            (fullStep (gxeOf s10_14 (pkt 2 2 0).job) (pkt 2 2 0).stepLo)).close =
        []) ∧
    (FabricOn s10_6 ∧
      Stated.PktTaken s10_6 (resPkt true) ∧
      (resPkt true).shard < jLen s10_6 (resPkt true).job ∧
      (landOf (gxeOf s10_6 (resPkt true).job) (resPkt true).bucket (resPkt true).shard
            (fullStep (gxeOf s10_6 (resPkt true).job) (resPkt true).stepLo)).failed =
        false ∧
      (landOf (gxeOf s10_6 (resPkt true).job) (resPkt true).bucket (resPkt true).shard
                (fullStep (gxeOf s10_6 (resPkt true).job) (resPkt true).stepLo)).got.contains
          (resPkt true).chunk =
        false ∧
      (landOf (gxeOf s10_6 (resPkt true).job) (resPkt true).bucket (resPkt true).shard
                (fullStep (gxeOf s10_6 (resPkt true).job) (resPkt true).stepLo)).asked.contains
          (resPkt true).chunk =
        false ∧
      ((gxeOf s10_6 (resPkt true).job).landed.any fun l =>
          l.fst == (resPkt true).bucket && l.snd.fst == (resPkt true).shard &&
            l.snd.snd.fst == fullStep (gxeOf s10_6 (resPkt true).job) (resPkt true).stepLo) =
        false ∧
      (checkOf
              (32 *
                (shardLo (jLen s10_6 (resPkt true).job)
                    (bucketN (extsOf s10_6 (bucketOf s10_6 (resPkt true).job (resPkt true).bucket)) / 32)
                    (resPkt true).shard +
                  64 * (resPkt true).chunk))
              (chunkInts false (resPkt true).blocks (resPkt true).payload) +
            checkOf
              (bucketN (extsOf s10_6 (bucketOf s10_6 (resPkt true).job (resPkt true).bucket)) +
                  shardLo (jLen s10_6 (resPkt true).job)
                    (bucketN (extsOf s10_6 (bucketOf s10_6 (resPkt true).job (resPkt true).bucket)) / 32)
                    (resPkt true).shard +
                64 * (resPkt true).chunk)
              (List.map (fun i => ↑(num (resPkt true).payload (32 * (resPkt true).blocks + i) 1))
                (upTo (resPkt true).blocks))) %
          p61 =
        (resPkt true).check ∧
      (landOf (gxeOf s10_6 (resPkt true).job) (resPkt true).bucket (resPkt true).shard
            (fullStep (gxeOf s10_6 (resPkt true).job) (resPkt true).stepLo)).close =
        [] ∧
      (resPkt true).blocks = 1 ∧
      blockExt (extsOf s10_6 (bucketOf s10_6 (resPkt true).job (resPkt true).bucket)) 0
          (shardLo (jLen s10_6 (resPkt true).job)
              (bucketN (extsOf s10_6 (bucketOf s10_6 (resPkt true).job (resPkt true).bucket)) / 32)
              (resPkt true).shard +
            64 * (resPkt true).chunk) =
        some (0, (extsOf s10_6 (bucketOf s10_6 1 1)).headD extD, 0) ∧
      ((extsOf s10_6 (bucketOf s10_6 1 1)).headD extD).e0 + 32 * 0 + 32 ≤
        gdElems
          (extGroup s10_6 (bucketOf s10_6 (resPkt true).job (resPkt true).bucket)
            ((extsOf s10_6 (bucketOf s10_6 1 1)).headD extD)) ∧
      fabBadW (Stated.onDie s10_6 2)
          ((extGroup s10_6 (bucketOf s10_6 (resPkt true).job (resPkt true).bucket)
                ((extsOf s10_6 (bucketOf s10_6 1 1)).headD extD)).grad +
            (((extsOf s10_6 (bucketOf s10_6 1 1)).headD extD).e0 + 32 * 0))
          32 =
        none ∧
      fabBadW (Stated.onDie s10_6 2)
          ((extGroup s10_6 (bucketOf s10_6 (resPkt true).job (resPkt true).bucket)
                  ((extsOf s10_6 (bucketOf s10_6 1 1)).headD extD)).grad +
              gdElems
                (extGroup s10_6 (bucketOf s10_6 (resPkt true).job (resPkt true).bucket)
                  ((extsOf s10_6 (bucketOf s10_6 1 1)).headD extD)) +
            (((extsOf s10_6 (bucketOf s10_6 1 1)).headD extD).e0 + 32 * 0) / 32)
          1 =
        none) ∧
    (FabricOn s10_6 ∧
      Stated.PktTaken s10_6 (resPkt false) ∧
      (resPkt false).shard < jLen s10_6 (resPkt false).job ∧
      (landOf (gxeOf s10_6 (resPkt false).job) (resPkt false).bucket (resPkt false).shard
            (fullStep (gxeOf s10_6 (resPkt false).job) (resPkt false).stepLo)).failed =
        false ∧
      (landOf (gxeOf s10_6 (resPkt false).job) (resPkt false).bucket (resPkt false).shard
                (fullStep (gxeOf s10_6 (resPkt false).job) (resPkt false).stepLo)).got.contains
          (resPkt false).chunk =
        false ∧
      (landOf (gxeOf s10_6 (resPkt false).job) (resPkt false).bucket (resPkt false).shard
                (fullStep (gxeOf s10_6 (resPkt false).job) (resPkt false).stepLo)).asked.contains
          (resPkt false).chunk =
        false ∧
      ((gxeOf s10_6 (resPkt false).job).landed.any fun l =>
          l.fst == (resPkt false).bucket && l.snd.fst == (resPkt false).shard &&
            l.snd.snd.fst == fullStep (gxeOf s10_6 (resPkt false).job) (resPkt false).stepLo) =
        false ∧
      (checkOf
              (32 *
                (shardLo (jLen s10_6 (resPkt false).job)
                    (bucketN (extsOf s10_6 (bucketOf s10_6 (resPkt false).job (resPkt false).bucket)) / 32)
                    (resPkt false).shard +
                  64 * (resPkt false).chunk))
              (chunkInts false (resPkt false).blocks (resPkt false).payload) +
            checkOf
              (bucketN (extsOf s10_6 (bucketOf s10_6 (resPkt false).job (resPkt false).bucket)) +
                  shardLo (jLen s10_6 (resPkt false).job)
                    (bucketN (extsOf s10_6 (bucketOf s10_6 (resPkt false).job (resPkt false).bucket)) / 32)
                    (resPkt false).shard +
                64 * (resPkt false).chunk)
              (List.map (fun i => ↑(num (resPkt false).payload (32 * (resPkt false).blocks + i) 1))
                (upTo (resPkt false).blocks))) %
          p61 ≠
        (resPkt false).check ∧
      (resPkt false).shard ≠ jOwn s10_6 (resPkt false).job) ∧
    (FabricOn s10_18 ∧
      List.find? (fun r => r.fst == 1 && r.snd.fst == 8) (gxeOf s10_18 1).results =
        some (1, 8, [pkt 1 1 0, pkt 1 1 2]) ∧
      List.find? (fun p => p.chunk == 2) (1, 8, [pkt 1 1 0, pkt 1 1 2]).snd.snd = some (pkt 1 1 2)) := by
  and_intros <;> decide +kernel

theorem witness_DrizzleAndTheCxlWindowMoveBytes :
    (Stated.RegionOn (drz1 3 1) 1 ∧
      runOp (drz1 3 1) (pgDrz 1) 1 = some (drzCmd 1) ∧
      (drzCmd 1).cmd.core < 2048 ∧
      (∀ (i : Nat), i < (drzOf (drzCmd 1).cmd).count → badIn (drz1 3 1) (Stated.drzIdx (drzCmd 1).cmd i) 4 = none) ∧
      Stated.drzApart (drzOf (drzCmd 1).cmd) ∧
      (∀ (i : Nat),
        i < (drzOf (drzCmd 1).cmd).count →
          Stated.drzRowNo (drz1 3 1) (drzCmd 1).cmd i < (drzOf (drzCmd 1).cmd).rows →
            Stated.drzPlace (drz1 3 1) (drzCmd 1).cmd i + (drzOf (drzCmd 1).cmd).rb ≤ stackedEnd ∧
              fabBad (Stated.onDie (drz1 3 1) (1 / 16)) (Stated.drzPlace (drz1 3 1) (drzCmd 1).cmd i)
                  (drzOf (drzCmd 1).cmd).rb =
                none) ∧
      (∀ (i : Nat),
        i < (drzOf (drzCmd 1).cmd).count → Stated.drzRowNo (drz1 3 1) (drzCmd 1).cmd i < (drzOf (drzCmd 1).cmd).rows) ∧
      (0 < spScratch (drzCmd 1).cmd.core + (drzOf (drzCmd 1).cmd).data ∨
        spScratch (drzCmd 1).cmd.core + (drzOf (drzCmd 1).cmd).data +
            (drzOf (drzCmd 1).cmd).count * (drzOf (drzCmd 1).cmd).rb ≤
          0)) ∧
    (Stated.RegionOn (drz1 3 1) 1 ∧
      runOp (drz1 3 1) (pgDrz 1) 1 = some (drzCmd 1) ∧
      (drzOf (drzCmd 1).cmd).count = 1 ∧
      badIn (drz1 3 1) (spScratch (drzCmd 1).cmd.core + (drzOf (drzCmd 1).cmd).idx) 4 = none ∧
      rdNum (drz1 3 1) (spScratch (drzCmd 1).cmd.core + (drzOf (drzCmd 1).cmd).idx) 4 < (drzOf (drzCmd 1).cmd).rows ∧
      fabBad (Stated.onDie (drz1 3 1) (1 / 16))
          ((drzOf (drzCmd 1).cmd).table +
            rdNum (drz1 3 1) (spScratch (drzCmd 1).cmd.core + (drzOf (drzCmd 1).cmd).idx) 4 *
              (drzOf (drzCmd 1).cmd).stride)
          (drzOf (drzCmd 1).cmd).rb =
        none) ∧
    (Stated.RegionOn (drz1 300 1) 1 ∧
      runOp (drz1 300 1) (pgDrz 1) 1 = some (drzCmd 1) ∧
      (drzOf (drzCmd 1).cmd).count = 1 ∧
      badIn (drz1 300 1) (spScratch (drzCmd 1).cmd.core + (drzOf (drzCmd 1).cmd).idx) 4 = none ∧
      (drzOf (drzCmd 1).cmd).rows ≤
        rdNum (drz1 300 1) (spScratch (drzCmd 1).cmd.core + (drzOf (drzCmd 1).cmd).idx) 4) ∧
    (Stated.RegionOn (drz1 3 2) 1 ∧
      runOp (drz1 3 2) (pgDrz 1) 2 = some (drzCmd 2) ∧
      (∀ (i : Nat),
        i < (drzOf (drzCmd 2).cmd).count →
          badIn (drz1 3 2) (Stated.drzIdx (drzCmd 2).cmd i) 4 = none ∧
            Stated.drzRowNo (drz1 3 2) (drzCmd 2).cmd i < (drzOf (drzCmd 2).cmd).rows ∧
              Stated.drzPlace (drz1 3 2) (drzCmd 2).cmd i + (drzOf (drzCmd 2).cmd).rb ≤ stackedEnd ∧
                badIn (drz1 3 2)
                      (spScratch (drzCmd 2).cmd.core + (drzOf (drzCmd 2).cmd).data + i * (drzOf (drzCmd 2).cmd).rb)
                      (drzOf (drzCmd 2).cmd).rb =
                    none ∧
                  fabBadW (Stated.onDie (drz1 3 2) (1 / 16)) (Stated.drzPlace (drz1 3 2) (drzCmd 2).cmd i)
                      (drzOf (drzCmd 2).cmd).rb =
                    none) ∧
      (∀ (i i' : Nat),
        i < i' →
          i' < (drzOf (drzCmd 2).cmd).count →
            Stated.drzRowNo (drz1 3 2) (drzCmd 2).cmd i ≠ Stated.drzRowNo (drz1 3 2) (drzCmd 2).cmd i') ∧
      (drzOf (drzCmd 2).cmd).rb ≤ (drzOf (drzCmd 2).cmd).stride ∧
      (∀ (i : Nat),
        i < (drzOf (drzCmd 2).cmd).count →
          0 < Stated.drzPlace (drz1 3 2) (drzCmd 2).cmd i ∨
            Stated.drzPlace (drz1 3 2) (drzCmd 2).cmd i + (drzOf (drzCmd 2).cmd).rb ≤ 0)) ∧
    (Stated.RegionOn (drz1 3 2) 1 ∧
      runOp (drz1 3 2) (pgDrz 1) 2 = some (drzCmd 2) ∧
      (drzOf (drzCmd 2).cmd).count = 1 ∧
      badIn (drz1 3 2) (spScratch (drzCmd 2).cmd.core + (drzOf (drzCmd 2).cmd).idx) 4 = none ∧
      rdNum (drz1 3 2) (spScratch (drzCmd 2).cmd.core + (drzOf (drzCmd 2).cmd).idx) 4 < (drzOf (drzCmd 2).cmd).rows ∧
      badIn (drz1 3 2) (spScratch (drzCmd 2).cmd.core + (drzOf (drzCmd 2).cmd).data) (drzOf (drzCmd 2).cmd).rb =
        none ∧
      fabBadW (Stated.onDie (drz1 3 2) (1 / 16))
          ((drzOf (drzCmd 2).cmd).table +
            rdNum (drz1 3 2) (spScratch (drzCmd 2).cmd.core + (drzOf (drzCmd 2).cmd).idx) 4 *
              (drzOf (drzCmd 2).cmd).stride)
          (drzOf (drzCmd 2).cmd).rb =
        none) ∧
    (Stated.RegionOn (drz1 300 2) 1 ∧
      runOp (drz1 300 2) (pgDrz 1) 2 = some (drzCmd 2) ∧
      (drzOf (drzCmd 2).cmd).count = 1 ∧
      badIn (drz1 300 2) (spScratch (drzCmd 2).cmd.core + (drzOf (drzCmd 2).cmd).idx) 4 = none ∧
      (drzOf (drzCmd 2).cmd).rows ≤
        rdNum (drz1 300 2) (spScratch (drzCmd 2).cmd.core + (drzOf (drzCmd 2).cmd).idx) 4) ∧
    (Stated.Powered s11_1 ∧
      s11_1.cxlUp = true ∧
      64 + 64 ≤ windowBytes ∧
      fabBad s11_1 (windowAddr s11_1 64) 64 = none) ∧
    (Stated.Powered s11_2 ∧
      s11_2.cxlUp = true ∧
      70 + 64 ≤ windowBytes ∧
      fabBad s11_2 (windowAddr s11_2 70) 64 ≠ none) ∧
    (Stated.Powered host ∧
      host.cxlUp = true ∧
      ramp 40 ≠ [] ∧
      100 + (ramp 40).length ≤ windowBytes ∧
      fabBadW host (windowAddr host 100) (ramp 40).length = none) := by
  and_intros <;> first | decide +kernel | (intro i j h k; have k : j < 1 := k; omega)

theorem witness_MemoryRegistersTakeLegalValues :
    (Stated.HostReach host pgCxl ∧
      host.hdm = false ∧
      ((17179869184#64).toNat / 2 ^ 34 % 32 ≤ 12 ∨
        16 ≤ (17179869184#64).toNat / 2 ^ 34 % 32 ∧ (17179869184#64).toNat / 2 ^ 34 % 32 ≤ 28)) ∧
    (Stated.HostReach host pgCxl ∧
      (host.hdm = true ∨
        12 < (223338299392#64).toNat / 2 ^ 34 % 32 ∧ (223338299392#64).toNat / 2 ^ 34 % 32 < 16 ∨
          28 < (223338299392#64).toNat / 2 ^ 34 % 32)) ∧
    (Stated.HostReach (wrMem host 17179869440 (ramp 64)) (pgMem 0 0) ∧
      ((0#64).toNat % 4 = 3 ∨
        regionHasMem (wrMem host 17179869440 (ramp 64)) 0 = true ∨
          windowCovers (wrMem host 17179869440 (ramp 64)) 0 = true)) ∧
    (Stated.HostReach (wrMem host 17179869440 (ramp 64)) (pgMem 5 0) ∧
      (0#64).toNat % 4 ≠ 3 ∧
      regionHasMem (wrMem host 17179869440 (ramp 64)) 5 = false ∧
      windowCovers (wrMem host 17179869440 (ramp 64)) 5 = false ∧
      Canonical (wrMem host 17179869440 (ramp 64)) ∧
      (∀ (c : Host.Cell), c ∈ (wrMem host 17179869440 (ramp 64)).mem → fabRegion c.fst ≠ 5 ∨ stackedEnd ≤ c.fst)) ∧
    (Stated.HostReach host (pgMem 5 7) ∧
      chFenced host 5 7 = false) ∧
    (Stated.HostReach (setReg host (pgClu 8) 272 67108869) (pgClu 8) ∧
      (bit ((67239941#64).toNat &&& 4286513183) 0 = false ∨
        ((upTo 8).any fun i =>
              have x := reg (setReg host (pgClu 8) 272 67108869) (pgClu 8) (256 + 8 * i);
              i != 0 && bit x 0 && bits x 1 4 != bits ((67239941#64).toNat &&& 4286513183) 1 4 &&
                  decide (bits ((67239941#64).toNat &&& 4286513183) 16 7 < bits x 16 7 + bits x 24 8) &&
                decide
                  (bits x 16 7 <
                    bits ((67239941#64).toNat &&& 4286513183) 16 7 +
                      bits ((67239941#64).toNat &&& 4286513183) 24 8)) =
            false ∧
          0 < bits ((67239941#64).toNat &&& 4286513183) 24 8 ∧
            bits ((67239941#64).toNat &&& 4286513183) 16 7 + bits ((67239941#64).toNat &&& 4286513183) 24 8 ≤ 128)) ∧
    (Stated.HostReach (setReg host (pgClu 8) 272 67108869) (pgClu 8) ∧
      bit ((67239939#64).toNat &&& 4286513183) 0 = true ∧
      (((upTo 8).any fun i =>
            have x := reg (setReg host (pgClu 8) 272 67108869) (pgClu 8) (256 + 8 * i);
            i != 0 && bit x 0 && bits x 1 4 != bits ((67239939#64).toNat &&& 4286513183) 1 4 &&
                decide (bits ((67239939#64).toNat &&& 4286513183) 16 7 < bits x 16 7 + bits x 24 8) &&
              decide
                (bits x 16 7 <
                  bits ((67239939#64).toNat &&& 4286513183) 16 7 +
                    bits ((67239939#64).toNat &&& 4286513183) 24 8)) =
          true ∨
        bits ((67239939#64).toNat &&& 4286513183) 24 8 = 0 ∨
          128 < bits ((67239939#64).toNat &&& 4286513183) 16 7 + bits ((67239939#64).toNat &&& 4286513183) 24 8)) := by
  and_intros <;> decide +kernel

theorem witness_ScrubsAndHotStacks :
    (Stated.Powered (gOn false) ∧
      9 < scratchBytes ∧
      (gOn false).bad.contains (spScratch 70 + (9 - 9 % 8)) = false) ∧
    (Stated.Powered (gOn false) ∧
      17179869217 < stackedEnd ∧
      regF (gOn false) (memPageOf (gOn false) (17179869217 - 17179869217 % 32)) 264 0 8 ≠ 0 ∧
      chFenced (gOn false) (fabRegion (17179869217 - 17179869217 % 32))
          (chanOf (gOn false) (17179869217 - 17179869217 % 32)) =
        false ∧
      (gOn false).bad.contains (17179869217 - 17179869217 % 32) = false) ∧
    (Stated.Powered (gOn false) ∧
      21 < cluBytes ∧
      (gOn false).bad.contains (spClu 8 + (21 - 21 % 8)) = false) ∧
    (Stated.Powered (gOn true)) ∧
    (Stated.Powered (gOn true) ∧
      (∀ (i : Nat), i < 32 → regKey 0 0 ≠ regKey (pgMem (16 * (0 / 4) + 4 * (0 % 4) + i / 8) (i % 8)) 272)) := by
  and_intros <;> decide +kernel

theorem witness_SlowTierPortsAndTrafficGenerators :
    (Stated.HostReach (gdrOn 4 2) (pgGdr 0) ∧
      anyTraining (gdrOn 4 2) = false ∧
      gdrState (gdrOn 4 2) 0 = 2 ∧
      0 ≠ pgGdr 0) ∧
    (Stated.HostReach (gdrOn 4 0) (pgGdr 0) ∧
      anyTraining (gdrOn 4 0) = false ∧
      gdrState (gdrOn 4 0) 0 ≠ 2 ∧
      slowHeld (gdrOn 4 0) = false ∧
      gdrLegal (gdrOn 4 0) = true) ∧
    (Stated.HostReach (gdrOn 5 3) (pgGdr 0) ∧
      anyTraining (gdrOn 5 3) = false ∧
      gdrState (gdrOn 5 3) 0 ≠ 2 ∧
      slowHeld (gdrOn 5 3) = false ∧
      gdrLegal (gdrOn 5 3) = false) ∧
    (Stated.HostReach (setReg (gdrOn 4 0) (pgJob 1) 344 256) (pgGdr 0) ∧
      anyTraining (setReg (gdrOn 4 0) (pgJob 1) 344 256) = false ∧
      gdrState (setReg (gdrOn 4 0) (pgJob 1) 344 256) 0 ≠ 2 ∧
      slowHeld (setReg (gdrOn 4 0) (pgJob 1) 344 256) = true) ∧
    (Stated.Powered (gdrOn 4 1) ∧
      gdrState (gdrOn 4 1) 0 = 1 ∧
      gdrEnabled (gdrOn 4 1) 0 = true) ∧
    (Stated.Powered s11_4 ∧
      gdrState s11_4 0 = 2 ∧
      0 < 2 ^ 30 * s11_4.tierGib ∧
      List.find? (fun x => x.started) s11_4.notices = none) ∧
    (Stated.HostReach (tgc 0) (pgTgc 5 3) ∧
      regF (tgc 0) (pgTgc 5 3) 288 0 2 ≠ 1 ∧
      regionHasMem (tgc 0) 5 = false ∧
      windowCovers (tgc 0) 5 = false ∧
      chFenced (tgc 0) 5 3 = false) ∧
    (Stated.HostReach (setReg (tgc 0) pgCxl 256 (2 ^ 34 * 3)) (pgTgc 5 3) ∧
      regF (setReg (tgc 0) pgCxl 256 (2 ^ 34 * 3)) (pgTgc 5 3) 288 0 2 ≠ 1 ∧
      (regionHasMem (setReg (tgc 0) pgCxl 256 (2 ^ 34 * 3)) 5 = true ∨
        windowCovers (setReg (tgc 0) pgCxl 256 (2 ^ 34 * 3)) 5 = true ∨
          chFenced (setReg (tgc 0) pgCxl 256 (2 ^ 34 * 3)) 5 3 = true)) ∧
    (Stated.HostReach (tgc 1) (pgTgc 5 3) ∧
      regF (tgc 1) (pgTgc 5 3) 288 0 2 = 1) ∧
    (Stated.Powered (tgc 1) ∧
      regF (tgc 1) (pgTgc 5 3) 288 0 2 = 1 ∧
      (tgcPasses (tgc 1) 5 3 ≠ 0 ∨ tgcStopped (tgc 1) 5 3 = true)) ∧
    (Stated.Powered (tgc 1) ∧
      regF (tgc 1) (pgTgc 5 3) 288 0 2 = 1 ∧
      (tgcPasses (tgc 1) 5 3 ≠ 0 ∨ tgcStopped (tgc 1) 5 3 = true)) := by
  and_intros <;> decide +kernel

theorem witness_LinkFramesAreSentReceivedAndReplayed :
    (Stated.Powered s12_0 ∧
      txUp (lnkOf s12_0 1) = true ∧
      (lnkOf s12_0 1).resend = [] ∧
      replayRoom (lnkOf s12_0 1) = true ∧
      pickFrame s12_0 1 (lnkOf s12_0 1).outQ = some (txf 0, [])) ∧
    (Stated.Powered s12_1 ∧
      txUp (lnkOf s12_1 1) = true ∧
      (lnkOf s12_1 1).resend = [3, 4] ∧
      List.find? (fun f => f.seq == 3) (lnkOf s12_1 1).replay = some (txf 3)) ∧
    (Stated.Powered s12_2 ∧
      txUp (lnkOf s12_2 1) = true ∧
      (lnkOf s12_2 1).resend = [] ∧
      (replayRoom (lnkOf s12_2 1) = false ∨ pickFrame s12_2 1 (lnkOf s12_2 1).outQ = none)) ∧
    (Stated.Powered s12_2 ∧
      (lnkOf s12_2 1).st = 2 ∧
      (lnkOf s12_2 1).rxMap ≠ [] ∧
      rxFrame (lnkOf s12_2 1).rxMap (lnkOf s12_2 1).rxPos (wordsOf (frm 1 9) 16) = none) ∧
    (Stated.Powered s12_2 ∧
      (lnkOf s12_2 1).st = 2 ∧
      (lnkOf s12_2 1).rxMap ≠ [] ∧
      rxFrame (lnkOf s12_2 1).rxMap (lnkOf s12_2 1).rxPos (wordsOf frI 0) = some frIW ∧
      frIW.ty = 2 ∧
      frIW.ackValid = true ∧
      frIW.nakValid = false ∧
      frIW.credValid = false) ∧
    (Stated.Powered s12_2 ∧
      (lnkOf s12_2 1).st = 2 ∧
      (lnkOf s12_2 1).rxMap ≠ [] ∧
      rxFrame (lnkOf s12_2 1).rxMap (lnkOf s12_2 1).rxPos (wordsOf frL 0) = some frLW ∧
      frLW.ty = 3) ∧
    (Stated.Powered s12_2 ∧
      (lnkOf s12_2 1).st = 2 ∧
      (lnkOf s12_2 1).rxMap ≠ [] ∧
      rxFrame (lnkOf s12_2 1).rxMap (lnkOf s12_2 1).rxPos ws12_3 = some frO ∧
      frO.ty = 1 ∧
      frO.linkEpoch ≠ (lnkOf s12_2 1).pEpoch) ∧
    (Stated.Powered s12_2 ∧
      (lnkOf s12_2 1).st = 2 ∧
      (lnkOf s12_2 1).rxMap ≠ [] ∧
      rxFrame (lnkOf s12_2 1).rxMap (lnkOf s12_2 1).rxPos (wordsOf (frm 1 9) 0) = some frD ∧
      frD.ty = 1 ∧
      frD.linkEpoch = (lnkOf s12_2 1).pEpoch ∧
      frD.seq = (lnkOf s12_2 1).rxNext ∧
      (lnkOf s12_2 1).heldF = [] ∧
      routeDir s12_2 (ownCoord s12_2) frD.dest = none ∧
      frD.vc ≠ 1) ∧
    (Stated.Powered s12_5 ∧
      List.find? (fun o => passed s12_5 (mapGet 0 (lnkOf s12_5 1).linkAt o + 1000)) (lnkOf s12_5 1).linkOut = some 1) ∧
    (Stated.Powered s12_0 ∧
      List.find? (fun o => passed s12_0 (mapGet 0 (lnkOf s12_0 1).linkAt o + 1000)) (lnkOf s12_0 1).linkOut = none) ∧
    (Stated.Powered s12_1 ∧
      (lnkOf s12_1 1).replay = [txf 3, txf 4] ∧
      ((lnkOf s12_1 1).st = 2 ∨ (lnkOf s12_1 1).st = 3) ∧
      (lnkOf s12_1 1).ackAt + replayNs s12_1 1 ≤ s12_1.time) ∧
    (Stated.Powered s12_6 ∧
      ((lnkOf s12_6 1).heldF.any fun h => h.fst == 10) = false ∧
      ((lnkOf s12_6 1).heldF.any fun h =>
          decide (seqDist (lnkOf s12_6 1).rxNext 10 < seqDist (lnkOf s12_6 1).rxNext h.fst)) =
        true ∧
      (lnkOf s12_6 1).naks.length < 4096 ∧
      (mapGet 0 (lnkOf s12_6 1).nakAt 10 = 0 ∨ mapGet 0 (lnkOf s12_6 1).nakAt 10 - 1 + replayNs s12_6 1 ≤ s12_6.time)) := by
  and_intros <;> decide +kernel

theorem witness_LanesAreReplacedAndDirectionsGoDown :
    (Stated.Powered (lnk1 lUp) ∧
      (lnkOf (lnk1 lUp) 1).st = 2 ∧
      (0 < 36 ∧
        bit (lnkOf (lnk1 lUp) 1).rxActive 0 = true ∧
          (LaneReport.noLock = LaneReport.noLock ∨
            LaneReport.noLock = LaneReport.noLight ∨
              ∃ errs,
                LaneReport.noLock = LaneReport.codewords errs ∧
                  squalls (noteCodewords (lnk1 lUp) 1 0 errs) 1 0 = true)) ∧
      replaceLane (lnk1 lUp) 1 (lnkOf (lnk1 lUp) 1) 0 = some (8589934590, 32, some 32)) ∧
    (Stated.Powered s12_8 ∧
      (lnkOf s12_8 1).st = 2 ∧
      (31 < 36 ∧
        bit (lnkOf s12_8 1).rxActive 31 = true ∧
          (LaneReport.noLock = LaneReport.noLock ∨
            LaneReport.noLock = LaneReport.noLight ∨
              ∃ errs,
                LaneReport.noLock = LaneReport.codewords errs ∧ squalls (noteCodewords s12_8 1 31 errs) 1 31 = true)) ∧
      replaceLane s12_8 1 (lnkOf s12_8 1) 31 = some (268435455, 28, none)) ∧
    (Stated.Powered s12_9 ∧
      (lnkOf s12_9 1).st = 2 ∧
      (0 < 36 ∧
        bit (lnkOf s12_9 1).rxActive 0 = true ∧
          (LaneReport.noLock = LaneReport.noLock ∨
            LaneReport.noLock = LaneReport.noLight ∨
              ∃ errs,
                LaneReport.noLock = LaneReport.codewords errs ∧ squalls (noteCodewords s12_9 1 0 errs) 1 0 = true)) ∧
      replaceLane s12_9 1 (lnkOf s12_9 1) 0 = none) ∧
    (Stated.Powered (lnk1 lUp) ∧
      (lnkOf (lnk1 lUp) 1).st = 2 ∧
      bit (lnkOf (lnk1 lUp) 1).rxActive 0 = true ∧
      squalls (noteCodewords (lnk1 lUp) 1 0 [1, 2]) 1 0 = false) ∧
    (Stated.Powered (lnk1 lUp) ∧
      bit (lnkOf (lnk1 lUp) 1).rxActive 33 = false ∧
      (lnkOf (lnk1 lUp) 1).st ≠ 0) ∧
    (Stated.Powered s12_10 ∧
      (lnkOf s12_10 1).linkOut.contains 3 = true) ∧
    (Stated.Powered (lnk1 lUp) ∧
      (lnkOf (lnk1 lUp) 1).linkOut.contains 3 = false ∧
      (lnkOf (lnk1 lUp) 1).st = 2 ∧
      [32, 28, 24, 16].contains 32 = true ∧
      popCount 36 8589934590 = 32 ∧
      (¬(8589934590 = (lnkOf (lnk1 lUp) 1).txActive ∧ 32 = (lnkOf (lnk1 lUp) 1).txWidth))) ∧
    (Stated.Powered (lnk1 lUp) ∧
      ((lnkOf (lnk1 lUp) 1).st = 2 ∨ (lnkOf (lnk1 lUp) 1).st = 3) ∧
      Stated.HostReach (lnk1 lUp) (pgLnk 1) ∧
      bit (reg (lnk1 lUp) (pgLnk 1) 256) 0 = true) ∧
    (Stated.Powered (lnk1 lUp) ∧
      (lnkOf (lnk1 lUp) 1).st = 2 ∧
      (lnkOf (lnk1 lUp) 1).validAt + 2000 ≤ (lnk1 lUp).time) ∧
    (Stated.Powered (lnk1 lUp) ∧
      (lnkOf (lnk1 lUp) 1).st = 2 ∧
      Stated.HostReach (lnk1 lUp) (pgLnk 1) ∧
      bit (reg (lnk1 lUp) (pgLnk 1) 256) 0 = true ∧
      bit (reg (lnk1 lUp) (pgLnk 1) 256) 5 = false) ∧
    (Stated.Powered s12_11 ∧
      (lnkOf s12_11 1).st = 3 ∧
      (lnkOf s12_11 1).rxRetrain = true ∧
      (lnkOf s12_11 1).rtAt + 30000 ≤ s12_11.time) ∧
    (Stated.Powered s12_11 ∧
      (lnkOf s12_11 1).st = 3 ∧
      (lnkOf s12_11 1).linkOut.contains 3 = true ∧
      (lnkOf s12_11 1).lmAt + 2000 ≤ s12_11.time) ∧
    (Stated.Powered s12_12 ∧
      (lnkOf s12_12 1).st = 4 ∧
      (lnkOf s12_12 1).lullAt + lullNs s12_12 1 ≤ s12_12.time) := by
  and_intros <;> first | exact Or.inl rfl | decide +kernel

theorem witness_DirectionsComeUp :
    (Stated.Powered s12_13 ∧
      Stated.HostReach s12_13 (pgLnk 1) ∧
      (lnkOf s12_13 1).st = 0 ∧
      axisLen s12_13 (1 / 2) ≠ 1 ∧
      optWidth s12_13 1 ≠ 0) ∧
    (Stated.Powered s12_14 ∧
      (lnkOf s12_14 1).st = 5 ∧
      (lnkOf s12_14 1).failedAt + 1000000 ≤ s12_14.time ∧
      optWidth s12_14 1 ≠ 0) ∧
    (Stated.Powered s12_14 ∧
      Stated.HostReach s12_14 pgRst ∧
      ((lnkOf s12_14 1).st = 1 ∨ (lnkOf s12_14 1).st = 5) ∧
      optWidth s12_14 1 ≠ 0) ∧
    (Stated.Powered s12_15 ∧
      (lnkOf s12_15 1).st = 1 ∧
      (lnkOf s12_15 1).failed = false ∧
      (lnkOf s12_15 1).pValid = false ∧
      bringupLanes s12_15 1 (((lnkOf s12_15 1).rxBad ||| 5) &&& lanes36) = some (17179869178, 32) ∧
      bringupLanes s12_15 1 (((lnkOf s12_15 1).txBad ||| 6) &&& lanes36) = some (17179869177, 32)) ∧
    (Stated.Powered s12_19 ∧
      (lnkOf s12_19 1).st = 3 ∧
      (lnkOf s12_19 1).rxRetrain = true) ∧
    (Stated.Powered s12_19 ∧
      (lnkOf s12_19 1).st = 3 ∧
      (lnkOf s12_19 1).txRetrain = true) ∧
    (Stated.Powered s12_16 ∧
      (lnkOf s12_16 1).st = 1 ∧
      (lnkOf s12_16 1).failed = false ∧
      0 % 2 ^ 24 = neighbour s12_16 (ownCoord s12_16) 1 ∧
      (lnkOf s12_16 1).trained = true) ∧
    (Stated.Powered s12_15 ∧
      (lnkOf s12_15 1).st = 1 ∧
      (lnkOf s12_15 1).failed = false ∧
      1 % 2 ^ 24 ≠ neighbour s12_15 (ownCoord s12_15) 1) ∧
    (Stated.Powered s12_17 ∧
      (lnkOf s12_17 1).st = 4 ∧
      5 % 256 = (lnkOf s12_17 1).pEpoch ∧
      3 % 256 = (lnkOf s12_17 1).epoch ∧
      s12_17.time < (lnkOf s12_17 1).lullAt + lullNs s12_17 1) ∧
    (Stated.Powered s12_20 ∧
      (lnkOf s12_20 1).st = 3 ∧
      5 % 256 = (lnkOf s12_20 1).pEpoch ∧
      3 % 256 = (lnkOf s12_20 1).epoch ∧
      (lnkOf s12_20 1).rxRetrain = true ∧
      (lnkOf s12_20 1).txRetrain = false ∧
      (lnkOf s12_20 1).rxTrained = true ∧
      (lnkOf s12_20 1).linkOut.contains 3 = false) ∧
    (Stated.Powered s12_18 ∧
      bit (reg s12_18 (pgOpt 2) 256) (0 / 9) = true) := by
  and_intros <;> decide +kernel

theorem witness_PutsStoreTheirDataAndEnd :
    (FabricOn s13_1 ∧
      (engRun s13_1 (pgTor * 2) fun r => r.cmd.id == 9 && r.cmd.op == 1 && r.prog == 0) = some ptr ∧
      routeDir s13_1 (ownCoord s13_1) (putDest ptr.cmd) = some 1 ∧
      (lnkOf s13_1 1).st = 5) ∧
    (FabricOn (setReg tput pgTor 408 16777216) ∧
      (engRun (setReg tput pgTor 408 16777216) (pgTor * 2) fun r => r.cmd.id == 9 && r.cmd.op == 1 && r.prog == 0) =
        some ptr ∧
      routeDir (setReg tput pgTor 408 16777216) (ownCoord (setReg tput pgTor 408 16777216)) (putDest ptr.cmd) =
        some 1 ∧
      (lnkOf (setReg tput pgTor 408 16777216) 1).st ≠ 5 ∧
      routeAbsent (setReg tput pgTor 408 16777216) (putDest ptr.cmd) = true) ∧
    (FabricOn tput ∧
      (engRun tput (pgTor * 2) fun r => r.cmd.id == 9 && r.cmd.op == 1 && r.prog == 0) = some ptr ∧
      routeDir tput (ownCoord tput) (putDest ptr.cmd) = some 1 ∧
      (lnkOf tput 1).st ≠ 5 ∧
      routeAbsent tput (putDest ptr.cmd) = false ∧
      readBad tput (putSrc ptr.cmd) (putLen ptr.cmd) = none) ∧
    (FabricOn s13_3 ∧
      s13_3.reshard = none ∧
      (req true).job < 16 ∧
      (req true).core < 2048 ∧
      (req true).ctx < 4 ∧
      (req true).ctr < 16 ∧
      (bit (jboxOf s13_3 (req true).job) 48 && inBox (jboxOf s13_3 (req true).job) (req true).src &&
            stackedOk s13_3 (req true).job (req true).dst (req true).data.length &&
          (!(req true).post ||
            ctxBound s13_3 (req true).core (req true).ctx &&
              ctxJob s13_3 (req true).core (req true).ctx == (req true).job)) =
        true ∧
      fabBadW s13_3 (req true).dst (req true).data.length = none ∧
      (0 < (req true).dst ∨ (req true).dst + (req true).data.length ≤ 0)) ∧
    (FabricOn s13_3 ∧
      s13_3.reshard = none ∧
      (req true).job < 16 ∧
      (req true).core < 2048 ∧
      (req true).ctx < 4 ∧
      (req true).ctr < 16 ∧
      (bit (jboxOf s13_3 (req true).job) 48 && inBox (jboxOf s13_3 (req true).job) (req true).src &&
            stackedOk s13_3 (req true).job (req true).dst (req true).data.length &&
          (!(req true).post ||
            ctxBound s13_3 (req true).core (req true).ctx &&
              ctxJob s13_3 (req true).core (req true).ctx == (req true).job)) =
        true ∧
      fabBadW s13_3 (req true).dst (req true).data.length = none ∧
      (req true).post = true) ∧
    (FabricOn s13_3 ∧
      s13_3.reshard = none ∧
      (req false).job < 16 ∧
      (req false).core < 2048 ∧
      (req false).ctx < 4 ∧
      (req false).ctr < 16 ∧
      (bit (jboxOf s13_3 (req false).job) 48 && inBox (jboxOf s13_3 (req false).job) (req false).src &&
            stackedOk s13_3 (req false).job (req false).dst (req false).data.length &&
          (!(req false).post ||
            ctxBound s13_3 (req false).core (req false).ctx &&
              ctxJob s13_3 (req false).core (req false).ctx == (req false).job)) =
        true ∧
      fabBadW s13_3 (req false).dst (req false).data.length = none ∧
      (req false).post = false) ∧
    (FabricOn s13_3 ∧
      s13_3.reshard = none ∧
      q13_4.job < 16 ∧
      q13_4.core < 2048 ∧
      q13_4.ctx < 4 ∧
      q13_4.ctr < 16 ∧
      (bit (jboxOf s13_3 q13_4.job) 48 && inBox (jboxOf s13_3 q13_4.job) q13_4.src &&
            stackedOk s13_3 q13_4.job q13_4.dst q13_4.data.length &&
          (!q13_4.post || ctxBound s13_3 q13_4.core q13_4.ctx && ctxJob s13_3 q13_4.core q13_4.ctx == q13_4.job)) =
        false) ∧
    (FabricOn s13_7 ∧
      (s13_7.puts.any fun p => p.id == 9) = true ∧
      (engRun s13_7 (pgTor * 2) fun r => r.cmd.id == 9) = some ptr ∧
      cmdKey ptr.cmd = pgTor * 2) ∧
    (FabricOn s13_7 ∧
      (s13_7.puts.any fun p => p.id == 11) = false) ∧
    (FabricOn s13_8 ∧
      List.find? (fun p => p.id == 9) s13_8.puts = some po ∧
      po.left = 0 ∧
      po.sentAt + 1000 * regF s13_8 pgTor 400 0 32 ≤ s13_8.time) := by
  and_intros <;> decide +kernel

theorem witness_ReshardsAndTorusRegisters :
    (FabricOn (rsh [1, 1, 2]) ∧
      (rsh [1, 1, 2]).reshard = none ∧
      (engRun (rsh [1, 1, 2]) (pgTor * 2) fun r => r.cmd.op == 2 && r.prog == 0) = some rsc ∧
      readBad (rsh [1, 1, 2]) (rsPerm rsc.cmd) (4 * rsN rsc.cmd) = none ∧
      readBad (rsh [1, 1, 2]) (rsBlocks rsc.cmd) (8 * rsN rsc.cmd) = none ∧
      rsRefuse (rsh [1, 1, 2]) rsc.cmd = some stFormat) ∧
    (FabricOn (rsh [1, 0, 2]) ∧
      (rsh [1, 0, 2]).reshard = none ∧
      (engRun (rsh [1, 0, 2]) (pgTor * 2) fun r => r.cmd.op == 2 && r.prog == 0) = some rsc ∧
      readBad (rsh [1, 0, 2]) (rsPerm rsc.cmd) (4 * rsN rsc.cmd) = none ∧
      readBad (rsh [1, 0, 2]) (rsBlocks rsc.cmd) (8 * rsN rsc.cmd) = none ∧
      rsRefuse (rsh [1, 0, 2]) rsc.cmd = none ∧
      (startCycles (rsBufs rsc.cmd)
            { id := rsc.cmd.id, job := rsJob rsc.cmd, perm := rsPermOf (rsh [1, 0, 2]) rsc.cmd,
              blocks := rsBlocksOf (rsh [1, 0, 2]) rsc.cmd, size := rsSize rsc.cmd, stage := rsStage rsc.cmd,
              bufs := rsBufs rsc.cmd, t0 := (rsh [1, 0, 2]).time }).active ≠
        []) ∧
    (FabricOn (src1 (xr 0)) ∧
      (src1 (xr 0)).reshard = some (xr 0) ∧
      (src1 (xr 0)).putWait = [] ∧
      List.find? (fun a => a.snd.snd.snd == 0) (xr 0).active = some (0, 0, 0, 0) ∧
      fabBad (src1 (xr 0)) (rsCopy (xr 0) (0, 0, 0, 0)).fst (xr 0).size = none ∧
      fabBadW (src1 (xr 0)) (rsCopy (xr 0) (0, 0, 0, 0)).snd (xr 0).size = none ∧
      (0 < (rsCopy (xr 0) (0, 0, 0, 0)).snd ∨ (rsCopy (xr 0) (0, 0, 0, 0)).snd + (xr 0).size ≤ 0)) ∧
    (Stated.HostReach (setReg host pgTor 264 65791) pgTor ∧
      ((bits (50331649#64).toNat (24 + 6 * 0) 6 + 1) * (bits (50331649#64).toNat (24 + 6 * 1) 6 + 1) *
              (bits (50331649#64).toNat (24 + 6 * 2) 6 + 1) *
            (bits (50331649#64).toNat (24 + 6 * 3) 6 + 1) ≤
          4096 ∧
        ([0, 1, 2, 3].all fun ax =>
              decide (coordC (bits (50331649#64).toNat 0 24) ax < bits (50331649#64).toNat (24 + 6 * ax) 6 + 1)) =
            true ∧
          ((upTo 8).all fun d => (lnkOf (setReg host pgTor 264 65791) d).st == 0) = true)) ∧
    (Stated.HostReach (setReg host pgTor 264 65791) pgTor ∧
      (¬((bits (5#64).toNat (24 + 6 * 0) 6 + 1) * (bits (5#64).toNat (24 + 6 * 1) 6 + 1) *
                (bits (5#64).toNat (24 + 6 * 2) 6 + 1) *
              (bits (5#64).toNat (24 + 6 * 3) 6 + 1) ≤
            4096 ∧
          ([0, 1, 2, 3].all fun ax =>
                decide (coordC (bits (5#64).toNat 0 24) ax < bits (5#64).toNat (24 + 6 * ax) 6 + 1)) =
              true ∧
            ((upTo 8).all fun d => (lnkOf (setReg host pgTor 264 65791) d).st == 0) = true))) ∧
    (Stated.HostReach (lnk1 lUp) pgTor ∧
      (bit ((281474976710784#64).toNat &&& 562949953421311) 48 = false ∨
        boxLegal (lnk1 lUp) 0 ((281474976710784#64).toNat &&& 562949953421311) = true)) ∧
    (Stated.HostReach (lnk1 lUp) pgTor ∧
      bit ((281474976710656#64).toNat &&& 562949953421311) 48 = true ∧
      boxLegal (lnk1 lUp) 0 ((281474976710656#64).toNat &&& 562949953421311) = false) ∧
    (Stated.HostReach s13_7 pgTor ∧
      bit (2#64).toNat 24 = false) ∧
    (Stated.HostReach s13_7 pgTor ∧
      bit (16777216#64).toNat 24 = true) := by
  and_intros <;> decide +kernel

theorem witness_AllocationsAreExclusive :
    (Stated.HostReach j2 (pgJob 1) ∧
      (((setIdx 64 0 (clearBits (192#64).toNat (reg j2 (pgJob 1) (512 + 8 * 1)))).any fun b =>
            (jobs15.any fun j => j != 1 && coreTo j2 j (64 * 1 + b)) ||
                j2.zeroing.contains (Freed.coreWin (64 * 1 + b)) ||
              j2.zeroing.contains (Freed.regionClu 1)) =
          true ∨
        clearBits (reg j2 (pgJob 1) (512 + 8 * 1)) (192#64).toNat ≠ 0 ∧ jobEnabled j2 1 = true)) ∧
    (Stated.HostReach j2 (pgJob 1) ∧
      ((setIdx 64 0 (clearBits (64#64).toNat (reg j2 (pgJob 1) (512 + 8 * 0)))).any fun b =>
          (jobs15.any fun j => j != 1 && coreTo j2 j (64 * 0 + b)) ||
              j2.zeroing.contains (Freed.coreWin (64 * 0 + b)) ||
            j2.zeroing.contains (Freed.regionClu 0)) =
        false ∧
      clearBits (reg j2 (pgJob 1) (512 + 8 * 0)) (64#64).toNat = 0) ∧
    (Stated.HostReach j2 (pgJob 2) ∧
      ((setIdx 64 0 (clearBits (64#64).toNat (reg j2 (pgJob 2) (512 + 8 * 0)))).any fun b =>
          (jobs15.any fun j => j != 2 && coreTo j2 j (64 * 0 + b)) ||
              j2.zeroing.contains (Freed.coreWin (64 * 0 + b)) ||
            j2.zeroing.contains (Freed.regionClu 0)) =
        false ∧
      jobEnabled j2 2 = false) ∧
    (Stated.HostReach j2 (pgJob 1) ∧
      ((setIdx 32 0 (clearBits ((64#64).toNat % 2 ^ 32) (reg j2 (pgJob 1) 328))).any (regionTaken j2 1) = true ∨
        clearBits (reg j2 (pgJob 1) 328) ((64#64).toNat % 2 ^ 32) ≠ 0 ∧ jobEnabled j2 1 = true)) ∧
    (Stated.HostReach j2 (pgJob 2) ∧
      (setIdx 32 0 (clearBits ((64#64).toNat % 2 ^ 32) (reg j2 (pgJob 2) 328))).any (regionTaken j2 2) = false ∧
      clearBits (reg j2 (pgJob 2) 328) ((64#64).toNat % 2 ^ 32) = 0) ∧
    (Stated.HostReach j2 (pgJob 2) ∧
      (setIdx 32 0 (clearBits ((64#64).toNat % 2 ^ 32) (reg j2 (pgJob 2) 328))).any (regionTaken j2 2) = false ∧
      jobEnabled j2 2 = false) ∧
    (Stated.HostReach j2 (pgJob 1) ∧
      (((setIdx 64 0 (clearBits (64#64).toNat (reg j2 (pgJob 1) (768 + 8 * 0)))).any fun b =>
            unitTaken j2 1 (4 * 0 + b / 16) (b % 16)) =
          true ∨
        clearBits (reg j2 (pgJob 1) (768 + 8 * 0)) (64#64).toNat ≠ 0 ∧ jobEnabled j2 1 = true)) ∧
    (Stated.HostReach j2 (pgJob 1) ∧
      ((setIdx 64 0 (clearBits (64#64).toNat (reg j2 (pgJob 1) (768 + 8 * 1)))).any fun b =>
          unitTaken j2 1 (4 * 1 + b / 16) (b % 16)) =
        false ∧
      clearBits (reg j2 (pgJob 1) (768 + 8 * 1)) (64#64).toNat = 0) ∧
    (Stated.HostReach j2 (pgJob 2) ∧
      ((setIdx 64 0 (clearBits (64#64).toNat (reg j2 (pgJob 2) (768 + 8 * 1)))).any fun b =>
          unitTaken j2 2 (4 * 1 + b / 16) (b % 16)) =
        false ∧
      jobEnabled j2 2 = false) ∧
    (Stated.HostReach (wrMem (jdis j2) 17179869184 (ramp 64)) (pgJob 1) ∧
      ((setIdx 64 0
              (clearBits (0#64).toNat (reg (wrMem (jdis j2) 17179869184 (ramp 64)) (pgJob 1) (768 + 8 * 0)))).any
          fun b => unitTaken (wrMem (jdis j2) 17179869184 (ramp 64)) 1 (4 * 0 + b / 16) (b % 16)) =
        false ∧
      jobEnabled (wrMem (jdis j2) 17179869184 (ramp 64)) 1 = false ∧
      bit (clearBits (reg (wrMem (jdis j2) 17179869184 (ramp 64)) (pgJob 1) (768 + 8 * 0)) (0#64).toNat) 16 = true ∧
      17179869189 / 2 ^ 30 = 16 * (4 * 0 + 16 / 16) + 16 % 16) ∧
    (Stated.HostReach j2 (pgJob 1) ∧
      (∀ (g : Nat),
        g < 512 →
          (decide ((64#64).toNat % 65536 % 256 ≤ g) &&
                decide (g < (64#64).toNat % 65536 % 256 + (64#64).toNat % 65536 / 256 % 256)) =
              true →
            (decide (reg j2 (pgJob 1) 344 % 256 ≤ g) &&
                  decide (g < reg j2 (pgJob 1) 344 % 256 + reg j2 (pgJob 1) 344 / 256 % 256)) =
                false →
              ((jobs15.any fun j =>
                      j != 1 && decide (regF j2 (pgJob j) 344 0 8 ≤ g) &&
                        decide (g < regF j2 (pgJob j) 344 0 8 + regF j2 (pgJob j) 344 8 8)) ||
                    decide (slowAvail j2 ≤ g) ||
                  j2.zeroing.contains (Freed.slow g)) =
                false) ∧
      (∀ (g : Nat),
        g < 512 →
          (decide (reg j2 (pgJob 1) 344 % 256 ≤ g) &&
                decide (g < reg j2 (pgJob 1) 344 % 256 + reg j2 (pgJob 1) 344 / 256 % 256)) =
              true →
            (decide ((64#64).toNat % 65536 % 256 ≤ g) &&
                decide (g < (64#64).toNat % 65536 % 256 + (64#64).toNat % 65536 / 256 % 256)) =
              true)) ∧
    (Stated.HostReach j2 (pgJob 1) ∧
      (∃ g,
        g < 512 ∧
          (decide ((257#64).toNat % 65536 % 256 ≤ g) &&
                decide (g < (257#64).toNat % 65536 % 256 + (257#64).toNat % 65536 / 256 % 256)) =
              true ∧
            (decide (reg j2 (pgJob 1) 344 % 256 ≤ g) &&
                  decide (g < reg j2 (pgJob 1) 344 % 256 + reg j2 (pgJob 1) 344 / 256 % 256)) =
                false ∧
              ((jobs15.any fun j =>
                      j != 1 && decide (regF j2 (pgJob j) 344 0 8 ≤ g) &&
                        decide (g < regF j2 (pgJob j) 344 0 8 + regF j2 (pgJob j) 344 8 8)) ||
                    decide (slowAvail j2 ≤ g) ||
                  j2.zeroing.contains (Freed.slow g)) =
                true)) ∧
    (Stated.HostReach j2 (pgJob 1) ∧
      Stated.Powered j2) ∧
    (Stated.HostReach (setReg (jdis j2) pgPwr 272 (2 ^ 44 * 3)) (pgJob 1) ∧
      bit (1281#64).toNat 0 = true ∧
      jobEnabled (setReg (jdis j2) pgPwr 272 (2 ^ 44 * 3)) 1 = false ∧
      (3 ≤ shedRows (setReg (jdis j2) pgPwr 272 (2 ^ 44 * 3)) ∨
        bit (reg (setReg (jdis j2) pgPwr 272 (2 ^ 44 * 3)) pgRst 272) 1 = true)) ∧
    (Stated.HostReach j2 (pgJob 2) ∧
      bit (257#64).toNat 0 = true ∧
      jobEnabled j2 2 = false ∧
      shedRows j2 < 3 ∧
      bit (reg j2 pgRst 272) 2 = false ∧
      (257#64).toNat / 256 % 16 ≠ 0) ∧
    (Stated.HostReach j2 (pgJob 1) ∧
      bit (64#64).toNat 0 = false) := by
  and_intros <;> decide +kernel

theorem witness_JobsArePreemptedAndTasksStarted :
    (FabricOn s14_0 ∧
      runOp s14_0 (pgJob 1) 1 = some (preCmd 1) ∧
      (∀ (c : Nat),
        c ∈ preCores (preCmd 1).cmd →
          boundOn s14_0 1 c = true →
            suspended s14_0 c 1 = false → stackedOk s14_0 1 (saveAddr s14_0 1 c) (2 ^ 21) = true)) ∧
    (FabricOn sv ∧
      runOp sv (pgJob 1) 2 = some (preCmd 2) ∧
      ((List.filter (fun c => suspended sv c 1) (preCores (preCmd 2).cmd)).all fun c =>
          canRestore sv c (mapGet { } sv.saves (saveKey c 1))) =
        true) ∧
    (FabricOn s14_1 ∧
      runOp s14_1 (pgJob 1) 2 = some (preCmd 2) ∧
      ((List.filter (fun c => suspended s14_1 c 1) (preCores (preCmd 2).cmd)).all fun c =>
          canRestore s14_1 c (mapGet { } s14_1.saves (saveKey c 1))) =
        false) ∧
    (Stated.RegionOn s14_5 1 ∧
      (engRun s14_5 (pgRgn 1 * 2) fun t => t.prog == 0) = some (tskCmd 16 64) ∧
      taskWaits s14_5 1 (tskCmd 16 64).cmd.job = true) ∧
    (Stated.RegionOn s14_4 1 ∧
      (engRun s14_4 (pgRgn 1 * 2) fun t => t.prog == 0) = some (tskCmd 16 32) ∧
      taskWaits s14_4 1 (tskCmd 16 32).cmd.job = false ∧
      chooseCore s14_4 1 (tskCmd 16 32).cmd = none) ∧
    (Stated.RegionOn s14_3 1 ∧
      (engRun s14_3 (pgRgn 1 * 2) fun t => t.prog == 0) = some (tskCmd 16 64) ∧
      taskWaits s14_3 1 (tskCmd 16 64).cmd.job = false ∧
      chooseCore s14_3 1 (tskCmd 16 64).cmd = some 6 ∧
      jobEnabled s14_3 (tskCmd 16 64).cmd.job = true ∧
      bf (tskCmd 16 64).cmd 24 2 < winSize s14_3 (64 * 1 + 6) (bits (bf (tskCmd 16 64).cmd 26 1) 0 2) ∧
      bf (tskCmd 16 64).cmd 24 2 % 4 = 0) ∧
    (Stated.RegionOn s14_6 1 ∧
      (engRun s14_6 (pgRgn 1 * 2) fun t => t.prog == 1 && t.cmd.id == y14_7.cmd.id) = some y14_7 ∧
      (engRun s14_6 (pgRgn 1 * 2) fun t => t.prog == 1 && t.cmd.job == y14_7.cmd.job) = some y14_7 ∧
      chooseCore s14_6 1 y14_7.cmd = some 6 ∧
      jobEnabled s14_6 y14_7.cmd.job = true ∧
      bf y14_7.cmd 24 2 < winSize s14_6 (64 * 1 + 6) (bits (bf y14_7.cmd 26 1) 0 2) ∧
      bf y14_7.cmd 24 2 % 4 = 0) := by
  and_intros <;> decide +kernel

theorem witness_LevelsCapsAndPowerStates :
    (Stated.HostReach (pw 0 0 0) pgPwr) ∧
    (Stated.HostReach (pw 0 0 0) pgPwr) ∧
    (Stated.HostReach (pw 0 0 0) pgPwr ∧
      (pw 0 0 0).pstate = 0 ∧
      s1Ready (pw 0 0 0) = true) ∧
    (Stated.HostReach s15_1 pgPwr ∧
      s15_1.pstate = 0 ∧
      s1Ready s15_1 = false) ∧
    (Stated.HostReach (pw 1 0 0) pgPwr ∧
      (pw 1 0 0).pstate = 1 ∧
      s1Ready (pw 1 0 0) = true ∧
      loadEstimate (pw 1 0 0) ≤ 2700) ∧
    (Stated.HostReach
        (List.foldl (fun s i => setReg s pgPwr (288 + 8 * i) 18446744073709551615) (setReg (pw 1 0 0) pgPwr 320 255)
          [0, 1, 2, 3])
        pgPwr ∧
      (List.foldl (fun s i => setReg s pgPwr (288 + 8 * i) 18446744073709551615) (setReg (pw 1 0 0) pgPwr 320 255)
            [0, 1, 2, 3]).pstate =
        1 ∧
      s1Ready
          (List.foldl (fun s i => setReg s pgPwr (288 + 8 * i) 18446744073709551615)
            (setReg (pw 1 0 0) pgPwr 320 255) [0, 1, 2, 3]) =
        true ∧
      2700 <
        loadEstimate
          (List.foldl (fun s i => setReg s pgPwr (288 + 8 * i) 18446744073709551615)
            (setReg (pw 1 0 0) pgPwr 320 255) [0, 1, 2, 3])) ∧
    (Stated.HostReach (pw 0 0 0) pgPwr ∧
      (pw 0 0 0).pstate < 2 ∧
      ((pw 0 0 0).pstate ≠ 1 ∨ s1Ready (pw 0 0 0) = false)) ∧
    (Stated.Powered (pw 0 64 0) ∧
      regF (pw 0 64 0) pgPwr 256 0 11 < 3000 ∧
      pwrG (pw 0 64 0) = 4) ∧
    (Stated.Powered (pw 0 258 0) ∧
      pwrG (pw 0 258 0) ≠ 4 ∧
      (regF (pw 0 258 0) pgPwr 256 0 11 ≤ 3000 ∧ powerCap (pw 0 258 0) ≤ 1 ∧ 2 = 2 ∨
        regF (pw 0 258 0) pgPwr 256 0 11 < 3000 ∧
          2 ≤ powerCap (pw 0 258 0) ∧
            2 = min 4 (powerCap (pw 0 258 0) + 1) ∧
              ((pw 0 258 0).pwr.capAt = 0 ∨ (pw 0 258 0).pwr.capAt - 1 + 1000000 ≤ (pw 0 258 0).time))) ∧
    (Stated.Powered s15_2 ∧
      100 * 0 < 95 * regF s15_2 pgPwr 256 0 11 ∧
      powerCap s15_2 ≠ 0 ∧
      s15_2.pwr.lowSince ≠ 0 ∧
      s15_2.pwr.lowSince - 1 + 10000000 ≤ s15_2.time) ∧
    (Stated.Powered s15_5 ∧
      pwrG s15_5 < s15_5.pwr.ceil ∧
      s15_5.pwr.rail < s15_5.pwr.ceil) ∧
    (Stated.Powered s15_6 ∧
      pwrG s15_6 < s15_6.pwr.ceil ∧
      s15_6.pwr.ceil ≤ s15_6.pwr.rail) ∧
    (Stated.Powered s15_8 ∧
      s15_8.pwr.ceil ≤ pwrG s15_8 ∧
      s15_8.pwr.rail < s15_8.pwr.ceil) ∧
    (Stated.Powered s15_4 ∧
      s15_4.pwr.ceil < pwrG s15_4 ∧
      s15_4.pwr.ceil ≤ s15_4.pwr.rail) ∧
    (Stated.Powered (pw 0 66 0)) ∧
    (Stated.Powered s15_9 ∧
      s15_9.pwr.coolSince ≠ 0 ∧
      s15_9.pwr.coolSince - 1 + 10000000 ≤ s15_9.time ∧
      thermalCap s15_9 ≠ 0) ∧
    (Stated.Powered (pw 0 66 0)) ∧
    (s15_10.pstate = 3 ∧
      s15_10.pwr.offNow = true ∧
      regF s15_10 pgPwr 328 0 3 = 5) := by
  and_intros <;> decide +kernel

theorem witness_SuppliesClocksAndWakes :
    ((setReg (pw 2 0 0) pgPwr 320 1280).vaon = true ∧
      5 = regF (setReg (pw 2 0 0) pgPwr 320 1280) pgPwr 320 8 7 ∧
      (setReg (pw 2 0 0) pgPwr 320 1280).pstate = 2 ∧
      (setReg (pw 2 0 0) pgPwr 320 1280).sec.meas.getD 1 [] = (setReg (pw 2 0 0) pgPwr 320 1280).aolMeas) ∧
    ((setReg (pw 3 0 0) pgPwr 320 1280).vaon = true ∧
      5 = regF (setReg (pw 3 0 0) pgPwr 320 1280) pgPwr 320 8 7 ∧
      (setReg (pw 3 0 0) pgPwr 320 1280).pstate = 3) ∧
    (2 ≤ (pw 2 0 0).pstate) ∧
    (Stated.Powered (pw 0 0 0) ∧
      shedRows (pw 0 0 0) = 0) ∧
    (Stated.Powered (pw 0 0 0) ∧
      shedRows (pw 0 0 0) < 5) ∧
    (Stated.Powered (pw 0 0 0) ∧
      shedRows (pw 0 0 0) < 6) ∧
    (Stated.Powered (pw 0 0 (2 ^ 44)) ∧
      1 ≤ shedRows (pw 0 0 (2 ^ 44)) ∧
      shedRows (pw 0 0 (2 ^ 44)) ≤ 5 ∧
      mapGet 0 (pw 0 0 (2 ^ 44)).pwr.above (shedRows (pw 0 0 (2 ^ 44))) ≠ 0 ∧
      mapGet 0 (pw 0 0 (2 ^ 44)).pwr.above (shedRows (pw 0 0 (2 ^ 44))) - 1 + 10000000 ≤ (pw 0 0 (2 ^ 44)).time) ∧
    (Stated.Powered s15_11 ∧
      1 ≤ shedRows s15_11 ∧
      shedRows s15_11 ≤ 5 ∧
      mapGet 0 s15_11.pwr.above (shedRows s15_11) ≠ 0 ∧
      mapGet 0 s15_11.pwr.above (shedRows s15_11) - 1 + 10000000 ≤ s15_11.time ∧
      shedRows s15_11 = 5) ∧
    (Stated.Powered (lnk1 lUp) ∧
      (lnk1 lUp).timeRuns = true) ∧
    (Stated.Powered s15_12 ∧
      s15_12.portReleased = true) ∧
    (Stated.Powered (lnk1 lUp) ∧
      (lnk1 lUp).portReleased = false) ∧
    ((pw 2 0 0).pstate ≠ 3) ∧
    (s15_13.pstate = 3 ∧
      s15_13.pwr.offNow = true ∧
      regF s15_13 pgPwr 328 0 3 = 2) ∧
    ((pw 3 0 0).pstate = 3 ∧
      (pw 3 0 0).pwr.offNow = false) := by
  and_intros <;> decide +kernel

theorem witness_ResetsAndBridges :
    (s15_15.fuses.lcs = 4) ∧
    ((pw 2 0 0).fuses.lcs ≠ 4 ∧
      u15_14.flashAnswers = false) ∧
    ((pw 2 0 0).fuses.lcs ≠ 4 ∧
      upInit.flashAnswers = true) ∧
    (Stated.HostReach (pw 0 0 0) pgRst ∧
      (pw 0 0 0).traceFrozen = false) ∧
    (Stated.HostReach s15_17 pgRst ∧
      s15_17.traceFrozen = true ∧
      s15_17.resetWait = none) ∧
    (Stated.Powered (pw 0 0 0) ∧
      (pw 0 0 0).traceFrozen = false) ∧
    ((999 < 1000 ∨ 2 ≤ (pw 0 0 0).pstate)) ∧
    (Stated.Powered s15_18 ∧
      s15_18.resetWait = some (3, 4, upInit) ∧
      4 + 10000000000 ≤ s15_18.time) ∧
    ((pw 0 0 0).cxlUp = true ∧
      bit (reg (pw 0 0 0) pgRst 272) 1 = false) ∧
    ((setReg (setReg host (pgJob 1) 320 1) pgRst 272 2).cxlUp = true ∧
      bit (reg (setReg (setReg host (pgJob 1) 320 1) pgRst 272 2) pgRst 272) 1 = true) ∧
    ((pw 0 0 0).cxlUp = true ∧
      Stated.Powered (pw 0 0 0)) ∧
    (Stated.HostReach s15_20 pgRst ∧
      s15_20.fabricOpen = false ∧
      4 ≤ popCount 16 (bits (reg s15_20 pgDtd 272) 0 16) ∧
      bits (reg s15_20 pgDtd 272) 16 4 ≠ 0 ∧
      bits (reg s15_20 pgDtd 272) 20 4 ≠ 0 ∧
      0 ≠ pgDtd) ∧
    (Stated.HostReach s15_21 pgRst ∧
      s15_21.fabricOpen = false ∧
      (popCount 16 (bits (reg s15_21 pgDtd 272) 0 16) < 4 ∨
        bits (reg s15_21 pgDtd 272) 16 4 = 0 ∨ bits (reg s15_21 pgDtd 272) 20 4 = 0)) ∧
    (Stated.Powered (lnk1 lUp) ∧
      laneBundle (lnk1 lUp) 0 0 3 = none) ∧
    (Stated.Powered (lnk1 lUp) ∧
      laneBundle (lnk1 lUp) 3 7 3 = some 31 ∧
      (List.filter (fun t => decide ((lnk1 lUp).time ≤ t + 1000))
              (mapGet [] (mapGet { } (lnk1 lUp).bundles 31).crc 3) ++
            [(lnk1 lUp).time]).length <
        16) ∧
    (Stated.Powered s15_22 ∧
      laneBundle s15_22 3 7 3 = some 31 ∧
      16 ≤
        (List.filter (fun t => decide (s15_22.time ≤ t + 1000)) (mapGet [] (mapGet { } s15_22.bundles 31).crc 3) ++
            [s15_22.time]).length) ∧
    (Stated.Powered (lnk1 lUp) ∧
      laneBundle (lnk1 lUp) 3 7 3 = some 31 ∧
      (mapGet { } (lnk1 lUp).bundles 31).spares = [64, 65, 66, 67]) ∧
    (Stated.Powered s15_22 ∧
      laneBundle s15_22 3 7 3 = some 31 ∧
      (mapGet { } s15_22.bundles 31).spares = []) := by
  and_intros <;> decide +kernel

theorem witness_SidebandTraceAndCounters :
    (Stated.Powered (hf host) ∧
      (leBytes 4 4360).length = 4 ∧
      num (leBytes 4 4360) 0 4 % 8 = 0 ∧
      num (leBytes 4 4360) 0 4 < 134217728 ∧
      pageBlk (num (leBytes 4 4360) 0 4 / 4096) ≠ none) ∧
    (Stated.Powered (hf host) ∧
      (leBytes 2 5).length = 2 ∧
      num (leBytes 2 5) 0 2 < 1024) ∧
    (Stated.Powered s16_0 ∧
      (leBytes 4 327682).length = 4 ∧
      s16_0.traceFrozen = true ∧
      num (leBytes 4 327682) 0 2 < 256 ∧
      num (leBytes 4 327682) 2 2 < 4096) ∧
    (Stated.Powered s16_0 ∧
      s16_0.resetWait = none ∧
      s16_0.traceFrozen = true) ∧
    (Stated.Powered (hf host) ∧
      (hf host).traceFrozen = false) ∧
    (Stated.Powered (hf host) ∧
      sideOps.contains 18 = false) ∧
    (FabricOn s16_1 ∧
      s16_1.traceFrozen = false ∧
      regF s16_1 (pgTrc (8 * 2)) 264 0 2 = 2 ∧
      (traceOf s16_1 2).dropPend = 0 ∧
      (∀ (a : Nat),
        bits (reg s16_1 (pgTrc (8 * 2)) 272) 12 52 * 4096 ≤ a →
          a < bits (reg s16_1 (pgTrc (8 * 2)) 272) 12 52 * 4096 + 2 ^ regF s16_1 (pgTrc (8 * 2)) 280 0 5 →
            fabBadW s16_1 a 8 = none)) ∧
    (FabricOn s16_2 ∧
      s16_2.traceFrozen = false ∧
      regF s16_2 (pgTrc (8 * 2)) 264 0 2 = 2 ∧
      (traceOf s16_2 2).dropPend = 0 ∧
      (∀ (a : Nat),
        bits (reg s16_2 (pgTrc (8 * 2)) 272) 12 52 * 4096 ≤ a →
          a < bits (reg s16_2 (pgTrc (8 * 2)) 272) 12 52 * 4096 + 2 ^ regF s16_2 (pgTrc (8 * 2)) 280 0 5 →
            fabBadW s16_2 a 8 = none) ∧
      (traceOf s16_2 2).pend = 8 ∧
      inStacked
          (bits (reg s16_2 (pgTrc (8 * 2)) 272) 12 52 * 4096 +
            (traceOf s16_2 2).drained % 2 ^ regF s16_2 (pgTrc (8 * 2)) 280 0 5)
          8 =
        true) ∧
    (Stated.HostReach (bump (bump host pgSec 0 5) pgSec 1 7) pgCnt ∧
      pgSec < 2 ^ 15 ∧
      pageBlk pgSec = some (Blk.sec, 0) ∧
      (errCounters Blk.sec).contains 0 = true) ∧
    (Stated.HostReach (bump (bump host pgSec 0 5) pgSec 1 7) pgCnt ∧
      pgSec < 2 ^ 15 ∧
      pageBlk pgSec = some (Blk.sec, 0) ∧
      (errCounters Blk.sec).contains 1 = false) ∧
    (Stated.HostReach host pgCnt ∧
      bit (reg host pgCnt 264) 2 = false) ∧
    (Stated.HostReach host pgCnt ∧
      host.resetWait = none) := by
  and_intros <;> first | decide +kernel | exact ranged _ _ _ (by decide +kernel)

theorem witness_RecoveryAttestationAndFuses :
    ((rcv 0).sec.st = 2 ∧
      Stated.Powered (rcv 0) ∧
      ownerOk (rcv 0) 2 = true ∧
      5 ≤ (leBytes 4 100 ++ ramp 40).length ∧
      (leBytes 4 100 ++ ramp 40).length ≤ 260 ∧
      num (leBytes 4 100 ++ ramp 40) 0 4 + ((leBytes 4 100 ++ ramp 40).length - 4) ≤ imageMax) ∧
    ((rcv 0).sec.st = 2 ∧
      (rcv 0).cxlUp = true ∧
      ownerOk (rcv 0) 1 = true ∧
      (ramp 40).length ≤ 65536 ∧
      200 + (ramp 40).length ≤ imageMax) ∧
    ((rcv 1).sec.st = 2 ∧
      Stated.Powered (rcv 1) ∧
      (rcv 1).sec.owner ≠ 0 ∧
      (rcv 1).sec.ownAt + 60000000000 ≤ (rcv 1).time) ∧
    ((ran 1 false).cxlUp = true ∧
      attests (ran 1 false) = true) ∧
    ((ran 2 false).cxlUp = true ∧
      attests (ran 2 false) = false) ∧
    ((setReg (ran 1 false) pgLcs 304 23556).cxlUp = true) ∧
    (Stated.HostReach (ran 1 false) pgSec ∧
      (ran 1 false).sec.st = 1 ∧
      ((ran 1 false).fuses.lcs = 1 ∨ (ran 1 false).fuses.lcs = 2) ∧
      (ran 1 false).sec.debug = false) ∧
    (Stated.HostReach (ran 1 true) pgSec ∧
      ((ran 1 true).sec.st ≠ 1 ∨
        (ran 1 true).fuses.lcs ≠ 1 ∧ (ran 1 true).fuses.lcs ≠ 2 ∨ (ran 1 true).sec.debug = true)) ∧
    (Stated.HostReach (ran 1 false) pgSec ∧
      revokeBarred (ran 1 false) 1 = false) ∧
    (Stated.HostReach (ran 1 false) pgSec ∧
      revokeBarred (ran 1 false) 0 = true) := by
  and_intros <;> decide +kernel

/-- Right after reset the state is canonical, its life-cycle code is one of the five, and its steps answer next states. -/
theorem witness_EveryStepKeepsTheCanonicalForm :
    Canonical State.reset ∧ step State.reset = .next (tick State.reset) := ⟨by decide +kernel, rfl⟩

theorem witness_EveryStepOnlyProgramsFuses :
    State.reset.fuses.lcs ≤ 4 ∧ step State.reset = .next (tick State.reset) := ⟨by decide +kernel, rfl⟩

theorem witness_IdleStepCountsHubTime :
    (State.reset.pending = [] ∧ State.reset.timeRuns = true) ∧
    (idleStopped.pending = [] ∧ idleStopped.timeRuns = false) := by
  and_intros <;> decide +kernel

end Sys2Proof.Tests
end

/-! PROOFS. Register pages and host queues (chapter "Host interface"): the write path of BAR0 and BAR2, what the registers
of the common header, of an update engine, of a JOB page and of a host queue do with a write, and the events of a host
queue. -/
namespace Sys2Proof.HostInterface
open Sys2Proof.Machine Sys2Proof.Laws Sys2Proof.Stated

/-! ### Bit fields -/

theorem bits_eq (v lo w : Nat) : bits v lo w = v / 2 ^ lo % 2 ^ w := by
  rw [bits, Nat.shiftRight_eq_div_pow]

/-- A merge takes the bits of the mask from the new value and the others from the old one. -/
theorem bit_mergeBits (v m x : Nat) {k : Nat} (hk : k < 64) :
    bit (mergeBits v m x) k = if bit m k then bit x k else bit v k := by
  unfold bit mergeBits
  rw [Nat.testBit_or, Nat.testBit_and, Nat.testBit_and, Nat.testBit_xor, Nat.testBit_two_pow_sub_one, decide_eq_true hk]
  cases m.testBit k <;> simp

theorem bit_mod64 (v : Nat) {k : Nat} (hk : k < 64) : bit (v % 2 ^ 64) k = bit v k := by
  unfold bit
  rw [Nat.testBit_mod_two_pow, decide_eq_true hk, Bool.true_and]

/-- Clearing the ones of a word is a conjunction with its complement. -/
theorem clearBits_eq_and_not {r : Nat} (hr : r < 2 ^ 64) (v : W64) :
    clearBits r v.toNat = (BitVec.ofNat 64 r &&& ~~~v).toNat := by
  apply Nat.eq_of_testBit_eq
  intro k
  rw [clearBits, Nat.testBit_xor, Nat.testBit_and, BitVec.testBit_toNat, BitVec.testBit_toNat, BitVec.getLsbD_and,
    BitVec.getLsbD_ofNat, BitVec.getLsbD_not]
  rcases Nat.lt_or_ge k 64 with hk | hk
  · cases r.testBit k <;> cases v.getLsbD k <;> simp [hk]
  · have : r.testBit k = false :=
      Nat.testBit_lt_two_pow (Nat.lt_of_lt_of_le hr (Nat.pow_le_pow_right (by decide) hk))
    simp [this]

/-! ### Pages -/

theorem pageBlk_pgJob {f : Nat} (hf : f < 16) : pageBlk (pgJob f) = some (.job, f) := by
  have h1 : ¬ 32 + f < 10 := by omega
  have h2 : ¬ 32 + f < 16 := by omega
  have h3 : ¬ 32 + f < 32 := by omega
  have h4 : 32 + f < 48 := by omega
  have h5 : 32 + f - 32 = f := by omega
  simp only [pageBlk, pgJob, h1, h2, h3, h4, h5, if_true, if_false]

theorem pageBlk_pgHqu {q : Nat} (hq : q < 4096) : pageBlk (pgHqu q) = some (.hqu, q / 16) := by
  have h1 : ¬ 256 + q / 16 < 10 := by omega
  have h2 : ¬ 256 + q / 16 < 16 := by omega
  have h3 : ¬ 256 + q / 16 < 32 := by omega
  have h4 : ¬ 256 + q / 16 < 48 := by omega
  have h5 : ¬ 256 + q / 16 < 256 := by omega
  have h6 : 256 + q / 16 < 512 := by omega
  have h7 : 256 + q / 16 - 256 = q / 16 := by omega
  simp only [pageBlk, pgHqu, h1, h2, h3, h4, h5, h6, h7, if_true, if_false]

/-- The first four registers of every queue stand in the table of the HQU page (Table 2-5). -/
theorem hquRow_isSome (q : Nat) {k : Nat} (hk : k ∈ [0, 8, 0x10, 0x18]) : (regRow .hqu (hqOff q + k)).isSome = true := by
  have rows : ∀ i < 16, ∀ k ∈ [0, 8, 0x10, 0x18], (regRow .hqu (0x100 + 0x40 * i + k)).isSome = true := by decide
  exact rows (q % 16) (Nat.mod_lt _ (by decide)) k hk

/-! ### The write path -/

/-- A whole register of a page that function 0 reaches is written to the page. -/
theorem hostWrite_eq_writePage {s : State} {page off : Nat} (h : HostReach s page) (ho : off < 4096) (h8 : off % 8 = 0)
    (v : Nat) : hostWrite s 0 page off v = writePage s 0 page off v := by
  obtain ⟨hup, hblk, hserved⟩ := h
  have hpage : (page * 4096 + off) / 4096 = page := by omega
  have hoff : (page * 4096 + off) % 4096 = off := by omega
  have hal : (page * 4096 + off) % 8 = 0 := by omega
  have hbr : broken s 0 0 (page * 4096 + off) 8 true = none := by simp [broken, hal, hpage, hblk]
  simp [hostWrite, mmioWrite, hup, hbr, hpage, hoff, hserved]

/-- A write of function 0 to a page it reaches, as a command's effect, by what the page makes of it. -/
theorem effect_hostWrite {s t : State} {page off v : Nat} (h : HostReach s page) (ho : off < 4096) (h8 : off % 8 = 0)
    (hw : writePage s 0 page off v = t) (hp : t.pending = s.pending) :
    effect s (fun s => hostWrite s 0 page off v) = .next t :=
  effect_eq _ ((hostWrite_eq_writePage h ho h8 v).trans hw) hp

/-- A register behind the header that the block's table holds. -/
theorem writePage_eq_writeBlk {s : State} {page off : Nat} {b : Blk} {i : Nat} (hb : pageBlk page = some (b, i))
    (ho : 0x100 ≤ off) (hrow : (regRow b off).isSome = true) (fn v : Nat) :
    writePage s fn page off v = writeBlk s b i page off v := by
  simp only [writePage, hb, if_neg (Nat.not_lt.2 ho), hrow, if_true]

theorem writePage_job (s : State) {f off : Nat} (hf : f < 16) (ho : 0x100 ≤ off) (hrow : (regRow .job off).isSome = true)
    (fn v : Nat) : writePage s fn (pgJob f) off v = writeJob s f off v := by
  rw [writePage_eq_writeBlk (pageBlk_pgJob hf) ho hrow, writeBlk]

/-- A write of function 0 to a register of a queue's set goes through the rules of the HQU page. -/
theorem effect_hquWrite {s t : State} {q k v : Nat} (h : HostReach s (pgHqu q)) (hq : q < 4096)
    (hk : k ∈ [0, 8, 0x10, 0x18]) (hw : writeHqu s (q / 16) (hqOff q + k) v = t) (hp : t.pending = s.pending) :
    effect s (fun s => hostWrite s 0 (pgHqu q) (hqOff q + k) v) = .next t := by
  have hk' : k < 0x20 ∧ k % 8 = 0 := by
    simp only [List.mem_cons, List.not_mem_nil, or_false] at hk
    omega
  have ⟨hlo, hhi, hal⟩ : 0x100 ≤ hqOff q + k ∧ hqOff q + k < 4096 ∧ (hqOff q + k) % 8 = 0 := by unfold hqOff; omega
  refine effect_hostWrite h hhi hal (Eq.trans ?_ hw) hp
  rw [writePage_eq_writeBlk (pageBlk_pgHqu hq) hlo (hquRow_isSome q hk), writeBlk]

/-- An event of the fabric while it has power. -/
theorem effect_live {s t : State} (hp : s.pstate < 2) (f : State → State) (h : f s = t) (hpend : t.pending = s.pending) :
    effect s (fun s => live s f) = .next t :=
  effect_eq _ ((live_eq hp f).trans h) hpend

/-! ### Reports -/

theorem pending_of_reports {s t : State} (h : Reports s t) : t.pending = s.pending := by rw [h.rest]
theorem hqs_of_reports {s t : State} (h : Reports s t) : t.hqs = s.hqs := by rw [h.rest]
theorem hqOf_of_reports {s t : State} (h : Reports s t) (q : Nat) : hqOf t q = hqOf s q := by
  unfold hqOf; rw [hqs_of_reports h]

theorem onlyReported_of_reports {s t : State} (h : Reports s t) : OnlyReported s t := by
  refine ⟨fun p o ho hno => h.regs p o ?_, hqs_of_reports h, by rw [h.rest], by rw [h.rest], by rw [h.rest],
    by rw [h.rest], by rw [h.rest], pending_of_reports h⟩
  rw [key_mod, Nat.mod_eq_of_lt (by omega : o / 8 < 512)]
  exact hno

theorem pending_raiseErr (s : State) (p b : Nat) (l : ErrLog) (o : List Nat) (d : List Byte) :
    (raiseErr s p b l o d).pending = s.pending := pending_of_reports (reports_raiseErr s p b l o d)

/-- An error that is raised sets its bit, and only reports follow. -/
theorem raiseErr_reported (s : State) (p : Nat) {b : Nat} (hb : b < 64) (l : ErrLog) (o : List Nat) (d : List Byte) :
    bit (reg (raiseErr s p b l o d) p 0x20) b = true ∧ OnlyReported s (raiseErr s p b l o d) :=
  ⟨raiseErr_bit s p b l o d hb, onlyReported_of_reports (reports_raiseErr s p b l o d)⟩

/-! ### Registers of the common header and of an update engine -/

/-- A stored register of an update engine takes the writable bits and keeps the others (R40). -/
theorem bit_storeReg_upf (s : State) {page off : Nat} {w : RegRow} (hrow : regRow .upf off = some w) (v : W64) {k : Nat}
    (hk : k < 64) : bit (reg (storeReg s .upf page off v.toNat) page off) k =
      if bit w.rw k then v.getLsbD k else bit (reg s page off) k := by
  have hreg : reg (storeReg s .upf page off v.toNat) page off =
      reg (setReg s page off (mergeBits (reg s page off) w.rw v.toNat)) page off := by
    simp only [storeReg, hrow]; split <;> rfl
  rw [hreg, reg_setReg_same, bit_mod64 _ hk, bit_mergeBits _ _ _ hk, bit, bit, bit, BitVec.testBit_toNat]

/-- A store in an update engine's page touches one register, and the marks of unreadable program words (R260). -/
theorem storeReg_upf_frame (s : State) (page off v : Nat) :
    (storeReg s .upf page off v).pending = s.pending ∧
    (∀ p o, regKey p o ≠ regKey page off → reg (storeReg s .upf page off v) p o = reg s p o) ∧
    (storeReg s .upf page off v).mem = s.mem ∧ (storeReg s .upf page off v).engs = s.engs := by
  cases hrow : regRow .upf off with
  | none => simp [storeReg, hrow]
  | some w =>
    simp only [storeReg, hrow]
    split <;> exact ⟨rfl, fun p o h => reg_setReg_other s page off _ p o h, rfl, rfl⟩

/-- Settles O12: each write reaches its page, and the page stores it under the register's mask. -/
theorem registerWriteStoresWritableBits : Obligations.RegisterWriteStoresWritableBits := by
  intro s page b i v h hb
  refine ⟨effect_hostWrite h (by decide) rfl ?_ rfl, effect_hostWrite h (by decide) rfl ?_ rfl,
    effect_hostWrite h (by decide) rfl ?_ rfl, ?_⟩
  · simp only [writePage, hb]; rfl
  · simp only [writePage, hb]; rfl
  · simp only [writePage, hb]; rfl
  · rintro rfl off w ho ho' h8 hrow
    have hw : writePage s 0 page off v.toNat = storeReg s .upf page off v.toNat := by
      rw [writePage_eq_writeBlk hb ho (by rw [hrow]; rfl), writeBlk]
    obtain ⟨hpend, hregs, hmem, hengs⟩ := storeReg_upf_frame s page off v.toNat
    exact ⟨_, effect_hostWrite h ho' h8 hw hpend, fun k hk => bit_storeReg_upf s hrow v hk, hregs, hmem, hengs⟩

/-- Settles O13: the write reaches ERR_STATUS, which clears the ones of the value. -/
theorem errStatusClearsTheWrittenOnes : Obligations.ErrStatusClearsTheWrittenOnes := by
  intro s page v h
  have ⟨_, hblk, _⟩ := h
  obtain ⟨⟨b, i⟩, hb⟩ := Option.ne_none_iff_exists'.1 hblk
  have hw : writePage s 0 page 0x20 v.toNat = setReg s page 0x20 (clearBits (reg s page 0x20) v.toNat) := by
    simp only [writePage, hb]; rfl
  rw [← clearBits_eq_and_not (reg_lt s page 0x20) v]
  exact effect_hostWrite h (by decide) rfl hw rfl

/-! ### The JOB page -/

/-- What refuses a range of queue groups (R46): its length, its end, another function's range, or a queue of the old range
that is not DISABLED. -/
def RangeRefused (s : State) (f v : Nat) : Prop :=
  16 < v / 65536 % 32 ∨ 256 < v % 256 + v / 65536 % 32 ∨
    (upTo 16).any (fun g => g != f &&
      rangesMeet (v % 256) (v / 65536 % 32) (regF s (pgJob g) 0x100 0 8) (regF s (pgJob g) 0x100 16 5)) = true ∨
    (upTo (16 * regF s (pgJob f) 0x100 16 5)).any
      (fun i => (hqOf s (16 * regF s (pgJob f) 0x100 0 8 + i)).st != 0) = true

theorem opQueueRange_refused {s : State} {f v : Nat} (h : RangeRefused s f v) :
    opQueueRange s f v = raiseErr s (pgJob f) 8 { write := true, len := 8 } [] [] := by
  refine if_pos ?_
  rw [bits_eq v 16 5]
  exact h

theorem opQueueRange_taken {s : State} {f v : Nat} (h : ¬ RangeRefused s f v) :
    opQueueRange s f v = setReg s (pgJob f) 0x100 (v &&& 0x1F00FF) := by
  refine if_neg ?_
  rw [bits_eq v 16 5]
  exact h

/-- JOB_QUEUE_RANGE is function 0's alone: a write of a job function breaks the ownership rule (R42, R46). -/
theorem broken_queueRange_of_job (s : State) {f g : Nat} (hf : f < 16) (hg : 1 ≤ g) :
    broken s g 0 (pgJob f * 4096 + 0x100) 8 true = some 1 := by
  have hpage : (pgJob f * 4096 + 0x100) / 4096 = pgJob f := by omega
  have hoff : (pgJob f * 4096 + 0x100) % 4096 = 0x100 := by omega
  have hal : (pgJob f * 4096 + 0x100) % 8 = 0 := by omega
  have hmay : jobMay s g (pgJob f) 0x100 true = false := by simp [jobMay, pageBlk_pgJob hf]
  have hg0 : g ≠ 0 := by omega
  simp [broken, hpage, hoff, hal, hmay, hg0]

/-- A write that breaks a rule only logs it, in the page it reaches (R43). -/
theorem mmioWrite_broken {s : State} {fn page off len b : Nat} (hup : s.cxlUp = true) (hfn : fn < 16) (ho : off < 4096)
    (hblk : pageBlk page ≠ none) (hbr : broken s fn 0 (page * 4096 + off) len true = some b) (v : Nat) :
    mmioWrite s fn 0 (page * 4096 + off) len v =
      raiseErr s page b { addr := page * 4096 + off, status := stAccess, fn := fn, write := true, len := len } [fn] [] := by
  have hpage : (page * 4096 + off) / 4096 = page := by omega
  have hsome : (pageBlk page).isSome = true := Option.isSome_iff_ne_none.2 hblk
  simp [mmioWrite, hup, Nat.not_le.2 hfn, hbr, violation, hpage, hsome]

theorem overflowRecord_of_none_dropped {s : State} {f : Nat} (h : regF s (pgJob f) 0x120 32 32 = 0) :
    overflowRecord s f = s := if_neg (fun hc => hc.1 h)

/-- The head of an event ring is stored, whatever the overflow record does next (R63). -/
theorem reg_opEvtHead (s : State) (f v : Nat) : reg (opEvtHead s f v) (pgJob f) 0x118 = v % 4096 := by
  rw [opEvtHead, (reports_overflow _ f).regs _ _ (by rw [key_mod]; decide), reg_setReg_same]
  omega

/-- Settles O15: the range rule decides between the store and RANGE_REJECTED; the head's write is a store, and at most the
overflow record follows it. -/
theorem queueRangeAndEventHeadWrites : Obligations.QueueRangeAndEventHeadWrites := by
  intro s f v h hf meets busy
  have hrange : writePage s 0 (pgJob f) 0x100 v.toNat = opQueueRange s f v.toNat :=
    writePage_job s hf (by decide) (by decide) 0 _
  have hhead : writePage s 0 (pgJob f) 0x118 v.toNat = opEvtHead s f v.toNat :=
    writePage_job s hf (by decide) (by decide) 0 _
  refine ⟨?_, ?_, ?_, fun i _ => rfl, ?_⟩
  · rintro ⟨hn, hend, hmeet, hbusy⟩
    refine effect_hostWrite h (by decide) rfl (hrange.trans (opQueueRange_taken ?_)) rfl
    rintro (hn' | hend' | hmeet' | hbusy')
    · omega
    · omega
    · exact Bool.false_ne_true (hmeet.symm.trans hmeet')
    · exact Bool.false_ne_true (hbusy.symm.trans hbusy')
  · intro hbad
    have hw := hrange.trans (opQueueRange_refused hbad)
    exact ⟨_, effect_hostWrite h (by decide) rfl hw (pending_raiseErr _ _ _ _ _ _),
      raiseErr_reported _ _ (by decide) _ _ _⟩
  · intro g hg hg'
    have ⟨hup, hblk, _⟩ := h
    have hw := mmioWrite_broken hup hg' (by decide) hblk (broken_queueRange_of_job s hf hg) v.toNat
    exact ⟨_, effect_eq (fun s => hostWrite s g (pgJob f) 0x100 v.toNat) hw (pending_raiseErr _ _ _ _ _ _),
      raiseErr_reported _ _ (by decide) _ _ _⟩
  · have hpend : (opEvtHead s f v.toNat).pending = s.pending := by
      rw [opEvtHead, pending_of_reports (reports_overflow _ f)]
      rfl
    refine ⟨_, effect_hostWrite h (by decide) rfl hhead hpend, reg_opEvtHead s f _, fun hnone => ?_⟩
    refine overflowRecord_of_none_dropped ?_
    rw [regF, reg_setReg_other _ _ _ _ _ _ (by unfold regKey; omega)]
    exact hnone

/-! ### Host queues -/

/-- The queues after one of them stops (R50, R55). -/
theorem hqOf_stopQueue (s : State) (q cause q' : Nat) :
    hqOf (stopQueue s q cause) q' = if q' = q then { hqOf s q with st := 2, cause := cause } else hqOf s q' := by
  rw [stopQueue, hqOf_of_reports (reports_raiseErr _ _ _ _ _ _), hqOf_setHq]

theorem pending_stopQueue (s : State) (q cause : Nat) : (stopQueue s q cause).pending = s.pending := by
  rw [stopQueue, pending_raiseErr]
  rfl

/-- A queue that stops sets QUEUE_ERROR in its HQU page. -/
theorem stopQueue_bit (s : State) (q cause : Nat) : bit (reg (stopQueue s q cause) (pgHqu q) 0x20) 9 = true := by
  rw [stopQueue]
  exact raiseErr_bit _ _ _ _ _ _ (by decide)

/-- Place in its set, and queue, of a register of an HQU page (Table 2-5). -/
theorem hqOff_place (q : Nat) {k : Nat} (hk : k < 0x40) : (hqOff q + k - 0x100) % 0x40 = k := by unfold hqOff; omega
theorem hqOff_queue (q : Nat) {k : Nat} (hk : k < 0x40) : 16 * (q / 16) + (hqOff q + k - 0x100) / 0x40 = q := by
  unfold hqOff; omega

theorem writeHqu_ctrl (s : State) {g off q : Nat} (hplace : (off - 0x100) % 0x40 = 0x18)
    (hqueue : 16 * g + (off - 0x100) / 0x40 = q) (v : Nat) : writeHqu s g off v = opQueueCtrl s q v := by
  unfold writeHqu
  rw [hqueue, hplace]
  rfl

/-- Only HQU_Q_CTRL takes writes while a queue is not DISABLED (R47). -/
theorem writeHqu_ignored {s : State} {g off q : Nat} (hplace : (off - 0x100) % 0x40 ≠ 0x18)
    (hqueue : 16 * g + (off - 0x100) / 0x40 = q) (h : (hqOf s q).st ≠ 0) (v : Nat) : writeHqu s g off v = s := by
  unfold writeHqu
  rw [hqueue]
  split
  · contradiction
  · rfl
  · simp [storeIf, h]

theorem effect_ctrlWrite {s t : State} {q v : Nat} (h : HostReach s (pgHqu q)) (hq : q < 4096)
    (hw : opQueueCtrl s q v = t) (hp : t.pending = s.pending) :
    effect s (fun s => hostWrite s 0 (pgHqu q) (hqOff q + 0x18) v) = .next t :=
  effect_hquWrite h hq (by decide)
    ((writeHqu_ctrl s (hqOff_place q (by decide)) (hqOff_queue q (by decide)) v).trans hw) hp

section
variable {s : State} {q : Nat} (hr : (hqOf s q).qreset = false)
include hr

theorem opQueueCtrl_enable (h : (hqOf s q).st = 0) :
    opQueueCtrl s q 1 = enableQueue (setReg s (pgHqu q) (hqOff q + 0x18) 1) q := by
  have h1 : bit 1 1 = false := by decide
  have h0 : bit 1 0 = true := by decide
  simp [opQueueCtrl, hr, h, h1, h0]

theorem opQueueCtrl_disable (h : (hqOf s q).st = 1) :
    opQueueCtrl s q 0 = setReg (setHq s q { hqOf s q with st := 3 }) (pgHqu q) (hqOff q + 0x18) 0 := by
  simp [opQueueCtrl, hr, h, bit]

theorem opQueueCtrl_qreset {v : Nat} (h : bit v 1 = true) : opQueueCtrl s q v = queueReset s q := by
  simp [opQueueCtrl, hr, h]

theorem queueReset_disabled (h : (hqOf s q).st = 0) :
    queueReset s q = setReg (setHq s q {}) (pgHqu q) (hqOff q + 0x18) 0 := by
  simp [queueReset, hr, h]

theorem queueReset_enabled (h : (hqOf s q).st ≠ 0) :
    queueReset s q = setHq s q { hqOf s q with st := 3, cause := 0, qreset := true } := by
  simp [queueReset, hr, h]

theorem opDrainDone_disables (h : (hqOf s q).st = 3) (ho : (hqOf s q).outstanding = 0) :
    opDrainDone s q = setHq s q { hqOf s q with st := 0 } := by
  simp [opDrainDone, hr, h, ho]

end

/-- A queue is enabled by the sizes that HQU_Q_CFG gives its rings (R47). -/
theorem enableQueue_eq (s : State) (q : Nat) :
    enableQueue s q =
      if (4 ≤ reg s (pgHqu q) (hqOff q + 0x10) % 32 ∧ reg s (pgHqu q) (hqOff q + 0x10) % 32 ≤ 16) ∧
          4 ≤ reg s (pgHqu q) (hqOff q + 0x10) / 256 % 32 ∧ reg s (pgHqu q) (hqOff q + 0x10) / 256 % 32 ≤ 16 then
        setHq s q { st := 1 }
      else stopQueue (setHq s q {}) q 5 := by
  simp [enableQueue, within, bits_eq]

/-- ENABLE does not touch the sizes. -/
theorem reg_cfg_of_ctrl (s : State) (q v : Nat) :
    reg (setReg s (pgHqu q) (hqOff q + 0x18) v) (pgHqu q) (hqOff q + 0x10) = reg s (pgHqu q) (hqOff q + 0x10) :=
  reg_setReg_other _ _ _ _ _ _ (by unfold regKey hqOff; omega)

/-- Settles O16: a write of HQU_Q_CTRL by the state of the queue, and the end of a drain. That QRESET resets a DISABLED queue
at once is the model's choice (log 116). -/
theorem hostQueueControl : Obligations.HostQueueControl := by
  intro s q h hq hr cfg ctrl
  have hset : bit (reg s (pgHqu q) (hqOff q + 0x18) ||| 2) 1 = true := by
    have hbit : Nat.testBit 2 1 = true := by decide
    rw [bit, Nat.testBit_or, hbit, Bool.or_true]
  refine ⟨fun hst hsq hcq => ?_, fun hst off v hoff => ?_, fun hst hbad => ?_, fun hst => ?_, fun hst => ?_, fun hst => ?_,
    fun hst hout hp => ?_⟩
  · refine effect_ctrlWrite h hq ((opQueueCtrl_enable hr hst).trans ?_) rfl
    rw [enableQueue_eq, reg_cfg_of_ctrl, if_pos ⟨hsq, hcq⟩]
  · have hk : off < 0x40 := by omega
    exact effect_hquWrite h hq (by rcases hoff with rfl | rfl | rfl <;> decide)
      (writeHqu_ignored (by rw [hqOff_place q hk]; omega) (hqOff_queue q hk) hst _) rfl
  · have hillegal : opQueueCtrl s q 1 = stopQueue (setHq (ctrl 1) q {}) q 5 := by
      rw [opQueueCtrl_enable hr hst, enableQueue_eq, reg_cfg_of_ctrl, if_neg]
      rintro ⟨hsq, hcq⟩
      omega
    refine ⟨_, effect_ctrlWrite h hq hillegal (pending_stopQueue _ q 5), ?_, ?_, fun q' hne => ?_⟩
    · rw [hqOf_stopQueue, if_pos rfl]
    · rw [hqOf_stopQueue, if_pos rfl]
    · rw [hqOf_stopQueue, if_neg hne, hqOf_setHq, if_neg hne]
      rfl
  · exact effect_ctrlWrite h hq (opQueueCtrl_disable hr hst) rfl
  · exact effect_ctrlWrite h hq ((opQueueCtrl_qreset hr hset).trans (queueReset_enabled hr hst)) rfl
  · refine ⟨_, effect_ctrlWrite h hq ((opQueueCtrl_qreset hr hset).trans (queueReset_disabled hr hst)) rfl, ?_, ?_⟩
    · rw [(setReg_reads _ _ _ _).1, hqOf_setHq, if_pos rfl]
    · rw [reg_setReg_same]
      rfl
  · exact effect_live hp (opDrainDone · q) (opDrainDone_disables hr hst hout) rfl

/-! ### Doorbells -/

theorem bellWake_of_s0 {s : State} (h : s.pstate = 0) : bellWake s = s := by simp [bellWake, h]

/-- A doorbell of a slot that the function has passes the guards of BAR2 (R42). -/
theorem mmioWrite_bell {s : State} {fn slot k : Nat} (h : BellReach s fn slot) (hk : k < 64) (h8 : k % 8 = 0) (v : Nat) :
    mmioWrite s fn 2 (64 * slot + k) 8 v = writeBar2 s fn (64 * slot + k) v := by
  obtain ⟨hup, hfn, hopen, hslot, _⟩ := h
  have hal : (64 * slot + k) % 8 = 0 := by omega
  have hoff : 64 * slot + k < 64 * slotsOf s fn := by omega
  have hmay : bar2May s fn (64 * slot + k) = true := by
    rcases hopen with rfl | hopen
    · rfl
    · simp [bar2May, hopen, hoff]
  have hbr : broken s fn 2 (64 * slot + k) 8 true = none := by simp [broken, hal, hmay]
  simp [mmioWrite, hup, Nat.not_le.2 hfn, hbr]

theorem effect_sqTail {s t : State} {fn slot v : Nat} (h : BellReach s fn slot) (hw : bellTail s fn slot v = t)
    (hp : t.pending = s.pending) : effect s (fun s => mmioWrite s fn 2 (64 * slot) 8 v) = .next t := by
  have ⟨_, _, _, hbell, _⟩ := h
  have hoff : 64 * slot < 64 * slotsOf s fn := by omega
  have hplace : 64 * slot % 64 = 0 := by omega
  have hslot : 64 * slot / 64 = slot := by omega
  refine effect_eq _ ((mmioWrite_bell (k := 0) h (by decide) rfl v).trans ?_) hp
  simp only [writeBar2, Nat.add_zero, hoff, hplace, hslot, if_true, hw]

theorem effect_cqHead {s t : State} {fn slot v : Nat} (h : BellReach s fn slot) (hw : bellHead s fn slot v = t)
    (hp : t.pending = s.pending) : effect s (fun s => mmioWrite s fn 2 (64 * slot + 8) 8 v) = .next t := by
  have ⟨_, _, _, hbell, _⟩ := h
  have hoff : 64 * slot + 8 < 64 * slotsOf s fn := by omega
  have hplace : (64 * slot + 8) % 64 = 8 := by omega
  have hslot : (64 * slot + 8) / 64 = slot := by omega
  refine effect_eq _ ((mmioWrite_bell h (by decide) rfl v).trans ?_) hp
  simp only [writeBar2, hoff, hplace, hslot, if_true, hw]

section
variable {s : State} {fn slot v : Nat} (h0 : s.pstate = 0)
include h0

theorem bellTail_taken (hst : (hqOf s (slotQueue s fn slot)).st = 1)
    (hv : v % 65536 < 2 ^ regF s (pgHqu (slotQueue s fn slot)) (hqOff (slotQueue s fn slot) + 0x10) 0 5) :
    bellTail s fn slot v =
      setHq s (slotQueue s fn slot) { hqOf s (slotQueue s fn slot) with sqTail := v % 65536 } := by
  simp [bellTail, bellWake_of_s0 h0, hst, Nat.not_le.2 hv]

theorem bellTail_stops (hst : (hqOf s (slotQueue s fn slot)).st = 1)
    (hv : 2 ^ regF s (pgHqu (slotQueue s fn slot)) (hqOff (slotQueue s fn slot) + 0x10) 0 5 ≤ v % 65536) :
    bellTail s fn slot v = stopQueue s (slotQueue s fn slot) 1 := by
  simp [bellTail, bellWake_of_s0 h0, hst, hv]

theorem bellTail_dropped (hst : (hqOf s (slotQueue s fn slot)).st ≠ 1) :
    bellTail s fn slot v = dropBell s (slotQueue s fn slot) fn (64 * slot) := by
  simp [bellTail, bellWake_of_s0 h0, hst]

theorem bellHead_taken (hst : (hqOf s (slotQueue s fn slot)).st = 1) {n : Nat}
    (hn : 2 ^ regF s (pgHqu (slotQueue s fn slot)) (hqOff (slotQueue s fn slot) + 0x10) 8 5 = n) (hv : v % 65536 < n)
    (hle : (v % 65536 + n - (hqOf s (slotQueue s fn slot)).cqHead) % n ≤
      ((hqOf s (slotQueue s fn slot)).cqTail + n - (hqOf s (slotQueue s fn slot)).cqHead) % n) :
    bellHead s fn slot v =
      setHq s (slotQueue s fn slot) { hqOf s (slotQueue s fn slot) with cqHead := v % 65536 } := by
  simp [bellHead, bellWake_of_s0 h0, hst, hn, Nat.not_le.2 hv, Nat.not_lt.2 hle]

theorem bellHead_dropped (hst : (hqOf s (slotQueue s fn slot)).st ≠ 1) :
    bellHead s fn slot v = dropBell s (slotQueue s fn slot) fn (64 * slot + 8) := by
  simp [bellHead, bellWake_of_s0 h0, hst]

end

/-- Settles O17: both doorbells reach their queue, whose state and indices decide what they do. -/
theorem doorbellsMoveTheRingIndices : Obligations.DoorbellsMoveTheRingIndices := by
  intro s fn slot v h q hqu n
  have ⟨_, _, _, _, h0⟩ := h
  refine ⟨fun hst hv => ?_, fun hst hv => ?_, fun hst hv hle => ?_, fun hst => ⟨?_, ?_⟩⟩
  · exact effect_sqTail h (bellTail_taken h0 hst hv) rfl
  · refine ⟨_, effect_sqTail h (bellTail_stops h0 hst hv) (pending_stopQueue s q 1), ?_, ?_⟩
    · rw [hqOf_stopQueue, if_pos rfl]
    · rw [hqOf_stopQueue, if_pos rfl]
  · exact effect_cqHead h (bellHead_taken h0 hst rfl hv hle) rfl
  · exact ⟨_, effect_sqTail h (bellTail_dropped h0 hst) (pending_raiseErr _ _ _ _ _ _),
      raiseErr_reported _ _ (by decide) _ _ _⟩
  · exact ⟨_, effect_cqHead h (bellHead_dropped h0 hst) (pending_raiseErr _ _ _ _ _ _),
      raiseErr_reported _ _ (by decide) _ _ _⟩

/-! ### Events of a host queue -/

section
variable {s : State} {q : Nat} {bytes : List Byte} {c : QCmd} (hlen : bytes.length = 64)
  (hmay : mayDispatch s q (bit (num bytes 2 1) 0) = true)
  (hchk : chkHost s bytes
    { id := s.nextId, page := num bytes 4 2 % 2 ^ 15, op := num bytes 0 1, body := bytes.drop 16
      src := .host q (hqOf s q).sqHead (num bytes 8 8) (bit (num bytes 2 1) 1) (bit (num bytes 2 1) 2)
      fn := fnOfQueue s q } = (c, none))
include hlen hmay hchk

/-- A command stays in its ring while its engine's queue is full. -/
theorem opDispatch_waits (hfull : queueFull s c = true) : opDispatch s q bytes = s := by
  refine (if_pos ⟨hlen, hmay⟩).trans ?_
  rw [hchk]
  exact if_pos ⟨rfl, hfull⟩

/-- A command that passes R57 enters its engine's queue, and its host queue counts it (R51). -/
theorem opDispatch_enters (hroom : queueFull s c = false) :
    opDispatch s q bytes = enqueue (setHq { s with nextId := s.nextId + 1 } q { hqOf s q with
      sqHead := ((hqOf s q).sqHead + 1) % 2 ^ regF s (pgHqu q) (hqOff q + 0x10) 0 5
      outstanding := (hqOf s q).outstanding + 1, hold := bit (num bytes 2 1) 2 }) c := by
  refine (if_pos ⟨hlen, hmay⟩).trans ?_
  rw [hchk]
  exact if_neg (by simp [hroom])

end

/-- A ring that cannot be reached stops its RUNNING queue (R50); a completion ring is marked as lost before. -/
theorem opRingFailed_stops {s : State} {q : Nat} (h : (hqOf s q).st = 1) (completion : Bool) :
    ∃ u, opRingFailed s q completion = stopQueue u q 3 ∧ u.pending = s.pending ∧ ∀ q', q' ≠ q → hqOf u q' = hqOf s q' := by
  cases completion
  · exact ⟨s, by simp [opRingFailed, h], rfl, fun _ _ => rfl⟩
  · refine ⟨setHq s q { hqOf s q with cqLost := true }, by simp [opRingFailed, h], rfl, fun q' hne => ?_⟩
    rw [hqOf_setHq, if_neg hne]

theorem opCoalTime_signals {s : State} {q : Nat} (hn : (hqOf s q).unsig ≠ 0) (h0 : (hqOf s q).coalAt ≠ 0)
    (hle : (hqOf s q).coalAt ≤ s.time) (hen : bit (reg s (pgHqu q) (hqOff q + 0x10)) 32 = true) :
    opCoalTime s q = signal (setHq s q { hqOf s q with unsig := 0, coalAt := 0 }) (fnOfQueue s q)
      (2 + (q - 16 * regF s (pgJob (fnOfQueue s q)) 0x100 0 8)) := by
  simp [opCoalTime, hn, h0, hle, hen]

theorem signal_frame (s : State) (fn vec : Nat) :
    (signal s fn vec).pending = s.pending ∧ (signal s fn vec).hqs = s.hqs ∧ (signal s fn vec).mem = s.mem ∧
      (signal s fn vec).regs = s.regs ∧ (signal s fn vec).engs = s.engs := by
  unfold signal
  split <;> exact ⟨rfl, rfl, rfl, rfl, rfl⟩

/-- A signalled vector shows: its message goes out, or its pending bit is set if it was not yet (R36, R54). -/
theorem signal_shows (s : State) (fn vec : Nat) :
    (signal s fn vec).msixPend ≠ s.msixPend ∨ (signal s fn vec).msixSent ≠ s.msixSent ∨
      mapGet 0 s.msixPend (fn * 512 + vec) = 1 := by
  unfold signal
  split
  · by_cases hpend : mapGet 0 s.msixPend (fn * 512 + vec) = 1
    · exact .inr (.inr hpend)
    · refine .inl (fun he => hpend ?_)
      rw [← he]
      exact mapGet_mapPut_same _
  · refine .inr (.inl (fun he => ?_))
    have hone := congrArg (fun m => mapGet 0 m (fn * 512 + vec)) he
    simp at hone

/-- Settles O18: a dispatch by the room in its engine's queue (log 11), a failed ring access, and the end of COAL_TIME. -/
theorem hostQueueEvents : Obligations.HostQueueEvents := by
  refine ⟨fun s q bytes c hp hlen hmay hchk => ⟨fun hfull => ?_, fun hroom => ?_⟩, fun s q completion hp hst => ?_,
    fun s q hp hn h0 hle hen => ?_⟩
  · exact effect_live hp (opDispatch · q bytes) (opDispatch_waits hlen hmay hchk hfull) rfl
  · refine ⟨_, effect_live hp (opDispatch · q bytes) (opDispatch_enters hlen hmay hchk hroom) rfl, ?_, ?_, rfl, rfl,
      rfl, rfl⟩
    · rw [enqueue, engOf_setEng, if_pos rfl]
      rfl
    · rw [enqueue, (setEng_reads _ _ _).2.1, hqOf_setHq, if_pos rfl]
  · obtain ⟨u, hw, hpend, hothers⟩ := opRingFailed_stops hst completion
    refine ⟨_, effect_live hp (opRingFailed · q completion) hw ((pending_stopQueue u q 3).trans hpend), ?_, ?_,
      stopQueue_bit u q 3, fun q' hne => ?_⟩
    · rw [hqOf_stopQueue, if_pos rfl]
    · rw [hqOf_stopQueue, if_pos rfl]
    · rw [hqOf_stopQueue, if_neg hne, hothers q' hne]
  · obtain ⟨hpend, hhqs, hmem, hregs, hengs⟩ := signal_frame (setHq s q { hqOf s q with unsig := 0, coalAt := 0 })
      (fnOfQueue s q) (2 + (q - 16 * regF s (pgJob (fnOfQueue s q)) 0x100 0 8))
    refine ⟨_, effect_live hp (opCoalTime · q) (opCoalTime_signals hn h0 hle hen) hpend, ?_, hmem, hregs, hengs,
      signal_shows _ _ _⟩
    rw [hqOf, hhqs]
    exact (hqOf_setHq _ _ _ _).trans (if_pos rfl)

end Sys2Proof.HostInterface

/-! PROOFS. The control core (chapter "Compute core"): the instructions of a context, ISSUE and the sync counters, the start
and the end of engine commands, and the tile loader. -/
namespace Sys2Proof.ComputeCore
open Sys2Proof.Machine Sys2Proof.Laws Sys2Proof.Stated

/-! ### Numbers and their 64-bit patterns -/

theorem sgn_toNat {w : Nat} (hw : 0 < w) (a : BitVec w) : sgn w a.toNat = a.toInt := by
  have hlt := a.isLt
  have hpow : 2 ^ w = 2 * 2 ^ (w - 1) := by rw [← Nat.pow_succ']; congr 1; omega
  rw [sgn, Nat.mod_eq_of_lt hlt, BitVec.toInt]
  by_cases h : a.toNat < 2 ^ (w - 1)
  · rw [if_pos h, if_pos (by omega)]
  · rw [if_neg h, if_neg (by omega)]

theorem ofNat_wrap (i : Int) : BitVec.ofNat 64 (wrap 64 i) = BitVec.ofInt 64 i := by
  apply BitVec.eq_of_toNat_eq
  rw [BitVec.toNat_ofNat, BitVec.toNat_ofInt, wrap]
  omega

theorem ofNat_mod64 (n : Nat) : BitVec.ofNat 64 (mod64 n) = BitVec.ofNat 64 n := by
  apply BitVec.eq_of_toNat_eq
  rw [BitVec.toNat_ofNat, BitVec.toNat_ofNat, mod64, Nat.mod_mod]

theorem imm64_eq (i : BitVec 16) : imm64 i = (i.signExtend 64).toNat := by
  have h : wrap 64 i.toInt < 2 ^ 64 := by unfold wrap; omega
  rw [imm64, sgn_toNat (by decide), BitVec.signExtend, ← ofNat_wrap, BitVec.toNat_ofNat, Nat.mod_eq_of_lt h]

theorem ofNat_b2n (p : Prop) [Decidable p] (b : Bool) (h : b = true ↔ p) :
    BitVec.ofNat 64 (b2n b) = if p then 1 else 0 := by
  by_cases hp : p
  · rw [if_pos hp, h.2 hp]; rfl
  · rw [if_neg hp, Bool.eq_false_iff.2 (fun hb => hp (h.1 hb))]; rfl

/-- An unsigned division has one corner: a zero divisor. -/
theorem divEdge_unsigned {a : Nat} {b : W64} (hb : b ≠ 0) : ¬ divEdge false a b.toNat = true := by
  have : b.toNat ≠ 0 := fun h => hb (BitVec.eq_of_toNat_eq h)
  simp [divEdge, this]

/-- What an integer operation gives is what Table 3-2 states, where it states it. -/
theorem ofNat_intOp {o : IntOp} {a b w : W64} (h : intStated o a b = some w) :
    BitVec.ofNat 64 (intOp o a.toNat b.toNat) = w := by
  cases o with
  | add => cases h; rw [intOp, ofNat_mod64, BitVec.add_def]
  | sub =>
    cases h
    apply BitVec.eq_of_toNat_eq
    rw [intOp, ofNat_mod64, BitVec.toNat_ofNat, BitVec.toNat_sub]
    congr 1
    omega
  | and => cases h; rw [intOp, ← BitVec.toNat_and, BitVec.ofNat_toNat, BitVec.setWidth_eq]
  | or => cases h; rw [intOp, ← BitVec.toNat_or, BitVec.ofNat_toNat, BitVec.setWidth_eq]
  | xor => cases h; rw [intOp, ← BitVec.toNat_xor, BitVec.ofNat_toNat, BitVec.setWidth_eq]
  | mul =>
    cases h
    apply BitVec.eq_of_toNat_eq
    rw [intOp, ofNat_mod64, BitVec.toNat_ofNat, BitVec.toNat_mul]
  | shl =>
    obtain ⟨hb, hw⟩ := Option.ite_none_right_eq_some.1 h
    cases hw
    rw [intOp, if_pos hb, ofNat_mod64]
    rfl
  | shr =>
    obtain ⟨hb, hw⟩ := Option.ite_none_right_eq_some.1 h
    cases hw
    rw [intOp, if_pos hb, ← BitVec.toNat_ushiftRight, BitVec.ofNat_toNat, BitVec.setWidth_eq]
  | sar =>
    obtain ⟨hb, hw⟩ := Option.ite_none_right_eq_some.1 h
    cases hw
    rw [intOp, if_pos hb, sgn_toNat (by decide), ofNat_wrap]
    rfl
  | setEq => cases h; exact ofNat_b2n _ _ (by simp [BitVec.toNat_inj])
  | setNe =>
    cases h
    rw [← ite_not]
    exact ofNat_b2n _ _ (by simp [BitVec.toNat_inj])
  | setLt =>
    cases h
    rw [intOp, sgn_toNat (by decide), sgn_toNat (by decide)]
    exact ofNat_b2n _ _ (by simp)
  | setLtu => cases h; exact ofNat_b2n _ _ (by simp)
  | divu =>
    obtain ⟨hb, hw⟩ := Option.ite_none_left_eq_some.1 h
    cases hw
    rw [intOp, if_neg (divEdge_unsigned hb), ← BitVec.toNat_udiv, BitVec.ofNat_toNat, BitVec.setWidth_eq]
  | remu =>
    obtain ⟨hb, hw⟩ := Option.ite_none_left_eq_some.1 h
    cases hw
    rw [intOp, if_neg (divEdge_unsigned hb), ← BitVec.toNat_umod, BitVec.ofNat_toNat, BitVec.setWidth_eq]
  | div => cases h
  | rem => cases h

/-! ### General registers (R72) -/

theorem getReg_lt (c : Ctx) (r : Nat) : getReg c r < 2 ^ 64 := by
  unfold getReg
  split
  · exact Nat.two_pow_pos 64
  · exact BitVec.isLt _

theorem getReg_eq_toNat (c : Ctx) (r : Nat) : getReg c r = (BitVec.ofNat 64 (getReg c r)).toNat := by
  rw [BitVec.toNat_ofNat, Nat.mod_eq_of_lt (getReg_lt c r)]

theorem getReg_congr {c d : Ctx} (h : c.g = d.g) (r : Nat) : getReg c r = getReg d r := by
  unfold getReg; rw [h]

theorem getReg_zero (c : Ctx) : getReg c 0 = 0 := rfl
theorem putReg_zero (c : Ctx) (v : Nat) : putReg c 0 v = c := rfl

theorem getReg_putReg (c : Ctx) {r k : Nat} (v : Nat) (h1 : 1 ≤ r) (h32 : r < 32) (hk : k < 32) :
    getReg (putReg c r v) k = if k = r then v % 2 ^ 64 else getReg c k := by
  have hr : r % 32 = r := Nat.mod_eq_of_lt h32
  rw [putReg, hr, if_neg (by omega), getReg, getReg, Nat.mod_eq_of_lt hk, mapGet_mapPut]
  by_cases hkr : k = r
  · rw [if_pos hkr, if_pos hkr, if_neg (by omega), BitVec.toNat_ofNat]
  · rw [if_neg hkr, if_neg hkr]

/-- A register holds a value's low 64 bits, so a value may be given as a word. -/
theorem putReg_ofNat (c : Ctx) (r v : Nat) : putReg c r (BitVec.ofNat 64 v).toNat = putReg c r v := by
  rw [putReg, BitVec.ofNat_toNat, BitVec.setWidth_eq, putReg]

/-! ### Instructions of a context that executes -/

theorem setDie_of_eq {s : State} {d : Nat} (h : s.actDie = d) : setDie s d = s := by subst h; rfl

theorem ctxOf_ran (u : State) (core x core' x' : Nat) :
    ctxOf (setDie (tookTurn u core x) 0) core' x' = ctxOf u core' x' := rfl

section
variable {s : State} {core x : Nat} {p : Nat → Bool} (h : Executes s core x p) (f : State → Ctx → State)
include h

/-- An instruction's effect on the die of its core, by the state that it leaves. -/
theorem effect_executes {u : State} (hf : f (setDie s (core / 1024 + 1)) (ctxOf s core x) = u)
    (hp : u.pending = s.pending) :
    effect s (fun s => onCore s core (fun s => instr s core x p (f s))) = .next (setDie (tookTurn u core x) 0) := by
  rw [effect_instr h, hf]
  exact congrArg Host.Outcome.next (setPending_of_eq hp)

/-- An instruction to which the die of its core does not matter. -/
theorem effect_executes_anyDie {v : State} {d : Nat} (hf : f (setDie s (core / 1024 + 1)) (ctxOf s core x) = setDie v d)
    (hd : v.actDie = s.actDie) (hp : v.pending = s.pending) :
    effect s (fun s => onCore s core (fun s => instr s core x p (f s))) = .next (tookTurn v core x) := by
  have ⟨_, _, _, hidle, _⟩ := h
  rw [effect_executes h f hf hp]
  exact congrArg Host.Outcome.next (show setDie (tookTurn v core x) 0 = _ from setDie_of_eq (hd.trans hidle))

/-- An instruction that writes rd and goes on. -/
theorem effect_retire (rd v : Nat)
    (hf : f (setDie s (core / 1024 + 1)) (ctxOf s core x) = retire (setDie s (core / 1024 + 1)) core x (ctxOf s core x) rd v) :
    effect s (fun s => onCore s core (fun s => instr s core x p (f s))) =
      .next (ranTo s core x (nextPc (putReg (ctxOf s core x) rd v))) := effect_ctx h f _ hf

end

/-- Settles O1: the instruction retires with the value of its operation. -/
theorem integerInstructionsWriteRd : Obligations.IntegerInstructionsWriteRd := by
  intro s core x rd ra rb o imm
  refine ⟨fun h => ⟨BitVec.ofNat 64 (intOp o (getReg (ctxOf s core x) ra) (getReg (ctxOf s core x) rb)), ?_, fun w hw => ?_⟩,
    fun h => ⟨BitVec.ofNat 64 (intOp o (getReg (ctxOf s core x) ra) (imm64 imm)), ?_, fun w hw => ?_⟩,
    fun h => ⟨BitVec.ofNat 64 (mod64 (Config.loadUpper imm.toNat)), ?_⟩⟩
  · rw [putReg_ofNat]
    exact effect_retire h (fun s c => retire s core x c rd (intOp o (getReg c ra) (getReg c rb))) _ _ rfl
  · rw [getReg_eq_toNat _ ra, getReg_eq_toNat _ rb]
    exact ofNat_intOp hw
  · rw [putReg_ofNat]
    exact effect_retire h (fun s c => retire s core x c rd (intOp o (getReg c ra) (imm64 imm))) _ _ rfl
  · rw [getReg_eq_toNat _ ra, imm64_eq]
    exact ofNat_intOp hw
  · rw [putReg_ofNat]
    exact effect_retire h (fun s c => retire s core x c rd (mod64 (Config.loadUpper imm.toNat))) _ _ rfl

/-- Settles O2: NOP goes on, and the other two retire with what they read. -/
theorem nopReadtimeReadctxGoOn : Obligations.NopReadtimeReadctxGoOn := by
  intro s core x rd
  refine ⟨fun h => effect_ctx h (fun s c => setCtx s core x (nextPc c)) _ rfl, fun h =>
    ⟨effect_retire h (fun s c => retire s core x c rd (mod64 s.time)) _ _ rfl,
      BitVec.ofNat 64 (mod64 (Config.readCtx x (ctxJob s core x))), ?_⟩⟩
  rw [putReg_ofNat]
  exact effect_retire h (fun s c => retire s core x c rd (mod64 (Config.readCtx x (ctxJob s core x)))) _ _ rfl

/-! ### A context that halts (R74, R75) -/

/-- The context that halts. -/
theorem haltCtx_self (s : State) (core x status engine : Nat) :
    (ctxOf (haltCtx s core x status engine) core x).st = 3 ∧
      (ctxOf (haltCtx s core x status engine) core x).haltStatus = status ∧
      (ctxOf (haltCtx s core x status engine) core x).pc = (ctxOf s core x).pc ∧
      (ctxOf (haltCtx s core x status engine) core x).g = (ctxOf s core x).g := by
  obtain ⟨n, b, hctx⟩ := haltCtx_ctx s core x status engine
  rw [hctx core x, if_pos rfl]
  exact ⟨rfl, rfl, rfl, rfl⟩

theorem haltCtx_other (s : State) (core status engine : Nat) {x x' : Nat} (hne : x' ≠ x) :
    ctxOf (haltCtx s core x status engine) core x' = ctxOf s core x' := by
  obtain ⟨n, b, hctx⟩ := haltCtx_ctx s core x status engine
  rw [hctx core x', if_neg (by omega)]

theorem haltCtx_pending (s : State) (core x status engine : Nat) : (haltCtx s core x status engine).pending = s.pending :=
  (keeps_haltCtx core x status engine (Keeps.refl s)).pending

theorem foldl_field {β γ : Type} (g : State → γ) (f : State → β → State) (h : ∀ s x, g (f s x) = g s) :
    ∀ (l : List β) (s : State), g (l.foldl f s) = g s
  | [], _ => rfl
  | x :: xs, s => by rw [List.foldl_cons, foldl_field g f h xs, h]

theorem bump_hqs (s : State) (p i n : Nat) : (bump s p i n).hqs = s.hqs := by rw [(reports_bump s p i n).rest]

theorem trcStore_hqs (k : Nat) (w : Bool) : ∀ (us : List Nat) (s : State), (trcStore s k w us).hqs = s.hqs
  | [], _ => rfl
  | u :: us, s => by
    rw [trcStore, trcStore_hqs k w us]
    rfl

theorem trcPacket_hqs (s : State) (core : Nat) (us : List Nat) : (trcPacket s core us).hqs = s.hqs := by
  have written : ∀ w : Bool, (bump (trcStore s (core / 8) w us) (pgTrc core) 0 1).hqs = s.hqs := fun w =>
    (bump_hqs _ _ _ _).trans (trcStore_hqs _ _ _ _)
  unfold trcPacket
  dsimp only
  split
  · rfl
  · split
    · split
      · exact written _
      · exact written _
    · split
      · rfl
      · exact bump_hqs _ _ _ _

theorem trcEmit_hqs (s : State) (core x : Nat) (us : List Nat) : (trcEmit s core x us).hqs = s.hqs := by
  have due : ∀ t : State, (trcSyncDue t core x).hqs = t.hqs := fun t => by
    unfold trcSyncDue trcSync
    split
    · exact trcPacket_hqs _ _ _
    · rfl
  have flush : (trcFlush s core x).hqs = s.hqs := by
    unfold trcFlush
    dsimp only
    split
    · rfl
    · exact trcPacket_hqs _ _ _
  unfold trcEmit
  split
  · rw [due, trcPacket_hqs, flush]
  · rfl

theorem mxaLastHalt_hqs (s : State) (core job : Nat) : (mxaLastHalt s core job).hqs = s.hqs := by
  unfold mxaLastHalt
  split <;> rfl

theorem venRelease_hqs (s : State) (core job : Nat) : (venRelease s core job).hqs = s.hqs := rfl
theorem giveUpSaved_hqs (s : State) (core job : Nat) : (giveUpSaved s core job).hqs = s.hqs := rfl

theorem haltSaved_hqs (s : State) (core x status : Nat) : (haltSaved s core x status).hqs = s.hqs := by
  unfold haltSaved
  exact foldl_field State.hqs _ (by intros; rfl) _ _

/-- A halt touches no host queue. -/
theorem haltCtx_hqs (s : State) (core x status engine : Nat) : (haltCtx s core x status engine).hqs = s.hqs := by
  unfold haltCtx
  extract_lets s0 src c s1 engs s2 s3 s4 job
  have h1 : s1.hqs = s.hqs := trcEmit_hqs _ _ _ _
  have h2 : s2.hqs = s1.hqs := by
    unfold s2
    split
    · rfl
    · exact (haltSaved_hqs _ _ _ _).trans (foldl_field State.hqs _ (by intros; rfl) _ _)
  have h3 : s3.hqs = s2.hqs := by
    unfold s3
    split
    · rfl
    · split <;> rfl
  have h4 : s4.hqs = s.hqs := h3.trans (h2.trans h1)
  split
  · exact h4
  · rw [giveUpSaved_hqs, mxaLastHalt_hqs, venRelease_hqs, h4]

/-- An instruction that halts its context. -/
theorem effect_halts {s : State} {core x : Nat} {p : Nat → Bool} (h : Executes s core x p) (f : State → Ctx → State)
    {status engine : Nat} (hf : f (setDie s (core / 1024 + 1)) (ctxOf s core x) =
      haltCtx (setDie s (core / 1024 + 1)) core x status engine) :
    ∃ t, effect s (fun s => onCore s core (fun s => instr s core x p (f s))) = .next t ∧
      (ctxOf t core x).st = 3 ∧ (ctxOf t core x).haltStatus = status ∧
      (ctxOf t core x).pc = (ctxOf s core x).pc ∧ (ctxOf t core x).g = (ctxOf s core x).g ∧
      t.hqs = s.hqs ∧ (∀ x', x' ≠ x → x' < 4 → ctxOf t core x' = ctxOf s core x') := by
  obtain ⟨hst, hstatus, hpc, hg⟩ := haltCtx_self (setDie s (core / 1024 + 1)) core x status engine
  rw [ctxOf_setDie] at hpc hg
  refine ⟨_, effect_executes h f hf (haltCtx_pending _ _ _ _ _), ?_⟩
  simp only [ctxOf_ran]
  exact ⟨hst, hstatus, hpc, hg, haltCtx_hqs (setDie s _) _ _ _ _,
    fun x' hne _ => by rw [haltCtx_other _ _ _ _ hne, ctxOf_setDie]⟩

/-- Settles O3: both instructions only halt their context. -/
theorem haltAndReservedOpcodeHalt : Obligations.HaltAndReservedOpcodeHalt := by
  intro s core x
  exact ⟨fun h => effect_halts h (fun s _ => haltCtx s core x stOK 0) rfl,
    fun h => effect_halts h (fun s _ => haltCtx s core x stBadCommand 0) rfl⟩

/-! ### Scratch loads and stores (R74, R81) -/

/-- Bits above the low `m` leave them as they are. -/
theorem add_mod64_mod {m v : Nat} (k : Nat) (hm : m ≤ 64) (hv : v < 2 ^ m) : (v + mod64 (k * 2 ^ m)) % 2 ^ m = v := by
  rw [mod64, Nat.add_mod, Nat.mod_mod_of_dvd _ (Nat.pow_dvd_pow 2 hm), Nat.mul_mod_left, Nat.add_zero, Nat.mod_mod,
    Nat.mod_eq_of_lt hv]

/-- What a load of `n` bytes whose value is `v` puts into its register; R73 leaves the bits above them open. -/
def loadValue (n v : Nat) : Nat := if n = 8 then v else v + mod64 (Config.loadHigh n v * 2 ^ (8 * n))

theorem loadValue_low {log2 v : Nat} (hlog : log2 < 4) (hv : v < 2 ^ (8 * 2 ^ log2)) :
    loadValue (2 ^ log2) v % 2 ^ (8 * 2 ^ log2) = v := by
  have h8 : 2 ^ log2 ≤ 2 ^ 3 := Nat.pow_le_pow_right (by decide) (by omega)
  unfold loadValue
  split
  · exact Nat.mod_eq_of_lt hv
  · exact add_mod64_mod _ (by omega) hv

theorem leBytes_getD : ∀ {n i : Nat} (v : Nat), i < n → (leBytes n v).getD i 0 = BitVec.ofNat 8 (v / 256 ^ i)
  | n + 1, 0, v, _ => by simp [leBytes]
  | n + 1, i + 1, v, h => by
    rw [leBytes, List.getD_cons_succ, leBytes_getD (v / 256) (Nat.lt_of_succ_lt_succ h), Nat.div_div_eq_div_mul,
      Nat.pow_succ']

/-- Bytes of a number that is written to memory. -/
theorem rdByte_wrNum (s : State) (a v : Nat) {n i : Nat} (hi : i < n) :
    rdByte (wrNum s a n v) (a + i) = BitVec.ofNat 8 (v / 256 ^ i) := by
  rw [wrNum, rdByte_wrMem_inside _ _ _ _ (by omega) (by rw [leBytes_length]; omega), Nat.add_sub_cancel_left,
    leBytes_getD v hi]

/-- A range that can be read can be written. -/
theorem badPartial_of_badIn {s : State} {a n : Nat} (h : badIn s a n = none) : badPartial s a n = none := by
  rw [badIn, List.find?_eq_none] at h
  rw [badPartial, List.find?_eq_none]
  intro g hg hmeets
  rw [Bool.and_eq_true] at hmeets
  exact h g hg hmeets.1

theorem scratchAcc_allowed {s : State} {core x a n : Nat} (ha : a % n = 0) (hok : scratchOk s core x a n = true)
    (t : State) : scratchAcc s core x a n t = t := by
  rw [scratchAcc, if_neg (by omega), if_neg (by rw [hok]; decide)]

section
variable {s : State} {core x log2 r ra : Nat} {imm : BitVec 16} (h : Executes s core x (iWord 16 23 r ra imm.toNat))
  (hlog : log2 < 4) (halign : scratchEa s core x ra imm % 2 ^ log2 = 0)
  (hok : scratchOk s core x (scratchEa s core x ra imm) (2 ^ log2) = true)
  (hbad : badIn s (spScratch core + scratchEa s core x ra imm) (2 ^ log2) = none)
include h hlog halign hok hbad

theorem effect_load :
    exec (.scratchLoad core x log2 r ra imm) s = .next (ranTo s core x (nextPc (putReg (ctxOf s core x) r
      (loadValue (2 ^ log2) (rdNum s (spScratch core + scratchEa s core x ra imm) (2 ^ log2)))))) := by
  refine effect_retire h _ r _ ?_
  have hea : mod64 (getReg (ctxOf s core x) ra + imm64 imm) = scratchEa s core x ra imm := rfl
  dsimp only
  rw [Nat.mod_eq_of_lt hlog, hea, rdNum_setDie, badIn_setDie, hbad,
    scratchAcc_allowed halign (by rw [scratchOk_setDie, hok])]
  rfl

theorem effect_store :
    exec (.scratchStore core x log2 r ra imm) s =
      .next (ranTo (wrNum s (spScratch core + scratchEa s core x ra imm) (2 ^ log2) (getReg (ctxOf s core x) r)) core x
        (nextPc (ctxOf s core x))) := by
  refine effect_executes_anyDie h _ (d := core / 1024 + 1) ?_ rfl rfl
  have hea : mod64 (getReg (ctxOf s core x) ra + imm64 imm) = scratchEa s core x ra imm := rfl
  dsimp only
  rw [Nat.mod_eq_of_lt hlog, hea, badPartial_setDie, badPartial_of_badIn hbad,
    scratchAcc_allowed halign (by rw [scratchOk_setDie, hok])]
  rfl

end

/-- Settles O4: an access that is aligned and allowed loads its value or writes its bytes. -/
theorem scratchLoadAndStoreMoveBytes : Obligations.ScratchLoadAndStoreMoveBytes := by
  intro s core x log2 rd ra imm h hlog halign hok hbad
  refine ⟨⟨_, effect_load h hlog halign hok hbad, loadValue_low hlog ?_, fun h3 => by subst h3; rfl⟩,
    _, effect_store h hlog halign hok hbad, (ctxOf_setCtx _ _ _ _ _ _).trans (if_pos rfl), rfl, rfl,
    fun i hi => rdByte_wrNum _ _ _ hi, fun b hb => rdByte_wrMem_other _ _ _ _ ?_⟩
  · rw [Nat.pow_mul]
    exact rdNum_lt _ _ _
  · rw [leBytes_length]
    exact hb


/-! ### Branches (R73, R77) -/

/-- What a trace of a context may do: nothing where the context is not traced, and of the context itself it changes only the
branch outcomes gathered so far (R507). -/
structure OnlyTraces (core x : Nat) (f : State → State) : Prop where
  pending : ∀ s, (f s).pending = s.pending
  gathers : ∀ s, ∃ n b, ctxOf (f s) core x = { ctxOf s core x with brN := n, brBits := b }
  untraced : ∀ s, traced s core x = false → f s = s

theorem onlyTraces_trcEmit (core x : Nat) (us : List Nat) : OnlyTraces core x (fun s => trcEmit s core x us) where
  pending s := (keeps_trcEmit core x us (Keeps.refl s)).pending
  gathers s := by
    obtain ⟨n, b, hctx⟩ := trcEmit_ctx s core x us
    exact ⟨n, b, (hctx core x).trans (if_pos rfl)⟩
  untraced s hun := by rw [trcEmit, hun]; rfl

theorem trcSync_ctxs (s : State) (core x : Nat) : (trcSync s core x).ctxs = s.ctxs := trcPacket_ctxs _ _ _

theorem trcSyncDue_ctxs (s : State) (core x : Nat) : (trcSyncDue s core x).ctxs = s.ctxs := by
  unfold trcSyncDue
  split
  · exact trcSync_ctxs _ _ _
  · rfl

theorem trcFlush_gathers (s : State) (core x : Nat) :
    ∃ n b, ctxOf (trcFlush s core x) core x = { ctxOf s core x with brN := n, brBits := b } := by
  unfold trcFlush
  dsimp only
  split
  · exact ⟨_, _, rfl⟩
  · refine ⟨0, 0, ?_⟩
    rw [ctxOf_congr (trcPacket_ctxs _ _ _), ctxOf_setCtx, if_pos rfl]

theorem onlyTraces_traceBranch (core x : Nat) (taken : Bool) : OnlyTraces core x (fun s => traceBranch s core x taken) where
  pending s := (keeps_traceBranch core x taken (Keeps.refl s)).pending
  gathers s := by
    unfold traceBranch
    dsimp only
    split
    · split
      · obtain ⟨n, b, hctx⟩ := trcFlush_gathers (setCtx s core x { ctxOf s core x with
          brN := (ctxOf s core x).brN + 1
          brBits := (ctxOf s core x).brBits + b2n taken * 2 ^ (ctxOf s core x).brN }) core x
        refine ⟨n, b, ?_⟩
        rw [ctxOf_congr (trcSyncDue_ctxs _ _ _), hctx, ctxOf_setCtx, if_pos rfl]
      · refine ⟨(ctxOf s core x).brN + 1, (ctxOf s core x).brBits + b2n taken * 2 ^ (ctxOf s core x).brN, ?_⟩
        rw [ctxOf_setCtx, if_pos rfl]
    · exact ⟨_, _, rfl⟩
  untraced s hun := by rw [traceBranch, hun]; rfl

theorem goto_inside {s : State} {core x : Nat} {c : Ctx} {t : Nat} (h : t < winSize s core x ∧ t % 4 = 0)
    (f : State → State) : goto s core x c t f = f (setCtx s core x { c with pc := t }) := if_pos h

theorem goto_outside {s : State} {core x : Nat} {c : Ctx} {t : Nat} (h : ¬ (t < winSize s core x ∧ t % 4 = 0))
    (f : State → State) : goto s core x c t f = haltCtx s core x stBadCommand 0 := if_neg h

section
variable {s : State} {core x : Nat} {p : Nat → Bool} (h : Executes s core x p) (f : State → Ctx → State)
include h

/-- An instruction that gives its context a new PC and traces. -/
theorem effect_traces (c' : Ctx) {trace : State → State} (htrace : OnlyTraces core x trace)
    (hf : f (setDie s (core / 1024 + 1)) (ctxOf s core x) = trace (setCtx (setDie s (core / 1024 + 1)) core x c')) :
    ∃ t, effect s (fun s => onCore s core (fun s => instr s core x p (f s))) = .next t ∧ (ctxOf t core x).pc = c'.pc ∧
      (ctxOf t core x).g = c'.g ∧ (traced s core x = false → t = ranTo s core x c') := by
  have ⟨_, _, _, hidle, _⟩ := h
  obtain ⟨n, b, hctx⟩ := htrace.gathers (setCtx (setDie s (core / 1024 + 1)) core x c')
  rw [ctxOf_setCtx, if_pos rfl] at hctx
  refine ⟨_, effect_executes h f hf (htrace.pending _), ?_, ?_, fun hun => ?_⟩
  · rw [ctxOf_ran, hctx]
  · rw [ctxOf_ran, hctx]
  · have hun' : traced (setCtx (setDie s (core / 1024 + 1)) core x c') core x = false := hun
    rw [htrace.untraced _ hun']
    exact (setDie_of_eq hidle : setDie (ranTo s core x c') 0 = _)

/-- A jump inside the window, and one outside it (log 102 for a target that is not aligned). -/
theorem effect_goto {c' : Ctx} {t : Nat} {trace : State → State} (htrace : OnlyTraces core x trace)
    (hin : t < winSize s core x ∧ t % 4 = 0)
    (hf : f (setDie s (core / 1024 + 1)) (ctxOf s core x) = goto (setDie s (core / 1024 + 1)) core x c' t trace) :
    ∃ u, effect s (fun s => onCore s core (fun s => instr s core x p (f s))) = .next u ∧ (ctxOf u core x).pc = t ∧
      (ctxOf u core x).g = c'.g ∧ (traced s core x = false → u = ranTo s core x { c' with pc := t }) :=
  effect_traces h f { c' with pc := t } htrace (hf.trans (goto_inside (by rw [winSize_setDie]; exact hin) trace))

theorem effect_goto_outside {c' : Ctx} {t : Nat} {trace : State → State}
    (hout : ¬ (t < winSize s core x ∧ t % 4 = 0))
    (hf : f (setDie s (core / 1024 + 1)) (ctxOf s core x) = goto (setDie s (core / 1024 + 1)) core x c' t trace) :
    ∃ u, effect s (fun s => onCore s core (fun s => instr s core x p (f s))) = .next u ∧ (ctxOf u core x).st = 3 ∧
      (ctxOf u core x).haltStatus = stBadCommand := by
  obtain ⟨u, hu, hst, hstatus, _⟩ := effect_halts h f (hf.trans (goto_outside (by rw [winSize_setDie]; exact hout) trace))
  exact ⟨u, hu, hst, hstatus⟩

end

/-- Settles O7: a branch that is not taken goes on, and every other goes to its target or halts there; that a target which
is not aligned halts as well is the model's choice (log 102). -/
theorem branchesGoToTheirTargets : Obligations.BranchesGoToTheirTargets := by
  intro s core x ra rb k off c far halts
  refine ⟨fun h => ⟨fun hcond => ?_, fun hcond => ⟨fun hin => ?_, fun hout => ?_⟩⟩,
    fun h => ⟨fun hin => ⟨?_, ?_⟩, fun hout => ⟨?_, ?_⟩⟩, fun h => ⟨fun hin => ?_, fun hout => ?_⟩⟩
  · exact effect_traces h _ (nextPc c) (onlyTraces_traceBranch core x false) (if_neg (by rw [hcond]; decide))
  · exact effect_goto h _ (onlyTraces_traceBranch core x true) (Classical.not_not.1 hin) (if_pos hcond)
  · exact effect_goto_outside h _ hout (if_pos hcond)
  · exact effect_ctx h (fun s c => goto s core x c (target c off) id) _
      (goto_inside (by rw [winSize_setDie]; exact Classical.not_not.1 hin) id)
  · exact effect_ctx h (fun s c => goto s core x (putReg c 31 (c.pc + 4)) (target c off) id) _
      (goto_inside (by rw [winSize_setDie]; exact Classical.not_not.1 hin) id)
  · exact effect_goto_outside h _ hout rfl
  · exact effect_goto_outside h _ hout rfl
  · exact effect_goto h _ (onlyTraces_trcEmit core x _) (Classical.not_not.1 hin) rfl
  · exact effect_goto_outside h _ hout rfl

/-! ### The start of a context (R72, R91) -/

/-- A field of a command's body is a number of its bytes. -/
theorem bf_lt (c : QCmd) (off n : Nat) : bf c off n < 256 ^ n :=
  Nat.lt_of_lt_of_le (leNat_lt _) (Nat.pow_le_pow_right (by decide) (List.length_take_le _ _))

/-- Registers g1 to g4 of a context that starts with the values `gs`. -/
def startRegs (gs : List Nat) : SMap W64 :=
  (upTo 4).foldl (fun (m : SMap W64) i => mapPut 0 m (i + 1) (BitVec.ofNat 64 (gs.getD i 0))) []

theorem getReg_startRegs {c : Ctx} {gs : List Nat} (hg : c.g = startRegs gs) {k : Nat} (hk : k < 32) :
    getReg c k = if 1 ≤ k ∧ k ≤ 4 then gs.getD (k - 1) 0 % 2 ^ 64 else 0 := by
  have hputs : startRegs gs = mapPut 0 (mapPut 0 (mapPut 0 (mapPut 0 [] 1 (BitVec.ofNat 64 (gs.getD 0 0))) 2
      (BitVec.ofNat 64 (gs.getD 1 0))) 3 (BitVec.ofNat 64 (gs.getD 2 0))) 4 (BitVec.ofNat 64 (gs.getD 3 0)) := rfl
  rw [getReg, Nat.mod_eq_of_lt hk, hg, hputs]
  by_cases h0 : k = 0
  · rw [if_pos h0, if_neg (by omega)]
  · rw [if_neg h0]
    by_cases h4 : k ≤ 4
    · have hcases : k = 1 ∨ k = 2 ∨ k = 3 ∨ k = 4 := by omega
      rcases hcases with rfl | rfl | rfl | rfl <;> simp [mapGet_mapPut]
    · rw [if_neg (by omega), mapGet_mapPut_other (by omega), mapGet_mapPut_other (by omega),
        mapGet_mapPut_other (by omega), mapGet_mapPut_other (by omega)]
      rfl

theorem startCtx_ctx (s : State) (core x entry : Nat) (gs : List Nat) (q : QCmd) :
    ctxOf (startCtx s core x entry gs q) core x = { ctxOf s core x with
      st := 1, pc := entry, g := startRegs gs, stall := none, wait := none, starter := some q, failEngine := 0, brN := 0
      brBits := 0 } := by
  have started : ∀ c, ctxOf (setCtx s core x c) core x = c := fun c => by rw [ctxOf_setCtx, if_pos rfl]
  unfold startCtx
  dsimp only
  split
  · rw [ctxOf_congr (trcSync_ctxs _ _ _), started]
    rfl
  · rw [started]
    rfl

/-- The START_CONTEXT that runs starts its context where R91 allows it. -/
theorem opStartContext_starts {s : State} {core : Nat} {r : RCmd}
    (hrun : engRun s (pgCor core * 2 + 1) (fun r => r.cmd.op == 2 && r.prog == 0) = some r)
    (hbound : ctxBound s core (corCtx r.cmd) = true) (hjob : jobEnabled s (ctxJob s core (corCtx r.cmd)) = true)
    (hst : (ctxOf s core (corCtx r.cmd)).st = 0 ∨ (ctxOf s core (corCtx r.cmd)).st = 3)
    (hin : bf r.cmd 18 2 < winSize s core (corCtx r.cmd)) (halign : bf r.cmd 18 2 % 4 = 0) :
    opStartContext s core = startCtx (setRun s (cmdKey r.cmd) { r with prog := 1 }) core (corCtx r.cmd) (bf r.cmd 18 2)
      [bf r.cmd 24 8, bf r.cmd 32 8, bf r.cmd 40 8, bf r.cmd 48 8] r.cmd := by
  have hon : regF s (pgJob (ctxJob s core (corCtx r.cmd))) 0x140 0 1 ≠ 0 := by
    rw [jobEnabled, bit, Nat.testBit_zero, decide_eq_true_eq] at hjob
    simp [regF, bits, hjob]
  simp only [opStartContext, hrun]
  rw [if_neg (by simp [hbound, hon]), if_neg (by omega)]

theorem effect_onCore {s : State} {core : Nat} (h : FabricOn s) (f : State → State) {u : State}
    (hf : f (setDie s (core / 1024 + 1)) = u) (hp : u.pending = s.pending) :
    effect s (fun s => onCore s core f) = .next (setDie u 0) := by
  refine effect_eq (fun s => onCore s core f) ?_ hp
  rw [onCore, acting_eq h, hf]

/-- Settles O8: g0 is not stored, a register that is written reads so, and both ways of writing several registers. -/
theorem generalRegistersOfAContext : Obligations.GeneralRegistersOfAContext := by
  refine ⟨fun c v => ⟨getReg_zero c, putReg_zero c v⟩, fun c r k v => getReg_putReg c v, fun s core x off h hin halign => ?_,
    ?_⟩
  · refine ⟨_, effect_ctx h (fun s c => goto s core x (putReg c 31 (c.pc + 4)) (target c off) id) _
      (goto_inside (by rw [winSize_setDie]; exact ⟨hin, halign⟩) id), ?_⟩
    have hregs : ∀ k, getReg (ctxOf (ranTo s core x
        { putReg (ctxOf s core x) 31 ((ctxOf s core x).pc + 4) with pc := target (ctxOf s core x) off }) core x) k =
        getReg (putReg (ctxOf s core x) 31 ((ctxOf s core x).pc + 4)) k := fun k =>
      getReg_congr (congrArg Ctx.g ((ctxOf_setCtx _ _ _ _ _ _).trans (if_pos rfl))) k
    refine ⟨(hregs 31).trans ?_, fun k hk => (hregs k).trans ?_⟩
    · rw [getReg_putReg _ _ (by decide) (by decide) (by decide), if_pos rfl]
    · rw [getReg_putReg _ _ (by decide) (by decide) (by omega), if_neg (by omega)]
  · intro s core r hon hrun c x hop hbound hjob hst hin halign
    have hstart := opStartContext_starts (s := setDie s (core / 1024 + 1)) hrun hbound hjob hst hin halign
    refine ⟨_, effect_onCore hon.1 (opStartContext · core) hstart
      (keeps_startCtx _ _ _ _ _ (keeps_setRun _ _ (Keeps.refl _))).pending, ?_⟩
    rw [ctxOf_setDie]
    have hctx := startCtx_ctx (setRun (setDie s (core / 1024 + 1)) (cmdKey c) { r with prog := 1 }) core x (bf c 18 2)
      [bf c 24 8, bf c 32 8, bf c 40 8, bf c 48 8] c
    have hg := congrArg Ctx.g hctx
    have hlt : ∀ off, bf c off 8 % 2 ^ 64 = bf c off 8 := fun off => Nat.mod_eq_of_lt (bf_lt c off 8)
    refine ⟨congrArg Ctx.st hctx, ?_, ?_, ?_, ?_, fun k h5 hk => ?_⟩
    · exact (getReg_startRegs hg (by decide)).trans (hlt 24)
    · exact (getReg_startRegs hg (by decide)).trans (hlt 32)
    · exact (getReg_startRegs hg (by decide)).trans (hlt 40)
    · exact (getReg_startRegs hg (by decide)).trans (hlt 48)
    · exact (getReg_startRegs hg hk).trans (if_neg (by omega))


/-! ### Sync counters (R68, R69) -/

theorem syncReached_iff (ctr v : Nat) : syncReached ctr v = true ↔ (ctr + 65536 - v % 65536) % 65536 < 32768 :=
  decide_eq_true_iff

theorem fabricOn_of_waiting {s : State} {core x : Nat} (h : WaitingOn s core x) : FabricOn s := by
  obtain ⟨_, _, hhalt, hs0, hidle⟩ := h
  exact ⟨hhalt, by omega, hidle⟩

/-- A core's effect to which its die does not matter. -/
theorem effect_onCore_anyDie {s v : State} {core d : Nat} (h : FabricOn s) (f : State → State)
    (hf : f (setDie s (core / 1024 + 1)) = setDie v d) (hd : v.actDie = s.actDie) (hp : v.pending = s.pending) :
    effect s (fun s => onCore s core f) = .next v := by
  have ⟨_, _, hidle⟩ := h
  rw [effect_onCore h f hf hp]
  exact congrArg Host.Outcome.next (show setDie v 0 = v from setDie_of_eq (hd.trans hidle))

theorem opSyncRelease_goesOn {s : State} {core x n v : Nat} (h : WaitingOn s core x)
    (hwait : (ctxOf s core x).wait = some (n, v)) (hr : syncReached (syncCtr s core x n) v = true) (d : Nat) :
    opSyncRelease (setDie s d) core x =
      setDie (setCtx s core x (nextPc { ctxOf s core x with st := 1, wait := none })) d := by
  obtain ⟨hst, hsusp, hhalt, hs0, _⟩ := h
  simp only [opSyncRelease, ctxOf_setDie, hwait]
  exact if_pos ⟨hst, hr, hsusp, hhalt, hs0⟩

/-- Settles O10: the counter decides between going on and waiting, and a post is an update of the context's counters. -/
theorem syncInstructionsWaitAndPost : Obligations.SyncInstructionsWaitAndPost := by
  refine ⟨fun s core x ra imm himm => ?_, fun s core x n v h hwait hreach => ?_⟩
  · have hmodelled : ¬ 16 ≤ imm % 32 := Nat.not_le.2 himm
    intro c v
    have hv : v % 65536 = v := Nat.mod_mod _ _
    refine ⟨fun h => ⟨fun hreach => ?_, fun hwaits => ?_⟩, fun h => ?_⟩
    · refine effect_ctx h _ _ ((if_neg hmodelled).trans (if_pos ?_))
      exact (syncReached_iff _ _).2 (by rw [hv]; exact hreach)
    · refine effect_ctx h _ _ ((if_neg hmodelled).trans (if_neg ?_))
      exact fun hreach => Nat.not_lt.2 hwaits (by rw [← hv]; exact (syncReached_iff _ _).1 hreach)
    · let c' : Ctx := { c with
        sync := mapPut 0 c.sync (imm % 32) ((mapGet 0 c.sync (imm % 32) + getReg c ra) % 65536) }
      have hctx : ctxOf (ranTo s core x (nextPc c')) core x = nextPc c' := (ctxOf_setCtx _ _ _ _ _ _).trans (if_pos rfl)
      refine ⟨ranTo s core x (nextPc c'), effect_ctx h _ (nextPc c') (if_neg hmodelled), ?_, fun n hne => ?_,
        congrArg Ctx.pc hctx, (congrArg Ctx.g hctx :), rfl, rfl, rfl⟩
      · rw [syncCtr, hctx]
        exact mapGet_mapPut_same _
      · rw [syncCtr, hctx]
        exact mapGet_mapPut_other hne _
  · exact effect_onCore_anyDie (fabricOn_of_waiting h) (opSyncRelease · core x)
      (opSyncRelease_goesOn h hwait ((syncReached_iff _ _).2 hreach) _) rfl rfl

/-! ### ISSUE (R70, R76, R92) -/

theorem issued_setDie (s : State) (d core x engine op ra : Nat) :
    issued (setDie s d) core x engine op ra = issued s core x engine op ra := by
  unfold issued
  rw [rdMem_setDie]
  rfl

theorem traceIssue_off {s : State} {core : Nat} (h : bit (reg s (pgTrc core) 0x100) 1 = false) (x engine op : Nat) :
    traceIssue s core x engine op = s := by
  rw [traceIssue, h]
  rfl

/-- An ISSUE that passes its checks, up to the room in its engine's queue. -/
theorem effect_issue {s : State} {core x engine op ra : Nat} (h : Executes s core x (issueWord engine op ra))
    (halign : getReg (ctxOf s core x) ra % 64 = 0)
    (hok : scratchOk s core x (getReg (ctxOf s core x) ra) 48 = true)
    (hbad : badIn s (spScratch core + getReg (ctxOf s core x) ra) 48 = none)
    (hchk : chkIssue (onDie s (core / 1024)) engine op (issued s core x engine op ra) = none)
    (hoff : bit (reg s (pgTrc core) 0x100) 1 = false) {v : State}
    (hv : (if queueFull s (issued s core x engine op ra) then
        setCtx { s with nextId := s.nextId + 1 } core x
          { ctxOf s core x with st := 2, stall := some (issued s core x engine op ra) }
      else setCtx (enqueue { s with nextId := s.nextId + 1 } (issued s core x engine op ra)) core x
        (nextPc (ctxOf s core x))) = v) (hd : v.actDie = s.actDie) (hp : v.pending = s.pending) :
    exec (.issue core x engine op ra) s = .next (tookTurn v core x) := by
  refine effect_executes_anyDie h _ (d := core / 1024 + 1) ?_ hd hp
  dsimp only
  rw [if_neg (fun hne => hne halign), if_neg (by rw [scratchOk_setDie, hok]; decide), badIn_setDie, hbad]
  dsimp only
  rw [traceIssue_off (by rw [reg_setDie]; exact hoff)]
  rw [rdMem_setDie]
  split
  · rename_i st hfails
    exact absurd (hfails.symm.trans hchk) (by simp)
  · by_cases hfull : queueFull s (issued s core x engine op ra) = true
    · rw [if_pos hfull] at hv
      subst hv
      exact if_pos hfull
    · rw [if_neg hfull] at hv
      subst hv
      exact if_neg hfull

theorem onFenced_setDie (s : State) (d : Nat) (c : QCmd) : onFenced (setDie s d) c = onFenced s c := rfl

theorem opIssueRelease_enters {s : State} {core x : Nat} {q : QCmd} (h : WaitingOn s core x)
    (hstall : (ctxOf s core x).stall = some q) (hroom : queueFull s q = false) (hlive : onFenced s q = false) (d : Nat) :
    opIssueRelease (setDie s d) core x =
      setDie (setCtx (enqueue s q) core x (nextPc { ctxOf s core x with st := 1, stall := none })) d := by
  obtain ⟨hst, hsusp, hhalt, hs0, _⟩ := h
  simp only [opIssueRelease, ctxOf_setDie, hstall]
  refine (if_pos ⟨hst, hroom, hsusp, hhalt, hs0⟩).trans ?_
  rw [onFenced_setDie, hlive]
  rfl

theorem opIssueRelease_fenced {s : State} {core x : Nat} {q : QCmd} (h : WaitingOn s core x)
    (hstall : (ctxOf s core x).stall = some q) (hroom : queueFull s q = false) (hfenced : onFenced s q = true) (d : Nat) :
    opIssueRelease (setDie s d) core x =
      haltCtx (setCtx (setDie s d) core x (nextPc { ctxOf s core x with st := 1, stall := none })) core x stCheckFenced
        (((pageBlk q.page).map (fun b => blkCode b.1)).getD 0) := by
  obtain ⟨hst, hsusp, hhalt, hs0, _⟩ := h
  simp only [opIssueRelease, ctxOf_setDie, hstall]
  refine (if_pos ⟨hst, hroom, hsusp, hhalt, hs0⟩).trans ?_
  rw [onFenced_setDie, hfenced]
  rfl

/-- Settles O9: the room in the engine's queue decides what an ISSUE does, and the fence of the core what its release does. -/
theorem issueQueuesItsCommand : Obligations.IssueQueuesItsCommand := by
  refine ⟨fun s core x engine op ra h halign hok hbad hchk hoff => ⟨fun hroom => ?_, fun hfull => ?_⟩,
    fun s core x q h hstall hroom => ⟨fun hlive => ?_, fun hfenced => ?_⟩⟩
  · exact effect_issue h halign hok hbad hchk hoff (if_neg (by rw [hroom]; decide)) rfl rfl
  · exact effect_issue h halign hok hbad hchk hoff (if_pos hfull) rfl rfl
  · exact effect_onCore_anyDie (fabricOn_of_waiting h) (opIssueRelease · core x)
      (opIssueRelease_enters h hstall hroom hlive _) rfl rfl
  · obtain ⟨hst, hstatus, _⟩ := haltCtx_self (setCtx (setDie s (core / 1024 + 1)) core x
      (nextPc { ctxOf s core x with st := 1, stall := none })) core x stCheckFenced
      (((pageBlk q.page).map (fun b => blkCode b.1)).getD 0)
    refine ⟨_, effect_onCore (fabricOn_of_waiting h) (opIssueRelease · core x)
      (opIssueRelease_fenced h hstall hroom hfenced _) (haltCtx_pending _ _ _ _ _), ?_⟩
    rw [ctxOf_setDie]
    exact ⟨hst, hstatus⟩


/-! ### The start of an engine command (R67, R69, R92, R417) -/

/-- Where one job has a command to start, it is served. -/
theorem pickJob_single (s : State) (g : Engine) (j : Nat) : pickJob s g [j] = some j := by
  unfold pickJob
  split
  · rename_i hlast
    rw [Bool.and_eq_true, List.contains_iff_mem, List.mem_singleton] at hlast
    rw [hlast.1]
  · by_cases hafter : g.lastJob < j
    · simp [hafter]
    · simp [hafter]

/-- The engine after it has started `c` as `r`. -/
def engAfterStart (s : State) (e : Nat) (c : QCmd) (r : RCmd) : Engine :=
  { engOf s e with
    queue := (engOf s e).queue.filter (fun y => y.id != c.id)
    running := (engOf s e).running ++ [r]
    lastJob := c.job
    streak := if (engOf s e).lastJob = c.job ∧ (engOf s e).streak < regF s (pgJob c.job) 0x140 8 4
      then (engOf s e).streak + 1 else 1 }

theorem opStart_single {s : State} {e : Nat} {c : QCmd} (h : (queueHeads (engOf s e)).filter (startable s e) = [c])
    (met : Decay) :
    opStart s e met =
      decay (takeShadow (setEng s e (engAfterStart s e c (beginRun s c))) (beginRun s c)) met := by
  simp only [opStart, h, List.map_cons, List.map_nil, pickJob_single, List.find?_cons, beq_self_eq_true, List.foldl_cons,
    List.foldl_nil, if_true]
  rfl

theorem beginRun_cmd (s : State) (c : QCmd) : (beginRun s c).cmd = c := by
  unfold beginRun
  dsimp only
  split
  · rfl
  · split
    · split <;> rfl
    · rfl

theorem beginRun_fenced {s : State} {c : QCmd} (h : onFenced s c = true) :
    (beginRun s c).fin = some (stCheckFenced, []) := by
  simp only [beginRun, h, if_true]

/-- A command for a core that is not fenced begins with the time, and ends at once only as a MATMUL that finds its own
job's data in the shadow set (R105). -/
theorem beginRun_live {s : State} {c : QCmd} (h : onFenced s c = false) :
    (beginRun s c).since = s.time ∧ (beginRun s c).began = true ∧
      (¬ (cmdBlk c = some .mxa ∧ c.op = 1 ∧ (mxaOf s c.core).shadow.st ≠ 0) → (beginRun s c).fin = none) := by
  unfold beginRun
  rw [h]
  dsimp only
  rw [if_neg Bool.false_ne_true]
  split
  · rename_i hmxa
    split
    · rename_i hmatmul
      rw [Bool.and_eq_true, beq_iff_eq, bne_iff_ne] at hmatmul
      exact ⟨rfl, rfl, fun hno => absurd ⟨hmxa, hmatmul.1, hmatmul.2⟩ hno⟩
    · exact ⟨rfl, rfl, fun _ => rfl⟩
  · exact ⟨rfl, rfl, fun _ => rfl⟩

theorem takeShadow_frame (s : State) (r : RCmd) :
    (takeShadow s r).engs = s.engs ∧ (takeShadow s r).hqs = s.hqs ∧ (takeShadow s r).ctxs = s.ctxs ∧
      (takeShadow s r).mem = s.mem ∧ (takeShadow s r).regs = s.regs := by
  unfold takeShadow
  dsimp only
  split
  · split <;> exact ⟨rfl, rfl, rfl, rfl, rfl⟩
  · split <;> exact ⟨rfl, rfl, rfl, rfl, rfl⟩

theorem reports_correctedAt (s : State) (a : Nat) : Reports s (correctedAt s a) := by
  have counted : ∀ (p : Prop) [Decidable p] (page i b addr : Nat),
      Reports s (if p then corrected s page i b addr else s) := fun p _ page i b addr => by
    split
    · exact reports_corrected s page i b addr
    · exact Reports.refl s
  unfold correctedAt
  dsimp only
  split
  · split
    · exact reports_corrected s _ _ _ _
    · exact counted _ _ _ _ _
  · exact counted _ _ _ _ _
  · exact counted _ _ _ _ _
  · exact counted _ _ _ _ _
  · exact counted _ _ _ _ _
  · exact counted _ _ _ _ _
  · exact counted _ _ _ _ _
  · exact Reports.refl s

/-- Words that have decayed change no engine, queue or context, and where none is corrected no byte or register. -/
theorem decay_frame (s : State) (d : Decay) :
    (decay s d).engs = s.engs ∧ (decay s d).hqs = s.hqs ∧ (decay s d).ctxs = s.ctxs ∧
      (d.soft = [] → (decay s d).mem = s.mem ∧ (decay s d).regs = s.regs) := by
  have hrep := reports_foldl correctedAt reports_correctedAt d.soft ((d.lost.filter hasCode).foldl spoil s)
  have hlost : ∀ {γ : Type} (g : State → γ), (∀ s a, g (spoil s a) = g s) →
      g ((d.lost.filter hasCode).foldl spoil s) = g s := fun g hg => foldl_field g spoil hg _ _
  refine ⟨?_, ?_, ?_, fun hsoft => ⟨?_, ?_⟩⟩
  · rw [decay, hrep.rest]; exact hlost State.engs (fun _ _ => rfl)
  · rw [decay, hrep.rest]; exact hlost State.hqs (fun _ _ => rfl)
  · rw [decay, hrep.rest]; exact hlost State.ctxs (fun _ _ => rfl)
  · rw [decay, hsoft]; exact hlost State.mem (fun _ _ => rfl)
  · rw [decay, hsoft]; exact hlost State.regs (fun _ _ => rfl)

/-! ### The end of an engine command (R53, R69, R75) -/

/-- A command whose effect is complete is no longer among those that its engine holds. -/
def leaveEngine (s : State) (e id : Nat) : State :=
  setEng s e { engOf s e with
    running := (engOf s e).running.filter (fun y => y.cmd.id != id)
    aside := (engOf s e).aside.filter (fun y => y.cmd.id != id) }

/-- What the end of a command does before its source learns of it: the post, the count of a preemption, and what the array
waited to release. -/
def settleEnd (s : State) (c : QCmd) (status : Nat) : State :=
  let s := if status = stOK then syncPost s c else s
  let s := if status = stPreempted then bump s (pgJob c.job) 2 1 else s
  match coreOfPage c.page with
  | some k => mxaAfterEnd s k c.job
  | none => s

section
variable {s : State} {e id status : Nat} {r : RCmd} {res : List Byte}
  (hfind : ((engOf s e).running ++ (engOf s e).aside).find? (fun r => r.cmd.id == id && r.fin.isSome) = some r)
  (hfin : r.fin = some (status, res))
include hfind hfin

theorem opComplete_host {q i tag : Nat} {silent stop : Bool} (hsrc : r.cmd.src = .host q i tag silent stop) :
    opComplete s e id =
      hostComplete (settleEnd (leaveEngine s e id) r.cmd status) q i tag silent stop status res := by
  simp only [opComplete, hfind, hfin, hsrc]
  rfl

theorem opComplete_ctx (hsrc : r.cmd.src = .ctx) :
    opComplete s e id =
      let u := settleEnd (leaveEngine s e id) r.cmd status
      let st := (ctxOf u r.cmd.core r.cmd.ctx).st
      if status ≠ stOK ∧ (st = 1 ∨ st = 2) then
        haltCtx u r.cmd.core r.cmd.ctx status (((pageBlk r.cmd.page).map (fun b => blkCode b.1)).getD 0)
      else u := by
  simp only [opComplete, hfind, hfin, hsrc]
  rfl

end

theorem mxaAfterEnd_frame (s : State) (core job : Nat) :
    (mxaAfterEnd s core job).engs = s.engs ∧ (mxaAfterEnd s core job).hqs = s.hqs ∧
      (mxaAfterEnd s core job).ctxs = s.ctxs := by
  unfold mxaAfterEnd
  dsimp only
  split
  · split <;> exact ⟨rfl, rfl, rfl⟩
  · exact ⟨rfl, rfl, rfl⟩

theorem syncPost_frame (s : State) (c : QCmd) : (syncPost s c).engs = s.engs ∧ (syncPost s c).hqs = s.hqs := by
  unfold syncPost
  dsimp only
  split <;> exact ⟨rfl, rfl⟩

/-- The counter that a sync word posts goes up by 1 (R69). -/
theorem syncCtr_syncPost {s : State} {c : QCmd} (hsync : hasSync c = true) (hpost : bit (syncWord c) 28 = true) :
    syncCtr (syncPost s c) c.core c.ctx (bits (syncWord c) 24 4) =
      (syncCtr s c.core c.ctx (bits (syncWord c) 24 4) + 1) % 65536 := by
  have hset : syncPost s c = setSync s c.core c.ctx (bits (syncWord c) 24 4)
      (syncCtr s c.core c.ctx (bits (syncWord c) 24 4) + 1) := by
    simp only [syncPost, hsync, hpost, Bool.and_self, if_true]
  rw [hset, syncCtr, setSync, ctxOf_setCtx, if_pos rfl, mapGet_mapPut_same]

theorem settleEnd_frame (s : State) (c : QCmd) (status : Nat) :
    (settleEnd s c status).engs = s.engs ∧ (settleEnd s c status).hqs = s.hqs ∧
      (settleEnd s c status).ctxs = if status = stOK then (syncPost s c).ctxs else s.ctxs := by
  obtain ⟨hengs, hhqs⟩ := syncPost_frame s c
  unfold settleEnd
  extract_lets posted counted
  have hposted : posted.engs = s.engs ∧ posted.hqs = s.hqs ∧
      posted.ctxs = if status = stOK then (syncPost s c).ctxs else s.ctxs := by
    unfold posted
    split
    · exact ⟨hengs, hhqs, rfl⟩
    · exact ⟨rfl, rfl, rfl⟩
  have hcounted : counted.engs = posted.engs ∧ counted.hqs = posted.hqs ∧ counted.ctxs = posted.ctxs := by
    unfold counted
    split
    · rw [(reports_bump posted (pgJob c.job) 2 1).rest]
      exact ⟨rfl, rfl, rfl⟩
    · exact ⟨rfl, rfl, rfl⟩
  rw [← hposted.1, ← hposted.2.1, ← hposted.2.2, ← hcounted.1, ← hcounted.2.1, ← hcounted.2.2]
  split
  · exact mxaAfterEnd_frame _ _ _
  · exact ⟨rfl, rfl, rfl⟩

/-- A step of a host queue's completion: it changes no engine or context, and leaves the queue's count of commands under
way. -/
structure KeepsCount (q : Nat) (s t : State) : Prop where
  engs : t.engs = s.engs
  ctxs : t.ctxs = s.ctxs
  outstanding : (hqOf t q).outstanding = (hqOf s q).outstanding

theorem KeepsCount.trans {q : Nat} {s t u : State} (h : KeepsCount q s t) (h' : KeepsCount q t u) : KeepsCount q s u :=
  ⟨h'.engs.trans h.engs, h'.ctxs.trans h.ctxs, h'.outstanding.trans h.outstanding⟩

theorem keepsCount_of_reports {s t : State} (h : Reports s t) (q : Nat) : KeepsCount q s t :=
  ⟨by rw [h.rest], by rw [h.rest], by rw [HostInterface.hqOf_of_reports h]⟩

theorem keepsCount_setHq {s : State} {q : Nat} {h : HQueue} (ho : h.outstanding = (hqOf s q).outstanding) :
    KeepsCount q s (setHq s q h) := ⟨rfl, rfl, by rw [hqOf_setHq, if_pos rfl, ho]⟩

theorem keepsCount_stopQueue (s : State) (q cause : Nat) : KeepsCount q s (stopQueue s q cause) :=
  (keepsCount_setHq (h := { hqOf s q with st := 2, cause := cause }) rfl).trans
    (keepsCount_of_reports (reports_raiseErr _ _ _ _ _ _) q)

theorem keepsCount_coalesce (s : State) (q : Nat) : KeepsCount q s (coalesce s q) := by
  unfold coalesce
  dsimp only
  split
  · exact (keepsCount_setHq (h := { hqOf s q with unsig := 0, coalAt := 0 }) rfl).trans
      (keepsCount_of_reports (reports_signal _ _ _) q)
  · exact keepsCount_setHq rfl

theorem keepsCount_writeCompl (s : State) (q idx tag status : Nat) (result : List Byte) :
    KeepsCount q s (writeCompl s q idx tag status result) := by
  unfold writeCompl
  extract_lets h n base written t
  have hw : KeepsCount q s written := keepsCount_of_reports (reports_mem _ _ _) q
  refine (hw.trans ?_).trans (keepsCount_coalesce _ q)
  exact keepsCount_setHq hw.outstanding.symm

/-- A host command's completion makes its queue's OUTSTANDING one less, and changes no engine or context. -/
theorem hostComplete_frame (s : State) (q idx tag : Nat) (silent stop : Bool) (status : Nat) (result : List Byte) :
    (hostComplete s q idx tag silent stop status result).engs = s.engs ∧
      (hostComplete s q idx tag silent stop status result).ctxs = s.ctxs ∧
      (hqOf (hostComplete s q idx tag silent stop status result) q).outstanding = (hqOf s q).outstanding - 1 := by
  unfold hostComplete
  extract_lets h counted bumped unwritten lost written
  have hcounted : (hqOf counted q).outstanding = (hqOf s q).outstanding - 1 := by
    unfold counted
    rw [hqOf_setHq, if_pos rfl]
  have hbumped : KeepsCount q counted bumped := keepsCount_of_reports (reports_bump _ _ _ _) q
  have hlost : KeepsCount q bumped lost := keepsCount_setHq rfl
  have hwritten : KeepsCount q bumped written := by
    unfold written
    split
    · exact ⟨rfl, rfl, rfl⟩
    · split
      · exact keepsCount_writeCompl _ _ _ _ _ _
      · split
        · exact hlost.trans (keepsCount_stopQueue _ _ _)
        · exact hlost
  have hend : KeepsCount q counted (if stop = true ∧ status ≠ stOK ∧ (hqOf written q).st = 1
      then stopQueue written q 4 else written) := by
    split
    · exact (hbumped.trans hwritten).trans (keepsCount_stopQueue _ _ _)
    · exact hbumped.trans hwritten
  exact ⟨hend.engs, hend.ctxs, hend.outstanding.trans hcounted⟩

/-- Settles O19: the one command that can start is served, and the end of a command settles its post before its source
learns of it. -/
theorem engineCommandsStartAndComplete : Obligations.EngineCommandsStartAndComplete := by
  refine ⟨fun s e met c hon hone => ?_, fun s e id r st res hp hfind hfin => ?_⟩
  · obtain ⟨hengs, hhqs, hctxs, hmem⟩ := decay_frame
      (takeShadow (setEng s e (engAfterStart s e c (beginRun s c))) (beginRun s c)) met
    obtain ⟨hengs', hhqs', hctxs', hmem', hregs'⟩ := takeShadow_frame
      (setEng s e (engAfterStart s e c (beginRun s c))) (beginRun s c)
    have heng : ∀ e', engOf (opStart s e met) e' = if e' = e then engAfterStart s e c (beginRun s c) else engOf s e' := by
      intro e'
      rw [opStart_single hone, engOf, hengs, hengs']
      exact engOf_setEng _ _ _ _
    refine ⟨_, effect_eq (fun s => onHub s (fun s => opStart s e met)) (onHub_eq hon _)
      (keeps_opStart e met (Keeps.refl s)).pending, ?_⟩
    rw [heng e, if_pos rfl, opStart_single hone]
    exact ⟨⟨beginRun s c, rfl, beginRun_cmd s c, beginRun_fenced, beginRun_live⟩, rfl, rfl,
      fun e' hne => by rw [← opStart_single hone, heng e', if_neg hne], hhqs.trans hhqs', hctxs.trans hctxs',
      fun hsoft => ⟨(hmem hsoft).1.trans hmem', (hmem hsoft).2.trans hregs'⟩⟩
  · obtain ⟨hengs, hhqs, hctxs⟩ := settleEnd_frame (leaveEngine s e id) r.cmd st
    have hleft : (engOf (leaveEngine s e id) e).running = (engOf s e).running.filter (fun y => y.cmd.id != id) := by
      rw [leaveEngine, engOf_setEng, if_pos rfl]
    refine ⟨_, HostInterface.effect_live hp (opComplete · e id) rfl (keeps_opComplete e id (Keeps.refl s)).pending,
      fun q i tag si so hsrc => ?_, fun hsrc hok => ?_, fun hsrc hbad hlive => ?_⟩
    · rw [opComplete_host hfind hfin hsrc]
      obtain ⟨hengs', hctxs', hout⟩ := hostComplete_frame (settleEnd (leaveEngine s e id) r.cmd st) q i tag si so st res
      refine ⟨?_, ?_, fun hok hsync hpost => ?_⟩
      · rw [engOf, hengs', hengs]
        exact hleft
      · rw [hout, hqOf, hhqs]
        rfl
      · rw [if_pos hok] at hctxs
        rw [syncCtr, ctxOf_congr (hctxs'.trans hctxs)]
        exact syncCtr_syncPost hsync hpost
    · rw [opComplete_ctx hfind hfin hsrc]
      dsimp only
      rw [if_neg (fun h => h.1 hok)]
      refine ⟨?_, hhqs⟩
      rw [engOf, hengs]
      exact hleft
    · rw [opComplete_ctx hfind hfin hsrc]
      dsimp only
      rw [if_neg hbad] at hctxs
      have hsame : ctxOf (settleEnd (leaveEngine s e id) r.cmd st) r.cmd.core r.cmd.ctx = ctxOf s r.cmd.core r.cmd.ctx :=
        ctxOf_congr hctxs _ _
      rw [if_pos ⟨hbad, by rw [hsame]; exact hlive⟩]
      obtain ⟨hst, hstatus, _⟩ := haltCtx_self (settleEnd (leaveEngine s e id) r.cmd st) r.cmd.core r.cmd.ctx st
        (((pageBlk r.cmd.page).map (fun b => blkCode b.1)).getD 0)
      exact ⟨hst, hstatus⟩


/-! ### The tile loader (R82 to R85) -/

theorem rdMem_eq_map (s : State) : ∀ n a : Nat, rdMem s a n = (List.range n).map (fun i => rdByte s (a + i))
  | 0, _ => rfl
  | n + 1, a => by
    rw [rdMem, rdMem_eq_map s n, List.range_succ_eq_map, List.map_cons, List.map_map]
    exact congrArg (_ :: ·) (List.map_congr_left (fun i _ => by rw [Function.comp_apply, Nat.add_assoc, Nat.add_comm 1]))

/-- Bytes that are written read back. -/
theorem rdMem_wrMem_same (s : State) (a : Nat) (bs : List Byte) : rdMem (wrMem s a bs) a bs.length = bs := by
  rw [rdMem_eq_map]
  refine List.ext_getElem (by simp) (fun i hi hi' => ?_)
  rw [List.getElem_map, List.getElem_range, rdByte_wrMem_inside _ _ _ _ (Nat.le_add_right a i) (by omega),
    Nat.add_sub_cancel_left, List.getD_eq_getElem?_getD, List.getElem?_eq_getElem hi', Option.getD_some]

section
variable {s : State} {core : Nat} {r : RCmd} (hrun : runOp s (pgCor core) 4 = some r)
  (hread : operandBad s (tileBase core (tileOf r.cmd).sp (tileOf r.cmd).src) (tileOf r.cmd).ss (tileOf r.cmd).fmt
    (tileOf r.cmd).rows (tileOf r.cmd).cols = none)
include hrun hread

theorem opTileMove_loads (hdp : (tileOf r.cmd).dp = 3) :
    opTileMove s core = finish (tileLoad s core r.cmd.job (tileOf r.cmd)) r stOK [] := by
  simp only [opTileMove, hrun, hread]
  exact if_pos hdp

theorem opTileMove_stores (hdp : (tileOf r.cmd).dp ≠ 3) (hwrite : tileDstBad s core (tileOf r.cmd) = none) :
    opTileMove s core = finish (tileStore s core (tileOf r.cmd)) r stOK [] := by
  simp only [opTileMove, hrun, hread, hwrite]
  exact if_neg hdp

end

/-- The end of a command touches its engine alone. -/
theorem finish_frame (s : State) (r : RCmd) (status : Nat) (result : List Byte) :
    (finish s r status result).mem = s.mem ∧ (finish s r status result).regs = s.regs ∧
      (finish s r status result).ctxs = s.ctxs ∧ ∀ core, mxaOf (finish s r status result) core = mxaOf s core :=
  ⟨rfl, rfl, rfl, fun _ => rfl⟩

/-- The shadow set after a load that nothing asked to drop meanwhile (R106). -/
theorem tileLoad_shadow {s : State} {core : Nat} (h : (mxaOf s core).shadow.drop = false) (job : Nat) (t : Tile) :
    (mxaOf (tileLoad s core job t) core).shadow.st = 2 ∧ (mxaOf (tileLoad s core job t) core).shadow.job = job ∧
      (mxaOf (tileLoad s core job t) core).shadow.fmt = t.fmt ∧ (tileLoad s core job t).mem = s.mem ∧
      (tileLoad s core job t).regs = s.regs := by
  unfold tileLoad
  dsimp only
  rw [mxaOf_setMxa, if_pos rfl, h]
  exact ⟨rfl, rfl, rfl, rfl, rfl⟩

/-- A move of one row that does not transpose copies the row's bytes. -/
theorem tileStore_oneRow {s : State} {core : Nat} {t : Tile} (hrows : t.rows = 1) (htr : t.tr = false) (hfmt : t.fmt ≠ 5) :
    tileStore s core t =
      wrMem s (tileBase core t.dp t.dst) (rdMem s (tileBase core t.sp t.src) (rowBytes t.fmt t.cols)) := by
  have hone : tileRows s core t = [rdMem s (tileBase core t.sp t.src) (rowBytes t.fmt t.cols)] := by
    simp [tileRows, htr, hrows, upTo]
  rw [tileStore, if_neg hfmt, hone, wrRows, wrRows]

/-- Settles O20: the move loads the shadow set or stores its rows, and a single row is one write of the bytes read. -/
theorem tileMoveStoresOrLoadsItsTile : Obligations.TileMoveStoresOrLoadsItsTile := by
  intro s core r hon hrun x u hread
  obtain ⟨hfab, _⟩ := hon
  refine ⟨fun hdp => ?_, fun hdp hwrite => ?_⟩
  · have hexec : exec (.tileMove core) s = .next (atDie (core / 1024)
        (fun u => finish (tileLoad u core r.cmd.job x) r stOK []) s) :=
      effect_onCore hfab (opTileMove · core) (opTileMove_loads (s := u) hrun hread hdp) rfl
    refine ⟨hexec, fun hdrop => ⟨_, hexec, ?_⟩⟩
    obtain ⟨hst, hjob, hfmt, hmem, hregs⟩ := tileLoad_shadow (s := u) (core := core) hdrop r.cmd.job x
    obtain ⟨hmem', hregs', _, hmxa⟩ := finish_frame (tileLoad u core r.cmd.job x) r stOK []
    rw [atDie, mxaOf_setDie, hmxa]
    exact ⟨hst, hjob, hfmt, hmem'.trans hmem, hregs'.trans hregs⟩
  · have hexec : exec (.tileMove core) s = .next (atDie (core / 1024) (fun u => finish (tileStore u core x) r stOK []) s) :=
      effect_onCore hfab (opTileMove · core) (opTileMove_stores (s := u) hrun hread hdp hwrite)
        (keeps_finish _ _ _ (keeps_tileStore core x (Keeps.refl u))).pending
    refine ⟨hexec, fun hrows htr hfmt => ⟨_, hexec, ?_⟩⟩
    generalize hbs : rdMem u (tileBase core x.sp x.src) (rowBytes x.fmt x.cols) = bs
    have hlen : bs.length = rowBytes x.fmt x.cols := by rw [← hbs, rdMem_length]
    have hsrc : rdMem s (tileBase core x.sp x.src) (rowBytes x.fmt x.cols) = bs := by rw [← hbs]; exact (rdMem_setDie ..).symm
    obtain ⟨hmem, hregs, hctxs, _⟩ := finish_frame (wrMem u (tileBase core x.dp x.dst) bs) r stOK []
    rw [atDie, tileStore_oneRow hrows htr hfmt, hbs, hsrc, ← hlen]
    refine ⟨?_, fun a ha => ?_, hregs, hctxs⟩
    · rw [rdMem_setDie, rdMem_congr hmem, rdMem_wrMem_same]
    · rw [rdByte_setDie, rdByte, hmem]
      exact rdByte_wrMem_other u _ _ _ ha

end Sys2Proof.ComputeCore

/-! PROOFS. The vector engine and the attention support (chapter "Vector engine and attention"): what a vector command writes
into a tile buffer, the rows that key and value commands move, and the reports of ATN_SCORES. -/
namespace Sys2Proof.VectorEngine
open Sys2Proof.Machine Sys2Proof.Laws Sys2Proof.Stated
open Sys2Proof.ComputeCore (effect_onCore finish_frame rdMem_eq_map rdMem_wrMem_same)

/-! ### The end of a command -/

/-- The command that runs for an operation of a page is among the started ones of its engine. -/
theorem runOp_started {s : State} {page op : Nat} {r : RCmd} (h : runOp s page op = some r) :
    r ∈ (engOf s (engKey page op)).running ∧ r.cmd.page = page ∧ r.cmd.op = op := by
  have hp := List.find?_some h
  simp only [Bool.and_eq_true, beq_iff_eq] at hp
  exact ⟨List.mem_of_find?_eq_some h, hp.2⟩

theorem mem_replRun {x r : RCmd} (hid : x.cmd.id = r.cmd.id) : ∀ {l : List RCmd}, x ∈ l → r ∈ replRun r l
  | y :: ys, h => by
    rw [replRun]
    by_cases hy : y.cmd.id = r.cmd.id
    · rw [if_pos hy]
      exact List.mem_cons_self
    · rw [if_neg hy]
      rcases List.mem_cons.1 h with rfl | h
      · exact absurd hid hy
      · exact List.mem_cons_of_mem _ (mem_replRun hid h)

/-- A started command that finishes has its effect complete. -/
theorem ended_finish {s : State} {r : RCmd} (h : r ∈ (engOf s (cmdKey r.cmd)).running) (status : Nat) (res : List Byte) :
    ended (finish s r status res) (cmdKey r.cmd) r.cmd.id status := by
  refine ⟨{ r with fin := some (status, res) }, ?_, rfl, res, rfl⟩
  rw [finish, setRun, engOf_setEng, if_pos rfl]
  exact mem_replRun (x := r) (r := { r with fin := some (status, res) }) rfl h

theorem pageBlk_pgAtn {core : Nat} (h : core < 2048) : pageBlk (pgAtn core) = some (.atn, core) := by
  have hpage : pgAtn core = 0x2000 + 0x200 * (core / 64) + (64 + 6 * (core % 64) + 3) := by
    unfold pgAtn pgCore pgRegion; omega
  generalize hl : 64 + 6 * (core % 64) + 3 = l at hpage
  have hregion : (pgAtn core - 0x2000) / 0x200 = core / 64 := by omega
  have hlocal : (pgAtn core - 0x2000) % 0x200 = l := by omega
  have hin : 0x2000 ≤ pgAtn core ∧ pgAtn core < 0x6000 := by omega
  have hrow : regionPage (core / 64) l = some (.atn, core) := by
    have hcoreNo : (l - 64) / 6 = core % 64 := by omega
    have hplace : (l - 64) % 6 = 3 := by omega
    have h64 : 64 * (core / 64) + core % 64 = core := by omega
    have hl' : 64 ≤ l ∧ l < 448 := by omega
    rw [regionPage]
    repeat rw [if_neg (by omega)]
    rw [if_pos (by omega), hcoreNo, hplace, h64]
    rfl
  unfold pageBlk
  repeat rw [if_neg (by omega)]
  rw [if_pos (by omega), hregion, hlocal, hrow]

/-- The attention support's commands run in the vector engine's queue (R177). -/
theorem engKey_pgAtn {core : Nat} (h : core < 2048) (op : Nat) : engKey (pgAtn core) op = pgVen core * 2 := by
  rw [engKey, pageBlk_pgAtn h]

/-! ### What the acting die does not matter to -/

theorem elemAt_setDie (s : State) (d : Nat) : elemAt (setDie s d) = elemAt s := by
  funext a stride fmt rows cols i j
  simp only [elemAt, rdNum_setDie, rdMem_setDie]

theorem kvStaged_setDie (s : State) (d : Nat) : kvStaged (setDie s d) = kvStaged s := by
  funext core x a
  simp only [kvStaged, rdNum_setDie, rdMem_setDie]

theorem opPats_setDie (s : State) (d : Nat) : opPats (setDie s d) = opPats s := by
  funext core e o
  simp only [opPats, dElem, tbWord_setDie, rdNum_setDie, elemAt_setDie]

/-! ### Lists of elements -/

theorem getD_map_upTo {α : Type} {n i : Nat} (h : i < n) (f : Nat → α) (d : α) : ((upTo n).map f).getD i d = f i := by
  simp [upTo, List.getD_eq_getElem?_getD, h]

theorem map_upTo_eq_cons {α : Type} {n : Nat} (h : 0 < n) (f : Nat → α) : ∃ l, (upTo n).map f = f 0 :: l := by
  obtain ⟨m, rfl⟩ := Nat.exists_eq_add_one.2 h
  exact ⟨_, by rw [upTo, List.range_succ_eq_map, List.map_cons]⟩

theorem getD_zero {α : Type} (l : List α) (d : α) : l.getD 0 d = l.headD d := by cases l <;> rfl

/-! ### Bytes and numbers -/

/-- The bytes of a number spell its low bits. -/
theorem leNat_leBytes : ∀ n v : Nat, leNat (leBytes n v) = v % 256 ^ n
  | 0, v => (Nat.mod_one v).symm
  | n + 1, v => by
    rw [leBytes, leNat, leNat_leBytes n, BitVec.toNat_ofNat]
    exact (Nat.mod_mul (a := 256)).symm.trans (by rw [Nat.pow_succ'])

/-- The first of the bytes that are written read back. -/
theorem rdMem_wrMem_append (s : State) (a : Nat) (bs cs : List Byte) : rdMem (wrMem s a (bs ++ cs)) a bs.length = bs := by
  rw [rdMem_eq_map]
  refine List.ext_getElem (by simp) (fun i hi hi' => ?_)
  rw [List.getElem_map, List.getElem_range, rdByte_wrMem_inside _ _ _ _ (Nat.le_add_right a i)
    (by rw [List.length_append]; omega), Nat.add_sub_cancel_left, List.getD_eq_getElem?_getD,
    List.getElem?_append_left hi', List.getElem?_eq_getElem hi', Option.getD_some]

theorem rdNum_wrMem_leBytes (s : State) (a n v : Nat) (cs : List Byte) :
    rdNum (wrMem s a (leBytes n v ++ cs)) a n = v % 256 ^ n := by
  have h := rdMem_wrMem_append s a (leBytes n v) cs
  rw [leBytes_length] at h
  rw [rdNum, h, leNat_leBytes]

/-! ### Reports leave the tile buffers (R503, R63) -/

/-- The bytes of the tile buffers, and of every memory above them, are as before. -/
def SameTiles (s t : State) : Prop := ∀ a, spTbuf 0 ≤ a → rdByte t a = rdByte s a

theorem SameTiles.refl (s : State) : SameTiles s s := fun _ _ => rfl

theorem SameTiles.trans {s t u : State} (h : SameTiles s t) (h' : SameTiles t u) : SameTiles s u :=
  fun a ha => (h' a ha).trans (h a ha)

theorem sameTiles_of_mem {s t : State} (h : t.mem = s.mem) : SameTiles s t := fun a _ => by rw [rdByte, h, rdByte]

theorem rdMem_of_sameTiles {s t : State} (h : SameTiles s t) {a : Nat} (ha : spTbuf 0 ≤ a) (n : Nat) :
    rdMem t a n = rdMem s a n := by
  rw [rdMem_eq_map, rdMem_eq_map]
  exact List.map_congr_left (fun i _ => h _ (by omega))

theorem spTbuf_le (core off : Nat) : spTbuf 0 ≤ spTbuf core + off := by unfold spTbuf spaceBase; omega

theorem bits_lt (v lo w : Nat) : bits v lo w < 2 ^ w := Nat.mod_lt _ (Nat.two_pow_pos w)

theorem recBytes_length (e : EvRec) (phase : Bool) (time : Nat) : (recBytes e phase time).length = 32 := by
  simp only [recBytes, padTo, List.length_append, leBytes_length, List.length_take, List.length_replicate]
  omega

theorem signal_mem (s : State) (fn vec : Nat) : (signal s fn vec).mem = s.mem := by
  obtain ⟨_, _, hmem, _⟩ := HostInterface.signal_frame s fn vec
  exact hmem

/-- An event ring lies in host memory, below the tile buffers. -/
theorem eventRing_below {base tail a : Nat} (hbase : base < 2 ^ 52) (htail : tail < 2 ^ 12) (ha : spTbuf 0 ≤ a) :
    spHost + base * 4096 + 32 * tail + 32 ≤ a := by
  simp only [spTbuf, spHost, spaceBase] at ha ⊢
  omega

theorem putRecord_mem (s : State) (f : Nat) (e : EvRec) :
    (putRecord s f e).mem = (wrMem s (spHost + bits (reg s (pgJob f) 0x108) 12 52 * 4096 +
      32 * bits (reg s (pgJob f) 0x120) 0 12) (recBytes e (bit (reg s (pgJob f) 0x120) 12) s.time)).mem := by
  simp only [putRecord, signal_mem, setReg_fields]

theorem sameTiles_putRecord (s : State) (f : Nat) (e : EvRec) : SameTiles s (putRecord s f e) := by
  intro a ha
  rw [rdByte, putRecord_mem]
  refine rdByte_wrMem_other s _ a _ (Or.inr ?_)
  rw [recBytes_length]
  exact eventRing_below (bits_lt _ _ _) (bits_lt _ _ _) ha

theorem sameTiles_overflowRecord (s : State) (f : Nat) : SameTiles s (overflowRecord s f) := by
  unfold overflowRecord
  dsimp only
  split
  · exact sameTiles_putRecord s f _
  · exact SameTiles.refl s

theorem sameTiles_deliverTo (s : State) (f : Nat) (e : EvRec) : SameTiles s (deliverTo s f e) := by
  unfold deliverTo
  dsimp only
  split
  · split
    · exact (sameTiles_overflowRecord s f).trans (sameTiles_putRecord _ f e)
    · exact sameTiles_overflowRecord s f
  · exact SameTiles.refl s

theorem sameTiles_foldl {β : Type} {f : State → β → State} (h : ∀ s x, SameTiles s (f s x)) :
    ∀ (l : List β) (s : State), SameTiles s (l.foldl f s)
  | [], s => SameTiles.refl s
  | x :: xs, s => (h s x).trans (sameTiles_foldl h xs (f s x))

theorem sameTiles_bump (s : State) (page i n : Nat) : SameTiles s (bump s page i n) := by
  unfold bump
  dsimp only
  split
  · split
    · split
      · exact sameTiles_foldl (fun s f => sameTiles_deliverTo s f _) _ _
      · exact sameTiles_of_mem rfl
    · exact sameTiles_of_mem rfl
  · exact SameTiles.refl s

theorem sameTiles_countNan (s : State) (core : Nat) (rows : List (List Nat)) : SameTiles s (countNan s core rows) := by
  unfold countNan
  dsimp only
  split
  · exact SameTiles.refl s
  · exact sameTiles_bump _ _ _ _

/-! ### Results in a tile buffer (R162, R169) -/

theorem dFmt_tbuf {d : Desc} (h : d.space = 1) : dFmt d = 4 := if_pos (.inl h)

theorem dBase_tbuf {d : Desc} (h : d.space = 1) (core slot : Nat) : dBase core slot d = spTbuf core + d.off := by
  rw [dBase, h]
  rfl

/-- A single row of results in a tile buffer starts with its first value, as FP32. -/
theorem rdNum_opWrite {o : Opnd} (h : o.d.space = 1) (s : State) (core job p : Nat) (ps : List Nat) :
    rdNum (opWrite s core job o [p :: ps]) (spTbuf core + o.d.off) 4 = enc32 (dec32 p) % 2 ^ 32 := by
  rw [opWrite, List.map_cons, List.map_nil, dWriteRows, dWriteRows, dBase_tbuf h, dFmt_tbuf h, Nat.zero_mul]
  exact rdNum_wrMem_leBytes _ _ 4 _ _

theorem venPop_mem (s : State) (c : QCmd) (x : VenCmd) : (venPop s c x).mem = s.mem := by
  unfold venPop
  split <;> rfl

/-- What a command has written stands there when it has ended. -/
theorem rdMem_venEnd (s : State) (r : RCmd) (x : VenCmd) (d a n : Nat) :
    rdMem (setDie (finish (venPop s r.cmd x) r stOK []) d) a n = rdMem s a n := by
  rw [rdMem_setDie, rdMem_congr ((finish_frame _ _ _ _).1.trans (venPop_mem s r.cmd x))]

/-- The first result of a command's single row, once it has ended. -/
theorem rdNum_result {o : Opnd} {res : List (List Nat)} {p : Nat} {ps : List Nat} (h : o.d.space = 1)
    (hres : res = [p :: ps]) (s : State) (core job : Nat) (r : RCmd) (x : VenCmd) (d : Nat) :
    rdNum (setDie (finish (venPop (countNan (opWrite s core job o res) core res) r.cmd x) r stOK []) d)
      (spTbuf core + o.d.off) 4 = enc32 (dec32 p) % 2 ^ 32 := by
  rw [rdNum, rdMem_venEnd, rdMem_of_sameTiles (sameTiles_countNan _ _ _) (spTbuf_le core _), hres]
  exact rdNum_opWrite h s core job p ps

/-! ### VEN_MAP, VEN_REDUCE, VEN_SHUFFLE (R162 to R174) -/

/-- A command whose entry, sources and destinations pass their checks takes effect and ends. -/
theorem venOp_writes {s : State} {core op : Nat} {r : RCmd} (hrun : runOp s (pgVen core) op = some r)
    (hentry : entryOk (venEntry s r.cmd) (vSources op (venCmdOf r.cmd)) = true)
    (hread : opsBad s core (venEntry s r.cmd).slot (vSources op (venCmdOf r.cmd)) = none)
    (hwrite : opsPartial s core (vDests op (venCmdOf r.cmd)) = none) (eff : State → RCmd → VenCmd → FtqEntry → State) :
    venOp s core op eff =
      finish (venPop (eff s r (venCmdOf r.cmd) (venEntry s r.cmd)) r.cmd (venCmdOf r.cmd)) r stOK [] := by
  simp only [venOp, hrun, hentry, hread, hwrite]
  rfl

/-- The same as a command of the machine. -/
theorem effect_venOp {s : State} {core op : Nat} {r : RCmd} (hfab : FabricOn s) (hrun : runOp s (pgVen core) op = some r)
    (hentry : entryOk (venEntry s r.cmd) (vSources op (venCmdOf r.cmd)) = true)
    (hread : opsBad (onDie s (core / 1024)) core (venEntry s r.cmd).slot (vSources op (venCmdOf r.cmd)) = none)
    (hwrite : opsPartial (onDie s (core / 1024)) core (vDests op (venCmdOf r.cmd)) = none)
    {eff : State → RCmd → VenCmd → FtqEntry → State} (hkeeps : ∀ u x e, Keeps u (eff u r x e)) :
    effect s (fun s => onCore s core (fun s => venOp s core op eff)) = .next (atDie (core / 1024)
      (fun u => finish (venPop (eff u r (venCmdOf r.cmd) (venEntry s r.cmd)) r.cmd (venCmdOf r.cmd)) r stOK []) s) :=
  effect_onCore hfab _ (venOp_writes (s := onDie s (core / 1024)) hrun hentry hread hwrite eff)
    (keeps_finish _ _ _ (keeps_venPop _ _ (hkeeps _ _ _))).pending

/-- A map with B immediate and without C writes the function of A's elements (Table 6-3). -/
theorem mapEff_immediate {x : VenCmd} (hdst : x.func ≠ 0x3F) (hc : x.func ≠ 4) (himm : x.bMode = 3) (s : State) (r : RCmd)
    (e : FtqEntry) : ∃ v, mapEff s r x e =
      countNan (opWrite v r.cmd.core r.cmd.job ⟨x.d, x.sd, vRows x, x.l⟩
        (mapRows x (opPats s r.cmd.core e ⟨x.a, x.sa, vRows x, x.l⟩) [] [])) r.cmd.core
        (mapRows x (opPats s r.cmd.core e ⟨x.a, x.sa, vRows x, x.l⟩) [] []) := by
  have hsrc : vSources 1 x = [⟨x.a, x.sa, vRows x, x.l⟩] := by simp [vSources, himm, hc]
  have hout : vDests 1 x = [⟨x.d, x.sd, vRows x, x.l⟩] := if_neg hdst
  simp only [mapEff, hsrc, hout, himm, hc, hdst, List.getElem?_cons_zero, bne_self_eq_false, Bool.and_false, if_false,
    Bool.false_eq_true]
  exact ⟨_, rfl⟩

/-- A single row of a map with B immediate starts with the function of the first element. -/
theorem mapRows_immediate {x : VenCmd} (hrow : vRows x = 1) (hl : 0 < x.l) (himm : x.bMode = 3) (a : List (List Nat)) :
    ∃ ps, mapRows x a [] [] = [mapFn x.func ((a.headD []).headD 0) x.imm1 0 x.imm0 x.imm1 :: ps] := by
  have hone : upTo 1 = [0] := rfl
  obtain ⟨ps, hps⟩ := map_upTo_eq_cons hl (fun j => mapFn x.func ((a.getD 0 []).getD j 0) x.imm1 0 x.imm0 x.imm1)
  refine ⟨ps, ?_⟩
  rw [getD_zero, getD_zero] at hps
  rw [← hps, mapRows, hrow, hone, List.map_cons, List.map_nil]
  simp only [himm, if_true, getD_zero]
  rfl

/-- A reduction of a single row writes what its operation gives (R172). -/
theorem reduceEff_oneRow {x : VenCmd} (hrow : vRows x = 1) (s : State) (r : RCmd) (e : FtqEntry) :
    reduceEff s r x e = countNan (opWrite s r.cmd.core r.cmd.job ⟨x.d, x.sd, 1, 1⟩
        [[reduceRow x.func ((opPats s r.cmd.core e ⟨x.a, x.sa, 1, x.l⟩).headD [])]]) r.cmd.core
        [[reduceRow x.func ((opPats s r.cmd.core e ⟨x.a, x.sa, 1, x.l⟩).headD [])]] := by
  simp only [reduceEff, vSources, vDests, hrow]
  rfl

/-- Element `j` of the single row of a source, as stored. -/
def rawElem (s : State) (core slot : Nat) (d : Desc) (j : Nat) : List Byte :=
  if d.space = 1 then leBytes 4 (tbWord s core (d.off + 4 * j))
  else rdMem s (dBase core slot d + j * elemBytes (dFmt d)) (elemBytes (dFmt d))

theorem opRaw_oneRow (s : State) (core slot : Nat) (d : Desc) (stride l : Nat) :
    opRaw s core slot ⟨d, stride, 1, l⟩ = [(upTo l).map (rawElem s core slot d)] := by
  have hone : upTo 1 = [0] := rfl
  simp only [opRaw, hone, List.map_cons, List.map_nil, Nat.zero_mul, Nat.add_zero]
  rfl

theorem rawElem_length {d : Desc} (h : dFmt d = 4) (s : State) (core slot j : Nat) :
    (rawElem s core slot d j).length = 4 := by
  unfold rawElem
  split
  · exact leBytes_length 4 _
  · rw [rdMem_length, h]
    rfl

theorem rawElem_setDie (s : State) (d : Nat) : rawElem (setDie s d) = rawElem s := by
  funext core slot x j
  simp only [rawElem, tbWord_setDie, rdMem_setDie]

/-- A reversal of one row whose formats agree writes the stored elements from the last to the first (R173). -/
theorem shuffleEff_reverse {x : VenCmd} {e : FtqEntry} (hrow : vRows x = 1) (hl : 0 < x.l) (hrev : x.func = 1)
    (hsame : sameFmt x e = true) (s : State) (r : RCmd) : ∃ v rest, shuffleEff s r x e =
      wrMem v (dBase r.cmd.core 0 x.d) (rawElem s r.cmd.core e.slot x.a (x.l - 1) ++ rest) := by
  have hsrc : vSources 3 x = [⟨x.a, x.sa, 1, x.l⟩] := by simp [vSources, hrev, hrow]
  have hdst : vDests 3 x = [⟨x.d, x.sd, 1, x.l⟩] := by simp [vDests, hrev, hrow]
  have hwrites : ∃ v, shuffleEff s r x e = wrMem v (dBase r.cmd.core 0 x.d) ((upTo x.l).map (fun j =>
      ((upTo x.l).map (rawElem s r.cmd.core e.slot x.a)).getD (x.l - 1 - j)
        (List.replicate (elemBytes (dFmt x.d)) 0))).flatten := by
    simp only [shuffleEff, hsrc, hdst, hsame, hrev, hrow, List.headD_cons, opRaw_oneRow]
    exact ⟨_, rfl⟩
  obtain ⟨v, hv⟩ := hwrites
  obtain ⟨rest, hrest⟩ := map_upTo_eq_cons hl (fun j =>
    ((upTo x.l).map (rawElem s r.cmd.core e.slot x.a)).getD (x.l - 1 - j) (List.replicate (elemBytes (dFmt x.d)) 0))
  rw [Nat.sub_zero, getD_map_upTo (by omega)] at hrest
  exact ⟨v, rest.flatten, by rw [hv, hrest, List.flatten_cons]⟩

theorem dFmt_eq_of_sameFmt {x : VenCmd} {e : FtqEntry} (h : sameFmt x e = true) : dFmt x.a = dFmt x.d := by
  simp only [sameFmt, Bool.and_eq_true, beq_iff_eq] at h
  obtain ⟨⟨hfmt, _⟩, _⟩ := h
  exact hfmt

/-! ### The first result in a tile buffer -/

section
variable {x : VenCmd} {e : FtqEntry} {r : RCmd} (hspace : x.d.space = 1) (hrow : vRows x = 1)
include hspace hrow

theorem rdNum_map (hl : 0 < x.l) (hdst : x.func ≠ 0x3F) (hc : x.func ≠ 4) (himm : x.bMode = 3) (s : State) (d : Nat) :
    rdNum (setDie (finish (venPop (mapEff s r x e) r.cmd x) r stOK []) d) (spTbuf r.cmd.core + x.d.off) 4 =
      enc32 (dec32 (mapFn x.func (((opPats s r.cmd.core e ⟨x.a, x.sa, 1, x.l⟩).headD []).headD 0) x.imm1 0 x.imm0
        x.imm1)) % 2 ^ 32 := by
  obtain ⟨v, hv⟩ := mapEff_immediate hdst hc himm s r e
  obtain ⟨ps, hps⟩ := mapRows_immediate hrow hl himm (opPats s r.cmd.core e ⟨x.a, x.sa, vRows x, x.l⟩)
  rw [hv, ← hrow]
  exact rdNum_result (o := ⟨x.d, x.sd, vRows x, x.l⟩) hspace hps _ _ _ r x d

theorem rdNum_reduce (s : State) (d : Nat) :
    rdNum (setDie (finish (venPop (reduceEff s r x e) r.cmd x) r stOK []) d) (spTbuf r.cmd.core + x.d.off) 4 =
      enc32 (dec32 (reduceRow x.func ((opPats s r.cmd.core e ⟨x.a, x.sa, 1, x.l⟩).headD []))) % 2 ^ 32 := by
  rw [reduceEff_oneRow hrow]
  exact rdNum_result (o := ⟨x.d, x.sd, 1, 1⟩) hspace rfl _ _ _ r x d

theorem rdMem_reverse (hl : 0 < x.l) (hrev : x.func = 1) (hsame : sameFmt x e = true) (s : State) (d : Nat) :
    rdMem (setDie (finish (venPop (shuffleEff s r x e) r.cmd x) r stOK []) d) (spTbuf r.cmd.core + x.d.off) 4 =
      rawElem s r.cmd.core e.slot x.a (x.l - 1) := by
  obtain ⟨v, rest, hv⟩ := shuffleEff_reverse hrow hl hrev hsame s r
  have hlen := rawElem_length ((dFmt_eq_of_sameFmt hsame).trans (dFmt_tbuf hspace)) s r.cmd.core e.slot (x.l - 1)
  rw [rdMem_venEnd, hv, dBase_tbuf hspace, ← hlen]
  exact rdMem_wrMem_append v _ _ rest

end

/-- Settles O26: the checks pass, so each effect takes place; the first value that it writes into a tile buffer stands there
at the end, whatever the reports of NaN results write in host memory. -/
theorem vectorCommandsWriteTheirResults : Obligations.VectorCommandsWriteTheirResults := by
  intro s core op r hon hrun x e u hentry hread hwrite
  obtain ⟨hfab, _⟩ := hon
  have hmap : op = 1 → exec (.venMap core) s =
      .next (atDie (core / 1024) (fun u => finish (venPop (mapEff u r x e) r.cmd x) r stOK []) s) := fun h1 => by
    subst h1
    exact effect_venOp hfab hrun hentry hread hwrite (fun u x e => keeps_mapEff r x e (Keeps.refl u))
  have hreduce : op = 2 → exec (.venReduce core) s =
      .next (atDie (core / 1024) (fun u => finish (venPop (reduceEff u r x e) r.cmd x) r stOK []) s) := fun h2 => by
    subst h2
    exact effect_venOp hfab hrun hentry hread hwrite (fun u x e => keeps_reduceEff r x e (Keeps.refl u))
  have hshuffle : op = 3 → exec (.venShuffle core) s =
      .next (atDie (core / 1024) (fun u => finish (venPop (shuffleEff u r x e) r.cmd x) r stOK []) s) := fun h3 => by
    subst h3
    exact effect_venOp hfab hrun hentry hread hwrite (fun u x e => keeps_shuffleEff r x e (Keeps.refl u))
  refine ⟨hmap, fun h1 hcore hspace hrow hl hdst hc himm => ⟨_, hmap h1, ?_⟩,
    hreduce, fun h2 hcore hspace hrow => ⟨_, hreduce h2, ?_⟩,
    hshuffle, fun h3 hcore hspace hrow hl hrev hsame => ⟨_, hshuffle h3, ?_⟩⟩
  · subst hcore
    rw [← opPats_setDie s (r.cmd.core / 1024 + 1)]
    exact rdNum_map hspace hrow hl hdst hc himm u 0
  · subst hcore
    rw [← opPats_setDie s (r.cmd.core / 1024 + 1)]
    exact rdNum_reduce hspace hrow u 0
  · subst hcore
    rw [opRaw_oneRow, List.headD_cons, getD_map_upTo (by omega), ← rawElem_setDie s (r.cmd.core / 1024 + 1)]
    exact rdMem_reverse hspace hrow hl hrev hsame u 0

/-! ### ATN_KV_LOAD and ATN_KV_FLUSH (R184 to R186) -/

/-- A key or value command whose page table passes the checks of R186 moves its rows. -/
theorem opKv_moves {s : State} {core op : Nat} {r : RCmd} (hrun : runOp s (pgAtn core) op = some r)
    (htable : readBad s (spScratch core + (kvOf r.cmd).table + 8 * kvPage0 (kvOf r.cmd)) (8 * kvPages (kvOf r.cmd)) = none)
    (hup : (kvOf r.cmd).expand = true →
      readBad s (spScratch core + (kvOf r.cmd).up) (2 * (kvOf r.cmd).rank * (kvOf r.cmd).dout) = none)
    (hcheck : kvCheck s core r.cmd.job (kvOf r.cmd) = none) :
    opKv s core op = if op = 4 then kvLoadGo s core r (kvOf r.cmd) (kvOf r.cmd).tokens 0
      else kvFlushGo s core r (kvOf r.cmd) (kvOf r.cmd).tokens 0 := by
  simp only [opKv, hrun, htable, ite_eq_right_iff.2 hup, hcheck]
  rfl

/-- One readable row is loaded as one write of its staged form (R185). -/
theorem kvLoadGo_one {s : State} {core : Nat} {x : Kv} (r : RCmd)
    (hread : fabBad s (kvAddr s core x x.t0) (kvRow x) = none)
    (hwrite : writeBad s (spScratch core + x.st.off) (rowBytes x.st.fmt (kvCols x)) = none) :
    kvLoadGo s core r x 1 0 = finish (wrMem s (spScratch core + x.st.off)
      (encRow x.st.fmt (kvStaged s core x (kvAddr s core x x.t0)))) r stOK [] := by
  simp only [kvLoadGo, Nat.add_zero, Nat.zero_mul, hread, hwrite]

/-- One readable row is flushed as one write of its elements in the page's format (R185). -/
theorem kvFlushGo_one {s : State} {core : Nat} {x : Kv} (r : RCmd) (hone : x.tokens = 1)
    (hread : readBad s (spScratch core + x.st.off) (rowBytes x.st.fmt x.width) = none)
    (hwrite : writeBad s (kvAddr s core x x.t0) (x.width * elemBytes x.pfmt) = none) :
    kvFlushGo s core r x 1 0 = finish (wrMem s (kvAddr s core x x.t0)
      ((upTo x.width).flatMap (fun j => encPlain x.pfmt (elemAt s (spScratch core + x.st.off)
        (dStride x.st x.ss x.width) x.st.fmt 1 x.width 0 j)))) r stOK [] := by
  simp only [kvFlushGo, Nat.add_zero, Nat.zero_mul, hread, hwrite, hone, List.flatMap_map]
  rfl

/-- A command of the attention support whose whole effect is one write of bytes ends with them in place. -/
theorem ended_wrMem {s : State} {core op : Nat} {r : RCmd} (hcore : core < 2048)
    (hrun : runOp s (pgAtn core) op = some r) (a : Nat) (bs : List Byte) :
    ended (atDie (core / 1024) (fun u => finish (wrMem u a bs) r stOK []) s) (pgVen core * 2) r.cmd.id stOK ∧
      (atDie (core / 1024) (fun u => finish (wrMem u a bs) r stOK []) s).regs = s.regs ∧
      rdMem (atDie (core / 1024) (fun u => finish (wrMem u a bs) r stOK []) s) a bs.length = bs ∧
      ∀ b, b < a ∨ a + bs.length ≤ b →
        rdByte (atDie (core / 1024) (fun u => finish (wrMem u a bs) r stOK []) s) b = rdByte s b := by
  obtain ⟨hmem, hpage, _⟩ := runOp_started hrun
  have hkey : cmdKey r.cmd = pgVen core * 2 := by rw [cmdKey, hpage, engKey_pgAtn hcore]
  refine ⟨?_, rfl, ?_, fun b hb => ?_⟩
  · rw [engKey_pgAtn hcore, ← hkey] at hmem
    rw [← hkey]
    exact ended_finish (s := wrMem (onDie s (core / 1024)) a bs) hmem stOK []
  · rw [atDie, rdMem_setDie, rdMem_congr (finish_frame _ _ _ _).1, rdMem_wrMem_same]
  · exact rdByte_wrMem_other s a b bs hb

/-- Settles O28: the page table passes its checks, so the rows move one by one, and one row is one write. -/
theorem kvCommandsMoveTokenRows : Obligations.KvCommandsMoveTokenRows := by
  intro s core op r hon hrun x u b p htable hup hcheck
  obtain ⟨hfab, hcore⟩ := hon
  have hmoves := opKv_moves (s := u) hrun htable hup hcheck
  have hload : op = 4 → exec (.atnKvLoad core) s =
      .next (atDie (core / 1024) (fun u => kvLoadGo u core r x x.tokens 0) s) := fun h4 => by
    subst h4
    exact effect_onCore hfab (opKv · core 4) (hmoves.trans (if_pos rfl)) (keeps_kvLoadGo core r x _ _ (Keeps.refl u)).pending
  have hflush : op = 5 → exec (.atnKvFlush core) s =
      .next (atDie (core / 1024) (fun u => kvFlushGo u core r x x.tokens 0) s) := fun h5 => by
    subst h5
    exact effect_onCore hfab (opKv · core 5) (hmoves.trans (if_neg (by decide)))
      (keeps_kvFlushGo core r x _ _ (Keeps.refl u)).pending
  refine ⟨hload, hflush, fun h4 hone hread hwrite => ?_, fun h5 hone hread hwrite => ?_⟩
  · refine ⟨_, (hload h4).trans (congrArg (fun t => Host.Outcome.next (setDie t 0)) ?_), ended_wrMem hcore hrun b _⟩
    rw [hone, ← kvStaged_setDie s (core / 1024 + 1)]
    exact kvLoadGo_one (s := u) r hread hwrite
  · refine ⟨_, (hflush h5).trans (congrArg (fun t => Host.Outcome.next (setDie t 0)) ?_), ended_wrMem hcore hrun p _⟩
    rw [hone, ← elemAt_setDie s (core / 1024 + 1)]
    exact kvFlushGo_one (s := u) r hone hread hwrite

/-! ### ATN_SCORES can report (Table 6-8, R503) -/

/-- The one entry of core 0's finished-tile queue: one value, of job 1. -/
def spoiltEntry : FtqEntry := { job := 1, rows := 1, width := 1 }

/-- ATN_SCORES of that entry, with FIRST and scale 1, its probability going to the start of the scratch as BF16. -/
def spoiltScores : RCmd :=
  { cmd := { id := 1, page := pgAtn 0, op := 1, fn := 1, job := 1
             body := leBytes 16 (3 * 2 ^ 23) ++ leBytes 16 (1 + 2 ^ 16 + 2 ^ 116) ++ leBytes 16 0x3F800000 } }

/-- The value is a NaN, the counter of rows that scores made NaN is one short of its largest value, and function 0 has an
event ring of 16 records. -/
def spoiltState : State :=
  wrNum (setEng (setVen (setReg { State.reset with cxlUp := true, fabricOpen := true
                                                   ctrs := [(ctrKey (pgAtn 0) 3, 0xFFFFFFFE)] } (pgJob 0) 0x110 0x104)
    0 { ftq := [spoiltEntry] }) (pgVen 0 * 2) { running := [spoiltScores] }) (spFtq 0 0) 4 nan32

/-- The counter reaches its largest value and reports: the tail of the event ring moves. -/
theorem scores_movesEventTail : ∃ t, exec (.atnScores 0) spoiltState = .next t ∧
    reg t (pgJob 0) 0x120 ≠ reg spoiltState (pgJob 0) 0x120 := ⟨_, rfl, by decide⟩

/-- Refutes O27: the last part says that ATN_SCORES leaves every register, but a row made NaN is counted (Table 6-8), and the
count that reaches its largest value writes a COUNTER_SATURATED record (R503), which moves the tail in JOB_EVT_STATUS (R62). -/
theorem not_attentionCommandsComplete : ¬ Obligations.AttentionCommandsComplete := by
  rintro ⟨_, _, hscores⟩
  obtain ⟨t, hexec, hmoves⟩ := scores_movesEventTail
  obtain ⟨t', hexec', _, _, _, hregs, _⟩ := hscores spoiltState 0 spoiltScores [spoiltEntry] (by decide) (by decide)
    (by decide) (by decide) (by decide) (by decide) (by decide) (by decide) (by decide) (by decide) (by decide)
  have hsame : t' = t := Host.Outcome.next.inj (hexec'.symm.trans hexec)
  rw [hsame] at hregs
  exact hmoves (by rw [reg, hregs, reg])

end Sys2Proof.VectorEngine

/-! PROOFS. Message channels and reels (chapter "Message channels and reels"): sends, arrivals, acknowledgements, releases,
credits and timeouts, and the binding of channels. -/
namespace Sys2Proof.MessageChannels
open Sys2Proof.Machine Sys2Proof.Laws Sys2Proof.Stated
open Sys2Proof.HostInterface (effect_hostWrite writePage_eq_writeBlk signal_frame)
open Sys2Proof.ComputeCore (effect_onCore effect_onCore_anyDie rdMem_eq_map rdMem_wrMem_same)
open Sys2Proof.VectorEngine (runOp_started mem_replRun rdMem_wrMem_append)

/-! ### Pages, counters and the end of a command -/

/-- The pages of a core lie in its region, six for each core (Table 2-4). -/
theorem pageBlk_pgCore {core j : Nat} (h : core < 2048) (hj : j < 6) :
    pageBlk (pgCore core j) = regionPage (core / 64) (64 + 6 * (core % 64) + j) := by
  have hpage : pgCore core j = 0x2000 + 0x200 * (core / 64) + (64 + 6 * (core % 64) + j) := by
    unfold pgCore pgRegion; omega
  have hregion : (pgCore core j - 0x2000) / 0x200 = core / 64 := by omega
  have hlocal : (pgCore core j - 0x2000) % 0x200 = 64 + 6 * (core % 64) + j := by omega
  unfold pageBlk
  repeat rw [if_neg (by omega)]
  rw [if_pos (by omega), hregion, hlocal]

theorem pageBlk_pgChn {core : Nat} (h : core < 2048) : pageBlk (pgChn core) = some (.chn, core) := by
  have hcore : 64 * (core / 64) + (64 + 6 * (core % 64) + 4 - 64) / 6 = core := by omega
  have hplace : (64 + 6 * (core % 64) + 4 - 64) % 6 = 4 := by omega
  rw [pgChn, pageBlk_pgCore h (by decide), regionPage]
  repeat rw [if_neg (by omega)]
  rw [if_pos (by omega), hplace, hcore]
  rfl

theorem engKey_pgChn {core : Nat} (h : core < 2048) (op : Nat) : engKey (pgChn core) op = pgChn core * 2 := by
  rw [engKey, pageBlk_pgChn h]

/-- The counters of messages and waits are no error counters: they only advance (R500). -/
theorem bump_pgChn {core i : Nat} (hcore : core < 2048) (hi : i < 48) (s : State) (n : Nat) :
    ∃ cs, bump s (pgChn core) i n = { s with ctrs := cs } := by
  have hplain : (errCounters .chn).contains i = false := by
    rw [← Bool.not_eq_true, List.contains_iff_mem]
    simp only [errCounters, List.mem_cons, List.not_mem_nil, or_false]
    omega
  exact ⟨_, by simp only [bump, pageBlk_pgChn hcore, hplain]; rfl⟩

/-- A started command that finishes stands among its engine's commands with its status and its result. -/
theorem finish_running {s : State} {r : RCmd} {e : Nat} (h : r ∈ (engOf s e).running) (hkey : cmdKey r.cmd = e)
    (status : Nat) (res : List Byte) :
    ∃ y ∈ (engOf (finish s r status res) e).running, y.cmd.id = r.cmd.id ∧ y.fin = some (status, res) := by
  refine ⟨{ r with fin := some (status, res) }, ?_, rfl, rfl⟩
  rw [finish, setRun, hkey, engOf_setEng, if_pos rfl]
  exact mem_replRun (x := r) (r := { r with fin := some (status, res) }) rfl h

/-! ### Sends (R195 to R207) -/

/-- A change of the count of a reel's records that replies use or reserve, and of nothing else (R205). -/
structure CountsReplies (s t : State) : Prop where
  rest : t = { s with inChs := t.inChs }
  flight : ∀ core i, (inOf t core i).flight = (inOf s core i).flight

theorem countsReplies_setIn (p : Prop) [Decidable p] (s : State) (core i n : Nat) :
    CountsReplies s (if p then setIn s core i { inOf s core i with res := n } else s) := by
  split
  · refine ⟨rfl, fun core' i' => ?_⟩
    rw [inOf_setIn]
    split
    · next hkey => simp only [inOf, hkey]
    · rfl
  · exact ⟨rfl, fun _ _ => rfl⟩

/-- A send on a REPLY-class channel uses a record that its reply reel owes (R205). -/
def spendReply (s : State) (core o : Nat) : State :=
  if bit (outCfg s core o) 1 then
    setIn s core (outPair s core o) { inOf s core (outPair s core o) with res := (inOf s core (outPair s core o)).res - 1 }
  else s

/-- A send that wants a reply reserves a record of its reply reel (R205). -/
def reserveReply (s : State) (core p : Nat) (want : Bool) : State :=
  if want then setIn s core p { inOf s core p with res := (inOf s core p).res + 1 } else s

/-- A message is on its way to an inbound channel. -/
def putMsg (s : State) (dc di : Nat) (m : Msg) : State :=
  setIn s dc di { inOf s dc di with flight := (inOf s dc di).flight ++ [m] }

/-- The message of a send: its payload behind the channel's next sequence number, in the record that starts at the tail, or
at the reel's start behind a pad (R198, R200). -/
def sentMsg (s : State) (core : Nat) (c : QCmd) : Msg :=
  let o := bits (bf c 24 1) 0 4
  let room := sendRoom s core o (bf c 20 4)
  { pad := room.pad, off := if room.pad = 0 then (outOf s core o).tail else 0, len := room.len, isPad := false
    flags := b2n (bit (bf c 25 1) 0) + 2 * b2n (bit (outCfg s core o) 1), seq := (outOf s core o).seq, tag := bf c 28 4
    payload := rdMem s (spScratch core + bf c 16 4) (bf c 20 4), sender := core * 16 + o, id := c.id }

/-- The channel that has sent `m`, whose record ends where the next one starts. -/
def afterSend (x : OutCh) (m : Msg) (size : Nat) : OutCh :=
  { x with
    seq := (x.seq + 1) % 2 ^ 32
    tail := if m.off + m.len = size then 0 else m.off + m.len
    used := x.used + m.pad + m.len }

/-- What a send of `m` makes of the state where its payload can be read. -/
def sentState (s : State) (core : Nat) (r : RCmd) (m : Msg) : State :=
  let o := bits (bf r.cmd 24 1) 0 4
  let dc := outDst s core o
  let di := outDstIn s core o
  let sent := putMsg (setOut (spendReply s core o) core o (afterSend (outOf s core o) m (reelSize s dc di))) dc di m
  setRun (bump (reserveReply sent core (outPair s core o) (bit (bf r.cmd 25 1) 0)) (pgChn core) o 1) (pgChn core * 2)
    { r with prog := 1 }

theorem sendNow_eq {s : State} {core : Nat} {r : RCmd}
    (hread : badIn s (spScratch core + bf r.cmd 16 4) (bf r.cmd 20 4) = none) :
    sendNow s core r = sentState s core r (sentMsg s core r.cmd) := by
  have hspent : CountsReplies s (spendReply s core (bits (bf r.cmd 24 1) 0 4)) := countsReplies_setIn _ s core _ _
  generalize hu : spendReply s core (bits (bf r.cmd 24 1) 0 4) = u at hspent
  have hread' : badIn u (spScratch core + bf r.cmd 16 4) (bf r.cmd 20 4) = none := by
    rw [hspent.rest]
    exact hread
  have hmsg : { sentMsg s core r.cmd with payload := rdMem u (spScratch core + bf r.cmd 16 4) (bf r.cmd 20 4) } =
      sentMsg s core r.cmd := by
    rw [rdMem_congr (s := u) (t := s) (by rw [hspent.rest])]
    rfl
  subst hu
  rw [← hmsg]
  unfold sendNow sentState sentMsg
  extract_lets
  split
  · next hbad => exact nomatch hread'.symm.trans hbad
  · rfl

/-- A send whose payload can be read takes the channel's next sequence number and puts its message on the way; no byte,
register or context changes. -/
theorem sendNow_sends {s : State} {core : Nat} {r : RCmd} (hcore : core < 2048)
    (hread : badIn s (spScratch core + bf r.cmd 16 4) (bf r.cmd 20 4) = none) :
    let o := bits (bf r.cmd 24 1) 0 4
    let dc := outDst s core o
    let di := outDstIn s core o
    let t := sendNow s core r
    (outOf t core o).seq = ((outOf s core o).seq + 1) % 2 ^ 32 ∧
      (inOf t dc di).flight = (inOf s dc di).flight ++ [sentMsg s core r.cmd] ∧
      t.mem = s.mem ∧ t.regs = s.regs ∧ t.ctxs = s.ctxs := by
  intro o dc di t
  have hspent : CountsReplies s (spendReply s core o) := countsReplies_setIn _ s core _ _
  generalize hsent : putMsg (setOut (spendReply s core o) core o
    (afterSend (outOf s core o) (sentMsg s core r.cmd) (reelSize s dc di))) dc di (sentMsg s core r.cmd) = sent
  generalize hres : reserveReply sent core (outPair s core o) (bit (bf r.cmd 25 1) 0) = reserved
  have hreserved : CountsReplies sent reserved := hres ▸ countsReplies_setIn _ sent core _ _
  have ho : o < 16 := Nat.mod_lt _ (by decide)
  obtain ⟨cs, hbump⟩ := bump_pgChn hcore (by omega : o < 48) reserved 1
  have ht : t = setRun { reserved with ctrs := cs } (pgChn core * 2) { r with prog := 1 } := by
    rw [← hbump, ← hres, ← hsent]
    exact sendNow_eq hread
  have hflight : (inOf t dc di).flight = (inOf sent dc di).flight := by
    rw [ht]
    exact hreserved.flight dc di
  rw [hflight, ht, hreserved.rest, ← hsent, hspent.rest]
  refine ⟨?_, ?_, rfl, rfl, rfl⟩
  · exact congrArg OutCh.seq (mapGet_mapPut_same _)
  · rw [putMsg, inOf_setIn, if_pos rfl]
    exact congrArg (· ++ _) (hspent.flight dc di)

theorem sentMsg_setDie (s : State) (d core : Nat) (c : QCmd) : sentMsg (setDie s d) core c = sentMsg s core c := by
  simp only [sentMsg, rdMem_setDie]
  rfl

theorem opSend_running {s : State} {core : Nat} {r : RCmd}
    (h : engRun s (pgChn core * 2) (fun r => r.cmd.op == 1 && r.prog == 0) = some r) :
    opSend s core = sendStart s core r := by
  simp only [opSend, h]

/-- A send that nothing ends at its start leaves at once where nothing holds it back, and waits in a slot otherwise
(R207). -/
theorem sendStart_unrefused {s : State} {core o : Nat} {r : RCmd} (ho : bits (bf r.cmd 24 1) 0 4 = o)
    (hbound : outBound s core o r.cmd.job = true)
    (hform : sendForm s core o (bf r.cmd 20 4) (bit (bf r.cmd 25 1) 0) = true) (hreel : reelOk s core o = true)
    (hfence : fenced s (outDst s core o) = false) (hcut : sendCut s core o = false)
    (hres : ¬ (bit (outCfg s core o) 1 = true ∧ (inOf s core (outPair s core o)).res = 0)) :
    sendStart s core r =
      if sendReady s core r (engOf s (pgChn core * 2)).aside then sendNow s core r
      else setEng s (pgChn core * 2) { engOf s (pgChn core * 2) with
        running := (engOf s (pgChn core * 2)).running.filter (fun y => y.cmd.id != r.cmd.id)
        aside := (engOf s (pgChn core * 2)).aside ++ [{ r with since := s.time }] } := by
  have hfits : formThen (!(outBound s core o r.cmd.job) || sendForm s core o (bf r.cmd 20 4) (bit (bf r.cmd 25 1) 0))
      (outBound s core o r.cmd.job && reelOk s core o) = none := by
    rw [hbound, hform, hreel]
    rfl
  simp only [sendStart, ho, hfits, hfence, hcut]
  rw [if_neg hres]
  rfl

/-! ### Releases and credits (R202, R203) -/

/-- The head of a reel is on its way back to the bound sender. -/
def returnHead (s : State) (peer head : Nat) : State :=
  if peer = 0 then s
  else setOut s ((peer - 1) / 16) ((peer - 1) % 16) { outOf s ((peer - 1) / 16) ((peer - 1) % 16) with
    returns := (outOf s ((peer - 1) / 16) ((peer - 1) % 16)).returns ++ [head] }

/-- A reel's head after `b` bytes are freed. -/
def headAfter (head b size : Nat) : Nat := if head + b < size then head + b else head + b - size

/-- The inbound channel after a release of `n` messages and the `b` bytes that they take, by its configuration. -/
def afterRelease (ic : InCh) (cfg n b size : Nat) (rest : List (Nat × Bool)) : InCh :=
  { ic with
    head := headAfter ic.head b size
    used := ic.used - b
    recs := rest
    res := if bit cfg 2 then ic.res - n else ic.res }

/-- The return of a head touches the sender's channel alone. -/
theorem returnHead_frame (s : State) (peer head : Nat) :
    (∀ core i, inOf (returnHead s peer head) core i = inOf s core i) ∧ (returnHead s peer head).engs = s.engs ∧
      (returnHead s peer head).mem = s.mem ∧ (returnHead s peer head).regs = s.regs ∧
      (returnHead s peer head).ctxs = s.ctxs := by
  unfold returnHead
  split <;> exact ⟨fun _ _ => rfl, rfl, rfl, rfl, rfl⟩

theorem returns_returnHead {s : State} {peer : Nat} (h : peer ≠ 0) (head : Nat) :
    (outOf (returnHead s peer head) ((peer - 1) / 16) ((peer - 1) % 16)).returns =
      (outOf s ((peer - 1) / 16) ((peer - 1) % 16)).returns ++ [head] := by
  rw [returnHead, if_neg h, outOf_setOut, if_pos rfl]

section
variable {s : State} {core i b : Nat} {r : RCmd} {rest : List (Nat × Bool)} (hrun : runOp s (pgChn core) 2 = some r)
  (hi : bits (bf r.cmd 16 1) 0 4 = i) (hvalid : bit (inCfg s core i) 0 = true)
  (hjob : bits (inCfg s core i) 4 4 = r.cmd.job) (htake : takeRecs (bf r.cmd 18 2) (inOf s core i).recs 0 = some (b, rest))
include hrun hi hvalid hjob htake

/-- A release of the job that owns the reel frees the records that it counts, and returns the head. -/
theorem opChnRelease_frees :
    let x := afterRelease (inOf s core i) (inCfg s core i) (bf r.cmd 18 2) b (reelSize s core i) rest
    opChnRelease s core =
      finish (returnHead (setIn s core i x) (inOf s core i).peer x.head) r stOK (leBytes 4 x.head ++ leBytes 4 b) := by
  simp only [opChnRelease, hrun, hi, hvalid, hjob, htake, beq_self_eq_true]
  rfl

/-- What a release leaves behind: the reel's new head and records, its head on the way back, and the end of the command. -/
theorem release_result (hcore : core < 2048) :
    let ic := inOf s core i
    let head := headAfter ic.head b (reelSize s core i)
    let t := opChnRelease s core
    inOf t core i = afterRelease ic (inCfg s core i) (bf r.cmd 18 2) b (reelSize s core i) rest ∧
      (ic.peer ≠ 0 → (outOf t ((ic.peer - 1) / 16) ((ic.peer - 1) % 16)).returns =
        (outOf s ((ic.peer - 1) / 16) ((ic.peer - 1) % 16)).returns ++ [head]) ∧
      (∃ y ∈ (engOf t (pgChn core * 2)).running, y.cmd.id = r.cmd.id ∧
        y.fin = some (stOK, leBytes 4 head ++ leBytes 4 b)) ∧
      t.mem = s.mem ∧ t.regs = s.regs ∧ t.ctxs = s.ctxs := by
  intro ic head t
  obtain ⟨hstarted, hpage, _⟩ := runOp_started hrun
  rw [engKey_pgChn hcore] at hstarted
  have hkey : cmdKey r.cmd = pgChn core * 2 := by rw [cmdKey, hpage, engKey_pgChn hcore]
  generalize hx : afterRelease ic (inCfg s core i) (bf r.cmd 18 2) b (reelSize s core i) rest = x
  have hhead : x.head = head := hx ▸ rfl
  have ht : t = finish (returnHead (setIn s core i x) ic.peer head) r stOK (leBytes 4 head ++ leBytes 4 b) := by
    rw [← hhead, ← hx]
    exact opChnRelease_frees hrun hi hvalid hjob htake
  obtain ⟨hin, hengs, hmem, hregs, hctxs⟩ := returnHead_frame (setIn s core i x) ic.peer head
  rw [ht]
  refine ⟨?_, returns_returnHead (s := setIn s core i x) (head := head), finish_running ?_ hkey _ _, hmem, hregs, hctxs⟩
  · exact (hin core i).trans (mapGet_mapPut_same _)
  · rw [engOf, hengs]
    exact hstarted

end

/-- With no send in a slot the channel unit takes up none. -/
theorem sendTakeUp_idle {s : State} {core : Nat} (h : (engOf s (pgChn core * 2)).aside = []) : sendTakeUp s core = s := by
  unfold sendTakeUp
  dsimp only
  rw [h]
  split <;> rfl

/-- A credit return is counted from the head that the sender knew to the one that returns. -/
theorem opCredit_counts {s : State} {core o h : Nat} {hs : List Nat} (hret : (outOf s core o).returns = h :: hs)
    (hidle : (engOf s (pgChn core * 2)).aside = []) :
    let x := outOf s core o
    let size := reelSize s (outDst s core o) (outDstIn s core o)
    opCredit s core o = setOut s core o { x with
      returns := hs, head := h, used := x.used - (if x.head < h then h - x.head else size - x.head + h) } := by
  simp only [opCredit, hret]
  exact sendTakeUp_idle hidle

/-! ### Arrivals and acknowledgements (R194, R197 to R199) -/

theorem rdMem_wrMem_above (s : State) {a b : Nat} {bs : List Byte} (h : a + bs.length ≤ b) (n : Nat) :
    rdMem (wrMem s a bs) b n = rdMem s b n := by
  rw [rdMem_eq_map, rdMem_eq_map]
  exact List.map_congr_left (fun i _ => rdByte_wrMem_other s a (b + i) bs (Or.inr (by omega)))

theorem msgHeader_length (len ty flags seq tag : Nat) : (msgHeader len ty flags seq tag).length = 16 := by
  simp only [msgHeader, List.length_append, leBytes_length]

/-- Bytes are written, and what is not defined of them is drawn. -/
def WritesBytes (s t : State) : Prop := t = { s with mem := t.mem, bad := t.bad, free := t.free }

theorem WritesBytes.trans {s t u : State} (h : WritesBytes s t) (h' : WritesBytes t u) : WritesBytes s u := by
  rw [WritesBytes, h', h]

theorem writesBytes_wrMem (s : State) (a : Nat) (bs : List Byte) : WritesBytes s (wrMem s a bs) := rfl

/-- Bytes that are not defined follow some that are, and a header stands before them. -/
theorem writesBytes_record (s : State) (a b n : Nat) (bs cs : List Byte) :
    WritesBytes s (wrMem { wrMem s b bs with free := n } a cs) :=
  WritesBytes.trans (t := { wrMem s b bs with free := n }) rfl (writesBytes_wrMem _ a cs)

theorem writesBytes_writePad (s : State) (a len tag : Nat) : WritesBytes s (writePad s a len tag) := by
  rw [writePad]
  split
  · rfl
  · exact writesBytes_record _ _ _ _ _ _

theorem writesBytes_writeMsg (s : State) (a : Nat) (m : Msg) : WritesBytes s (writeMsg s a m) := by
  rw [writeMsg]
  split
  · rfl
  · exact writesBytes_record _ _ _ _ _ _

/-- A message's record holds its header and, behind it, its payload (Table 7-1). -/
theorem rdMem_writeMsg (s : State) (a : Nat) {m : Msg} (h : 16 + m.payload.length ≤ m.len) :
    rdMem (writeMsg s a m) a 16 = msgHeader m.payload.length 1 m.flags m.seq m.tag ∧
      rdMem (writeMsg s a m) (a + 16) m.payload.length = m.payload := by
  rw [writeMsg, if_neg (by omega)]
  have hlen := msgHeader_length m.payload.length 1 m.flags m.seq m.tag
  constructor
  · refine Eq.trans (congrArg (rdMem _ a) hlen.symm) ?_
    exact rdMem_wrMem_same _ _ _
  · rw [rdMem_wrMem_above _ (Nat.le_of_eq (by rw [hlen]))]
    refine (rdMem_congr (t := wrMem s (a + 16) (m.payload ++ undefBytes s.free (m.len - 16 - m.payload.length))) ?_ _ _).trans
      (rdMem_wrMem_append s (a + 16) m.payload _)
    rfl

/-- The place of a reel in its core's scratch. -/
def reelBase (s : State) (core i : Nat) : Nat := spScratch core + bits (inReel s core i) 0 9 * 4096

/-- A message's record, and the pad before it, stand in the reel. -/
def storeMsg (s : State) (core i : Nat) (m : Msg) : State :=
  writeMsg (writePad s (reelBase s core i + (reelSize s core i - m.pad)) m.pad m.tag) (reelBase s core i + m.off) m

/-- The inbound channel that has received `m`, by its configuration. -/
def afterArrival (ic : InCh) (cfg : Nat) (m : Msg) (ms : List Msg) : InCh :=
  { ic with
    flight := ms
    recs := ic.recs ++ ((if m.pad = 0 then [] else [(m.pad, true)]) ++ (if m.len = 0 then [] else [(m.len, m.isPad)]))
    used := ic.used + m.pad + m.len
    seq := (m.seq + 1) % 2 ^ 32
    res := ic.res + b2n (bit m.flags 0 && !(bit cfg 2)) }

/-- An arrival posts the sync counter that the channel's configuration names (R194). -/
def postArrival (s : State) (core cfg : Nat) : State :=
  if bit cfg 3 then setSync s core (bits cfg 8 2) (bits cfg 12 4) (syncCtr s core (bits cfg 8 2) (bits cfg 12 4) + 1) else s

/-- A message's acknowledgement is on its way back to its send. -/
def returnAck (s : State) (m : Msg) : State :=
  setOut s (m.sender / 16) (m.sender % 16) { outOf s (m.sender / 16) (m.sender % 16) with
    acks := (outOf s (m.sender / 16) (m.sender % 16)).acks ++ [(m.id, m.seq, m.off)] }

theorem postArrival_rest (s : State) (core cfg : Nat) :
    postArrival s core cfg = { s with ctxs := (postArrival s core cfg).ctxs } := by
  unfold postArrival
  split <;> rfl

/-- A message that reaches a reel which nothing has saved is stored, counted, posted and acknowledged. -/
theorem opArrival_stores {s : State} {core i : Nat} {m : Msg} {ms : List Msg} (hfly : (inOf s core i).flight = m :: ms)
    (hmsg : m.isPad = false)
    (hsaved : scratchSaved s core (bits (inReel s core i) 0 9 * 4096) (reelSize s core i) = false) :
    let u := storeMsg s core i m
    opArrival s core i =
      returnAck (postArrival (bump (setIn u core i (afterArrival (inOf s core i) (inCfg u core i) m ms)) (pgChn core) (32 + i) 1)
        core (inCfg u core i)) m := by
  obtain ⟨pad, off, len, isPad, flags, seq, tag, payload, sender, id⟩ := m
  cases hmsg
  simp only [opArrival, hsaved, hfly, Bool.false_eq_true, if_false]
  rfl

/-- What an arrival leaves behind: the record in the reel, the channel that has received it, and the acknowledgement. -/
theorem arrival_result {s : State} {core i : Nat} {m : Msg} {ms : List Msg} (hcore : core < 2048) (hi : i < 16)
    (hfly : (inOf s core i).flight = m :: ms) (hmsg : m.isPad = false)
    (hsaved : scratchSaved s core (bits (inReel s core i) 0 9 * 4096) (reelSize s core i) = false) :
    let t := opArrival s core i
    (∃ cfg, inOf t core i = afterArrival (inOf s core i) cfg m ms) ∧ t.mem = (storeMsg s core i m).mem ∧
      (outOf t (m.sender / 16) (m.sender % 16)).acks =
        (outOf s (m.sender / 16) (m.sender % 16)).acks ++ [(m.id, m.seq, m.off)] ∧
      t.regs = s.regs ∧ t.engs = s.engs := by
  intro t
  have hbytes : WritesBytes s (storeMsg s core i m) := (writesBytes_writePad _ _ _ _).trans (writesBytes_writeMsg _ _ _)
  generalize hu : storeMsg s core i m = u at hbytes
  generalize hx : afterArrival (inOf s core i) (inCfg u core i) m ms = x
  obtain ⟨cs, hbump⟩ := bump_pgChn hcore (by omega : 32 + i < 48) (setIn u core i x) 1
  generalize hv : postArrival { setIn u core i x with ctrs := cs } core (inCfg u core i) = v
  have hposted : v = { setIn u core i x with ctrs := cs, ctxs := v.ctxs } := by
    rw [← hv]
    exact postArrival_rest _ _ _
  have ht : t = returnAck v m := by
    rw [← hv, ← hbump, ← hx, ← hu]
    exact opArrival_stores hfly hmsg hsaved
  rw [ht, returnAck, hposted]
  refine ⟨⟨inCfg u core i, ?_⟩, rfl, ?_, ?_, ?_⟩
  · rw [hx]
    exact mapGet_mapPut_same _
  · rw [outOf_setOut, if_pos rfl, hbytes]
    rfl
  · rw [hbytes]
    rfl
  · rw [hbytes]
    rfl

/-- An acknowledgement completes the send that waits for it with SEQ and offset. -/
theorem opAck_completes {s : State} {core o id seq off : Nat} {as : List (Nat × Nat × Nat)} {r : RCmd}
    (hacks : (outOf s core o).acks = (id, seq, off) :: as)
    (hrun : engRun s (pgChn core * 2) (fun r => r.cmd.id == id && r.prog == 1) = some r) :
    opAck s core o =
      finish (setOut s core o { outOf s core o with acks := as }) r stOK (leBytes 4 seq ++ leBytes 4 off) := by
  have hrun' : engRun (setOut s core o { outOf s core o with acks := as }) (pgChn core * 2)
      (fun r => r.cmd.id == id && r.prog == 1) = some r := hrun
  simp only [opAck, hacks, hrun']

/-- What an acknowledgement leaves behind: those behind it, and the end of the send. -/
theorem ack_result {s : State} {core o id seq off : Nat} {as : List (Nat × Nat × Nat)} {r : RCmd}
    (hacks : (outOf s core o).acks = (id, seq, off) :: as)
    (hrun : engRun s (pgChn core * 2) (fun r => r.cmd.id == id && r.prog == 1) = some r)
    (hkey : cmdKey r.cmd = pgChn core * 2) :
    let t := opAck s core o
    (outOf t core o).acks = as ∧
      (∃ y ∈ (engOf t (pgChn core * 2)).running, y.cmd.id = id ∧ y.fin = some (stOK, leBytes 4 seq ++ leBytes 4 off)) ∧
      t.mem = s.mem ∧ t.regs = s.regs ∧ t.ctxs = s.ctxs := by
  intro t
  have hstarted : r ∈ (engOf s (pgChn core * 2)).running := List.mem_of_find?_eq_some hrun
  have hid : r.cmd.id = id := by
    have hp := List.find?_some hrun
    simp only [Bool.and_eq_true, beq_iff_eq] at hp
    exact hp.2.1
  rw [show t = _ from opAck_completes hacks hrun, ← hid]
  refine ⟨?_, finish_running ?_ hkey _ _, rfl, rfl, rfl⟩
  · exact congrArg OutCh.acks (mapGet_mapPut_same _)
  · exact hstarted

/-! ### The send timeout (R208) -/

section
variable {s : State} {core id : Nat} {r : RCmd}
  (hfind : (engOf s (pgChn core * 2)).aside.find? (fun r => r.cmd.id == id) = some r)
  (hfence : fenced s (outDst s core (bits (bf r.cmd 24 1) 0 4)) = false)
  (htime : r.since + 1000 * regF s (pgChn core) 0x500 0 32 ≤ s.time)
include hfind hfence htime

/-- A send that waits too long for a core that is not fenced ends with CHAN_TIMEOUT, which the channel unit reports. -/
theorem opSendTimeout_ends :
    ∃ l d, opSendTimeout s core id =
      raiseErr (bump (setEng s (pgChn core * 2) { engOf s (pgChn core * 2) with
        aside := (engOf s (pgChn core * 2)).aside.filter (fun y => y.cmd.id != id)
        running := (engOf s (pgChn core * 2)).running ++ [{ r with fin := some (stChanTimeout, []) }] })
          (pgChn core) 48 1) (pgChn core) 8 l [r.cmd.job] d := by
  simp only [opSendTimeout, hfind, hfence]
  rw [if_neg Bool.false_ne_true, if_pos htime]
  exact ⟨_, _, rfl⟩

/-- What a send timeout leaves behind: the error, and the end of the send. -/
theorem timeout_result :
    let t := opSendTimeout s core id
    bit (reg t (pgChn core) 0x20) 8 = true ∧
      (∃ y ∈ (engOf t (pgChn core * 2)).running, y.cmd.id = id ∧ y.fin = some (stChanTimeout, [])) ∧ t.ctxs = s.ctxs := by
  intro t
  obtain ⟨l, d, ht⟩ := opSendTimeout_ends hfind hfence htime
  generalize hg : setEng s (pgChn core * 2) _ = u at ht
  have hreports : Reports u t := by
    rw [show t = _ from ht]
    exact (reports_bump u _ _ _).trans (reports_raiseErr _ _ _ _ _ _)
  have hid : r.cmd.id = id := beq_iff_eq.1 (List.find?_some (p := fun r : RCmd => r.cmd.id == id) hfind)
  refine ⟨?_, ⟨{ r with fin := some (stChanTimeout, []) }, ?_, hid, rfl⟩, ?_⟩
  · rw [show t = _ from ht]
    exact raiseErr_bit _ _ _ _ _ _ (by decide)
  · rw [hreports.rest, ← hg]
    refine (congrArg (_ ∈ Engine.running ·) (mapGet_mapPut_same _)).mpr ?_
    exact List.mem_append_right _ (List.mem_singleton_self _)
  · rw [hreports.rest, ← hg]
    rfl

end

/-- Settles O29: each command's effect is one update of its channel, message and command; the checks that pass say which. -/
theorem messagesAreSentStoredAndReleased : Obligations.MessagesAreSentStoredAndReleased := by
  refine ⟨?send, ?release, ?arrival, ?ack, ?credit, ?timeout⟩
  case send =>
    intro s core r hon hrun c o len want dc di room x g hbound hform hreel hfence hcut hres
    obtain ⟨hfab, hcore⟩ := hon
    have hstart := fun d => (opSend_running (s := setDie s d) hrun).trans
      (sendStart_unrefused (s := setDie s d) rfl hbound hform hreel hfence hcut hres)
    refine ⟨fun hready hread => ?_, fun hwaits => ?_⟩
    · obtain ⟨hseq, hflight, hmem, hregs, hctxs⟩ := sendNow_sends (s := setDie s (core / 1024 + 1)) hcore hread
      rw [sentMsg_setDie] at hflight
      exact ⟨_, effect_onCore hfab (opSend · core) ((hstart _).trans (if_pos hready))
        (keeps_sendNow core r (Keeps.refl _)).pending, hseq, hflight, hmem, hregs, hctxs⟩
    · exact effect_onCore_anyDie hfab (opSend · core)
        ((hstart _).trans (if_neg (by rw [sendReady_setDie]; exact ne_true_of_eq_false hwaits))) rfl rfl
  case release =>
    intro s core r b rest hon hrun i ic head hvalid hjob htake
    obtain ⟨hfab, hcore⟩ := hon
    obtain ⟨hin, hreturns, hend, hframe⟩ :=
      release_result (s := setDie s (core / 1024 + 1)) hrun rfl hvalid hjob htake hcore
    exact ⟨_, effect_onCore hfab (opChnRelease · core) rfl (keeps_opChnRelease core (Keeps.refl _)).pending,
      congrArg InCh.head hin, congrArg InCh.used hin, congrArg InCh.recs hin, hreturns, hend, hframe⟩
  case arrival =>
    intro s core i m ms hon hi hfly hmsg hfits hsaved a
    obtain ⟨hfab, hcore⟩ := hon
    obtain ⟨⟨cfg, hin⟩, hmem, hacks, hregs, hengs⟩ :=
      arrival_result (s := setDie s (core / 1024 + 1)) hcore hi hfly hmsg hsaved
    obtain ⟨hheader, hpayload⟩ := rdMem_writeMsg (writePad (setDie s (core / 1024 + 1))
      (reelBase s core i + (reelSize s core i - m.pad)) m.pad m.tag) a hfits
    refine ⟨_, effect_onCore hfab (opArrival · core i) rfl (keeps_opArrival core i (Keeps.refl _)).pending,
      congrArg InCh.flight hin, congrArg InCh.seq hin, congrArg InCh.used hin, ?_, ?_, hacks, hregs, hengs⟩
    · exact (rdMem_setDie ..).trans ((rdMem_congr hmem _ _).trans hheader)
    · exact (rdMem_setDie ..).trans ((rdMem_congr hmem _ _).trans hpayload)
  case ack =>
    intro s core o id seq off as r hon hacks hrun hkey
    obtain ⟨hfab, _⟩ := hon
    exact ⟨_, effect_onCore hfab (opAck · core o) rfl (keeps_opAck core o (Keeps.refl _)).pending,
      ack_result (s := setDie s (core / 1024 + 1)) hacks hrun hkey⟩
  case credit =>
    intro s core o h hs hon hret hidle x size
    obtain ⟨hfab, _⟩ := hon
    exact effect_onCore_anyDie hfab (opCredit · core o)
      (opCredit_counts (s := setDie s (core / 1024 + 1)) hret hidle) rfl rfl
  case timeout =>
    intro s core id r hon hfind hfence htime
    obtain ⟨hfab, _⟩ := hon
    exact ⟨_, effect_onCore hfab (opSendTimeout · core id) rfl (keeps_opSendTimeout core id (Keeps.refl _)).pending,
      timeout_result (s := setDie s (core / 1024 + 1)) hfind hfence htime⟩

/-! ### What reports leave of a channel's registers (R39, R60 to R63) -/

/-- Of the pages behind the JOB pages, whose JOB_EVT_STATUS moves too, only registers of the common header change. -/
def HeaderOnly (s t : State) : Prop :=
  ∀ p o, 48 ≤ p → ¬ (o / 8 % 512 ∈ [4, 6, 7, 9]) → reg t p o = reg s p o

theorem HeaderOnly.refl (s : State) : HeaderOnly s s := fun _ _ _ _ => rfl

theorem HeaderOnly.trans {s t u : State} (h : HeaderOnly s t) (h' : HeaderOnly t u) : HeaderOnly s u :=
  fun p o hp ho => (h' p o hp ho).trans (h p o hp ho)

theorem headerOnly_of_regs {s t : State} (h : t.regs = s.regs) : HeaderOnly s t := fun _ _ _ _ => by rw [reg, h, reg]

theorem headerOnly_setReg_header (s : State) (p v : Nat) {o : Nat} (ho : o / 8 % 512 ∈ [4, 6, 7, 9]) :
    HeaderOnly s (setReg s p o v) := by
  intro p' o' _ ho'
  refine reg_setReg_other _ _ _ _ _ _ (fun hkey => ho' ?_)
  rwa [← key_mod p' o', hkey, key_mod]

theorem headerOnly_setReg_evtStatus (s : State) {f : Nat} (hf : f < 16) (v : Nat) :
    HeaderOnly s (setReg s (pgJob f) 0x120 v) := by
  intro p o hp _
  exact reg_setReg_other _ _ _ _ _ _ (by unfold regKey pgJob; omega)

theorem headerOnly_setErrBit (s : State) (p b : Nat) (l : ErrLog) : HeaderOnly s (setErrBit s p b l) := by
  unfold setErrBit
  dsimp only
  split
  · exact ((headerOnly_setReg_header s p _ (by decide)).trans (headerOnly_setReg_header _ p _ (by decide))).trans
      (headerOnly_setReg_header _ p _ (by decide))
  · exact headerOnly_setReg_header s p _ (by decide)

theorem headerOnly_putRecord (s : State) {f : Nat} (hf : f < 16) (e : EvRec) : HeaderOnly s (putRecord s f e) := by
  unfold putRecord
  extract_lets st tail ph n base written tail' moved
  have hwritten : HeaderOnly s written := headerOnly_of_regs rfl
  obtain ⟨_, _, _, hregs, _⟩ := signal_frame moved f (if evIsError e.num then 1 else 0)
  exact (hwritten.trans (headerOnly_setReg_evtStatus _ hf _)).trans (headerOnly_of_regs hregs)

theorem headerOnly_overflowRecord (s : State) {f : Nat} (hf : f < 16) : HeaderOnly s (overflowRecord s f) := by
  unfold overflowRecord
  dsimp only
  split
  · exact (headerOnly_putRecord s hf _).trans (headerOnly_setReg_evtStatus _ hf _)
  · exact HeaderOnly.refl s

theorem headerOnly_deliverTo (s : State) {f : Nat} (hf : f < 16) (e : EvRec) : HeaderOnly s (deliverTo s f e) := by
  unfold deliverTo
  dsimp only
  split
  · split
    · exact (headerOnly_overflowRecord s hf).trans (headerOnly_putRecord _ hf e)
    · exact (headerOnly_overflowRecord s hf).trans (headerOnly_setReg_evtStatus _ hf _)
  · exact HeaderOnly.refl s

/-- An event is delivered to functions, of which there are 16. -/
theorem evTargets_lt {n f : Nat} {owners : List Nat} (h : f ∈ evTargets n owners) : f < 16 := by
  unfold evTargets upTo at h
  split at h
  · exact List.mem_range.1 h
  · exact List.mem_range.1 (List.mem_filter.1 h).1

theorem headerOnly_deliver (s : State) (owners : List Nat) (e : EvRec) : HeaderOnly s (deliver s owners e) :=
  List.foldlRecOn (motive := HeaderOnly s) _ _ (HeaderOnly.refl s)
    (fun u h _ hf => h.trans (headerOnly_deliverTo u (evTargets_lt hf) e))

theorem headerOnly_bump (s : State) (p i n : Nat) : HeaderOnly s (bump s p i n) := by
  have hcount : ∀ cs, HeaderOnly s { s with ctrs := cs } := fun _ => headerOnly_of_regs rfl
  unfold bump
  dsimp only
  split
  · split
    · split
      · exact (hcount _).trans (headerOnly_deliver _ _ _)
      · exact hcount _
    · exact hcount _
  · exact HeaderOnly.refl s

theorem headerOnly_aolAppend (s : State) (e : EvRec) : HeaderOnly s (aolAppend s e) := by
  unfold aolAppend
  extract_lets n counted written bumped
  have hwritten : HeaderOnly s written := headerOnly_of_regs rfl
  have hbumped : HeaderOnly s bumped := hwritten.trans (headerOnly_bump _ _ _ _)
  split
  · exact hbumped.trans (headerOnly_setErrBit _ _ _ _)
  · exact hbumped

theorem headerOnly_report (s : State) (enabled : Bool) (owners : List Nat) (e : EvRec) :
    HeaderOnly s (report s enabled owners e) := by
  unfold report
  extract_lets logged
  have hlogged : HeaderOnly s logged := by
    unfold logged
    split
    · exact headerOnly_aolAppend s e
    · exact HeaderOnly.refl s
  split
  · exact hlogged.trans (headerOnly_deliver _ _ _)
  · exact hlogged

theorem headerOnly_raiseEvt0 (s : State) (p b : Nat) (owners : List Nat) (status : Nat) (d : List Byte) :
    HeaderOnly s (raiseEvt0 s p b owners status d) := by
  have hset : ∀ v, HeaderOnly s (setReg s p 0x48 v) := fun v => headerOnly_setReg_header s p v (by decide)
  unfold raiseEvt0
  dsimp only
  split
  · split
    · split
      · exact hset _
      · exact (hset _).trans (headerOnly_report _ _ _ _)
    · exact hset _
  · exact hset _

theorem headerOnly_freezeOnError (s : State) (n : Nat) : HeaderOnly s (freezeOnError s n) := by
  have hfrozen : HeaderOnly s { s with traceFrozen := true } := headerOnly_of_regs rfl
  unfold freezeOnError freezeTrace
  split
  · split
    · exact HeaderOnly.refl s
    · exact (hfrozen.trans (headerOnly_bump _ _ _ _)).trans (headerOnly_raiseEvt0 _ _ _ _ _ _)
  · exact HeaderOnly.refl s

theorem headerOnly_raiseErr (s : State) (p b : Nat) (l : ErrLog) (owners : List Nat) (d : List Byte) :
    HeaderOnly s (raiseErr s p b l owners d) := by
  have hset := headerOnly_setErrBit s p b l
  unfold raiseErr
  dsimp only
  split
  · split
    · split
      · exact hset
      · exact (hset.trans (headerOnly_report _ _ _ _)).trans (headerOnly_freezeOnError _ _)
    · exact hset
  · exact hset

/-! ### Bindings (R192) -/

theorem chnRow_isSome {n k : Nat} (hn : n < 16) (hk : k ∈ [0x100, 0x300, 0x308]) :
    (regRow .chn (k + 0x20 * n)).isSome = true := by
  have rows : ∀ n < 16, ∀ k ∈ [0x100, 0x300, 0x308], (regRow .chn (k + 0x20 * n)).isSome = true := by decide
  exact rows n hn k hk

/-- A write of function 0 to a configuration register of a channel goes through the rules of the CHN page. -/
theorem effect_chnWrite {s t : State} {core n k v : Nat} (h : HostReach s (pgChn core)) (hcore : core < 2048) (hn : n < 16)
    (hk : k ∈ [0x100, 0x300, 0x308]) (hw : writeChn s core (k + 0x20 * n) v = t) (hp : t.pending = s.pending) :
    effect s (fun s => hostWrite s 0 (pgChn core) (k + 0x20 * n) v) = .next t := by
  have hk' : 0x100 ≤ k ∧ k < 0x310 ∧ k % 8 = 0 := by
    simp only [List.mem_cons, List.not_mem_nil, or_false] at hk
    omega
  refine effect_hostWrite h (by omega) (by omega) (Eq.trans ?_ hw) hp
  rw [writePage_eq_writeBlk (pageBlk_pgChn hcore) (by omega) (chnRow_isSome hn hk), writeBlk]

theorem writeChn_outCfg (s : State) (core v : Nat) {n : Nat} (hn : n < 16) :
    writeChn s core (0x100 + 0x20 * n) v = opOutCfg s core n v := by
  have hplace : (0x100 + 0x20 * n - 0x100) % 0x20 = 0 := by omega
  have hnumber : (0x100 + 0x20 * n - 0x100) / 0x20 = n := by omega
  rw [writeChn, if_neg (by omega), if_pos (by omega), if_pos hplace, hnumber]

theorem writeChn_inCfg (s : State) (core v : Nat) {n : Nat} (hn : n < 16) (reel : Bool) :
    writeChn s core ((if reel then 0x308 else 0x300) + 0x20 * n) v = opInCfg s core n reel v := by
  cases reel
  · have hplace : (0x300 + 0x20 * n - 0x300) % 0x20 = 0 := by omega
    have hnumber : (0x300 + 0x20 * n - 0x300) / 0x20 = n := by omega
    simp only [Bool.false_eq_true, if_false]
    rw [writeChn, if_neg (by omega), if_neg (by omega), hplace, hnumber]
    rfl
  · have hplace : (0x308 + 0x20 * n - 0x300) % 0x20 = 8 := by omega
    have hnumber : (0x308 + 0x20 * n - 0x300) / 0x20 = n := by omega
    simp only [if_true]
    rw [writeChn, if_neg (by omega), if_neg (by omega), hplace, hnumber]
    rfl

theorem exec_outCfg {s t : State} {core n : Nat} {v : W64} (h : HostReach s (pgChn core)) (hcore : core < 2048) (hn : n < 16)
    (hw : opOutCfg s core n v.toNat = t) (hp : t.pending = s.pending) : exec (.chnOutCfgWrite 0 core n v) s = .next t :=
  effect_chnWrite h hcore hn (by decide) ((writeChn_outCfg s core v.toNat hn).trans hw) hp

theorem exec_inCfg {s t : State} {core n : Nat} {reel : Bool} {v : W64} (h : HostReach s (pgChn core)) (hcore : core < 2048)
    (hn : n < 16) (hw : opInCfg s core n reel v.toNat = t) (hp : t.pending = s.pending) :
    exec (.chnInCfgWrite 0 core n reel v) s = .next t :=
  effect_chnWrite h hcore hn (by cases reel <;> decide) ((writeChn_inCfg s core v.toNat hn reel).trans hw) hp

/-- A rejected binding sets BIND_REJECTED, and no register behind the common header and no channel changes. -/
theorem bindRejected_frame (s : State) (core n : Nat) :
    let t := bindRejected s core n
    bit (reg t (pgChn core) 0x20) 9 = true ∧
      (∀ o, 0x100 ≤ o → o < 0x1000 → reg t (pgChn core) o = reg s (pgChn core) o) ∧ t.outChs = s.outChs ∧
      t.inChs = s.inChs ∧ t.pending = s.pending := by
  intro t
  have hreports : Reports s t := reports_raiseErr _ _ _ _ _ _
  refine ⟨raiseErr_bit _ _ _ _ _ _ (by decide), fun o hlo hhi => headerOnly_raiseErr _ _ _ _ _ _ _ _ ?_ ?_, ?_, ?_, ?_⟩
  · unfold pgChn pgCore pgRegion
    omega
  · simp only [List.mem_cons, List.not_mem_nil, or_false]
    omega
  · rw [hreports.rest]
  · rw [hreports.rest]
  · rw [hreports.rest]

/-- A field that lies in the mask reads the same behind it. -/
theorem bits_and {m lo w : Nat} (h : bits m lo w = 2 ^ w - 1) (v : Nat) : bits (v &&& m) lo w = bits v lo w := by
  unfold bits at h ⊢
  rw [Nat.shiftRight_and_distrib, Nat.and_mod_two_pow, h, Nat.and_two_pow_sub_one_eq_mod, Nat.mod_mod]

/-- A channel that leaves its inbound channel changes that one alone. -/
theorem unbindOut_rest (s : State) (core o : Nat) : unbindOut s core o = { s with inChs := (unbindOut s core o).inChs } := by
  unfold unbindOut
  dsimp only
  split <;> rfl

/-- An outbound channel that is not in use, bound to a matching inbound channel that no channel holds: both start from
zero, but for the acknowledgements that are on their way. -/
theorem opOutCfg_binds {s : State} {core o v : Nat} (hidle : outBusy s core o = false) (hvalid : bit v 0 = true)
    (hmatch : targetMatches s (v &&& 0xFF7FF003F) = true) (hfree : (inOf s (bits v 16 11) (bits v 28 4)).peer = 0) :
    opOutCfg s core o v =
      setIn (setOut (setReg (unbindOut s core o) (pgChn core) (0x100 + 0x20 * o) (v &&& 0xFF7FF003F)) core o
        { acks := (outOf s core o).acks }) (bits v 16 11) (bits v 28 4) { peer := core * 16 + o + 1 } := by
  have hcore : bits (v &&& 0xFF7FF003F) 16 11 = bits v 16 11 := bits_and (by decide) v
  have hch : bits (v &&& 0xFF7FF003F) 28 4 = bits v 28 4 := bits_and (by decide) v
  have hvalid' : bit (v &&& 0xFF7FF003F) 0 = true := by
    unfold bit at hvalid ⊢
    rw [Nat.testBit_and, hvalid]
    rfl
  have hacks : outOf (setReg (unbindOut s core o) (pgChn core) (0x100 + 0x20 * o) (v &&& 0xFF7FF003F)) core o =
      outOf s core o := by
    rw [unbindOut_rest]
    rfl
  simp only [opOutCfg, hidle, hcore, hch, hvalid', hmatch, hfree, hacks]
  rfl

theorem opOutCfg_busy {s : State} {core o : Nat} (h : outBusy s core o = true) (v : Nat) :
    opOutCfg s core o v = bindRejected s core o := if_pos h

theorem opInCfg_busy {s : State} {core i : Nat} (h : inBusy s core i = true) (reel : Bool) (v : Nat) :
    opInCfg s core i reel v = bindRejected s core (16 + i) := if_pos h

/-- The configuration of an inbound channel that is not in use is stored, and its reel where the size is legal. -/
theorem opInCfg_idle {s : State} {core i : Nat} (h : inBusy s core i = false) (v : Nat) :
    opInCfg s core i false v = setReg s (pgChn core) (0x300 + 0x20 * i) (v &&& 0xF3FF) ∧
      (reelLegal v = true → opInCfg s core i true v = setReg s (pgChn core) (0x308 + 0x20 * i) (v &&& 0x7FF01FF01FF)) ∧
      (reelLegal v = false → opInCfg s core i true v = s) := by
  refine ⟨?_, fun hlegal => ?_, fun hillegal => ?_⟩
  · simp only [opInCfg, h]
    rfl
  · simp only [opInCfg, h, hlegal]
    rfl
  · simp only [opInCfg, h, hillegal]
    rfl

/-- Settles O30: the write reaches its channel, whose use decides between the binding and BIND_REJECTED. -/
theorem channelBindingTakesUnusedChannels : Obligations.ChannelBindingTakesUnusedChannels := by
  intro s core n v h hcore hn dc di
  refine ⟨fun hidle hvalid hmatch hfree => ?_, fun hbusy => ?_, fun hidle => ?_, fun hbusy reel => ?_⟩
  · have hw := opOutCfg_binds hidle hvalid hmatch hfree
    rw [unbindOut_rest] at hw
    refine ⟨_, exec_outCfg h hcore hn hw rfl, ?_, mapGet_mapPut_same _, mapGet_mapPut_same _, rfl, rfl⟩
    refine (reg_setReg_same _ _ _ _).trans (Nat.mod_eq_of_lt ?_)
    exact Nat.lt_of_le_of_lt Nat.and_le_right (by decide)
  · obtain ⟨hbit, hregs, hout, hin, hpend⟩ := bindRejected_frame s core n
    exact ⟨_, exec_outCfg h hcore hn (opOutCfg_busy hbusy _) hpend, hbit, hregs _ (by omega) (by omega), hout, hin⟩
  · obtain ⟨hcfg, hlegal, hillegal⟩ := opInCfg_idle hidle v.toNat
    exact ⟨exec_inCfg h hcore hn hcfg rfl, fun hreel => exec_inCfg h hcore hn (hlegal hreel) rfl,
      fun hreel => exec_inCfg h hcore hn (hillegal hreel) rfl⟩
  · obtain ⟨hbit, hregs, hout, hin, hpend⟩ := bindRejected_frame s core (16 + n)
    exact ⟨_, exec_inCfg h hcore hn (opInCfg_busy hbusy _ _) hpend, hbit, hregs _ (by omega) (by omega), hout, hin⟩

end Sys2Proof.MessageChannels

/-! PROOFS. Parameter state and update (chapter "Parameter state and update"): what an update engine's work leaves of the
records of the update engines, its runs, notices and publications, and the repair of replicas. -/
namespace Sys2Proof.ParameterUpdate
open Sys2Proof.Machine Sys2Proof.Laws Sys2Proof.Stated

/-! ### Engines of a region and of the hub -/

theorem effect_onRegion {s : State} {r : Nat} (h : FabricOn s) (f : State → State) (hf : Keeps s (atDie (r / 16) f s)) :
    effect s (fun s => onRegion s r f) = .next (atDie (r / 16) f s) := by
  refine effect_eq (fun s => onRegion s r f) ?_ hf.pending
  rw [onRegion, acting_eq h]
  rfl

theorem effect_onHub {s : State} (h : FabricOn s) (f : State → State) (hf : Keeps s (f s)) :
    effect s (fun s => onHub s f) = .next (f s) :=
  effect_eq (fun s => onHub s f) (onHub_eq h f) hf.pending

/-- What an engine's effect keeps on its die, it keeps. -/
theorem keeps_atDie {d : Nat} {f : State → State} {s : State} (h : Keeps (onDie s d) (f (onDie s d))) :
    Keeps s (atDie d f s) :=
  ⟨h.pending, fun _ => rfl, h.mem, h.regs, h.bad, h.fuses⟩

/-- An effect to which the die does not matter. -/
theorem atDie_eq {s t : State} {d : Nat} {f : State → State} (h : f (onDie s d) = onDie t d) (ht : t.actDie = 0) :
    atDie d f s = t := by
  rw [atDie, h]
  exact setDie_of_eq ht

/-! ### What leaves the records of the update engines alone -/

/-- The records of the update engines, the notices, the mailbox slots that groups hold and what was sent for repairs are as
they were. -/
structure UpdateKept (s t : State) : Prop where
  upfs : t.upfs = s.upfs
  notices : t.notices = s.notices
  boxes : t.mboxHeld = s.mboxHeld
  sent : t.repairOut = s.repairOut

namespace UpdateKept

theorem refl (s : State) : UpdateKept s s := ⟨rfl, rfl, rfl, rfl⟩

theorem trans {s t u : State} (h : UpdateKept s t) (h' : UpdateKept t u) : UpdateKept s u :=
  ⟨h'.upfs.trans h.upfs, h'.notices.trans h.notices, h'.boxes.trans h.boxes, h'.sent.trans h.sent⟩

theorem foldl {β : Type} {f : State → β → State} (h : ∀ s x, UpdateKept s (f s x)) (l : List β) (s : State) :
    UpdateKept s (l.foldl f s) :=
  List.foldlRecOn (motive := UpdateKept s) l f (refl s) (fun t ht x _ => ht.trans (h t x))

theorem foldl_fst {β γ : Type} {f : State × γ → β → State × γ} (h : ∀ p x, UpdateKept p.1 (f p x).1) (l : List β)
    (p : State × γ) : UpdateKept p.1 (l.foldl f p).1 :=
  List.foldlRecOn (motive := fun q => UpdateKept p.1 q.1) l f (refl p.1) (fun q hq x _ => hq.trans (h q x))

theorem upfOf_eq {s t : State} (h : UpdateKept s t) (r : Nat) : upfOf t r = upfOf s r := by
  rw [upfOf, h.upfs, upfOf]

end UpdateKept

theorem updateKept_of_reports {s t : State} (h : Reports s t) : UpdateKept s t :=
  ⟨by rw [h.rest], by rw [h.rest], by rw [h.rest], by rw [h.rest]⟩

theorem updateKept_bump (s : State) (page i n : Nat) : UpdateKept s (bump s page i n) :=
  updateKept_of_reports (reports_bump s page i n)

theorem updateKept_raiseErr (s : State) (page b : Nat) (l : ErrLog) (owners : List Nat) (detail : List Byte) :
    UpdateKept s (raiseErr s page b l owners detail) :=
  updateKept_of_reports (reports_raiseErr s page b l owners detail)

theorem updateKept_wrMem (s : State) (a : Nat) (bs : List Byte) : UpdateKept s (wrMem s a bs) := ⟨rfl, rfl, rfl, rfl⟩

theorem updateKept_setReg (s : State) (page off v : Nat) : UpdateKept s (setReg s page off v) := ⟨rfl, rfl, rfl, rfl⟩

theorem updateKept_free (s : State) (n : Nat) : UpdateKept s { s with free := n } := ⟨rfl, rfl, rfl, rfl⟩

theorem updateKept_countUe (s : State) (a : Nat) : UpdateKept s (countUe s a) := by
  have hcount : ∀ p v, UpdateKept s (setRegF (bump s p 3 1) p 0x110 8 8 v) := fun p _ =>
    (updateKept_bump s p 3 1).trans (updateKept_setReg _ p _ _)
  have hfence : ∀ t p c, UpdateKept t (fenceChan t p c) := fun t p c => by
    unfold fenceChan
    split
    · exact .refl t
    · exact (updateKept_setReg t p _ _).trans (updateKept_raiseErr _ _ _ _ _ _)
  unfold countUe
  dsimp only
  split
  · exact .refl s
  · split
    · exact (hcount _ _).trans (hfence _ _ _)
    · exact hcount _ _

theorem updateKept_uncorrFab (s : State) (a job : Nat) (w : Bool) : UpdateKept s (uncorrFab s a job w) := by
  unfold uncorrFab
  split
  · exact (updateKept_raiseErr _ _ _ _ _ _).trans (updateKept_countUe _ _)
  · exact (updateKept_bump _ _ _ _).trans (updateKept_raiseErr _ _ _ _ _ _)

theorem updateKept_stateUncorr (s : State) (page g job : Nat) : UpdateKept s (stateUncorr s page g job) :=
  (updateKept_uncorrFab _ _ _ _).trans (updateKept_raiseErr _ _ _ _ _ _)

/-! #### The pipeline engine settles (R241 to R244) -/

theorem updateKept_finish (s : State) (r : RCmd) (status : Nat) (result : List Byte) :
    UpdateKept s (finish s r status result) := ⟨rfl, rfl, rfl, rfl⟩

theorem updateKept_endCmds (s : State) (r op status : Nat) : UpdateKept s (endCmds s r op status) :=
  .foldl (fun t x => updateKept_finish t x status []) _ s

theorem updateKept_endStep (s : State) (r : Nat) (c : PStep) (status : Nat) : UpdateKept s (endStep s r c status) := by
  unfold endStep
  split
  · exact .refl s
  · exact updateKept_finish _ _ _ _

theorem updateKept_setPse (s : State) (r : Nat) (p : Pse) : UpdateKept s (setPse s r p) := ⟨rfl, rfl, rfl, rfl⟩

theorem updateKept_becomeDrained (s : State) (r : Nat) : UpdateKept s (becomeDrained s r) :=
  ((updateKept_setPse s r _).trans (updateKept_endCmds _ _ _ _)).trans (updateKept_of_reports (reports_raiseEvt _ _ _ _ _ _))

theorem updateKept_settleFail (s : State) (r : Nat) : UpdateKept s (settleFail s r) := by
  unfold settleFail
  dsimp only
  split
  · exact .refl s
  · split
    · have hended : ∀ c st p, UpdateKept s (setPse (endStep s r c st) r p) := fun c st p =>
        (updateKept_endStep s r c st).trans (updateKept_setPse _ r p)
      split
      · exact (hended _ _ _).trans (updateKept_becomeDrained _ _)
      · exact hended _ _ _
    · exact .refl s

theorem updateKept_settleStep (s : State) (r : Nat) : UpdateKept s (settleStep s r) := by
  unfold settleStep
  dsimp only
  split
  · exact .refl s
  · split
    · have hended : ∀ c st p, UpdateKept s (setPse (endStep s r c st) r p) := fun c st p =>
        (updateKept_endStep s r c st).trans (updateKept_setPse _ r p)
      split
      · exact (hended _ _ _).trans (updateKept_becomeDrained _ _)
      · split
        · exact hended _ _ _
        · exact (hended _ _ _).trans (updateKept_setPse _ _ _)
    · exact .refl s

theorem updateKept_settleDrain (s : State) (r : Nat) : UpdateKept s (settleDrain s r) := by
  unfold settleDrain
  dsimp only
  split
  · exact updateKept_becomeDrained s r
  · exact .refl s

theorem updateKept_settleAbort (s : State) (r : Nat) : UpdateKept s (settleAbort s r) := by
  unfold settleAbort
  dsimp only
  split
  · exact (updateKept_setPse _ _ _).trans (updateKept_endCmds _ _ _ _)
  · exact .refl s

theorem updateKept_pseSettle (s : State) (r : Nat) : UpdateKept s (pseSettle s r) :=
  (((updateKept_settleFail s r).trans (updateKept_settleStep _ r)).trans (updateKept_settleDrain _ r)).trans
    (updateKept_settleAbort _ r)

/-! #### A group is treated (R263, R266, R281) -/

theorem updateKept_updElem (u : UCtx) (d : GDesc) (norm ga e : Nat) (s : State) :
    UpdateKept s (updElem u d norm ga s e).1 := by
  unfold updElem
  extract_lets bf env o put cnt
  have hput : ∀ t a v, UpdateKept t (put t a v) := fun t a v => by
    cases v
    · exact .refl t
    · exact updateKept_wrMem _ _ _
  exact ((hput _ _ _).trans (hput _ _ _)).trans (hput _ _ _)

theorem updateKept_updElems (u : UCtx) (d : GDesc) (norm ga : Nat) (p : Nat → Bool) (s : State) :
    UpdateKept s (updElems u d norm ga p s).1 := by
  refine UpdateKept.foldl_fst (fun a e => ?_) _ (s, 0)
  split
  · exact updateKept_updElem u d norm ga e a.1
  · exact .refl a.1

theorem updateKept_quantiseTo (s : State) (d : GDesc) (slot job : Nat) : UpdateKept s (quantiseTo s d slot job).1 := by
  unfold quantiseTo
  split
  · exact updateKept_uncorrFab _ _ _ _
  · unfold quantise
    exact UpdateKept.foldl (fun t _ => (updateKept_wrMem t _ _).trans (updateKept_wrMem _ _ _)) _ s

theorem updateKept_undefRows (stride rb : Nat) : ∀ (n a : Nat) (s : State), UpdateKept s (undefRows s n a stride rb)
  | 0, _, s => .refl s
  | n + 1, a, s => ((updateKept_wrMem s a (undefBytes s.free rb)).trans (updateKept_free _ (s.free + 1))).trans
    (updateKept_undefRows stride rb n (a + stride) _)

theorem updateKept_tornUpdate (u : UCtx) (d : GDesc) (norm ga slot : Nat) (s : State) :
    UpdateKept s (tornUpdate u d norm ga slot s).1 :=
  ((updateKept_free s (s.free + 1)).trans (updateKept_updElems u d norm ga _ _)).trans (updateKept_undefRows _ _ _ _ _)

theorem updateKept_skipGroup (s : State) (r j step slot job : Nat) (prev : Option Nat) (d : GDesc) :
    UpdateKept s (skipGroup s r j step slot job prev d).1 := by
  have hlogged : ∀ g w, UpdateKept s (keepDigest (uncorrFab s g job w) r j step) := fun g w =>
    (updateKept_uncorrFab s g job w).trans (updateKept_wrMem _ _ _)
  unfold skipGroup
  split
  · split
    · exact (updateKept_wrMem _ _ _).trans (updateKept_wrMem _ _ _)
    · exact (hlogged _ _).trans (updateKept_undefRows _ _ _ _ _)
    · exact hlogged _ _
  · split
    · exact updateKept_undefRows _ _ _ _ _
    · exact (updateKept_quantiseTo _ _ _ _).trans (updateKept_wrMem _ _ _)

theorem updateKept_updGroup (u : UCtx) (r j slot job norm ga : Nat) (d : GDesc) (s : State) :
    UpdateKept s (updGroup u r j slot job norm ga d s).1 := by
  unfold updGroup
  split
  · exact updateKept_tornUpdate _ _ _ _ _ _
  · exact ((updateKept_updElems _ _ _ _ _ _).trans (updateKept_quantiseTo _ _ _ _)).trans (updateKept_wrMem _ _ _)

theorem updateKept_applyNGroup (s : State) (n : Notice) (g : NGroup) : UpdateKept s (applyNGroup s n g).1 := by
  unfold applyNGroup
  extract_lets d r ga torn upd t
  have hupd : UpdateKept s upd.1 := by
    unfold upd
    split
    · exact updateKept_tornUpdate _ _ _ _ _ _
    · exact updateKept_updGroup _ _ _ _ _ _ _ _ _
  have ht : UpdateKept s t.1 := by
    unfold t
    split
    · dsimp only
      split
      · exact hupd
      · exact hupd.trans (updateKept_bump _ _ _ _)
    · exact updateKept_skipGroup _ _ _ _ _ _ _ _
  split
  · dsimp only
    exact (ht.trans (updateKept_stateUncorr _ _ _ _)).trans (updateKept_bump _ _ _ _)
  · exact ht

/-! #### Messages of the digest block (R275 to R277) -/

theorem updateKept_digSend (s : State) (r dest kind n step : Nat) (bs : List Byte) :
    UpdateKept s (digSend s r dest kind n step bs) := by
  unfold digSend sendMsgTo sendMsgVia sendVia sendEpoch
  split
  · exact .refl s
  · split
    · exact .refl s
    · dsimp only
      split
      · exact .refl s
      · exact ⟨rfl, rfl, rfl, rfl⟩

theorem updateKept_digestsGo (s : State) (r step : Nat) : UpdateKept s (digestsGo s r step) := by
  unfold digestsGo
  split
  · exact .refl s
  · split
    · exact .refl s
    · exact (updateKept_digSend _ _ _ _ _ _ _).trans ⟨rfl, rfl, rfl, rfl⟩

/-! ### What a run changes of its engine's record (R260) -/

/-- The newest step and the step of the last run are as they were, in every update engine. -/
def StepsKept (s t : State) : Prop :=
  ∀ r, (upfOf t r).lastStep = (upfOf s r).lastStep ∧ (upfOf t r).newest = (upfOf s r).newest

namespace StepsKept

theorem refl (s : State) : StepsKept s s := fun _ => ⟨rfl, rfl⟩

theorem trans {s t u : State} (h : StepsKept s t) (h' : StepsKept t u) : StepsKept s u := fun r =>
  ⟨(h' r).1.trans (h r).1, (h' r).2.trans (h r).2⟩

end StepsKept

theorem UpdateKept.steps {s t : State} (h : UpdateKept s t) : StepsKept s t := fun r => by
  rw [h.upfOf_eq]
  exact ⟨rfl, rfl⟩

theorem stepsKept_setUpf (s : State) (r : Nat) {u : Upf}
    (hlast : u.lastStep = (upfOf s r).lastStep := by rfl) (hnewest : u.newest = (upfOf s r).newest := by rfl) :
    StepsKept s (setUpf s r u) := by
  intro q
  rw [upfOf_setUpf]
  split
  · next h => rw [h]; exact ⟨hlast, hnewest⟩
  · exact ⟨rfl, rfl⟩

theorem stepsKept_setUpfRun (s : State) (r : Nat) (x : UpfRun) : StepsKept s (setUpfRun s r x) :=
  stepsKept_setUpf s r

theorem stepsKept_upfEnd (s : State) (r status : Nat) (result : List Byte) :
    StepsKept s (upfEnd s r status result) := by
  have hleaves : ∀ t, StepsKept t (pseSettle (setUpf t r { upfOf t r with run := none }) r) := fun t =>
    (stepsKept_setUpf t r).trans (updateKept_pseSettle _ r).steps
  unfold upfEnd
  split
  · exact hleaves s
  · exact (updateKept_finish s _ status result).steps.trans (hleaves _)

theorem stepsKept_normEnd (s : State) (r : Nat) (x : UpfRun) : StepsKept s (normEnd s r x) := by
  have hcounted : ∀ t i v, StepsKept t (if v = 0 then t else bump t (pgUpf r) i v) := fun t i v => by
    split
    · exact .refl t
    · exact (updateKept_bump _ _ _ _).steps
  unfold normEnd
  extract_lets all y t
  have ht : StepsKept s t := stepsKept_setUpfRun s r _
  split
  · exact ht
  · exact (((ht.trans (updateKept_setReg _ _ _ _).steps).trans (hcounted _ _ _)).trans (hcounted _ _ _)).trans
      (updateKept_of_reports (reports_raiseEvt _ _ _ _ _ _)).steps

theorem stepsKept_normGo (r : Nat) : ∀ (fuel : Nat) (s : State) (x : UpfRun), StepsKept s (normGo fuel s r x)
  | 0, s, _ => .refl s
  | fuel + 1, s, x => by
    unfold normGo
    dsimp only
    split
    · exact stepsKept_normEnd s r x
    · split
      · split
        · exact (updateKept_uncorrFab _ _ _ _).steps.trans (stepsKept_upfEnd _ _ _ _)
        · exact (stepsKept_setUpf s r).trans (stepsKept_normGo r fuel _ _)
      · exact .refl s

theorem stepsKept_openGo (s : State) (r : Nat) (x : UpfRun) (p : Pse) : StepsKept s (versionGo.openGo r x s p) := by
  unfold versionGo.openGo
  split
  · exact .refl s
  · dsimp only
    split
    · exact stepsKept_upfEnd _ _ _ _
    · split
      · exact stepsKept_upfEnd _ _ _ _
      · exact (updateKept_setPse _ _ _).steps.trans (stepsKept_setUpfRun _ _ _)

theorem stepsKept_versionGo (s : State) (r : Nat) (x : UpfRun) : StepsKept s (versionGo s r x) := by
  unfold versionGo
  dsimp only
  split
  · split
    · split
      · exact (updateKept_setPse _ _ _).steps.trans (stepsKept_upfEnd _ _ _ _)
      · exact stepsKept_upfEnd _ _ _ _
    · exact stepsKept_openGo _ _ _ _
  · exact stepsKept_openGo _ _ _ _

theorem stepsKept_barVersion (s : State) (job step : Nat) : StepsKept s (barVersion s job step) :=
  List.foldlRecOn (motive := StepsKept s) _ _ (.refl s) (fun t ht r _ => ht.trans (stepsKept_setUpf t r))

theorem stepsKept_digSplit (s : State) (r step first distinct reported groups : Nat) :
    StepsKept s (digSplit s r step first distinct reported groups) :=
  (((stepsKept_barVersion s _ step).trans (updateKept_setReg _ _ _ _).steps).trans
    ((updateKept_setReg _ _ _ _).trans (updateKept_bump _ _ _ _)).steps).trans (updateKept_raiseErr _ _ _ _ _ _).steps

theorem stepsKept_tornGroups (s : State) (r job step : Nat) (groups : List Nat) :
    StepsKept s (tornGroups s r job step groups) := by
  unfold tornGroups
  split
  · exact .refl s
  · split
    · exact stepsKept_digSplit _ _ _ _ _ _ _
    · exact (UpdateKept.foldl (fun _ _ => updateKept_digSend _ _ _ _ _ _ _) _ s).steps

theorem stepsKept_freeBoxes (s : State) (boxes : List Nat) : StepsKept s (freeBoxes s boxes) := fun _ => ⟨rfl, rfl⟩

theorem stepsKept_treatGroup {s t : State} {r : Nat} {x : UpfRun} {i : Nat} (h : treatGroup s r x i = some t) :
    StepsKept s t := by
  have hfails : ∀ g w bs, StepsKept s (upfEnd (freeBoxes (uncorrFab s g x.job w) bs) r stUncorr []) := fun g w bs =>
    (updateKept_uncorrFab s g x.job w).steps.trans ((stepsKept_freeBoxes _ bs).trans (stepsKept_upfEnd _ _ _ _))
  unfold treatGroup at h
  extract_lets d j dec next box skipped updated at h
  have hnext : ∀ u o, StepsKept u (next u o) := fun u o => by
    refine StepsKept.trans ?_ (stepsKept_setUpfRun _ r _)
    cases o with
    | torn g => exact ((updateKept_stateUncorr u _ g _).trans (updateKept_bump _ _ _ _)).steps
    | whole => exact .refl u
    | lost => exact .refl u
  clear_value next
  split at h
  · split at h
    · exact Option.some.inj h ▸ hnext s _
    · split at h
      · cases h
      · split at h
        · exact Option.some.inj h ▸ hfails _ _ _
        · exact Option.some.inj h ▸ hfails _ _ _
        · have hcopied : ∀ a bs, StepsKept s (wrMem { s with mboxHeld := setAdd s.mboxHeld box } a bs) :=
            fun _ _ _ => ⟨rfl, rfl⟩
          exact Option.some.inj h ▸ (hcopied _ _).trans (hnext _ _)
  · split at h
    · cases h
    · split at h
      · exact Option.some.inj h ▸ (updateKept_skipGroup s _ _ _ _ _ _ d).steps.trans (hnext _ _)
      · refine Option.some.inj h ▸ StepsKept.trans ?_ (hnext _ _)
        have hupd := updateKept_updGroup (ucRun x) r j x.slotAddr x.job dec.2 d.grad d s
        split
        · exact hupd.steps
        · exact (hupd.trans (updateKept_bump _ _ _ _)).steps

theorem stepsKept_runEnd (s : State) (r : Nat) (x : UpfRun) : StepsKept s (runEnd s r x) := by
  unfold runEnd
  extract_lets ng noted y u left
  have hnoted : StepsKept s noted := by
    unfold noted
    split
    · exact .refl s
    · refine .trans ?_ (stepsKept_tornGroups _ r x.job x.step x.torn)
      split
      · exact .refl s
      · exact fun _ => ⟨rfl, rfl⟩
  have hleft : StepsKept noted left := by
    unfold left
    split
    · exact .refl noted
    · exact stepsKept_setUpf noted r
  split
  · exact .refl s
  · split
    · exact hnoted.trans (stepsKept_setUpfRun _ _ _)
    · exact ((hnoted.trans hleft).trans (updateKept_digestsGo _ _ _).steps).trans (stepsKept_upfEnd _ _ _ _)

theorem stepsKept_updatePass (r : Nat) : ∀ (fuel : Nat) (s : State), StepsKept s (updatePass fuel s r)
  | 0, s => .refl s
  | fuel + 1, s => by
    unfold updatePass
    split
    · exact .refl s
    · split
      · exact .refl s
      · split
        · exact stepsKept_runEnd _ _ _
        · split
          · exact .refl s
          · next h => exact (stepsKept_treatGroup h).trans (stepsKept_updatePass r fuel _)

theorem stepsKept_upfGo (s : State) (r : Nat) : StepsKept s (upfGo s r) := by
  have hversion : ∀ t x, StepsKept t (if x.pass = 1 then versionGo t r x else t) := fun t x => by
    split
    · exact stepsKept_versionGo _ _ _
    · exact .refl t
  have hnorm : ∀ x, StepsKept s (if x.pass = 0 then normGo (x.descs.length + 1) s r x else s) := fun x => by
    split
    · exact stepsKept_normGo _ _ _ _
    · exact .refl s
  unfold upfGo
  split
  · exact .refl s
  · dsimp only
    split
    · exact hnorm _
    · exact ((hnorm _).trans (hversion _ _)).trans (stepsKept_updatePass _ _ _)

/-! ### UPD_RUN and landing reports (R259 to R261) -/

theorem upfGo_idle {s : State} {r : Nat} (h : (upfOf s r).run = none) : upfGo s r = s := by
  rw [upfGo, h]

theorem updatePass_otherPass {s : State} {r : Nat} {x : UpfRun} (h : (upfOf s r).run = some x) (hpass : x.pass ≠ 2) :
    ∀ fuel, updatePass fuel s r = s
  | 0 => rfl
  | fuel + 1 => by
    rw [updatePass, h]
    exact if_pos hpass

/-- The norm pass waits for the landing area of its first group. -/
theorem upfGo_waits {s : State} {r : Nat} {x : UpfRun} (h : (upfOf s r).run = some x) (hpass : x.pass = 0)
    (hdecs : x.decs = []) (hgroups : 1 ≤ x.descs.length)
    (hland : (upfOf s r).landed.contains (x.first, x.step) = false) : upfGo s r = s := by
  have hnorm : normGo (x.descs.length + 1) s r x = s := by
    rw [normGo, hdecs, List.length_nil]
    dsimp only
    rw [if_neg (by omega), Nat.add_zero, hland]
    rfl
  rw [upfGo, h]
  dsimp only
  rw [if_pos hpass, hnorm, h]
  dsimp only
  rw [if_neg (by omega)]
  exact updatePass_otherPass h (by omega) _

/-- A run that has passed R260's checks stands in its engine. -/
def admitted (s : State) (r : Nat) (y : RCmd) : State :=
  let x := runOf s r y.cmd
  setUpf (setRun s (pgUpf r * 2) { y with prog := 1 }) r { upfOf s r with
    run := some { x with pass := b2n x.init }, lastStep := x.step, lastDescs := runDescs x
    newest := some (match (upfOf s r).newest with | none => x.step | some k => max k x.step) }

theorem upfOf_admitted (s : State) (r : Nat) (y : RCmd) :
    (upfOf (admitted s r y) r).lastStep = (runOf s r y.cmd).step ∧
      (upfOf (admitted s r y) r).newest =
        some (match (upfOf s r).newest with | none => (runOf s r y.cmd).step | some k => max k (runOf s r y.cmd).step) ∧
      (upfOf (admitted s r y) r).landed = (upfOf s r).landed ∧
      (upfOf (admitted s r y) r).run = some { runOf s r y.cmd with pass := b2n (runOf s r y.cmd).init } := by
  rw [admitted, upfOf_setUpf, if_pos rfl]
  exact ⟨rfl, rfl, rfl, rfl⟩

theorem admitted_frame (s : State) (r : Nat) (y : RCmd) :
    (admitted s r y).mem = s.mem ∧ (admitted s r y).regs = s.regs ∧ (admitted s r y).pses = s.pses := ⟨rfl, rfl, rfl⟩

section
variable {s : State} {r : Nat} {init : Bool} {y : RCmd}
  (hrun : engRun s (pgUpf r * 2) (fun y => bit (bf y.cmd 44 1) 1 == init) = some y) (hprog : y.prog = 0)
  (hpubs : (upfOf s r).pubs.length < 3)
include hrun hprog hpubs

theorem opUpdRun_admits (hcheck : runCheck s r y.cmd (runOf s r y.cmd) = none) :
    opUpdRun s r init = upfGo (admitted s r y) r := by
  rw [opUpdRun, hrun]
  dsimp only
  rw [if_pos hprog, updBegin]
  dsimp only
  rw [if_neg (by omega), hcheck]
  rfl

theorem opUpdRun_refuses {st : Nat} (hcheck : runCheck s r y.cmd (runOf s r y.cmd) = some (st, none)) :
    opUpdRun s r init = finish s y st [] := by
  rw [opUpdRun, hrun]
  dsimp only
  rw [if_pos hprog, updBegin]
  dsimp only
  rw [if_neg (by omega), hcheck]

end

theorem descs_runOf (s : State) (r : Nat) (c : QCmd) : (runOf s r c).descs.length = bf c 42 2 := by
  simp [runOf, upTo]

theorem exec_updRun (s : State) (r : Nat) (init : Bool) :
    exec (if init then .updRunInit r else .updRun r) s = effect s (fun s => onRegion s r (fun s => opUpdRun s r init)) := by
  cases init <;> rfl

theorem opLanding_lands {s : State} {r group : Nat} {l : Nat × Nat × Nat}
    (h : s.landReports.find? (fun l => l.1 == r && l.2.1 == group) = some l) :
    opLanding s r group = upfGo (setUpf { s with landReports := s.landReports.filter (fun y => y != l) } r
      { upfOf s r with landed := (upfOf s r).landed ++ [(group, l.2.2)] }) r := by
  rw [opLanding, h]
  rfl

/-! ### Notices (R270 to R272) -/

theorem tornGroups_notices (s : State) (r job step : Nat) (groups : List Nat) :
    (tornGroups s r job step groups).notices = s.notices := by
  have hbarred : (barVersion s (pseJob s r) step).notices = s.notices :=
    List.foldlRecOn (motive := fun t : State => t.notices = s.notices) _ _ rfl (fun _ ht _ _ => ht)
  unfold tornGroups
  split
  · rfl
  · split
    · exact ((updateKept_bump _ _ _ _).trans (updateKept_raiseErr _ _ _ _ _ _)).notices.trans hbarred
    · exact (UpdateKept.foldl (fun _ _ => updateKept_digSend _ _ _ _ _ _ _) _ s).notices

theorem noteTorn_nil (s : State) (n : Notice) : noteTorn s n [] = s := by
  rw [noteTorn]
  exact if_pos rfl

theorem noteTorn_notices (s : State) (n : Notice) (torn : List Nat) : (noteTorn s n torn).notices = s.notices := by
  unfold noteTorn
  dsimp only
  split
  · rfl
  · exact tornGroups_notices _ _ _ _ _

/-- What the UPS carries from group to group of a notice: the state, and the groups that it found torn. -/
def applyStep (n : Notice) (a : State × List Nat) (g : NGroup) : State × List Nat :=
  ((applyNGroup a.1 n g).1, match (applyNGroup a.1 n g).2 with | .torn _ => a.2 ++ [g.idx] | _ => a.2)

/-- The state in which the groups of the notice at the head of the queue are applied. -/
def noticeTaken (s : State) (n : Notice) (ns : List Notice) : State :=
  { s with notices := { n with started := true } :: ns }

theorem fencedBlk_noticeTaken (s : State) (n : Notice) (ns : List Notice) :
    ∀ k b, fencedBlk (noticeTaken s n ns) k b = fencedBlk s k b
  | 0, _ => rfl
  | k + 1, b => by
    rw [fencedBlk, fencedBlk, fencedBlk_noticeTaken s n ns k]
    rfl

theorem fabBad_noticeTaken (s : State) (n : Notice) (ns : List Notice) (a k : Nat) :
    fabBad (noticeTaken s n ns) a k = fabBad s a k := by
  rw [fabBad, fencedBlk_noticeTaken]
  rfl

theorem fabBadW_noticeTaken (s : State) (n : Notice) (ns : List Notice) (a k : Nat) :
    fabBadW (noticeTaken s n ns) a k = fabBadW s a k := by
  rw [fabBadW, fencedBlk_noticeTaken]
  rfl

section
variable {s : State} {n : Notice} {ns : List Notice} (hhead : s.notices = n :: ns)
include hhead

section
variable (hfresh : n.started = false) (hup : s.tierDown = false) (htrained : s.tierTraining = false)
  (hfree : tierHolds s = false) (hclosed : repairOpen s n.region n.step = false)
include hfresh hup htrained hfree hclosed

theorem opNoticeStart_applies : opNoticeStart s =
    noteTorn (n.groups.foldl (applyStep n) (noticeTaken s n ns, [])).1 n
      (n.groups.foldl (applyStep n) (noticeTaken s n ns, [])).2 := by
  rw [opNoticeStart, hhead]
  exact if_neg (by simp [hfresh, hup, htrained, hfree, hclosed])

theorem opNoticeStart_notices : (opNoticeStart s).notices = { n with started := true } :: ns := by
  rw [opNoticeStart_applies hhead hfresh hup htrained hfree hclosed, noteTorn_notices]
  exact (UpdateKept.foldl_fst (f := applyStep n) (fun p g => updateKept_applyNGroup p.1 n g) n.groups _).notices

/-- A group that is skipped takes its tiles from the previous slot, and its digest is written anew (R272). -/
theorem opNoticeStart_skips {g : NGroup} {p : Nat} (hone : n.groups = [g]) (hskip : g.dec = 2)
    (hprev : n.prevAddr = some p) (hread : fabBad s (p + (gdescOf g.desc).sq8) (sq8Bytes (gdescOf g.desc)) = none)
    (hwrite : fabBadW s (n.slotAddr + (gdescOf g.desc).sq8) (sq8Bytes (gdescOf g.desc)) = none) :
    opNoticeStart s =
      keepDigest (copyTiles (noticeTaken s n ns) (gdescOf g.desc) p n.slotAddr) n.region g.idx n.step := by
  have happly : applyNGroup (noticeTaken s n ns) n g =
      (keepDigest (copyTiles (noticeTaken s n ns) (gdescOf g.desc) p n.slotAddr) n.region g.idx n.step, .whole) := by
    simp [applyNGroup, skipGroup, hskip, hprev, fabBad_noticeTaken, fabBadW_noticeTaken, hread, hwrite]
  rw [opNoticeStart_applies hhead hfresh hup htrained hfree hclosed, hone, List.foldl_cons, List.foldl_nil, applyStep,
    happly]
  exact noteTorn_nil _ n

end

/-- The state in which the UPF learns that the applied notice is done. -/
def noticeLeft (s : State) (n : Notice) (ns : List Notice) : State :=
  setUpf (freeBoxes { s with notices := ns } (noticeBoxes n)) n.region { upfOf s n.region with
    pubs := (upfOf s n.region).pubs.map (fun p => if p.step = n.step then { p with notice := 0 } else p) }

theorem opNoticeDone_leaves (hstarted : n.started = true) :
    opNoticeDone s = pseSettle (digestsGo (noticeLeft s n ns) n.region n.step) n.region := by
  rw [opNoticeDone, hhead]
  dsimp only
  rw [if_neg (by simp [hstarted])]
  rfl

end

theorem mem_noticeBoxes {n : Notice} {a : Nat} :
    a ∈ noticeBoxes n ↔ ∃ g ∈ n.groups, g.dec = 0 ∧ mboxAt (gdescOf g.desc) n.step n.d = a := by
  simp [noticeBoxes, and_assoc]

theorem mem_noticeLeft_boxes {s : State} {n : Notice} {ns : List Notice} {a : Nat} :
    a ∈ (noticeLeft s n ns).mboxHeld ↔ a ∈ s.mboxHeld ∧ a ∉ noticeBoxes n := by
  simp [noticeLeft, freeBoxes]

/-- No publication of the step waits for its notice any more. -/
theorem noticeLeft_notice {s : State} {n : Notice} {ns : List Notice} {p : PubRun}
    (hp : p ∈ (upfOf (noticeLeft s n ns) n.region).pubs) (hstep : p.step = n.step) : p.notice = 0 := by
  rw [noticeLeft, upfOf_setUpf, if_pos rfl] at hp
  obtain ⟨q, _, rfl⟩ := List.mem_map.1 hp
  by_cases hq : q.step = n.step
  · rw [if_pos hq]
  · rw [if_neg hq] at hstep
    exact absurd hstep hq

/-! ### Publications (R265) -/

theorem opUpfPublish_publishes {s : State} {r n : Nat} {p : PubRun} {ps : List PubRun} (hhead : (upfOf s r).pubs = p :: ps)
    (hnotice : p.notice = 0) (hcmp : p.cmp = 0 ∨ p.cmp = 2) (hrepairs : p.repairs = [])
    (hfilling : fillingOf (pseOf s r) p.step = some n) :
    opUpfPublish s r =
      pseSettle (setPse (setUpf s r { upfOf s r with pubs := ps }) r (publishTake (pseOf s r) n)) r := by
  have hsame : pseOf (setUpf s r { upfOf s r with pubs := ps }) r = pseOf s r := rfl
  rw [opUpfPublish, hhead]
  dsimp only
  rw [if_pos ⟨hnotice, hcmp, hrepairs⟩, hsame, hfilling]

theorem upfOf_published (s : State) (r : Nat) (u : Upf) (p : Pse) :
    upfOf (pseSettle (setPse (setUpf s r u) r p) r) r = u := by
  rw [(updateKept_pseSettle _ r).upfOf_eq, (updateKept_setPse _ r p).upfOf_eq, upfOf_setUpf, if_pos rfl]

theorem opUpfPublish_waits {s : State} {r : Nat} {p : PubRun} {ps : List PubRun} (hhead : (upfOf s r).pubs = p :: ps)
    (hwaits : p.notice ≠ 0 ∨ p.cmp = 1 ∨ p.cmp = 3 ∨ p.repairs ≠ []) : opUpfPublish s r = s := by
  rw [opUpfPublish, hhead]
  refine if_neg ?_
  rintro ⟨hnotice, hcmp, hrepairs⟩
  rcases hwaits with h | h | h | h
  · exact h hnotice
  · omega
  · omega
  · exact h hrepairs

/-- Settles O34: each command's operation on its die, and what the rest of its work leaves of the update engines. -/
theorem updateRunsNoticesAndPublications : Obligations.UpdateRunsNoticesAndPublications := by
  refine ⟨?run, ?landing, ?notice, ?publish⟩
  case run =>
    intro s r init y ⟨hfab, _⟩ hrun hprog hpubs u x c
    have ⟨_, _, hidle⟩ := hfab
    have hexec : exec c s = .next (atDie (r / 16) (fun v => opUpdRun v r init) s) :=
      (exec_updRun s r init).trans (effect_onRegion hfab _ (keeps_atDie (keeps_opUpdRun r init (Keeps.refl _))))
    refine ⟨fun hcheck => ⟨_, hexec, ?_⟩, fun st hcheck => hexec.trans (congrArg Host.Outcome.next ?_)⟩
    · have hadmits : opUpdRun (onDie s (r / 16)) r init = upfGo (admitted (onDie s (r / 16)) r y) r :=
        opUpdRun_admits hrun hprog hpubs hcheck
      obtain ⟨hlast, hnewest, hlanded, hstands⟩ := upfOf_admitted (onDie s (r / 16)) r y
      obtain ⟨hlast', hnewest'⟩ := stepsKept_upfGo (admitted (onDie s (r / 16)) r y) r r
      rw [atDie, hadmits]
      refine ⟨hlast'.trans hlast, hnewest'.trans hnewest, fun _ hgroups hland hupdate => ?_⟩
      have hpass : b2n x.init = 0 := by rw [hupdate]; rfl
      have hwaits : upfGo (admitted (onDie s (r / 16)) r y) r = admitted (onDie s (r / 16)) r y :=
        upfGo_waits hstands hpass rfl ((descs_runOf s r y.cmd).symm ▸ hgroups) (hlanded ▸ hland)
      rw [hwaits]
      exact ⟨hstands.trans (congrArg (fun k => some { x with pass := k }) hpass), admitted_frame _ r y⟩
    · exact atDie_eq (opUpdRun_refuses (s := onDie s (r / 16)) hrun hprog hpubs hcheck) hidle
  case landing =>
    intro s r group l ⟨hfab, _⟩ hfind landed
    have ⟨_, _, hidle⟩ := hfab
    have hexec : exec (.landingComplete r group) s = .next (atDie (r / 16) (fun v => upfGo (landed v) r) s) := by
      refine (effect_onRegion hfab (opLanding · r group) (keeps_atDie (keeps_opLanding r group (Keeps.refl _)))).trans ?_
      rw [atDie, opLanding_lands (s := onDie s (r / 16)) hfind]
      rfl
    refine ⟨hexec, fun hnorun => hexec.trans (congrArg Host.Outcome.next (atDie_eq ?_ hidle))⟩
    have hstill : (upfOf (landed s) r).run = none := by
      rw [upfOf_setUpf, if_pos rfl]
      exact hnorun
    exact upfGo_idle (s := onDie (landed s) (r / 16)) hstill
  case notice =>
    intro s n ns hfab hhead
    refine ⟨fun hfresh hup htrained hfree hclosed => ?_, fun hstarted => ?_⟩
    · have hexec : exec .upsNoticeStart s = .next (opNoticeStart s) :=
        effect_onHub hfab opNoticeStart (keeps_opNoticeStart (Keeps.refl s))
      exact ⟨⟨_, _, hexec, opNoticeStart_notices hhead hfresh hup htrained hfree hclosed, rfl, rfl⟩,
        fun g p hone hskip hprev hread hwrite => hexec.trans (congrArg Host.Outcome.next
          (opNoticeStart_skips hhead hfresh hup htrained hfree hclosed hone hskip hprev hread hwrite))⟩
    · have hexec : exec .upsNoticeDone s = .next (opNoticeDone s) :=
        effect_onHub hfab opNoticeDone (keeps_opNoticeDone (Keeps.refl s))
      have hkept := (updateKept_digestsGo (noticeLeft s n ns) n.region n.step).trans (updateKept_pseSettle _ n.region)
      rw [opNoticeDone_leaves hhead hstarted] at hexec
      refine ⟨_, hexec, hkept.notices, fun g hg hupdated hmem => ?_, fun a ha hother => ?_, fun p hp => ?_⟩
      · rw [hkept.boxes, mem_noticeLeft_boxes] at hmem
        exact hmem.2 (mem_noticeBoxes.2 ⟨g, hg, hupdated, rfl⟩)
      · rw [hkept.boxes, mem_noticeLeft_boxes]
        refine ⟨ha, fun hmem => ?_⟩
        obtain ⟨g, hg, hupdated, hbox⟩ := mem_noticeBoxes.1 hmem
        exact hother g hg hupdated hbox.symm
      · rw [hkept.upfOf_eq] at hp
        exact noticeLeft_notice hp
  case publish =>
    intro s r p ps ⟨hfab, _⟩ hhead
    have ⟨_, _, hidle⟩ := hfab
    have hexec : exec (.upfPublish r) s = .next (atDie (r / 16) (opUpfPublish · r) s) :=
      effect_onRegion hfab (opUpfPublish · r) (keeps_atDie (keeps_opUpfPublish r (Keeps.refl _)))
    refine ⟨fun hnotice hcmp hrepairs n hfilling => ?_, fun hwaits => ?_⟩
    · have hpub := opUpfPublish_publishes (s := onDie s (r / 16)) hhead hnotice hcmp hrepairs hfilling
      refine ⟨⟨_, hexec, ?_⟩, hexec.trans (congrArg (fun t => Host.Outcome.next (setDie t 0)) hpub)⟩
      exact congrArg Upf.pubs ((congrArg (upfOf · r) hpub).trans (upfOf_published _ r _ _))
    · have hstays := opUpfPublish_waits (s := onDie s (r / 16)) hhead hwaits
      exact hexec.trans (congrArg Host.Outcome.next (atDie_eq hstays hidle))

/-! ### A repair's source across a lost bridge (R277, R281, R465) -/

/-- A source that cannot read the group's master or moments on its die sends nothing (R281). -/
theorem repairRequest_unreadable {s : State} {r group dst g : Nat} {b : List Byte} (h : FabricOn s)
    (hfind : (upfOf s r).lastDescs.find? (fun e => e.1 == group) = some (group, b))
    (hbad : stateBad (onDie s (r / 16)) (gdescOf b) = some g) :
    ∃ t, exec (.repairRequest r ⟨group, dst⟩) s = .next t ∧ t.repairOut = s.repairOut := by
  refine ⟨_, effect_onRegion h (opRepairRequest · r group dst)
    (keeps_atDie (keeps_opRepairRequest r group dst (Keeps.refl _))), ?_⟩
  have hsent : (opRepairRequest (onDie s (r / 16)) r group dst).repairOut = s.repairOut := by
    rw [opRepairRequest, repairSend, show (upfOf (onDie s (r / 16)) r).lastDescs.find? _ = _ from hfind]
    dsimp only
    rw [hbad]
    exact (updateKept_stateUncorr _ _ _ _).sent
  exact hsent

/-- The descriptor of a group of 32 × 32 elements whose master and moments stand at the start of region 0, on die 0. -/
def nearDesc : List Byte := leBytes 8 0 ++ leBytes 2 32 ++ leBytes 2 32 ++ leBytes 12 0 ++ leBytes 8 2048 ++ leBytes 8 4096

/-- Region 16, on die 1, has run that group; the CD0-CD1 bridge has lost the last bundle of its memory role. -/
def cutState : State := setUpf { State.reset with cutRoles := 1 } 16 { lastDescs := [(0, nearDesc)] }

/-- Between commands no engine acts, and nothing bars a read. -/
theorem cutState_readable : stateBad cutState (gdescOf nearDesc) = none := by decide

/-- An engine of die 1 does not reach the group (R465). -/
theorem cutState_unreadable_onDie : stateBad (onDie cutState (16 / 16)) (gdescOf nearDesc) = some 0 := by decide

/-- Refutes O35: its last part asks whether the state as it stands between commands can be read, with no engine acting,
but the source reads on its own die, and the lost memory role of the die bridge keeps a group on the other die from it
(R465). It reports that instead of sending. -/
theorem not_digestsAreComparedAndRepaired : ¬ Obligations.DigestsAreComparedAndRepaired := by
  rintro ⟨_, _, _, _, _, hrequest⟩
  obtain ⟨hreads, _⟩ := hrequest cutState 16 0 0 nearDesc (by decide) (by decide)
  obtain ⟨l, hsends, _⟩ := hreads cutState_readable
  obtain ⟨t, hexec, hnone⟩ :=
    repairRequest_unreadable (group := 0) (dst := 0) (by decide) (by decide) cutState_unreadable_onDie
  rw [Host.Outcome.next.inj (hexec.symm.trans hsends)] at hnone
  simp at hnone

end Sys2Proof.ParameterUpdate
